-- ==== Sys2Proof/Word.lean ====
section
/-! DEFINITION. The word types of the AQ7 and the canonical sparse map every indexed piece of state is kept in. -/

namespace Sys2Proof

/-- A register of the device is 64 bits wide (R17). -/
abbrev W64 := BitVec 64
/-- One 32-bit lane of a vector register (R120). -/
abbrev W32 := BitVec 32
/-- A scratchpad word is 32 bytes (R13). -/
abbrev Word256 := BitVec 256
/-- A line of the memory tiers is 64 bytes (R308). -/
abbrev Line512 := BitVec 512
/-- One byte. -/
abbrev Byte := BitVec 8

/-- Sparse data by key. The canonical form lists keys strictly rising and no entry equal to what an
unlisted key reads as; the operations are in Machine/Bits.lean. -/
abbrev SMap (α : Type) := List (Nat × α)

/-- A physical tile identifier, 0 to 1,663 (R27). -/
abbrev TileId := Fin 1664
/-- A host port, P0 or P1 (R21). -/
abbrev Port := Fin 2
/-- A field index, 0 to 15 (R23). -/
abbrev FieldId := Fin 16
/-- A floe index, 0 to 63 (R26). -/
abbrev FloeId := Fin 64
/-- A Neori link, 0 to 23 (R21). -/
abbrev LinkId := Fin 24
/-- A memory stack: 0 to 19 are H0 to H19, 20 to 35 are L0 to L15 (the numbering of R249). -/
abbrev StackId := Fin 36
/-- A device context number, 0 to 63 (R65). -/
abbrev CtxId := Fin 64

end Sys2Proof
end

