-- ==== Sys2Proof/Syntax.lean ====
section
/-! DEFINITION. The commands of the block: one constructor of `Instr` for each row of the table, and the operand types. -/

namespace Sys2Proof

/-- A vector unit: A is driven by VECA, B by VECB (R192). -/
inductive VUnit where
  | a
  | b
  deriving DecidableEq, Repr

/-- The fields of the register form of a VEC slot (R205). -/
structure VecF where
  d : BitVec 6
  a : BitVec 6
  b : BitVec 6
  c : BitVec 6
  ss : BitVec 2
  msk : BitVec 1
  pm : BitVec 4
  fn : BitVec 11
  deriving DecidableEq, Repr

/-- The count of a LOOP: an immediate count minus one, or lane 0 of a vector register (R58, R197). -/
inductive LoopArg where
  | imm (m1 : BitVec 16)
  | reg (v : BitVec 6)
  deriving DecidableEq, Repr

/-- How WAITF, WAITE, TAGSET and TAGCLR name a slot (R197, R210). -/
inductive SlotArg where
  | imm (win : BitVec 4) (idx : BitVec 17)
  | gen (ag : BitVec 3)
  deriving DecidableEq, Repr

/-- The fields of a GET or PUT (R210). -/
structure XferF where
  hdl : BitVec 6
  ag : BitVec 3
  ent : BitVec 2
  off : BitVec 4
  nb1 : BitVec 4
  llvl : BitVec 4
  lstr : BitVec 17
  cve : BitVec 1
  cvb : BitVec 3
  tk : BitVec 1
  deriving DecidableEq, Repr

/-- What a lane of a vector unit really gave where it differs from the exact result, and what the shadow lane gave
(R133, R135); or, with a lane, a register's parity error in that lane, which is handled as a shadow mismatch (R134): physics,
told by the sender. -/
structure LaneObs where
  main : BitVec 32
  shadow : BitVec 32
  parity : Option (BitVec 6) := none
  deriving DecidableEq, Repr

/-- What the main cube engine really gave for a set in this beat where it differs from the exact result: physics, told by the sender.
What the check cube finds of it is the model's (R105, R106). -/
inductive CubeObs where
  /-- The integer added to block sum (row, col) of an MX step, less the exact one. -/
  | sum (acc : BitVec 3) (row : Fin 16) (col : Fin 64) (delta : BitVec 72)
  /-- The pre-rounding product of row, k and column in a wide step, as a capture lays a product out (R113). -/
  | product (acc : BitVec 3) (row : Fin 16) (k : Fin 4) (col : Fin 64) (val : BitVec 64)
  /-- The rounded result of an element at an MX block close. -/
  | close (acc : BitVec 3) (row : Fin 16) (col : Fin 64) (val : BitVec 32)
  /-- The output words of a row pair of a drain, and its scale bytes. -/
  | drain (acc : BitVec 3) (pair : Fin 8) (words : List Word256) (scales : BitVec 32)
  /-- A parity error of an element that a step, a close or a drain reads (R340). -/
  | parity (acc : BitVec 3)
  deriving DecidableEq, Repr

/-- What one beat of a tile depends on beside the device's own state: the words whose read finds a single (false) or a double
(true) error (R156, R158), the words of the bundle whose fetch finds one (R341), what the lanes of the vector units and the main cube
engine really gave, and a parity error of a vector or predicate register that a slot other than VECA and VECB reads (R134). -/
structure Obs where
  ecc : List (BitVec 17 × Bool) := []
  fetch : List (BitVec 2 × Bool) := []
  laneA : Option LaneObs := none
  laneB : Option LaneObs := none
  reg : Option LaneObs := none
  cube : List CubeObs := []
  deriving DecidableEq, Repr

/-- What the error correction of a crossing finds in a flit (R230): the wires of the corrected lanes, and whether a lane
holds a double error. -/
structure FlitErrs where
  corr : List (Fin 2064) := []
  double : Bool := false
  deriving DecidableEq, Repr

/-- An event told by the sender: class, source kind and index, location in the layout of R559, detail B (R342). -/
structure ExtEvent where
  cls : Fin 13
  kind : BitVec 4
  idx : BitVec 16
  loc : BitVec 64
  syn : BitVec 64
  deriving DecidableEq, Repr

/-- A capture a kernel run takes (R355): the cube capture's record in words (R113), or TILE.LCAP_OP to TILE.LCAP_FRAME (R147). -/
inductive KernelCap where
  | cube (words : List (BitVec 64))
  | lane (words : List (BitVec 64))
  deriving DecidableEq, Repr

/-- A kernel run that failed: the package's slot, the kernel's index and the tile (R355), and the mismatch it met, if it met one. -/
structure KernelFail where
  slot : Fin 16
  kernel : Fin 256
  tile : TileId
  cap : Option KernelCap
  deriving DecidableEq, Repr

/-- What a margin sweep finds failing (R357, R358): for a tile, one kernel run that failed. -/
inductive SweepFail where
  | tile (t : TileId) (cap : Option KernelCap)
  | wire (t : TileId) (port : Fin 4) (wire : Fin 2064)
  | row (t : TileId) (bank : Fin 64) (row : Fin 256)
  deriving DecidableEq, Repr

/-- What a phase of a field did in an estimator window (R400): tile-beats and estimated energy in pJ. -/
structure PhaseEnergy where
  field : FieldId
  phase : BitVec 8
  beats : BitVec 32
  pj : BitVec 64
  deriving DecidableEq, Repr

/-- Why a field switch opens (R396). -/
inductive SwitchWhy where
  | overcurrent
  | undervoltage
  | phases
  deriving DecidableEq, Repr

/-- A wire found failed by the router self-test, named by the tile it leads into (R492). -/
structure WireFail where
  tile : TileId
  port : Fin 4
  wire : Fin 2064
  deriving DecidableEq, Repr

/-- What a field's bring-up finds (R492): a crossing that cannot meet its constant, a sensor without a valid reading,
newly failed wires. -/
structure WaveObs where
  crossing : Bool := false
  sensor : Bool := false
  wires : List WireFail := []
  deriving DecidableEq, Repr

/-- The modules of a link engine's UCIe attachment as they trained (R39): those at x16, and those at x8. -/
structure LinkModules where
  full : BitVec 8
  half : BitVec 8
  deriving DecidableEq, Repr

/-- A host port as it trained (R39, R480): the port, its bridge's modules at x16 and at x8, and its lanes as a power of 2. -/
structure PortTraining where
  port : Port
  full : BitVec 4
  half : BitVec 4
  lanes : Fin 5
  deriving DecidableEq, Repr

/-- What a cell's header says of the link itself (R431): sequence number, acknowledgement, credits returned; and a failed
CRC (false) or an uncorrectable codeword (true), R433; and the symbols corrected in the codewords it came in (R453). -/
structure CellHdr where
  seq : BitVec 12
  ack : BitVec 12
  crclass : BitVec 2
  credits : BitVec 14
  bad : Option Bool := none
  symbols : BitVec 16 := 0
  deriving DecidableEq, Repr

/-- A DATA or VOID cell's own fields (R431). -/
structure CellData where
  cls : BitVec 2
  prov : Bool
  cell : BitVec 4
  stream : BitVec 6
  src : BitVec 17
  dst : BitVec 17
  side : BitVec 16
  cgroup : BitVec 16
  frame : BitVec 48
  block : BitVec 32
  payload : List Byte
  deriving DecidableEq, Repr

/-- An AUTH cell (R429): a hello, or an answer. -/
inductive AuthMsg where
  | hello (id : BitVec 17) (link : BitVec 5) (pub : BitVec 256) (serial : BitVec 64) (cert : BitVec 512) (nonce : BitVec 256)
  | answer (sig : BitVec 512)
  deriving DecidableEq, Repr

/-- The fields of a page operation (R338). -/
structure MemOp where
  ctx : CtxId
  vpn : BitVec 32
  tier : BitVec 2
  wr : Bool
  large : Bool
  srcCtx : CtxId
  deriving DecidableEq, Repr

/-- What the device's reads of a port's host memory return at a frame start (R283, R464): PUBLISHED and the ring entries read
from CONSUMED on, and CTRL_PUBLISHED and CQ_CONSUMED; none where a read fails. -/
structure PortRead where
  pub : Option (BitVec 64) := none
  ring : List (List Byte) := []
  port : Option (BitVec 64 × BitVec 64) := none
  deriving DecidableEq, Repr

/-- A control entry (R465) beside its OP: CTX, TAG, the reserved bits of word 0, and words 1 to 7. -/
structure CtrlEntry where
  ctx : CtxId
  tag : BitVec 16
  resv : BitVec 38 := 0
  w1 : BitVec 64 := 0
  w2 : BitVec 64 := 0
  w3 : BitVec 64 := 0
  w4 : BitVec 64 := 0
  w5 : BitVec 64 := 0
  w6 : BitVec 64 := 0
  w7 : BitVec 64 := 0
  deriving DecidableEq, Repr

/-- What resets a port (R479). -/
inductive PortResetKind where
  | perst
  | hot
  | linkDown
  | flr
  deriving DecidableEq, Repr

/-- The identifiers of a port's configuration space (R455, R456). -/
inductive ConfigId where
  | vendor
  | device
  | classCode
  | revision
  | subVendor
  | subDevice
  deriving DecidableEq, Repr
/-- A PCIe configuration request: one that resizes BAR2 to 2^(30 + n) bytes (R457), a read of an identifier (R456), or any other. -/
inductive ConfigReq where
  | resizeBar2 (n : Fin 13)
  | identifier (i : ConfigId)
  | other
  deriving DecidableEq, Repr

/-- An IDE_KM message (R478): keys are programmed, the stream starts or stops with them, or the port is queried. -/
inductive IdeKm where
  | query
  | program
  | go
  | stop
  deriving DecidableEq, Repr

/-- The domain whose drain ends (R517). -/
inductive DrainOf where
  | context (c : CtxId)
  | tile (t : TileId)
  | port (p : Port)
  | device
  deriving DecidableEq, Repr

/-- The commands. A Selku operation is issued as one bundle on the named tile, with that operation in its slot and the
slots of `rest` beside it. -/
inductive Instr where
  /-- CTRL NOP, ENDL n with a nonzero END (R196, R198). -/
  | nop (t : TileId) (e : BitVec 4) (rest : Word256) (o : Obs)
  | loop (t : TileId) (e : BitVec 4) (a : LoopArg) (rest : Word256) (o : Obs)
  | skip (t : TileId) (e : BitVec 4) (test : BitVec 2) (p : BitVec 4) (m1 : BitVec 10) (rest : Word256) (o : Obs)
  | waitf (t : TileId) (e : BitVec 4) (a : SlotArg) (rest : Word256) (o : Obs)
  | waite (t : TileId) (e : BitVec 4) (a : SlotArg) (rest : Word256) (o : Obs)
  | bar (t : TileId) (e : BitVec 4) (n : BitVec 4) (rest : Word256) (o : Obs)
  | phase (t : TileId) (e : BitVec 4) (id : BitVec 8) (rest : Word256) (o : Obs)
  | fsync (t : TileId) (e : BitVec 4) (kind : BitVec 1) (rest : Word256) (o : Obs)
  | call (t : TileId) (e : BitVec 4) (rt : BitVec 6) (rest : Word256) (o : Obs)
  | ret (t : TileId) (e : BitVec 4) (rest : Word256) (o : Obs)
  | halt (t : TileId) (e : BitVec 4) (rest : Word256) (o : Obs)
  | cnop (t : TileId) (rest : Word256) (o : Obs)
  | cmac (t : TileId) (acc aga agb : BitVec 3) (rest : Word256) (o : Obs)
  | cmul (t : TileId) (acc aga agb : BitVec 3) (rest : Word256) (o : Obs)
  | czero (t : TileId) (acc : BitVec 3) (rest : Word256) (o : Obs)
  | cdrain (t : TileId) (acc : BitVec 3) (fmt : BitVec 4) (agd ags : BitVec 3) (sr : BitVec 1) (vr : BitVec 6) (cve : BitVec 1) (cv : BitVec 3) (cvs : BitVec 1) (rest : Word256) (o : Obs)
  | cfmt (t : TileId) (fa fb : BitVec 4) (saga sagb : BitVec 3) (rest : Word256) (o : Obs)
  | vnop (t : TileId) (u : VUnit) (rest : Word256) (o : Obs)
  | vadd (t : TileId) (u : VUnit) (f : VecF) (rest : Word256) (o : Obs)
  | vsub (t : TileId) (u : VUnit) (f : VecF) (rest : Word256) (o : Obs)
  | vmul (t : TileId) (u : VUnit) (f : VecF) (rest : Word256) (o : Obs)
  | vfma (t : TileId) (u : VUnit) (f : VecF) (rest : Word256) (o : Obs)
  | vmax (t : TileId) (u : VUnit) (f : VecF) (rest : Word256) (o : Obs)
  | vmin (t : TileId) (u : VUnit) (f : VecF) (rest : Word256) (o : Obs)
  | vabs (t : TileId) (u : VUnit) (f : VecF) (rest : Word256) (o : Obs)
  | vneg (t : TileId) (u : VUnit) (f : VecF) (rest : Word256) (o : Obs)
  | vsign (t : TileId) (u : VUnit) (f : VecF) (rest : Word256) (o : Obs)
  | vsel (t : TileId) (u : VUnit) (f : VecF) (rest : Word256) (o : Obs)
  | vimm (t : TileId) (u : VUnit) (d : BitVec 6) (imm : BitVec 32) (rest : Word256) (o : Obs)
  | iadd (t : TileId) (u : VUnit) (f : VecF) (rest : Word256) (o : Obs)
  | isub (t : TileId) (u : VUnit) (f : VecF) (rest : Word256) (o : Obs)
  | imul (t : TileId) (u : VUnit) (f : VecF) (rest : Word256) (o : Obs)
  | iand (t : TileId) (u : VUnit) (f : VecF) (rest : Word256) (o : Obs)
  | ior (t : TileId) (u : VUnit) (f : VecF) (rest : Word256) (o : Obs)
  | ixor (t : TileId) (u : VUnit) (f : VecF) (rest : Word256) (o : Obs)
  | ishl (t : TileId) (u : VUnit) (f : VecF) (rest : Word256) (o : Obs)
  | ishr (t : TileId) (u : VUnit) (f : VecF) (rest : Word256) (o : Obs)
  | isra (t : TileId) (u : VUnit) (f : VecF) (rest : Word256) (o : Obs)
  | imax (t : TileId) (u : VUnit) (f : VecF) (rest : Word256) (o : Obs)
  | imin (t : TileId) (u : VUnit) (f : VecF) (rest : Word256) (o : Obs)
  | vcvt (t : TileId) (u : VUnit) (f : VecF) (rest : Word256) (o : Obs)
  | fcmp (t : TileId) (u : VUnit) (f : VecF) (rest : Word256) (o : Obs)
  | icmp (t : TileId) (u : VUnit) (f : VecF) (rest : Word256) (o : Obs)
  | pand (t : TileId) (u : VUnit) (f : VecF) (rest : Word256) (o : Obs)
  | por (t : TileId) (u : VUnit) (f : VecF) (rest : Word256) (o : Obs)
  | pxor (t : TileId) (u : VUnit) (f : VecF) (rest : Word256) (o : Obs)
  | pnot (t : TileId) (u : VUnit) (f : VecF) (rest : Word256) (o : Obs)
  | p2v (t : TileId) (u : VUnit) (f : VecF) (rest : Word256) (o : Obs)
  | v2p (t : TileId) (u : VUnit) (f : VecF) (rest : Word256) (o : Obs)
  | vredsum (t : TileId) (u : VUnit) (f : VecF) (rest : Word256) (o : Obs)
  | vredmax (t : TileId) (u : VUnit) (f : VecF) (rest : Word256) (o : Obs)
  | vredmin (t : TileId) (u : VUnit) (f : VecF) (rest : Word256) (o : Obs)
  | vredor (t : TileId) (u : VUnit) (f : VecF) (rest : Word256) (o : Obs)
  | vredand (t : TileId) (u : VUnit) (f : VecF) (rest : Word256) (o : Obs)
  | vperm (t : TileId) (u : VUnit) (f : VecF) (rest : Word256) (o : Obs)
  | vrot (t : TileId) (u : VUnit) (f : VecF) (rest : Word256) (o : Obs)
  | vbcast (t : TileId) (u : VUnit) (f : VecF) (rest : Word256) (o : Obs)
  | bstep (t : TileId) (u : VUnit) (f : VecF) (rest : Word256) (o : Obs)
  | topk (t : TileId) (u : VUnit) (f : VecF) (rest : Word256) (o : Obs)
  | exp2 (t : TileId) (u : VUnit) (f : VecF) (rest : Word256) (o : Obs)
  | log2 (t : TileId) (u : VUnit) (f : VecF) (rest : Word256) (o : Obs)
  | rcp (t : TileId) (u : VUnit) (f : VecF) (rest : Word256) (o : Obs)
  | rsq (t : TileId) (u : VUnit) (f : VecF) (rest : Word256) (o : Obs)
  | tanh (t : TileId) (u : VUnit) (f : VecF) (rest : Word256) (o : Obs)
  | vrand (t : TileId) (u : VUnit) (f : VecF) (rest : Word256) (o : Obs)
  | vld (t : TileId) (u : VUnit) (d : BitVec 6) (ag : BitVec 3) (mk : BitVec 1) (pm : BitVec 4) (rest : Word256) (o : Obs)
  | vst (t : TileId) (u : VUnit) (d : BitVec 6) (ag : BitVec 3) (mk : BitVec 1) (pm : BitVec 4) (rest : Word256) (o : Obs)
  | vagld (t : TileId) (u : VUnit) (ag : BitVec 3) (word : BitVec 17) (rest : Word256) (o : Obs)
  | mnop (t : TileId) (rest : Word256) (o : Obs)
  | send (t : TileId) (hdl : BitVec 6) (ag : BitVec 3) (len1 : BitVec 12) (port : BitVec 2) (vc : BitVec 1) (dlvl : BitVec 4) (dstr : BitVec 17) (rest : Word256) (o : Obs)
  | recv (t : TileId) (inp outp : BitVec 2) (n1 : BitVec 6) (rest : Word256) (o : Obs)
  | get (t : TileId) (f : XferF) (rest : Word256) (o : Obs)
  | put (t : TileId) (f : XferF) (rest : Word256) (o : Obs)
  | tagset (t : TileId) (a : SlotArg) (rest : Word256) (o : Obs)
  | tagclr (t : TileId) (a : SlotArg) (rest : Word256) (o : Obs)
  /-- Every in-flight register write of the tile whose latency has elapsed becomes readable (R49). -/
  | resultReadable (t : TileId)
  /-- The tile's wait, or the oldest landing held at it, reaches its watchdog (R174). -/
  | tagWatchdogExpiry (t : TileId) (landing : Bool) (o : Obs)
  | contextSwitchEnd (t : TileId)
  /-- The oldest flit on an inbound port and channel reaches its destination tile (R168, R227). -/
  | landing (t : TileId) (inp vc : Fin 4) (errs : FlitErrs)
  | windowRefusalArrival (t : TileId)
  | flitArrival (t : TileId) (inp vc : Fin 4) (errs : FlitErrs)
  | correctedWordWriteback (t : TileId) (w : Fin 131072)
  | barrierRelease (c : CtxId) (n : Fin 16)
  | limiterWindowEnd (f : FieldId)
  | timeMasterSilence
  | holdoverExpiry
  /-- The master's group time in ns as the SYNC departs (R443). -/
  | syncSend (ns : BitVec 64)
  | announceSend
  /-- A DREQ departs: its stamp t1 (R445). -/
  | delayMeasurement (k : LinkId) (t1 : BitVec 64)
  | idle (k : LinkId) (h : CellHdr)
  | data (k : LinkId) (h : CellHdr) (c : CellData)
  /-- A SYNC arrives; the cell's residence time here, in 2^-16 ns (R443). -/
  | sync (k : LinkId) (h : CellHdr) (ns corr : BitVec 64) (master : BitVec 17) (prio : BitVec 4) (hops : BitVec 8) (refOk : Bool) (residence : BitVec 32)
  /-- A DREQ arrives: t1 echoed, arrival stamp t2, departure stamp t3 of its DRESP (R445). -/
  | dreq (k : LinkId) (h : CellHdr) (t1 t2 t3 : BitVec 64)
  | dresp (k : LinkId) (h : CellHdr) (t1 t2 t3 t4 : BitVec 64)
  | announce (k : LinkId) (h : CellHdr) (id : BitVec 17) (prio : BitVec 4) (refOk : Bool)
  | void (k : LinkId) (h : CellHdr) (c : CellData)
  | auth (k : LinkId) (h : CellHdr) (m : AuthMsg)
  | lane (k : LinkId) (h : CellHdr) (bad new : Fin 17)
  | replayResendTimeout (k : LinkId)
  | linkLossTimeout (k : LinkId)
  /-- An attempt's lane test: the good lanes (R425), and the modules of the UCIe attachment that train at x16 and, of the others, at x8 (R39). -/
  | linkTrainingAttempt (k : LinkId) (good : BitVec 17) (m : LinkModules)
  | linkRetry (k : LinkId)
  | laneFault (k : LinkId) (lane : Fin 17)
  | linkAdmit (p : Port) (k : LinkId)
  | linkHold (p : Port) (k : LinkId) (v : Bool)
  | linkRetrain (p : Port) (k : LinkId)
  | linkEnableWrite (p : Port) (k : LinkId) (v : Bool)
  | devidLock (p : Port) (id : BitVec 17)
  /-- A write of OSTRs_CFG (0), OSTRs_SRC (1), ISTRs_CFG (2) or ISTRs_DST (3). -/
  | streamWrite (p : Port) (n : Fin 64) (reg : Fin 4) (v : BitVec 64)
  | nak (k : LinkId)
  | reservedCell (k : LinkId) (h : CellHdr) (cls : BitVec 2)
  | taggedLandingRelease (t : TileId)
  | wireSteering
  /-- The next block of the tile's n-th outstanding transfer is checked and lands; the lines its read finds in error, each
  with whether two or more symbols are wrong (R309, R315). -/
  | getLanding (t : TileId) (n : Fin 16) (errs : List (BitVec 48 × Bool))
  /-- The memory tier accepts the next line of the tile's n-th outstanding transfer. -/
  | putAccepted (t : TileId) (n : Fin 16)
  | scrubRead (a : BitVec 48) (err : Option Bool)
  | map (p : Port) (o : MemOp)
  | unmap (p : Port) (o : MemOp)
  | settier (p : Port) (o : MemOp)
  | aliasPage (p : Port) (o : MemOp)
  | poolLock (p : Port)
  /-- A write of QCTXn or, where `cls` holds, of QCLSn. -/
  | quotaWrite (p : Port) (cls : Bool) (n : CtxId) (v : BitVec 64)
  | demotion
  | promotion
  | pageMoveSwitch (n : BitVec 16)
  | stackRetrain (p : Port) (k : StackId) (evac : Bool)
  | stackSelfRetrain (k : StackId)
  | stackTrainingDone (k : StackId) (ok : Bool)
  | translationFailure (t : TileId) (n : Fin 16)
  /-- An event reaches the integrity block at a wall time: the oldest on its way, or one the sender tells (R342). -/
  | integrityEvent (ms : BitVec 64) (e : Option ExtEvent)
  | retirementOrder
  | retireTile (p : Port) (w : BitVec 48)
  | retireScratchpadRow (p : Port) (w : BitVec 48)
  | retireMemoryFrame (p : Port) (w : BitVec 48)
  | retireEnWrite (p : Port) (v : BitVec 64)
  | captureCopy (t : TileId) (laneCap : Bool) (ms : BitVec 64)
  | capRdWrite (p : Port) (v : BitVec 64)
  | captureRelease (p : Port) (t : TileId)
  | laneCaptureRelease (p : Port) (t : TileId)
  | shadowRecordRelease (p : Port) (t : TileId)
  | pkgLoad (p : Port) (n : Fin 16)
  | pkgUnload (p : Port) (n : Fin 16)
  /-- RUN of every package on a field, with the kernel runs that failed (R355, R356). -/
  | pkgRun (p : Port) (f : FieldId) (fails : List KernelFail)
  | sweepDue
  | sweepBegin
  | sweepIsolateDone
  | sweepStressDone
  | sweepHeatDone
  /-- The test stage ends: how many kernel runs there were, and what failed under stress (R357, R358). -/
  | sweepTestDone (runs : BitVec 32) (fails : List SweepFail)
  /-- The re-check ends: what failed again at nominal conditions. -/
  | sweepRecheckDone (fails : List SweepFail)
  | sweepRestoreDone
  | referenceLoss
  | referenceReturn
  | meshLockRegained
  | oscillatorFailure (k : FloeId)
  /-- The crossing into a tile on a port slips (R372). -/
  | crossingSlip (t : TileId) (inp : Fin 4)
  | switchBeat
  /-- A floe's detector samples its supply, in µV (R376). -/
  | stretchRequest (k : FloeId) (supply : BitVec 32)
  | stretchBroadcastArrival
  | stretchWindowEnd
  | setVoltageReached
  /-- An estimator window ends: its length in ns, input and non-tile power in W, each field's current in A, and the
  activity of each phase (R399). -/
  | estimatorWindowEnd (ns : BitVec 32) (inputW nontileW : BitVec 16) (amps : List (BitVec 12)) (act : List PhaseEnergy)
  /-- 1 ms more for a field's clamp source: its own current, or the module's limits. -/
  | clampExcessTimer (f : FieldId) (module : Bool)
  | phaseFault (f : FieldId) (n : Fin 24)
  /-- The 1 s average input resistance of a phase, in percent of its calibration baseline (R394). -/
  | phaseResistanceTest (f : FieldId) (n : Fin 24) (pct : BitVec 16)
  | fieldSwitchOpen (f : FieldId) (why : SwitchWhy)
  | fieldSwitchOn (p : Port) (f : FieldId)
  | fieldSwitchOff (p : Port) (f : FieldId)
  | fieldRampStart (f : FieldId)
  /-- The ramp ends; what the field's wave finds (R492). -/
  | fieldRampDone (f : FieldId) (wave : WaveObs)
  | capWrite (p : Port) (w : BitVec 16)
  | forget (p : Port)
  | ceilingRise
  | thermalCapStep
  | thermalStepdownRepeat
  | fieldTrip (f : FieldId)
  | tripRecovery (f : FieldId) (wave : WaveObs)
  | overtempKill
  | operatingHoursWrite
  /-- Frame n starts: the group time in ns, which names the first frame; what the host reads of P0 and P1 return. -/
  | frameStart (ns : BitVec 64) (r0 r1 : PortRead)
  | frameEntryEnd
  | portRecordIdleRead (p : Port) (rec : Option (BitVec 64 × BitVec 64))
  | planHeaderDelivery
  | inputDeadline
  | voteCutoff
  | childVerdictCutoff
  | commitPoint
  | pendingExpiry
  | recordBacklogWrite (p : Port)
  | intakeStart
  | figuresTimeout
  /-- A PPS edge; whether the second it ends met both conditions of R547. -/
  | ppsEdge (good : Bool)
  | ppsTimeout
  | tbSetWrite (p : Port) (v : BitVec 64)
  | groupEnable (p : Port) (v : BitVec 64)
  /-- The frame named, the group time in ns, and whether every member names the same frame (R260). -/
  | frameSwitchWrite (p : Port) (frame : BitVec 48) (ns : BitVec 64) (same : Bool)
  | scheduleWrite (p : Port) (n : Fin 8) (r : Fin 4) (v : BitVec 64)
  /-- A child's verdict (R446), and the time since the vote cutoff in ns. -/
  | verdict (k : LinkId) (h : CellHdr) (frame : BitVec 48) (pass : Bool) (cause : BitVec 4) (members : BitVec 9) (since : BitVec 32)
  | outcome (k : LinkId) (h : CellHdr) (frame : BitVec 48) (commit : Bool) (since : BitVec 32)
  | oreq (k : LinkId) (h : CellHdr) (frame : BitVec 48)
  | oresp (k : LinkId) (h : CellHdr) (frame : BitVec 48) (code : BitVec 2)
  | plan (k : LinkId) (h : CellHdr) (frame : BitVec 48) (off : BitVec 64) (bytes : List Byte)
  | figures (k : LinkId) (h : CellHdr) (src : BitVec 17) (frame : BitVec 48) (fix lane chunk budget : BitVec 64)
  | memTick
  | floatingEvaluation
  /-- Temperatures in °C, 0xFF for no reading: the 128 die sensors by field, the 36 stacks, the 24 link engines (R409). -/
  | sensorRead (die mem links : List (BitVec 8))
  | powerLoss
  | powerGood
  /-- Stage 1 ends, and what stage 2 reads of flash slots A and B (R485). -/
  | firstStageDone (a b : List Byte)
  | bundleVerified
  | clockMeshLock
  /-- The bridge's modules that train at x16 and, of the others, at x8, and the width PCIe negotiates, 2^w lanes (R39, R455). -/
  | hostPortTrained (p : PortTraining)
  | perstDeassert (p : Port)
  | bringupScriptRun
  | fieldWaveStart (d : Fin 7)
  /-- The image is broadcast into a field; the blocks that do not reach a tile good (R495). -/
  | imageBroadcast (f : FieldId) (bad : List (TileId × Fin 9))
  /-- 5 ms have passed: missing blocks are sent again, or the field's incomplete tiles fail (R496). -/
  | imageRepairRound (f : FieldId) (bad : List (TileId × Fin 9))
  | stackFirstTraining
  | linkBringupStart
  | pushStart (p : Port) (store : Bool)
  | pushDataWrite (p : Port) (v : BitVec 64)
  | pushEnd (p : Port)
  /-- A debug script with the bytes the device reads from BOOT.SCRIPT_ADDR (R505). -/
  | debugScriptGo (p : Port) (bytes : List Byte)
  | scriptEnd
  | scriptWrite
  | scriptMask
  | scriptModify
  | scriptPoll
  | scriptTimeout
  | scriptDelay
  | scriptExpect
  | scriptRead
  | pollExpiry
  | delayExpiry
  /-- The sequencers diverge; whether in a stage of bring-up that they drive (R506). -/
  | lockstepDivergence (stage : Bool)
  | firnWrite (p : Port) (w : BitVec 14)
  | setLock (p : Port)
  | enroll (p : Port)
  | clearShort (p : Port)
  | raiseSvn (p : Port)
  | bundleStored
  | firnOperationComplete
  | claim (p : Port)
  | renew (p : Port)
  | stewardRelease (p : Port)
  | leaseLapse
  | create (p : Port) (e : CtrlEntry)
  /-- A LOAD with the descriptor and the code image the device reads from host memory (R467). -/
  | load (p : Port) (e : CtrlEntry) (desc code : List Byte)
  | loadComplete (c : CtxId)
  | destroy (p : Port) (e : CtrlEntry)
  | launch (p : Port) (e : CtrlEntry)
  | launchEnd (c : CtxId)
  /-- A COPY; the lines of its source that the reads of kind 2 find in error. -/
  | copy (p : Port) (e : CtrlEntry) (errs : List (BitVec 48 × Bool))
  /-- The n-th of a port's copies under way ends: the host bytes it read (kind 0), whether the peer refused it (kind 2), and the
  lines found in error. -/
  | copyEnd (p : Port) (n : Fin 16) (host : List Byte) (refused : Bool) (errs : List (BitVec 48 × Bool))
  /-- A write of CWINw or, where `range` holds, of CWINw_RANGE. -/
  | copyWindowWrite (p : Port) (w : Fin 8) (range : Bool) (v : BitVec 64)
  /-- A read of n bytes at an offset of BAR2. -/
  | bar2Read (p : Port) (o : BitVec 42) (n : BitVec 13) (errs : List (BitVec 48 × Bool))
  | bar2Write (p : Port) (o : BitVec 42) (bytes : List Byte) (errs : List (BitVec 48 × Bool))
  | portReset (p : Port) (k : PortResetKind)
  | portResume (p : Port)
  | ideCheckFail (p : Port)
  | spdmGetVersion (p : Port) (req : List Byte)
  | spdmGetCapabilities (p : Port) (req : List Byte)
  | spdmNegotiateAlgorithms (p : Port) (req : List Byte)
  | spdmGetDigests (p : Port) (req : List Byte)
  /-- The bytes of a certificate chain from an offset (R477). -/
  | spdmGetCertificate (p : Port) (slot : Fin 2) (off len : BitVec 16)
  | spdmChallenge (p : Port) (req : List Byte)
  /-- The measurement block asked for; 0 asks for how many there are, 0xFF for all. -/
  | spdmGetMeasurements (p : Port) (index : BitVec 8) (req : List Byte)
  | spdmKeyExchange (p : Port) (req : List Byte)
  | spdmFinish (p : Port) (req : List Byte)
  | spdmKeyUpdate (p : Port) (req : List Byte)
  | spdmHeartbeat (p : Port) (req : List Byte)
  | spdmEndSession (p : Port) (req : List Byte)
  | contextReset (p : Port) (c : CtxId)
  | contextFence (p : Port) (c : CtxId)
  /-- A tile reset; the image blocks that do not reach the tile good (R501, R516). -/
  | tileReset (p : Port) (t : TileId) (bad : List (Fin 9))
  | deviceReset (p : Port)
  | drainExpiry (x : DrainOf) (bad : List (Fin 9))
  /-- A heartbeat window ends: the tiles whose heartbeat did not come (R521). -/
  | heartbeatWindow (missed : List TileId)
  | restoreComplete
  | varveEnable (p : Port)
  | varveRateSecond
  | setdasa (addr : BitVec 7)
  | entdaa (addr : BitVec 7)
  | disec
  | i3cPrivateWrite (bytes : List Byte)
  | i3cPrivateRead
  /-- A write of the bytes enabled of the word at BAR0 offset 8 × w. -/
  | registerWrite (p : Port) (w : BitVec 24) (be : BitVec 8) (v : BitVec 64)
  | registerRead (p : Port) (w : BitVec 24) (be : BitVec 8)
  /-- A write of the mask bit of a vector's entry in BAR4. -/
  | msiXUnmask (p : Port) (v : Fin 4) (masked : Bool)
  | configurationRequest (p : Port) (r : ConfigReq)
  | ideKm (p : Port) (m : IdeKm)
  | inBandInterruptAck
  deriving DecidableEq, Repr

end Sys2Proof
end

