-- ==== Sys2Proof/Decode.lean ====
section
/-! DEFINITION. The command a word of the table spells. No row of the table gives bits: commands reach the device as register
accesses, cells, pins and bundles of a tile, so no word spells one (log entry 1). The bundles of Selku are decoded in
Machine/Operands.lean and Machine/Issue.lean. -/

namespace Sys2Proof

def decodeTableWord (_nbits _w : Nat) : Option Instr := none

end Sys2Proof
end

