-- ==== Sys2Proof/Machine/Bits.lean ====
section
/-! DEFINITION. Bit fields, byte order (R14), the operations of a sparse map, and the constants of geometry (R23 to R32). -/

namespace Sys2Proof.Machine

/-- Bits hi:lo of a natural number, as the manual writes fields. -/
def bits (v hi lo : Nat) : Nat := (v >>> lo) % 2 ^ (hi + 1 - lo)

/-- Bit i of a natural number. -/
def bit (v i : Nat) : Bool := (v >>> i) % 2 == 1

/-- 1 for true. -/
def b2n (b : Bool) : Nat := if b then 1 else 0

/-- Field hi:lo of a register. -/
def fld (v : W64) (hi lo : Nat) : Nat := bits v.toNat hi lo

/-- Bit i of a register. -/
def tst (v : W64) (i : Nat) : Bool := v.getLsbD i

/-- The mask of bits hi:lo. -/
def maskOf (hi lo : Nat) : W64 := BitVec.ofNat 64 ((2 ^ (hi + 1 - lo) - 1) <<< lo)

/-- A register with field hi:lo replaced by x (the low bits of x that the field holds). -/
def put (v : W64) (hi lo x : Nat) : W64 :=
  (v &&& ~~~ (maskOf hi lo)) ||| (BitVec.ofNat 64 (x <<< lo) &&& maskOf hi lo)

/-- A register word from a natural number. -/
def w64 (n : Nat) : W64 := BitVec.ofNat 64 n

/-- A signed reading of the low `w` bits of n. -/
def sgn (w n : Nat) : Int := if n % 2 ^ w < 2 ^ (w - 1) then (n % 2 ^ w : Nat) else ((n % 2 ^ w : Nat) : Int) - (2 ^ w : Nat)

/-- The ceiling of a / b. -/
def cdiv (a b : Nat) : Nat := (a + b - 1) / b

/-- Little-endian bytes of a number (R14). -/
def toBytes : (n : Nat) → (v : Nat) → List Byte
  | 0, _ => []
  | n + 1, v => BitVec.ofNat 8 v :: toBytes n (v / 256)

/-- The number little-endian bytes stand for (R14). -/
def ofBytes : List Byte → Nat
  | [] => 0
  | b :: bs => b.toNat + 256 * ofBytes bs

/-- What key k reads as: its entry, or the default of an unlisted key. -/
def smGet {α : Type} (d : Nat → α) : SMap α → Nat → α
  | [], k => d k
  | (k', v) :: r, k => if k' = k then v else smGet d r k

/-- Insert an entry before the first greater key. -/
def smIns {α : Type} (k : Nat) (v : α) : SMap α → SMap α
  | [] => [(k, v)]
  | (k', v') :: r => if k < k' then (k, v) :: (k', v') :: r else (k', v') :: smIns k v r

/-- The map without key k. -/
def smDel {α : Type} (m : SMap α) (k : Nat) : SMap α := m.filter fun e => e.1 != k

/-- Write key k. Writing what an unlisted key reads as removes the entry, so equal maps are equal lists. -/
def smSet {α : Type} [DecidableEq α] (d : Nat → α) (m : SMap α) (k : Nat) (v : α) : SMap α :=
  if v = d k then smDel m k else smIns k v (smDel m k)

/-- The canonical form: keys strictly rising and no entry equal to the default of its key. -/
def smWf {α : Type} [DecidableEq α] (d : Nat → α) : SMap α → Bool
  | [] => true
  | [(k, v)] => v ≠ d k
  | (k, v) :: (k', v') :: r => (v ≠ d k) && decide (k < k') && smWf d ((k', v') :: r)

/-- The same map in canonical form. A canonical map is left as it is. -/
def smCanon {α : Type} [DecidableEq α] (d : Nat → α) (m : SMap α) : SMap α :=
  if smWf d m then m else m.foldr (fun e acc => smSet d acc e.1 e.2) []

/-- The numbers 0 to n - 1 for which p holds. -/
def findAll (n : Nat) (p : Nat → Bool) : List Nat := (List.range n).filter p

/-- Replace every entry of a list that p accepts. -/
def updIf {α : Type} (p : α → Bool) (f : α → α) (l : List α) : List α := l.map fun x => if p x then f x else x

/-- Entry i of a list, or a default. -/
def nth {α : Type} (l : List α) (i : Nat) (d : α) : α := l.getD i d

/-! ## Geometry -/

/-- Field, row and physical column of a physical tile ID (R27). -/
def physField (t : Nat) : Nat := t / 104
def physRow (t : Nat) : Nat := (t % 104) / 13
def physCol (t : Nat) : Nat := t % 13
/-- Field, row and logical column of a logical tile ID (R27). -/
def logField (l : Nat) : Nat := l / 96
def logRow (l : Nat) : Nat := (l % 96) / 12
def logCol (l : Nat) : Nat := l % 12
/-- Logical tile ID (R27). -/
def logId (f r c : Nat) : Nat := 96 * f + 12 * r + c
/-- Physical tile ID (R27). -/
def physId (f r c : Nat) : Nat := 104 * f + 13 * r + c
/-- Column x and row y of a field (R23). -/
def fieldX (f : Nat) : Nat := f % 4
def fieldY (f : Nat) : Nat := f / 4
/-- The twelve edge fields touch the die perimeter (R23). -/
def isEdgeField (f : Nat) : Bool := !(f == 5 || f == 6 || f == 9 || f == 10)
/-- The floe of a physical tile: floe k of a field holds rows 2k and 2k + 1 (R26). -/
def physFloe (t : Nat) : Nat := 4 * physField t + physRow t / 2

/-- A router port: 0 north, 1 east, 2 south, 3 west (R210). -/
def oppPort (p : Nat) : Nat := (p + 2) % 4

/-- The logical neighbour on a port and its hop constant (R32, R220); none at the die perimeter. -/
def neighbour (l p : Nat) : Option (Nat × Nat) :=
  let f := logField l; let r := logRow l; let c := logCol l
  match p with
  | 0 => if c < 11 then some (logId f r (c + 1), 1)
         else if fieldY f < 3 then some (logId (f + 4) r 0, 8) else none
  | 1 => if r < 7 then some (logId f (r + 1) c, if r % 2 = 0 then 1 else 3)
         else if fieldX f < 3 then some (logId (f + 1) 0 c, 8) else none
  | 2 => if c > 0 then some (logId f r (c - 1), 1)
         else if fieldY f > 0 then some (logId (f - 4) r 11, 8) else none
  | _ => if r > 0 then some (logId f (r - 1) c, if r % 2 = 1 then 1 else 3)
         else if fieldX f > 0 then some (logId (f - 1) 7 c, 8) else none

/-- The sum of hop constants along a column from die-wide column position a to b (R240). -/
def colDist (a b : Nat) : Nat :=
  let lo := min a b; let hi := max a b
  (List.range (hi - lo)).foldl (fun n i => n + if (lo + i) % 12 = 11 then 8 else 1) 0

/-- The sum of hop constants along the row direction between die-wide row positions (R240). -/
def rowDist (a b : Nat) : Nat :=
  let lo := min a b; let hi := max a b
  (List.range (hi - lo)).foldl (fun n i =>
    n + if (lo + i) % 8 = 7 then 8 else if (lo + i) % 2 = 0 then 1 else 3) 0

/-- The barrier distance between two logical tiles (R240). -/
def tileDist (a b : Nat) : Nat :=
  colDist (12 * fieldY (logField a) + logCol a) (12 * fieldY (logField b) + logCol b)
    + rowDist (8 * fieldX (logField a) + logRow a) (8 * fieldX (logField b) + logRow b)

/-- Base of a memory stack in the physical map (R40): 0 to 19 are HBM, 20 to 35 LPDDR. -/
def stackBase (s : Nat) : Nat := if s < 20 then s * 0x2000000000 else 0x40000000000 + (s - 20) * 0x2000000000

/-- The stack an address lies on, if it lies in a tier (R40, R41). -/
def stackOf (a : Nat) : Option Nat :=
  if a < 0x28000000000 then some (a / 0x2000000000)
  else if 0x40000000000 ≤ a && a < 0x60000000000 then some (20 + (a - 0x40000000000) / 0x2000000000)
  else none

/-- Base of a physical tile's scratchpad aperture (R40). -/
def apertureBase (t : Nat) : Nat := 0x80000000000 + t * 0x800000

/-- Primary and secondary home fields of port block n, H0 to H19 then L0 to L15 (R35). -/
def homes (n : Nat) : Nat × Nat :=
  nth [(0, 4), (4, 0), (8, 12), (12, 8), (12, 13), (12, 13), (13, 14), (14, 13), (15, 14), (15, 14),
       (15, 11), (11, 15), (7, 3), (3, 7), (3, 2), (3, 2), (2, 1), (1, 2), (0, 1), (0, 1),
       (0, 4), (4, 0), (8, 12), (12, 8), (12, 13), (13, 12), (14, 15), (15, 14),
       (15, 11), (11, 15), (7, 3), (3, 7), (3, 2), (2, 3), (1, 0), (0, 1)] n (0, 0)

/-- Port-block latencies to the primary and the secondary home (R238). -/
def pbLat (n : Nat) : Nat × Nat :=
  if n < 4 || (10 ≤ n && n ≤ 13) || (20 ≤ n && n ≤ 23) || (28 ≤ n && n ≤ 31) then (8, 21)
  else if n = 4 || n = 9 || n = 14 || n = 19 then (12, 29)
  else if n = 5 || n = 8 || n = 15 || n = 18 then (18, 18)
  else if n < 20 then (12, 23)
  else (10, 26)

end Sys2Proof.Machine
end

