-- ==== Sys2Proof/Machine/Crc.lean ====
section
/-! DEFINITION. The check values: CRC-64 of R312, CRC-32C of R532, and the Philox4x32-10 generator of R103 and R129. -/

namespace Sys2Proof.Machine

/-- One reflected CRC step per bit. -/
def crcBits (poly : Nat) : Nat → Nat → Nat
  | 0, c => c
  | n + 1, c => crcBits poly n (if c % 2 = 1 then (c / 2) ^^^ poly else c / 2)

/-- One byte into a reflected CRC register. -/
def crcByte (poly c : Nat) (b : Byte) : Nat := crcBits poly 8 (c ^^^ b.toNat)

/-- The reflected polynomial of R312 (0x42F0_E1EB_A9EA_3693). -/
def crc64Poly : Nat := 0xC96C5795D7870F42
/-- The initial value and the final XOR of R312. -/
def crc64Init : Nat := 0xFFFFFFFFFFFFFFFF
/-- Fold bytes into a CRC-64 register held before the final XOR. -/
def crc64Fold (c : Nat) (bs : List Byte) : Nat := bs.foldl (crcByte crc64Poly) c
/-- The CRC-64 of a byte string (R312). -/
def crc64 (bs : List Byte) : Nat := crc64Fold crc64Init bs ^^^ crc64Init

/-- CRC-32C of a byte string (R532 names it; PRESUMED: the Castagnoli polynomial, log entry 7). -/
def crc32c (bs : List Byte) : Nat := (bs.foldl (crcByte 0x82F63B78) 0xFFFFFFFF) ^^^ 0xFFFFFFFF

/-- One round of Philox4x32 (PRESUMED: the published multipliers, log entry 7). -/
def philoxRound (k : Nat × Nat) (c : Nat × Nat × Nat × Nat) : Nat × Nat × Nat × Nat :=
  let p0 := 0xD2511F53 * c.1
  let p1 := 0xCD9E8D57 * c.2.2.1
  ((p1 / 2 ^ 32) ^^^ c.2.1 ^^^ k.1, p1 % 2 ^ 32, (p0 / 2 ^ 32) ^^^ c.2.2.2 ^^^ k.2, p0 % 2 ^ 32)

/-- n rounds, the key raised by the Weyl constants between rounds. -/
def philoxGo : Nat → Nat × Nat → Nat × Nat × Nat × Nat → Nat × Nat × Nat × Nat
  | 0, _, c => c
  | n + 1, k, c => philoxGo n ((k.1 + 0x9E3779B9) % 2 ^ 32, (k.2 + 0xBB67AE85) % 2 ^ 32) (philoxRound k c)

/-- Philox4x32-10: the four 32-bit outputs for a key and a counter. -/
def philox (k0 k1 c0 c1 c2 c3 : Nat) : Nat × Nat × Nat × Nat := philoxGo 10 (k0, k1) (c0, c1, c2, c3)

end Sys2Proof.Machine
end

