-- ==== Sys2Proof/Machine/Fp.lean ====
section
/-! DEFINITION. Exact binary floating point: FP32, BF16 and FP16 values (R89, R121), single rounding to nearest even, and the MX formats of R92. -/

namespace Sys2Proof.Machine

/-- A floating-point value: not a number, an infinity, or the finite value (−1)^neg · m · 2^e. -/
inductive FVal where
  | nan
  | inf (neg : Bool)
  | fin (neg : Bool) (m : Nat) (e : Int)
  deriving DecidableEq, Repr

/-- A binary interchange format: precision, exponent of the smallest normal, exponent field width. -/
structure FmtB where
  p : Nat
  emin : Int
  ew : Nat
  deriving DecidableEq, Repr

def fp32 : FmtB := ⟨24, -126, 8⟩
def bf16 : FmtB := ⟨8, -126, 8⟩
def fp16 : FmtB := ⟨11, -14, 5⟩

/-- The code of +infinity. -/
def FmtB.infCode (f : FmtB) : Nat := (2 ^ f.ew - 1) * 2 ^ (f.p - 1)
/-- The canonical quiet NaN: 0x7FC0_0000, 0x7FC0 and 0x7E00 (R95, R101, R121). -/
def FmtB.nanCode (f : FmtB) : Nat := f.infCode + 2 ^ (f.p - 2)
/-- The sign bit's weight. -/
def FmtB.signBit (f : FmtB) : Nat := 2 ^ (f.p - 1 + f.ew)

/-- The value a code stands for. -/
def fDec (f : FmtB) (c : Nat) : FVal :=
  let neg := decide (c % (2 * f.signBit) ≥ f.signBit)
  let mag := c % f.signBit
  let ex := mag / 2 ^ (f.p - 1)
  let man := mag % 2 ^ (f.p - 1)
  if ex = 2 ^ f.ew - 1 then (if man = 0 then .inf neg else .nan)
  else if ex = 0 then .fin neg man (f.emin - (f.p - 1 : Nat))
  else .fin neg (2 ^ (f.p - 1) + man) (f.emin - (f.p - 1 : Nat) + ((ex - 1 : Nat) : Int))

/-- floor(log2(num / den)) for positive num and den. -/
def ratLog2 (num den : Nat) : Int :=
  let k : Int := (num.log2 : Int) - (den.log2 : Int)
  let ge := if k ≥ 0 then decide (num ≥ den * 2 ^ k.toNat) else decide (num * 2 ^ (-k).toNat ≥ den)
  if ge then k else k - 1

/-- num / den divided by 2^q and rounded to an integer, nearest with ties to even. -/
def rneScaled (num den : Nat) (q : Int) : Nat :=
  let n := if q ≥ 0 then num else num * 2 ^ (-q).toNat
  let d := if q ≥ 0 then den * 2 ^ q.toNat else den
  let t := n / d
  let r := n % d
  if 2 * r > d ∨ (2 * r = d ∧ t % 2 = 1) then t + 1 else t

/-- The magnitude code nearest to the positive rational num / den, ties to even; past the largest finite value it is
infinity (R94). -/
def roundRat (f : FmtB) (num den : Nat) : Nat :=
  if num = 0 then 0 else
  let ex := ratLog2 num den
  let qmin := f.emin - (f.p - 1 : Nat)
  let q := max (ex - (f.p - 1 : Nat)) qmin
  let c := (q - qmin).toNat * 2 ^ (f.p - 1) + rneScaled num den q
  min c f.infCode

/-- The code of a value, rounded once to nearest even. Every NaN is canonical (R121). -/
def fEnc (f : FmtB) : FVal → Nat
  | .nan => f.nanCode
  | .inf neg => f.infCode + b2n neg * f.signBit
  | .fin neg m e =>
    (if e ≥ 0 then roundRat f (m * 2 ^ e.toNat) 1 else roundRat f m (2 ^ (-e).toNat)) + b2n neg * f.signBit

/-- The exact product, by IEEE 754 rules for infinities and NaN. -/
def fMul : FVal → FVal → FVal
  | .nan, _ => .nan
  | _, .nan => .nan
  | .inf a, .inf b => .inf (a != b)
  | .inf a, .fin b m _ => if m = 0 then .nan else .inf (a != b)
  | .fin a m _, .inf b => if m = 0 then .nan else .inf (a != b)
  | .fin a m e, .fin b n g => .fin (a != b) (m * n) (e + g)

/-- A finite value with the sign taken into the significand. -/
def signedM (neg : Bool) (m : Nat) : Int := if neg then -(m : Int) else m

/-- The exact sum. A zero result is +0 unless both operands are −0. -/
def fAdd : FVal → FVal → FVal
  | .nan, _ => .nan
  | _, .nan => .nan
  | .inf a, .inf b => if a = b then .inf a else .nan
  | .inf a, .fin .. => .inf a
  | .fin .., .inf b => .inf b
  | .fin a m e, .fin b n g =>
    let q := min e g
    let s := signedM a m * 2 ^ (e - q).toNat + signedM b n * 2 ^ (g - q).toNat
    if s = 0 then .fin (a && b && m == 0 && n == 0) 0 q else .fin (decide (s < 0)) s.natAbs q

/-- The exact sum of a list of values, from the left. -/
def fSum : List FVal → FVal
  | [] => .fin false 0 0
  | [x] => x
  | x :: xs => fAdd x (fSum xs)

def fNeg : FVal → FVal
  | .nan => .nan
  | .inf a => .inf (!a)
  | .fin a m e => .fin (!a) m e

/-- a < b as real numbers; false when either is NaN. −0 equals +0. -/
def fLt : FVal → FVal → Bool
  | .nan, _ => false
  | _, .nan => false
  | .inf a, .inf b => a && !b
  | .inf a, .fin .. => a
  | .fin .., .inf b => !b
  | .fin a m e, .fin b n g =>
    let q := min e g
    decide (signedM a m * 2 ^ (e - q).toNat < signedM b n * 2 ^ (g - q).toNat)

def fIsNan : FVal → Bool
  | .nan => true
  | _ => false

def fEq (x y : FVal) : Bool := !fIsNan x && !fIsNan y && !fLt x y && !fLt y x

/-! ## FP32 operations on codes (R121) -/

def dec32 (c : W32) : FVal := fDec fp32 c.toNat
def enc32 (v : FVal) : W32 := BitVec.ofNat 32 (fEnc fp32 v)
def nan32 : W32 := 0x7FC00000#32
def isNan32 (c : W32) : Bool := fIsNan (dec32 c)

def addF (a b : W32) : W32 := enc32 (fAdd (dec32 a) (dec32 b))
def subF (a b : W32) : W32 := enc32 (fAdd (dec32 a) (fNeg (dec32 b)))
def mulF (a b : W32) : W32 := enc32 (fMul (dec32 a) (dec32 b))
/-- Fused multiply-add, rounded once (R121). -/
def fmaF (a b c : W32) : W32 := enc32 (fAdd (fMul (dec32 a) (dec32 b)) (dec32 c))

/-- Maximum, −0 below +0; with one NaN the other operand, with two the canonical NaN (R121). -/
def maxF (a b : W32) : W32 :=
  if isNan32 a then (if isNan32 b then nan32 else b)
  else if isNan32 b then a
  else if fLt (dec32 a) (dec32 b) then b
  else if fLt (dec32 b) (dec32 a) then a
  else if a.msb then b else a

/-- Minimum, under the same rules (R121). -/
def minF (a b : W32) : W32 :=
  if isNan32 a then (if isNan32 b then nan32 else b)
  else if isNan32 b then a
  else if fLt (dec32 a) (dec32 b) then a
  else if fLt (dec32 b) (dec32 a) then b
  else if a.msb then a else b

def absF (a : W32) : W32 := if isNan32 a then nan32 else a &&& 0x7FFFFFFF#32
def negF (a : W32) : W32 := if isNan32 a then nan32 else a ^^^ 0x80000000#32

/-- VSIGN: +1.0, −1.0, +0 or the canonical NaN (R121). -/
def signF (a : W32) : W32 :=
  match dec32 a with
  | .nan => nan32
  | .inf n => if n then 0xBF800000#32 else 0x3F800000#32
  | .fin n m _ => if m = 0 then 0#32 else if n then 0xBF800000#32 else 0x3F800000#32

/-- The nearest integer to a finite value, ties to even. -/
def rneInt (neg : Bool) (m : Nat) (e : Int) : Int :=
  let n := if e ≥ 0 then m * 2 ^ e.toNat else rneScaled m (2 ^ (-e).toNat) 0
  if neg then -(n : Int) else n

/-- FP32 to a signed 32-bit integer: nearest even, saturating, NaN to 0 (R122). -/
def toI32 (a : W32) : W32 :=
  match dec32 a with
  | .nan => 0
  | .inf n => if n then 0x80000000#32 else 0x7FFFFFFF#32
  | .fin n m e => BitVec.ofInt 32 (max (-2147483648) (min 2147483647 (rneInt n m e)))

/-- FP32 to an unsigned 32-bit integer: nearest even, saturating, NaN to 0 (R122). -/
def toU32 (a : W32) : W32 :=
  match dec32 a with
  | .nan => 0
  | .inf n => if n then 0 else 0xFFFFFFFF#32
  | .fin n m e => BitVec.ofInt 32 (max 0 (min 4294967295 (rneInt n m e)))

def ofI32 (a : W32) : W32 := enc32 (.fin (decide (a.toInt < 0)) a.toInt.natAbs 0)
def ofU32 (a : W32) : W32 := enc32 (.fin false a.toNat 0)

/-- An ordered key of FP32 codes for sample order (R130): NaN below −infinity, −0 equal to +0. -/
def sampleKeyGt (a b : W32) : Bool :=
  if isNan32 a then false else if isNan32 b then true else fLt (dec32 b) (dec32 a)

/-! ## The MX formats (R89, R92) -/

/-- An MX element: NaN, an infinity, or the integer form i of R92. -/
inductive MxVal where
  | nan
  | inf (neg : Bool)
  | int (i : Int)
  deriving DecidableEq, Repr

/-- Format codes 4 to 9 are the MX formats. -/
def isMx (f : Nat) : Bool := 4 ≤ f && f ≤ 9
/-- The format codes that are not reserved (R89). -/
def fmtOk (f : Nat) : Bool := f ≤ 2 || isMx f

/-- The pairs R87 allows. -/
def pairOk (a b : Nat) : Bool := (isMx a && isMx b) || (a == b && a ≤ 2)

/-- The unit exponent u of R92. -/
def mxU (f : Nat) : Int :=
  match f with
  | 4 => -9
  | 5 => -16
  | 6 => -4
  | 7 => -3
  | 8 => -1
  | _ => -6

/-- Exponent and mantissa widths of a floating MX format. -/
def mxEM (f : Nat) : Nat × Nat :=
  match f with
  | 4 => (4, 3)
  | 5 => (5, 2)
  | 6 => (3, 2)
  | 7 => (2, 3)
  | _ => (2, 1)

/-- The integer form of an element code (R92). -/
def mxDec (f c : Nat) : MxVal :=
  if f = 9 then .int (sgn 8 c) else
  let (ew, mw) := mxEM f
  let mag := c % 2 ^ (ew + mw)
  let neg := bit c (ew + mw)
  if f = 4 ∧ mag = 0x7F then .nan
  else if f = 5 ∧ mag = 0x7C then .inf neg
  else if f = 5 ∧ mag > 0x7C then .nan
  else
    let ex := mag / 2 ^ mw
    let man := mag % 2 ^ mw
    let i := if ex = 0 then man else (2 ^ mw + man) * 2 ^ (ex - 1)
    .int (signedM neg i)

/-- emax of R102. -/
def mxEmax (f : Nat) : Int :=
  match f with
  | 4 => 8
  | 5 => 15
  | 6 => 4
  | 7 => 2
  | 8 => 2
  | _ => 0

/-- The code of the largest finite magnitude; 127 for MXINT8 (R92, R102). -/
def mxMaxCode (f : Nat) : Nat :=
  match f with
  | 4 => 0x7E
  | 5 => 0x7B
  | 6 => 0x1F
  | 7 => 0x1F
  | 8 => 0x7
  | _ => 127

/-- The magnitude code nearest to num / den in a floating MX format, ties to even, saturating (R102). -/
def mxRound (f num den : Nat) : Nat :=
  if f = 9 then min 127 (rneScaled num den (-6)) else
  if num = 0 then 0 else
  let (_, mw) := mxEM f
  let ex := ratLog2 num den
  let qmin := mxU f
  let q := max (ex - (mw : Int)) qmin
  min ((q - qmin).toNat * 2 ^ mw + rneScaled num den q) (mxMaxCode f)

/-- The largest magnitude code at or below num / den, and whether it is exact, for an FP format of `mw` mantissa bits
and unit exponent qmin. -/
def floorCode (mw : Nat) (qmin : Int) (num den : Nat) : Nat :=
  if num = 0 then 0 else
  let ex := ratLog2 num den
  let q := max (ex - (mw : Int)) qmin
  let n := if q ≥ 0 then num else num * 2 ^ (-q).toNat
  let d := if q ≥ 0 then den * 2 ^ q.toNat else den
  (q - qmin).toNat * 2 ^ mw + n / d

/-- The value m · 2^e of a magnitude code of that format. -/
def codeVal (mw : Nat) (qmin : Int) (c : Nat) : Nat × Int :=
  let ex := c / 2 ^ mw
  if ex = 0 then (c % 2 ^ mw, qmin) else (2 ^ mw + c % 2 ^ mw, qmin + ((ex - 1 : Nat) : Int))

/-- Compare and scale helpers: the rational m · 2^e as numerator and denominator. -/
def dyRat (m : Nat) (e : Int) : Nat × Nat := if e ≥ 0 then (m * 2 ^ e.toNat, 1) else (m, 2 ^ (-e).toNat)

/-- Stochastic rounding of the magnitude num / den to a format whose largest finite code is `top`, with 16 random bits
r (R103). A magnitude past the top takes `past`. -/
def stochRound (mw : Nat) (qmin : Int) (top past : Nat) (num den r : Nat) : Nat :=
  let (tm, te) := codeVal mw qmin top
  let (tn, td) := dyRat tm te
  if num * td > tn * den then past
  else
    let lo := floorCode mw qmin num den
    let (lm, le) := codeVal mw qmin lo
    let (ln, ld) := dyRat lm le
    if num * ld = ln * den then lo
    else
      let (hm, he) := codeVal mw qmin (lo + 1)
      let (hn, hd) := dyRat hm he
      -- f = floor(65536 (m - lo) / (hi - lo))
      let a := (num * ld - ln * den) * hd * 65536
      let b := (hn * ld - ln * hd) * den
      if r < a / b then lo + 1 else lo

end Sys2Proof.Machine
end

