-- ==== Sys2Proof/Config.lean ====
section
/-! DEFINITION. What the manual leaves open: free values, opaque functions no proof can see into. Each is named in a row of the assumption log. -/

namespace Sys2Proof.Config

/-- A free 64-bit value, one for each tick of the model's own counter `Dev.free`: nonces, random numbers of the
nunatak, choices the manual leaves open (a frame of a stack, R327; a free page of the arena, R324). Log entry 3. -/
opaque free : Nat → BitVec 64

/-- The SHA-512 digest of a byte string. The manual names the function and states no value of it. Log entry 4. -/
opaque sha512 : List (BitVec 8) → BitVec 512

/-- Whether an Ed25519 signature over a byte string verifies under a public key. Log entry 4. -/
opaque ed25519Verify : (key : BitVec 256) → (msg : List (BitVec 8)) → (sig : BitVec 512) → Bool

/-- The Ed25519 signature over a byte string by the key of a seed, and the public key of a seed. Log entry 4. -/
opaque ed25519Sign : (seed : BitVec 256) → List (BitVec 8) → BitVec 512
opaque ed25519Public : (seed : BitVec 256) → BitVec 256

/-- What the bytes of an SPDM answer hold beyond what R477 states, as a function of the request and of a counter.
Log entry 5. -/
opaque spdmBytes : (code : Nat) → List (BitVec 8) → Nat → List (BitVec 8)

/-- The SHA-512 measurement block of an index, over what it measures; the manual gives no layout of it (R477). Log entry 5. -/
opaque measure : (index : Nat) → List (BitVec 8) → BitVec 512

/-- The SHA-512 of the vendor root key in mask ROM; the manual gives no value. Log entry 4. -/
opaque vendorKeyHash : BitVec 512

/-- A byte of a stack that lost its contents when it went DOWN (R516): the n-th loss, and the address. Log entry 3. -/
opaque lostByte : Nat → Nat → BitVec 8

end Sys2Proof.Config
end

