-- ==== Sys2Proof/Machine/State.lean ====
section
/-! DEFINITION. The state of the device as plain data, the reasons a step can stop, and the state after reset. -/

namespace Sys2Proof.Machine

/-- Why a command stops the model without a next state. The manual gives every command an effect, and what goes wrong within
one ends with a status code, a fault of a context or an entry in the varve log: nothing raises a fault of the model. -/
inductive Fault where
  deriving DecidableEq, Repr

/-- Why a command is refused. -/
inductive Refusal where
  /-- A command whose meaning is not written yet. Raised by Dispatch only. Safe. -/
  | notModelled (mnemonic : String)
  deriving DecidableEq, Repr

/-! ## A tile (chapters 2 to 7) -/

/-- An open loop level (R56, R192): where its body starts, its loaded count, whether its one pass is squashed (R58). -/
structure LoopLevel where
  rtn : Option Nat
  body : Nat
  count : Nat
  squashed : Bool
  deriving DecidableEq, Repr

/-- A held return point (R62): the caller's routine, the pc after the CALL, and the loop levels open at the CALL. -/
structure RetPoint where
  rtn : Option Nat
  pc : Nat
  depth : Nat
  deriving DecidableEq, Repr

/-- An accumulator set as the cube engine works on it (R93 to R97, R108): 16 × 64 FP32 values (element 64·row + column
at bits 32·element), 72-bit block sums and special states by element, the element count, the open block's format pair
and its scales, and the bad mark with whether it came from a discarded open block (R111) and the beat, in TILE.BEAT, in which a
mismatch last set it (R110); and the issue count up to which CDRAIN still reads the values of a bad chain that a CZERO or CMUL has
ended (R97, R108), with what that chain's mark came from. -/
structure AccSet where
  vals : BitVec 32768 := 0
  sums : SMap (BitVec 72) := []
  spec : SMap (BitVec 2) := []
  count : Nat := 0
  pair : Option (Nat × Nat) := none
  scaleA : Word256 := 0
  scaleB : Line512 := 0
  bad : Bool := false
  badOpen : Bool := false
  markedAt : Nat := 0
  oldBad : Nat := 0
  oldOpen : Bool := false
  deriving DecidableEq, Repr

/-- An address generator: its descriptor and the four counters of its position (R190 to R195). -/
structure AddrGen where
  desc : Word256 := 0
  c0 : Nat := 0
  c1 : Nat := 0
  c2 : Nat := 0
  c3 : Nat := 0
  deriving DecidableEq, Repr

/-- The state a context switch saves and restores (R47, R72, R87, R104): the register files, the accumulators and what
of them CDRAIN can read, the check-value registers, the generators, the format state and the sequencer state. -/
structure Regs where
  v : SMap (BitVec 2048) := []
  p : SMap (BitVec 64) := []
  lc : SMap (BitVec 32) := []
  accOut : SMap (BitVec 32768) := []
  acc : SMap AccSet := []
  cv : SMap (BitVec 64) := []
  cvGood : BitVec 8 := 0xFF
  ag : SMap AddrGen := []
  fa : Nat := 1
  fb : Nat := 1
  saga : Nat := 0
  sagb : Nat := 0
  pc : Nat := 0
  rtn : Option Nat := none
  loops : List LoopLevel := []
  calls : List RetPoint := []
  squash : Nat := 0
  deriving DecidableEq, Repr

/-- What an in-flight operation delivers when its latency has elapsed (R49): a register write, or a fault raised in that
beat (a consumed poisoned word, R159; a bad descriptor, R191; a shadow mismatch, R135). -/
inductive Deliver where
  | v (d : Nat) (val : BitVec 2048) (mask : BitVec 64)
  | p (d : Nat) (val : BitVec 64) (mask : BitVec 64)
  | acc (n : Nat) (val : BitVec 32768)
  | ag (n : Nat) (desc : Word256)
  | poison
  | lane (unit : VUnit) (lane : Nat) (op : BitVec 48) (src0 src1 src2 main shadow : BitVec 32)
  deriving DecidableEq, Repr

/-- An in-flight operation: the issue count at which it delivers, and the pc of its bundle. -/
structure Inflight where
  due : Nat
  pc : Nat
  what : Deliver
  deriving DecidableEq, Repr

/-- What a flit carries (R222): words of a SEND, a refusal on its way back to a sending tile (R168, R233), words of the GET or to the
PUT with that number. -/
inductive Cargo where
  | send
  | refusal (code : Nat)
  | get (id : Nat)
  | put (id : Nat)
  deriving DecidableEq, Repr

/-- A flit on its way (R219): the sender's transfer, the destination window and offset, its words with their poison, the
router where it is or which it reaches next (logical tile, 1536 for the edge ring), and where there: the inbound port, 4 + the port it
leaves by for one that starts there, 8 + the perimeter port for one at that port's side switch; its channel; the beat it is there, by
that router; beats held; whether its crossing has been checked (R230); the perimeter port by which edge traffic leaves the destination;
its words that have landed, those granted in this beat, and whether it has recorded a shadow-tag violation. -/
structure Flit where
  tid : Nat
  k : Nat
  last : Bool
  src : Nat
  ctx : Nat
  slot : Nat
  pc : Nat
  cadence : Bool
  dst : Nat
  win : Nat
  off : Nat
  data : List (Word256 × Bool)
  vc : Nat
  at' : Nat
  inp : Nat
  held : Nat := 0
  cargo : Cargo := .send
  beat : Nat := 0
  seen : Bool := false
  exit : Option Nat := none
  landed : List Nat := []
  now : List Nat := []
  shadowed : Bool := false
  deriving DecidableEq, Repr

/-- What a bank access does when its words are granted. A drain's row pair holds its number, the format, its FP32 inputs, the exact output
words and scale bytes if the check cube samples it (R106), the scale bytes as given, and the check-value register it is folded into. -/
inductive AccKind where
  | load (d : Nat) (mask : BitVec 64) (due : Nat)
  | store
  | drain (pair fmt : Nat) (inputs : BitVec 4096) (want : Option (List Word256 × BitVec 32)) (scales : BitVec 32) (cv : Option Nat)
  | agload (ag due : Nat)
  | cube (acc fa fb k : Nat) (opens closes : Bool) (due : Nat)
  | tagSet
  | tagClr
  | entry (id : Nat)
  | flit (f : Flit)
  | putRead (id : Nat)
  deriving DecidableEq, Repr

/-- The words of an access that one port moves through one window (R150, R191): those still to be granted, all of them, the window,
whether a read takes, the data of a write, the words granted in this beat, and whether a shadow-tag violation has been recorded. -/
structure Part where
  port : Nat
  words : List Nat
  foot : List Nat
  win : Option Nat := none
  take : Bool := false
  data : List (Word256 × BitVec 8) := []
  now : List Nat := []
  shadowed : Bool := false
  deriving DecidableEq, Repr

/-- A bank access of an issued operation (R150, R154): the beats before it, 0 once it has lost a bank; its parts; its direction;
its bundle's context slot and pc; for the cube engine the bundle's CUBE slot (R113); and the words read so far. -/
structure Acc where
  delay : Nat
  parts : List Part
  wr : Bool
  slot : Nat
  pc : Nat
  kind : AccKind
  cubeSlot : BitVec 64 := 0
  got : List (Nat × (Word256 × Bool)) := []
  deriving DecidableEq, Repr

/-- An armed forwarding entry (R213): its number, its ports, the transfers still to begin, and those that have begun and not ended,
as sender and number; and the beat in which it was armed. -/
structure Fwd where
  entry : Nat
  inp : Nat
  outp : Nat
  left : Nat
  bound : List (Nat × Nat) := []
  since : Nat := 0
  deriving DecidableEq, Repr

/-- An outstanding GET or PUT (R214 to R217): its local words, blocks, page-list entry once read, the physical page once
translated (R328), the words of a PUT that have come to its port block, the blocks of a GET sent or the lines of a PUT accepted, and
the flits of a GET that have landed. -/
structure Xfer where
  id : Nat
  isGet : Bool
  ctx : Nat
  slot : Nat
  cadence : Bool
  pc : Nat
  win : Nat
  base : Nat
  off : Nat
  nb : Nat
  ent : Nat
  vpn : Option Nat := none
  pa : Option Nat := none
  buf : List (Word256 × Bool) := []
  moved : Nat := 0
  cve : Bool := false
  cvs : List (BitVec 64 × Bool) := []
  tk : Bool := false
  landed : Nat := 0
  deriving DecidableEq, Repr

/-- A launch queued or running on a tile (R75): its context slot and the launch's number. -/
structure TileLaunch where
  slot : Nat
  id : Nat
  deriving DecidableEq, Repr

/-- Where a switch leads (R71, R75). -/
inductive SwitchTo where
  | entry (i : Nat)
  | launch (l : TileLaunch)
  deriving DecidableEq, Repr

/-- What the sequencer does in a beat: nothing to run, frame entry or a switch with beats left, or issuing. -/
inductive RunMode where
  | idle
  | entry (left : Nat)
  | switch (left : Nat) (dst : SwitchTo)
  | running
  deriving DecidableEq, Repr

/-- A spare-row copy under way (R161): the row as 256 × bank + row, the bank row it is copied from (256 and up for a spare), its new spare,
and the bank beats made of its 16. -/
structure RowCopy where
  key : Nat
  src : Nat
  spare : Nat
  beats : Nat := 0
  deriving DecidableEq, Repr

/-- An aperture write that a context switch of the tile holds (R152): its offset, its bytes, and what its merges find wrong. -/
structure HeldWrite where
  off : Nat
  bytes : List Byte
  ecc : List (BitVec 17 × Bool)
  deriving DecidableEq, Repr

/-- The state of a tile beside its BAR0 registers and its scratchpad bytes. `ahead` is the model's own: the beats the tile has had by
commands of its own beyond those of the die (log entry 8). -/
structure Tile where
  regs : Regs := {}
  saved : SMap (Option Regs) := []
  mode : RunMode := .idle
  entry : Nat := 0
  slot : Nat := 0
  list : BitVec 64 := 0
  inGroup : Bool := false
  cstore : SMap Word256 := []
  tags : SMap Bool := []
  poison : SMap Bool := []
  corrPend : SMap Bool := []
  remap : SMap Nat := []
  remapPend : List Nat := []
  inflight : List Inflight := []
  bankq : List Acc := []
  mvq : List Acc := []
  fwd : List Fwd := []
  xfers : List Xfer := []
  nextId : Nat := 0
  reached : Option Word256 := none
  waited : Nat := 0
  /-- The captures held were taken during a margin sweep or a test run (R351): cube, lane. -/
  capTest : Bool := false
  lcapTest : Bool := false
  lastFp32 : Option Nat := none
  lastDrain : Option Nat := none
  lastSfu : Option Nat := none
  rotCube : Nat := 0
  rotA : Nat := 0
  rotB : Nat := 0
  activeAt : Option Nat := none
  fpBeat : Bool := false
  ahead : Nat := 0
  raise : Option (Nat × Nat) := none
  netBanks : BitVec 64 := 0
  netWords : List Nat := []
  netCount : Nat := 0
  mntq : List Nat := []
  heldWrites : List HeldWrite := []
  rowCopy : List RowCopy := []
  lr : SMap (BitVec 64) := []
  launches : List TileLaunch := []
  cur : Option TileLaunch := none
  fenced : Bool := false
  dead : Bool := false
  missed : Nat := 0
  verdict : BitVec 16 := 0
  skipCtx : List Nat := []
  deriving DecidableEq, Repr

/-- A barrier line (R239 to R242): its context and number, the participants' logical IDs, the arrivals with their
beats, and the participants the release has reached, with the beat from which each issues. -/
structure BarLine where
  ctx : Nat
  n : Nat
  parts : List Nat
  arrived : List (Nat × Nat) := []
  rel : List (Nat × Nat) := []
  deriving DecidableEq, Repr

/-- A link direction (R219, R223, R224): the first beat in which it is free, and the first in which it may start a flit of VC2. -/
structure LinkUse where
  free : Nat := 0
  vc2 : Nat := 0
  deriving DecidableEq, Repr

/-- A credit on its way back to the sender of a flit (R226): the receive buffer's tile, port and channel, and the beat it returns. -/
structure Credit where
  at' : Nat
  inp : Nat
  vc : Nat
  due : Nat
  deriving DecidableEq, Repr

/-- A wire whose steering waits for its beat (R232): tile, port, wire, and CLK.BEAT when the fault was classed. -/
structure WireOrder where
  tile : Nat
  port : Nat
  wire : Nat
  since : Nat := 0
  deriving DecidableEq, Repr

/-- An event on its way to the integrity block (R342): class, source, location as R559 lays it out, detail B, and its beat. -/
structure Event where
  cls : Nat
  kind : Nat
  idx : Nat
  loc : BitVec 64
  syn : BitVec 64
  beat : Nat := 0
  deriving DecidableEq, Repr

/-- A launch in progress (R75, R466): the owner, the control entry's tag, the tiles still to end, the first fault code
with its tile, whether it is an isolation launch (R524), which reports nothing, and the lr and stepno latched at its start (R138). -/
structure Launch where
  id : Nat
  ctx : Nat
  port : Nat
  tag : Nat
  left : List Nat
  fault : Option (Nat × Nat) := none
  iso : Bool := false
  lr : Option (BitVec 64) := none
  deriving DecidableEq, Repr

/-! ## The varve log (chapter 17) -/

/-- A varve entry before its words are laid out (R532), with what coalescing needs (R535): the frame or tick of the
first event and ITG.CLOCK of the latest one. `num` is none while the entry waits in the early buffer (R531). -/
structure VEntry where
  num : Option Nat
  sev : Nat
  cls : Nat
  noframe : Bool
  w1 : BitVec 64
  kind : Nat
  idx : Nat
  w3 : BitVec 64
  a : BitVec 64
  b : BitVec 64
  rep : Nat := 0
  span : Nat := 0
  since : Nat
  clock : Nat
  deriving DecidableEq, Repr

/-- The varve log beside its registers: the early buffer, oldest first (R531); the latest entry of each of 4,096 pairs
of source and class, least recent first (R535); the new entries of each class in the current second (R536). -/
structure Varve where
  early : List VEntry := []
  latest : List VEntry := []
  second : SMap Nat := []
  deriving DecidableEq, Repr

/-! ## What leaves the device -/

/-- Everything the device gives the world outside it, in the order given. -/
inductive Out where
  /-- A write to host memory through a port. -/
  | host (port : Nat) (addr : Nat) (bytes : List Byte)
  /-- An MSI-X message (R475). -/
  | msix (port : Nat) (vec : Nat)
  /-- A poisoned line written to host memory, in a TLP of its own with the EP bit set (R470). -/
  | hostPoison (port : Nat) (addr : Nat) (bytes : List Byte)
  /-- The data a host read returns; with the EP bit set where it is poisoned (R458). -/
  | readPoison (port : Nat) (bytes : List Byte)
  | readData (port : Nat) (data : BitVec 64)
  | readBytes (port : Nat) (bytes : List Byte)
  /-- A cell sent on a link: its type and its content bytes. -/
  | cell (link : Nat) (typ : Nat) (bytes : List Byte)
  /-- A PCIe configuration answer: served or Configuration Request Retry Status (R484). -/
  | config (port : Nat) (served : Bool)
  /-- The value a read of a configuration identifier returns (R456). -/
  | configId (port : Nat) (value : Nat)
  /-- An answer of the SPDM responder (R477). -/
  | spdm (port : Nat) (code : Nat) (bytes : List Byte)
  /-- A port answers a request with a status (R514). -/
  | status (port : Nat) (code : Nat)
  /-- A NAK requested of a link's peer for the SEQ expected (R433). -/
  | nak (link : Nat) (seq : Nat)
  /-- An AUTH hello sent (R429): device ID, link number, public key, serial and certificate, nonce. -/
  | hello (link : Nat) (id : Nat) (pub : BitVec 256) (serial : BitVec 64) (cert : BitVec 512) (nonce : BitVec 256)
  /-- An AUTH answer sent: a signature. -/
  | answer (link : Nat) (sig : BitVec 512)
  /-- A LANE cell sent (R428): the failed lane and the lane steered in. -/
  | lane (link : Nat) (bad new : Nat)
  /-- The sender of a copy into a window learns that it is refused (R471); the manual names no cell for it. -/
  | copyRefused (link : Nat) (window : Nat)
  /-- What the I3C target answers (R548, R549): acknowledge or not, and data. -/
  | i3c (ack : Bool) (bytes : List Byte)
  /-- A TLP that fails its IDE check is reported through AER (R478). -/
  | aer (port : Nat)
  /-- A bundle written to a slot of the QSPI flash (R490). -/
  | flash (slot : Nat) (bytes : List Byte)
  /-- A board pin driven: 0 PWR_KILL_N (R551), 1 an in-band interrupt request (R549), 2 a regulator stage. -/
  | pin (which : Nat) (v : Bool)
  deriving DecidableEq, Repr
/-! ## The memory tiers (chapter 10) -/

/-- What the side band of a line holds (R308). -/
structure Line where
  kind : Nat := 0
  cv : Bool := false
  poison : Bool := false
  deriving DecidableEq, Repr

/-- A page in use (R319, R325, R329): its first frame, the context it counts against, the class and slot of its sequence
for a key/value page, every mapping (context and virtual page number, the counted one first), its tier field, its touch. -/
structure Page where
  frame : Nat
  large : Bool := false
  ctx : Nat
  cls : Option Nat := none
  slot : Option Nat := none
  maps : List (Nat × Nat) := []
  tier : Nat := 0
  touch : Nat := 0
  deriving DecidableEq, Repr

/-- Why a page moves. -/
inductive MoveWhy where
  | demote
  | promote
  | retier
  | evacuate
  | repair
  deriving DecidableEq, Repr

/-- A page move in progress (R328). -/
structure Move where
  src : Nat
  dst : Nat
  why : MoveWhy
  deriving DecidableEq, Repr

/-- A node of a page table, or a load image, in the page-table pool (R319, R323, R522). -/
structure Node where
  addr : Nat
  size : Nat
  ctx : Nat
  slot : Option Nat := none
  deriving DecidableEq, Repr

/-- A lasting row fault on its way to its repair (R318): the frame, and the pseudo-channel, bank and row for a soft repair. -/
structure Repair where
  frame : Nat
  soft : Option (Nat × Nat × Nat) := none
  deriving DecidableEq, Repr

/-- A step of a copy whose data moves when it ends (R470): port, tag, context, kind, source, destination, units, BE, the
peer device and window, and whether its cells have been queued. -/
structure Copy where
  id : Nat
  port : Nat
  tag : Nat
  ctx : Nat
  kind : Nat
  src : Nat
  dst : Nat
  units : Nat
  be : Bool := false
  peer : Nat := 0
  win : Nat := 0
  sent : Bool := false
  deriving DecidableEq, Repr

/-- A firn operation under way (R507, R511): its words with their new values, and whether FIRN.CMD started it. -/
structure FirnOp where
  words : List (Nat × BitVec 32)
  host : Bool := false
  deriving DecidableEq, Repr

/-! ## The integrity block (chapter 11) -/

/-- A pair of class and location with the times in ms of its last 8 events, oldest first (R344). -/
structure Track where
  cls : Nat
  kind : Nat
  idx : Nat
  loc : BitVec 64
  times : List Nat
  deriving DecidableEq, Repr

/-- What a retirement order retires (R346). A row is a bank row, 256 and up for a spare. -/
inductive Retiree where
  | tile (t : Nat)
  | row (t bank row : Nat)
  | wire (t port wire : Nat)
  | memory (r : Repair)
  deriving DecidableEq, Repr

/-- A lasting decision or an order of the steward (R346, R348). `host` marks the order of ITG.RETIRE_CMD. -/
structure Order where
  what : Retiree
  host : Bool := false
  deriving DecidableEq, Repr

/-- A loaded package (R354): its id, revision, kernel count, and how many kernels are MARGIN_ONLY. -/
structure Pkg where
  id : BitVec 64
  rev : Nat
  kernels : Nat
  marginOnly : Nat
  deriving DecidableEq, Repr

/-! ## Neori links (chapter 14) -/

/-- A cell to be sent: type, class, header words 1 and 2, block word, payload; the frame of an OUTCOME and the copy it
belongs to; what leaves in place of the bytes of a cell whose payload layout the manual does not give; and for a cell in transit that waits,
the link it came on and whether its buffer slot is of the shared pool (R436). -/
structure QCell where
  typ : Nat
  cls : Nat
  w1 : Nat := 0
  w2 : Nat := 0
  block : Nat := 0
  payload : List Byte := []
  frame : Option Nat := none
  copy : Option Nat := none
  out : Option Out := none
  slot : Option (Nat × Bool) := none
  deriving DecidableEq, Repr

/-- A cell sent and held in the replay buffer until acknowledged (R434). -/
structure Sent where
  seq : Nat
  cell : QCell
  out : Out
  resent : Nat := 0
  deriving DecidableEq, Repr

/-- What a peer's hello carried (R429). -/
structure Hello where
  id : Nat
  link : Nat
  pub : BitVec 256
  serial : BitVec 64
  cert : BitVec 512
  nonce : BitVec 256
  deriving DecidableEq, Repr

/-- A link beside its registers: next sequence number and next expected one, the replay buffer, cells waiting for a credit,
credits held and slots to return by class (R434, R436), the nonce and hello of an authentication, the hops of the last
SYNC, the stamp of the DREQ under way, and ADMIT or HOLD waiting for a frame boundary. -/
structure LinkSt where
  txSeq : Nat := 0
  rxNext : Nat := 0
  sent : List Sent := []
  queue : List QCell := []
  credits : List Nat := [128, 1024, 512, 384]
  owed : List Nat := [0, 0, 0, 0]
  nonce : Option (BitVec 256) := none
  hello : Option Hello := none
  hops : Option Nat := none
  t1 : Option (BitVec 64) := none
  admitting : Bool := false
  deriving DecidableEq, Repr

/-- An inbound block (R442): stream and block, the frame under way with the cells that have come, and the FRAME of its last
complete arrival. -/
structure InBlock where
  stream : Nat
  block : Nat
  frame : Nat
  cells : BitVec 16
  complete : Option Nat := none
  deriving DecidableEq, Repr

/-- A time-master candidate heard (R254): device ID, rank, valid inputs, and the link its ANNOUNCE came by first. -/
structure Cand where
  id : Nat
  prio : Nat
  refOk : Bool
  link : Nat
  deriving DecidableEq, Repr

/-! ## Contexts (chapter 15) and fences (chapter 17) -/

/-- A context beside its DEV.CTXc register: what the loader took from its descriptor (R467 to R469): its tiles as logical
tile and context slot, and the place of its load image (R522). -/
structure CtxInfo where
  port : Nat
  cadence : Bool := false
  seed : BitVec 64 := 0
  tiles : List (Nat × Nat) := []
  image : Option Nat := none
  deriving DecidableEq, Repr

/-- A load in progress (R469): its context and port, and the tag of its control entry. -/
structure Loading where
  ctx : Nat
  port : Nat
  tag : Nat
  deriving DecidableEq, Repr

/-- A bundle push (R489, R490): its port, whether it is stored, its bytes so far, and whether it is being stored. -/
structure Push where
  port : Nat
  store : Bool
  bytes : List Byte := []
  storing : Bool := false
  deriving DecidableEq, Repr

/-- What a script waits for (R503). -/
inductive ScriptWait where
  | none
  | poll
  | delay
  deriving DecidableEq, Repr

/-- A script that runs (R502 to R505): its commands, whether it is a debug script and for which port (2 for none), the index
of the next command, the mask M and timeout T, READ records written, and what it waits for. -/
structure Script where
  cmds : List (W64 × W64)
  debug : Bool
  port : Nat
  idx : Nat := 0
  mask : W64 := 0xFFFFFFFFFFFFFFFF
  timeout : Nat := 1000
  output : Nat := 0
  wait : ScriptWait := .none
  deriving DecidableEq, Repr

/-- The SPDM responder and the IDE stream of a port (R477, R478): how far a secured session is (0 none, 1 in its handshake,
2 open), keys programmed, stream enabled. -/
structure Secure where
  session : Nat := 0
  keyed : Bool := false
  ide : Bool := false
  deriving DecidableEq, Repr

/-- The modules of a UCIe attachment that run at x16, and those at x8; the others are disabled (R39). -/
structure Modules where
  full : BitVec 8 := 0
  half : BitVec 8 := 0
  deriving DecidableEq, Repr

/-- Bring-up and the ports beside their registers: the bundles of the two flash slots as stage 2 reads them (R485), the
verified one in the nunatak's memory, the slot of the last start (R490), a push and a script under way, whether the bring-up
script has begun and whether it has run with success (R504), restarts after a lockstep divergence (R506), ports with PERST# deasserted as the board
drives it (R480), the size of each port's BAR2, log2 (R457: 64 GiB at reset), and sessions and streams by port (R477, R478). -/
structure Boot where
  slotA : List Byte := []
  slotB : List Byte := []
  bundle : List Byte := []
  lastSlot : Nat := 0
  push : Option Push := none
  script : Option Script := none
  scriptRan : Bool := false
  scriptOk : Bool := false
  restarts : Nat := 0
  perstOff : BitVec 2 := 0
  bar2 : SMap Nat := []
  /-- The lanes each port trained at. -/
  width : SMap Nat := []
  secure : SMap Secure := []
  deriving DecidableEq, Repr

/-- A reset domain (R516). -/
inductive Domain where
  | context (c : Nat)
  | tile (t : Nat)
  | field (f : Nat)
  | port (p : Nat)
  | device
  deriving DecidableEq, Repr

/-- A CONTROL record waiting for the commit point (R473): port and words 0 to 6. -/
structure Rec where
  port : Nat
  words : List (BitVec 64)
  deriving DecidableEq, Repr

/-- A row being restored (R521, R522): field, row, the column lost, whether that tile is dead, and whether the restore has
completed and waits for beat S. -/
structure Restore where
  field : Nat
  row : Nat
  col : Nat
  dead : Bool
  done : Bool := false
  deriving DecidableEq, Repr

/-- An isolation episode (R524): whether it is of free-running launches, the affected or stalled tiles, the suspects still to
run alone, the one running, those that have reproduced, and all of them; each free-running suspect with its port and tag. -/
structure Episode where
  free : Bool := false
  tiles : List Nat
  left : List Nat
  current : Option Nat := none
  guilty : List Nat := []
  all : List Nat
  deriving DecidableEq, Repr

/-! ## The intake scheduler (chapter 9) and the vote (chapter 8) -/

/-- A request read from a ring (R283, R284): its port, its entry number and its 128 bytes. -/
structure Req where
  port : Nat
  num : Nat
  bytes : List Byte
  deriving DecidableEq, Repr

/-- A decode row or chunk of a plan (R296): its number, slot, the state and GEN the plan assumed, positions it advances,
segment counts, and whether it still stands (R301). -/
structure Item where
  chunk : Bool
  idx : Nat
  slot : Nat
  state : Nat
  count : Nat
  segs : Nat := 1
  lastSeg : Bool := true
  lastChunk : Bool := false
  valid : Bool := true
  deriving DecidableEq, Repr

/-- A plan (R291 to R296): PLAN_ID, buffer, variant, shape, items, decode candidates passed over, UPDATE, the contexts whose
copies flip, the switch list of every logical tile, whether it is the empty plan, and whether it stands in a plan buffer (a frame
without a plan runs an empty one that does not). -/
structure Plan where
  id : Nat
  buf : Nat := 0
  var : Nat := 0
  lanes : Nat := 0
  items : List Item := []
  passed : List Nat := []
  update : Bool := false
  flip : W64 := 0
  lists : SMap W64 := []
  empty : Bool := true
  built : Bool := true
  deriving DecidableEq, Repr

/-- A member's planner figures in pJ (R292, R302): the frame they were sent in, fix, lane, chunk, budget. -/
structure Figures where
  member : Nat
  frame : Nat
  fix : Int
  lane : Int
  chunk : Int
  budget : Int
  deriving DecidableEq, Repr

/-- A child's verdict (R446): its link, PASS, lowest cause and members included. -/
structure ChildVote where
  link : Nat
  pass : Bool
  cause : Nat
  members : Nat
  deriving DecidableEq, Repr


/-! ## The device -/

set_option maxRecDepth 2000 in
/-- The device: its registers, memory and tiles, and what else it holds. -/
structure Dev where
  /-- Every BAR0 register, the TILE blocks among them, by BAR0 offset; an unlisted one holds its reset value. -/
  regs : SMap W64 := []
  /-- The bytes of the memory tiers and the scratchpads, by physical address (R40); an unlisted byte reads as 0. -/
  mem : List Host.Cell := []
  tiles : SMap Tile := []
  flits : List Flit := []
  /-- Link directions by 4 × logical tile + outbound port, those from a side switch at 6144 + 4 × logical tile + perimeter port. -/
  linkUse : SMap LinkUse := []
  credits : List Credit := []
  bars : List BarLine := []
  events : List Event := []
  varve : Varve := {}
  /-- MSI-X mask and pending bits (R475), bit 4 × port + vector. Masked at reset (PRESUMED, PCIe; log entry 2). -/
  msixMask : BitVec 8 := 0xFF
  msixPend : BitVec 8 := 0
  /-- CLK.BEAT at beat S of the running frame, for varve word 1 (R532). -/
  frameBeat : Nat := 0
  launches : List Launch := []
  nextLaunch : Nat := 0
  ctxs : SMap (Option CtxInfo) := []
  /-- Stretch requests on the broadcast network, oldest first: origin floe and length (R378). -/
  stretch : List (Nat × Nat) := []
  /-- Stretch beats the edge-ring clock owes (R378). -/
  edgeOwed : Nat := 0
  /-- Fields with a floe whose detector issued a request counted in the running stretch window (R381). -/
  windowFields : List Nat := []
  /-- Operating point and cause of a change decided while a switch is pending (R373). -/
  afterSwitch : Option (Nat × Nat) := none
  /-- A higher point waiting for every field's supply to reach its voltage (R375), with its cause. -/
  raising : Option (Nat × Nat) := none
  /-- The highest code allowed (R408). -/
  ceiling : Nat := 3
  /-- The thermal cap in W (R409). -/
  thermalCap : Nat := 10500
  /-- The clamp sources of R403 beside derating, at 4 × field + source: 0 phase start, 1 field current, 2 module hard
  limit, 3 stretch excess; 96 while a source is not active. -/
  clamps : SMap Nat := []
  /-- Stretch windows under half of LIMIT since the stretch source of a field was applied (R403). -/
  calm : SMap Nat := []
  /-- Feed-forward current of a field's regulators in A (R402). -/
  feedFwd : SMap Nat := []
  /-- Learned figures (R400) at (4 × field + op) × 256 + phase; none while not seen. -/
  learned : SMap (Option Nat) := []
  /-- The pinned table (R401) at op × 256 + phase. -/
  pinned : SMap Nat := []
  /-- Energy of the running frame in pJ (R405). -/
  frameEnergy : Nat := 0
  /-- PWR_KILL_N is asserted and all memory access stopped (R413). -/
  killed : Bool := false
  /-- Whether the 48 V input is present and good (R543, R544). -/
  powered : Bool := false
  /-- Wall time in ns of the estimator windows so far, and the windows above 10,500 W as end time and length (R404). -/
  estNs : Nat := 0
  hot : List (Nat × Nat) := []
  /-- Stacks tripped at 105 °C that wait to cool (R412), and the link engines' lasers switched off at 95 °C (R424). -/
  tripped : List Nat := []
  laserOff : List Nat := []
  /-- The I3C target (R548, R549): dynamic address, selected offset, in-band interrupts enabled, payload pending. -/
  i3cAddr : Option Nat := none
  i3cSel : Nat := 0
  ibiOn : Bool := true
  ibiPend : Option Nat := none
  track : List Track := []
  /-- Retirement orders in the order decided, and decisions waiting for RETIRE_EN (R346, R348). -/
  orders : List Order := []
  held : List Order := []
  /-- What the order of ITG.RETIRE_CMD retires, from its carrying out until it takes effect (R360). -/
  hostRetire : Option Retiree := none
  /-- Wires whose steering waits for its beat (R232). -/
  wirePend : List WireOrder := []
  /-- Link directions to retest in their field's next sweep (R343, class 3). -/
  retest : List (Nat × Nat) := []
  pkgs : SMap (Option Pkg) := []
  /-- The field the next sweep takes, what failed under stress, and whether the sweep had a failure (R357, R358). -/
  sweepNext : Nat := 0
  sweepFails : List Retiree := []
  sweepFailed : Bool := false
  /-- Side band of the lines of both tiers (R308), at line number; KIND NONE and clean when unlisted (log entry 2). -/
  lines : SMap Line := []
  pages : List Page := []
  moves : List Move := []
  nodes : List Node := []
  /-- Frames that have left the pool for good, or until repaired (R318). -/
  outFrames : List Nat := []
  /-- Repairs waiting for a free frame of their tier, in the order decided (R318). -/
  repairs : List Repair := []
  /-- Soft repair resources used, as stack, channel, bank (R318). -/
  softUsed : List (Nat × Nat × Nat) := []
  /-- Retrainings asked for, in arrival order, with EVAC; the first runs, at its stage: 0 evacuation, 1 closing, 2 training. -/
  retrain : List (Nat × Bool) := []
  retrainStage : Nat := 0
  /-- The UCIe attachments as they last trained: 0 to 23 the link engines, 24 and 25 the host bridges (R37, R39). -/
  ucie : SMap Modules := []
  /-- Firn word 0x0082 as bring-up read it: the PCI subsystem identifiers (R456). -/
  subsys : BitVec 32 := 0
  /-- Pages handed over by the intake scheduler for promotion, in order (R299). -/
  handed : List (Nat × Nat) := []
  /-- A page of the owner has been demoted for the first page handed over (R326). -/
  promoRoom : Bool := false
  /-- Pages a plan for the running or the next frame names, as context and page number (R326). -/
  named : List (Nat × Nat) := []
  /-- Ports whose operation waits for the commit point (R322), in the order asked. -/
  opWait : List Nat := []
  copies : List Copy := []
  nextCopy : Nat := 0
  /-- Firn storage and the wear counters by word (R507, R508, R510); they survive every reset. -/
  firn : SMap (BitVec 32) := []
  wear : SMap (BitVec 20) := []
  /-- Firn operations not yet durable, in the order they are carried out (R507). -/
  firnQ : List FirnOp := []
  loading : List Loading := []
  /-- Fences begun and not yet reset, in order (R517). -/
  fences : List Domain := []
  /-- Records waiting for room, oldest first (R474), CONTROL records waiting for the commit (R473), CQ_CONSUMED as last read,
  and the ports for which records were written since their last vector 0 (R475). -/
  backlog : List Rec := []
  ctrlWait : List Rec := []
  cqRead0 : Nat := 0
  cqRead1 : Nat := 0
  wrote : BitVec 2 := 0
  /-- Ports in L0 with PERST# deasserted and no reset under way (R480). -/
  l0 : BitVec 2 := 0
  /-- Rows being restored (R521). -/
  restores : List Restore := []
  /-- The isolation episode under way, the tiles and causes of the escalated plan's own voids (R523, R524), whether the
  running plan has had its episode (R525), and ticks without an issue on a launch's tile (R523) with the issue count seen. -/
  episode : Option Episode := none
  voidCauses : BitVec 16 := 0
  voidTiles : List Nat := []
  hadEpisode : Bool := false
  stalled : SMap (Nat × Nat) := []
  links : SMap LinkSt := []
  /-- The route table (R450), in the layout of RTAB_DATA. -/
  rtab : SMap W64 := []
  /-- Inbound blocks (R442), and class-1 cells that arrived early for a later frame, as link, frame and count (R441). -/
  inBlocks : List InBlock := []
  early1 : List (Nat × Nat × Nat) := []
  /-- Blocks of committed streams written in the running frame (R439): stream and block, once per write. -/
  commitOut : List (Nat × Nat) := []
  /-- Stream register writes waiting for a frame boundary (R454): offset and value. -/
  streamPend : List (Nat × W64) := []
  /-- Copy windows with an inbound copy outstanding, and their writes waiting for its end (R471). -/
  cwinBusy : List Nat := []
  cwinPend : List (Nat × W64) := []
  /-- The parent link, and the candidates heard (R254, R444). -/
  parent : Option Nat := none
  cands : List Cand := []
  /-- Consecutive good seconds of the reference inputs (R547). -/
  ppsGood : Nat := 0
  /-- The owner public key of the running bundle (R486, R488), with which peers' certificates are verified (R429). -/
  ownerPub : BitVec 256 := 0
  /-- Migration runs until LOW_PCT is reached (R326). -/
  demoting : Bool := false
  /-- Stacks in their first or a later training (R331, R497), and first trainings waiting, in order. -/
  training : List Nat := []
  trainWait : List Nat := []
  /-- Registers whose writes take effect later, as of the occasion on which they last did (R139, R303, R481), by offset. -/
  eff : SMap W64 := []
  /-- Schedules whose step count has been written since their context's last frame entry or launch (R141). -/
  schWrote : List Nat := []
  /-- The input deadline of the running frame has passed (R442). -/
  pastInput : Bool := false
  /-- Device causes of the running frame (R265): bit n is cause n. -/
  causes : BitVec 16 := 0
  /-- The vote cutoff has passed, and the frame's own verdict, the children's verdicts by link, the outcome held, and the
  children that have acknowledged it (R265 to R268). -/
  voted : Bool := false
  own : Option Bool := none
  childVotes : List ChildVote := []
  sentUp : Bool := false
  outcome : Option Bool := none
  outAcks : List Nat := []
  /-- Outcomes of the last 64 frames (R269), the frame awaited while pending, and the frames waited. -/
  outcomes : List (Nat × Bool) := []
  awaited : Option Nat := none
  awaitedFor : Nat := 0
  /-- The outcome a pending member has learnt, to apply at the next commit point. -/
  learnt : Option Bool := none
  /-- Whether the member has joined and waits for its first frame (R257). -/
  joining : Bool := false
  /-- Current copies of the contexts (R136). -/
  copyBits : BitVec 64 := 0
  /-- A switch of the frame parameters: the frame it applies from, and the parameters checked when it was written (R260). -/
  switchAt : Option (Nat × W64) := none
  /-- Members of the commit group as the last verdicts counted them (R446), and the link on which the vote tree has been found
  not to match, until VOTE_TREE is written (R266). -/
  groupSize : Nat := 1
  treeBad : Option Nat := none
  /-- The running frame has had its commit point; the next frame replays its plan (R274). -/
  ended : Bool := false
  replay : Bool := false
  /-- The running plan and the one built for the next frame; none runs nothing (R286, R291). -/
  planRun : Option Plan := none
  planNext : Option Plan := none
  /-- Requests read in the running frame (R283), tiles whose window PLAN_WIN passed the last check (R298), tiles that wait for
  their header. -/
  reqs : List Req := []
  hdrOk : List Nat := []
  hdrPend : List Nat := []
  /-- The leader has not built its plan yet (R302); figures received; the parts of the leader's message for a frame, as frame,
  offset and bytes. -/
  planWait : Bool := false
  figures : List Figures := []
  planIn : List (Nat × Nat × List Byte) := []
  /-- The mode of the power controller in force since its last evaluation: floating or pinned (R407). -/
  floatOn : Bool := false
  boot : Boot := {}
  out : List Out := []
  /-- The model's own: how many free values have been drawn (log entry 3). -/
  free : Nat := 0
  deriving DecidableEq, Repr

/-- The machine: the queue of waiting commands, first in, first out, and the device. -/
structure State where
  pending : List Instr
  dev : Dev
  deriving DecidableEq, Repr

/-- The device right after power-good: every register at its reset value and nothing else held. -/
def State.reset : State := { pending := [], dev := {} }

end Sys2Proof.Machine
end

