-- ==== Sys2Proof/Machine/RegMap.lean ====
section
/-! DEFINITION. Every register of BAR0: its offset, reset value, which bits a host may write and how (R19), and who may
write it. Fields whose reset the manual gives as "—" stand at the value of log entry 2. -/

namespace Sys2Proof.Machine

/-- Who may write a register's writable fields. -/
inductive Guard where
  /-- Only the device writes it. -/
  | device
  /-- Either port. -/
  | any
  /-- The steward's port only (R462). -/
  | steward
  /-- The port whose number is the array index. -/
  | port
  /-- The command that writes it applies its own rule of ownership. -/
  | own
  deriving DecidableEq, Repr

/-- A register, or an array of `count` registers `stride` apart. Bits in none of the masks read as zero (R18). -/
structure RegDef where
  base : Nat
  stride : Nat := 8
  count : Nat := 1
  reset : Nat := 0
  ro : Nat := 0
  rw : Nat := 0
  w1c : Nat := 0
  w1s : Nat := 0
  guard : Guard := .device
  deriving DecidableEq, Repr

/-- All 64 bits. -/
def all64 : Nat := 0xFFFFFFFFFFFFFFFF
/-- A mask of bits hi:lo as a number. -/
def mk (hi lo : Nat) : Nat := (2 ^ (hi + 1 - lo) - 1) <<< lo
/-- A read-only counter of 64 bits. -/
def cnt (base : Nat) (count : Nat := 1) (stride : Nat := 8) : RegDef := { base, stride, count, ro := all64 }

/-- TILE block, offsets within the 4 KiB block (chapters 2 to 7, R501). -/
def rowsTile : List RegDef :=
  [ { base := 0x000, stride := 0x20, count := 4, ro := mk 63 63 + mk 53 47 + mk 29 16 + mk 12 0 },   -- CTXn_CS (R79)
    { base := 0x008, stride := 0x20, count := 4, ro := mk 49 32 + mk 16 0 },                          -- CTXn_SP (R80)
    { base := 0x010, stride := 0x20, count := 4, ro := mk 16 0 },                                     -- CTXn_SAVE (R80)
    { base := 0x018, stride := 0x20, count := 4, ro := mk 47 40 + mk 36 24 + mk 23 0 },               -- CTXn_STATE (R81)
    { base := 0x080, ro := mk 31 17 + mk 12 0 },                                                      -- SEQ (R82)
    { base := 0x088, ro := mk 63 61 + mk 59 8 },                                                      -- SWITCH (R83)
    cnt 0x090 9,                                                                                      -- BEAT .. WAIT_FRAME (R84)
    { base := 0x0D8, ro := mk 63 0 },                                                                 -- LOAD (R501)
    { base := 0x100, count := 64, ro := mk 63 62 + mk 55 54 + mk 29 16 + mk 12 0 },                   -- RTk (R85)
    { base := 0x300, ro := mk 63 28 },                                                                -- CUBE_STATE (R116)
    cnt 0x308 2,                                                                                      -- CUBE_MISMATCH, CUBE_ACTIVE
    { base := 0x318, ro := mk 47 32, w1c := mk 63 63, guard := .own },                                -- CAP_STATUS (R119)
    { base := 0x320, ro := mk 13 8 + mk 5 0 },                                                        -- VEC_STATE (R144)
    cnt 0x328,                                                                                        -- VEC_MISMATCH
    { base := 0x330, ro := mk 47 32, w1c := mk 63 63, guard := .own },                                -- LCAP_STATUS (R146)
    cnt 0x338 5,                                                                                      -- LCAP_OP .. LCAP_BEAT (R147)
    { base := 0x360, ro := mk 47 0 },                                                                 -- LCAP_FRAME
    { base := 0x368, ro := mk 31 0 },                                                                 -- RT_PORT (R251)
    { base := 0x370, ro := mk 7 0 },                                                                  -- RT_FWD (R252)
    cnt 0x378 3,                                                                                      -- RT_CORR, RT_DOUBLE, RT_FWDHOLD
    { base := 0x400, stride := 0x10, count := 16, ro := mk 63 57 + mk 55 48 + mk 35 32 + mk 16 0 },   -- WINn_CFG (R179)
    { base := 0x408, stride := 0x10, count := 16, ro := mk 17 0 },                                    -- WINn_BOUND (R180)
    { base := 0x500, reset := 0x10000, rw := mk 23 0, guard := .steward },                            -- SP_CTL (R181)
    cnt 0x508 5,                                                                                      -- SP_CORR .. SP_HOLD (R182)
    { base := 0x530, ro := mk 22 16 + mk 8 0 },                                                       -- SP_REPAIR (R183)
    { base := 0x538, ro := mk 62 54 + mk 51 48 + mk 16 0, w1c := mk 63 63, guard := .own },           -- SHADOW_REC (R184)
    cnt 0x540,                                                                                        -- SHADOW_BEAT
    { base := 0x548, ro := mk 47 0 },                                                                 -- SHADOW_FRAME
    { base := 0x600, count := 64, ro := mk 63 63 + mk 57 45 + mk 39 36 + mk 16 0 },                   -- HDLh (R185)
    cnt 0x800 256 ]                                                                                   -- capture record (R113)

/-- DEV block (R31, R246, R459, R481, R528 to R530, R557). -/
def rowsDev : List RegDef :=
  [ { base := 0x0000, reset := 0xA0071000_00000000, ro := all64 },                                    -- ID (R459), set by RegBoot
    { base := 0x0008, ro := all64 },                                                                  -- SERIAL
    { base := 0x0010, reset := 0x401018101400, ro := mk 48 8 },                                      -- CAP; PORT is the reader's
    { base := 0x0040, ro := mk 63 62 + mk 47 0, w1s := mk 61 59, guard := .own },                     -- STEWARD
    { base := 0x0048, reset := 0x7F00000000, rw := mk 38 32, w1c := mk 6 0, guard := .steward },      -- EVENT
    { base := 0x0100, stride := 0x40, count := 2, rw := mk 63 6, guard := .port },                    -- Pp_REC
    { base := 0x0108, stride := 0x40, count := 2, rw := mk 63 12 + mk 3 0, guard := .port },          -- Pp_CTRL
    { base := 0x0110, stride := 0x40, count := 2, rw := mk 63 12 + mk 4 0, guard := .port },          -- Pp_CQ
    { base := 0x0118, stride := 0x40, count := 2, reset := 50, ro := mk 62 62, rw := mk 9 0, w1c := mk 63 63, guard := .port }, -- Pp_CTL
    { base := 0x0120, stride := 0x40, count := 2, rw := mk 47 30, guard := .port },                   -- Pp_WIN
    { base := 0x0128, stride := 0x40, count := 2, ro := mk 62 0, w1c := mk 63 63, guard := .port },   -- Pp_WINERR
    cnt 0x0130 2 0x40,                                                                                -- Pp_WINCOUNT
    cnt 0x0138 2 0x40,                                                                                -- Pp_CTRL_DONE
    cnt 0x0180 2,                                                                                     -- Pp_CQ_WR
    cnt 0x0190 2,                                                                                     -- Pp_LOST
    { base := 0x0200, stride := 0x10, count := 8, rw := mk 63 63 + mk 57 52 + mk 16 0, guard := .own },  -- CWINw
    { base := 0x0208, stride := 0x10, count := 8, rw := mk 63 16, guard := .own },                    -- CWINw_RANGE
    { base := 0x0300, stride := 0x10, count := 2, ro := mk 63 63, rw := mk 62 60 + mk 10 0, guard := .port }, -- RSTp_CMD
    { base := 0x0308, stride := 0x10, count := 2, ro := mk 15 0 },                                    -- RSTp_STATUS
    { base := 0x0320, reset := 0x8000001000000064, rw := mk 63 63 + mk 39 32 + mk 13 0, guard := .steward }, -- RECOV_CTL
    { base := 0x0400, count := 64, ro := mk 63 58 + mk 47 40 + mk 10 0 },                             -- CTXc (R530)
    { base := 0x1000, count := 16, reset := 0xFCFCFCFCFCFCFCFC, ro := all64 },                        -- ROWMAPn (R31)
    { base := 0x1080, count := 12, ro := mk 7 0 },                                                    -- HSEAMh (R247)
    { base := 0x10E0, count := 12, reset := 12, ro := mk 28 16 + mk 3 0 },                            -- VSEAMv
    { base := 0x1200, reset := 0x70001, ro := all64 },                                                -- TMAN_ID (R245)
    { base := 0x1208, reset := 0x0000200C10080301, ro := mk 47 0 },                                   -- TMAN_NET (R248)
    { base := 0x1400, count := 16, reset := 0xC0C000000, ro := mk 38 32 + mk 30 24 + mk 22 16 + mk 14 8 + mk 4 0 }, -- AVLf
    { base := 0x1500, stride := 0x10, count := 16, ro := 0x1FFF1FFF1FFF1FFF },                        -- ABSENTn_LO (R557)
    { base := 0x1508, stride := 0x10, count := 16, ro := 0x1FFF1FFF1FFF1FFF } ]                       -- ABSENTn_HI

/-- CAD block (R140 to R142, R276 to R279), offsets within the block. -/
def rowsCad : List RegDef :=
  [ { base := 0x0000, reset := 0x00FA0000, rw := mk 31 16 + mk 8 8 + mk 3 0, guard := .steward },     -- TB_CTL
    { base := 0x0008, ro := mk 48 24 + mk 2 0 },                                                      -- TB_STATUS
    cnt 0x0010,                                                                                       -- TB_TIME
    { base := 0x0018, ro := mk 63 63, rw := mk 33 0, guard := .own },                                 -- TB_SET (R277)
    { base := 0x0040, rw := mk 63 63 + mk 47 32 + mk 15 0, guard := .steward },                       -- GRP
    { base := 0x0048, ro := mk 55 0 },                                                                -- FRAME_CFG
    { base := 0x0050, rw := mk 55 0, guard := .steward },                                             -- FRAME_NEXT
    { base := 0x0058, rw := mk 47 0, guard := .own },                                                 -- FRAME_SWITCH
    { base := 0x0060, rw := all64, guard := .own },                                                   -- FRAME_EPOCH
    { base := 0x0068, rw := mk 47 0, guard := .own },                                                 -- FRAME_BASE
    { base := 0x0070, ro := mk 63 63 + mk 47 0 },                                                     -- FRAME_NOW
    { base := 0x0080, reset := 0x1F00000000, rw := mk 63 63 + mk 36 32 + mk 23 0, guard := .steward },-- VOTE_TREE
    cnt 0x0088,                                                                                       -- VOTE_RTT
    { base := 0x0090, ro := mk 63 63 + mk 55 0 },                                                     -- COMMITTED
    { base := 0x0098, ro := mk 51 0 },                                                                -- VOID_LAST
    cnt 0x00A0, cnt 0x00A8,                                                                           -- VOID_COUNT, DROP
    cnt 0x0100 24,                                                                                    -- INPUTk
    { base := 0x8000, stride := 0x40, count := 8, rw := mk 63 63 + mk 53 48 + mk 35 32, guard := .own }, -- SCHn_CTL
    { base := 0x8008, stride := 0x40, count := 8, rw := all64, guard := .own },                       -- SCHn_RATE
    { base := 0x8010, stride := 0x40, count := 8, rw := all64, guard := .own },                       -- SCHn_LEN
    { base := 0x8018, stride := 0x40, count := 8, rw := mk 31 0, guard := .own },                     -- SCHn_STEP
    cnt 0x8020 8 0x40 ]                                                                               -- SCHn_OUT

/-- VRV block (R537). -/
def rowsVrv : List RegDef :=
  [ { base := 0x0000, rw := mk 63 63, guard := .own },                                                -- CTL
    { base := 0x0008, rw := mk 47 22, guard := .steward },                                            -- BASE
    cnt 0x0010,                                                                                       -- WR
    { base := 0x0018, rw := all64, guard := .own },                                                   -- RD
    { base := 0x0020, w1c := mk 2 0, guard := .steward },                                             -- STATUS
    cnt 0x0100 64, cnt 0x0300 64 ]                                                                    -- EVc, DROPc
/-- FIRN block (R512); the words and their wear are kept beside the registers. -/
def rowsFirn : List RegDef :=
  [ { base := 0x0000, ro := mk 63 63, rw := mk 62 60 + mk 13 0, guard := .steward },                  -- CMD
    { base := 0x0008, rw := mk 31 0, guard := .steward },                                             -- DATA
    { base := 0x0010, ro := mk 15 0 },                                                                -- STATUS
    { base := 0x0100, count := 4, rw := all64, guard := .steward },                                   -- AUTH_PUB
    { base := 0x0120, count := 8, rw := all64, guard := .steward },                                   -- AUTH_SIG
    { base := 0x0160, count := 8, rw := all64, guard := .steward } ]                                  -- NEWHASH

/-- BOOT block (R500, R506). -/
def rowsBoot : List RegDef :=
  [ { base := 0x0000, ro := mk 53 0 },                                                                -- READY0
    { base := 0x0008, ro := mk 63 63 + mk 25 0 },                                                     -- READY1
    { base := 0x0010, ro := mk 53 0 },                                                                -- FAILED0
    { base := 0x0018, ro := mk 25 0 },                                                                -- FAILED1
    { base := 0x0020, reset := 1 <<< 56, ro := mk 63 56 + mk 31 0 },                                  -- STATUS
    cnt 0x0028 3,                                                                                     -- FIELD_CAUSE, T_FIRST, T_DONE
    { base := 0x0100, rw := mk 61 61, w1s := mk 63 62, guard := .steward },                           -- PUSH_CTL
    { base := 0x0108, guard := .steward },                                                            -- PUSH_DATA reads as zero
    { base := 0x0110, ro := mk 63 63 + mk 15 0 },                                                     -- PUSH_STATUS
    { base := 0x0200, rw := mk 63 6, guard := .steward },                                             -- SCRIPT_ADDR
    { base := 0x0208, rw := all64, guard := .steward },                                               -- SCRIPT_OUT
    { base := 0x0210, ro := mk 63 63, guard := .steward },                                            -- SCRIPT_CMD
    { base := 0x0218, ro := all64 } ]                                                                 -- SCRIPT_STATUS

/-- CLK block (R384 to R388). -/
def rowsClk : List RegDef :=
  [ { base := 0x0000, reset := 2, ro := mk 63 62 + mk 52 48 + mk 1 0 },                               -- STATUS
    { base := 0x0008, reset := 30 <<< 40 ||| 64 <<< 16, rw := mk 47 40 + mk 24 16, guard := .steward }, -- CTL
    cnt 0x0010,                                                                                       -- BEAT
    { base := 0x0018, ro := mk 63 63 + mk 9 8 + mk 1 0 },                                             -- SWITCH
    cnt 0x0020,                                                                                       -- SWITCH_BEAT
    { base := 0x0028, ro := mk 47 32 + mk 15 0 },                                                     -- WINDOW
    { base := 0x0100, count := 64, reset := 2 <<< 61, ro := mk 63 61 + mk 57 52 + mk 40 0 },          -- FLOEk
    cnt 0x0300 5 ]                                                                                    -- STRETCH_BEATS .. OSC_FAIL

/-- INT block (R303 to R305). -/
def rowsInt : List RegDef :=
  [ { base := 0x0000, reset := 0x14 <<< 32, rw := mk 63 60 + mk 41 32 + mk 24 8, guard := .steward },  -- CTL
    { base := 0x0008, rw := mk 47 24, guard := .steward },                                            -- TABLE
    { base := 0x0010, reset := 0x8000, rw := mk 16 0, guard := .steward },                            -- SLOTS
    { base := 0x0018, rw := mk 47 9, guard := .steward },                                             -- JOB
    { base := 0x0020, rw := all64, guard := .steward },                                               -- JOB_CTX
    { base := 0x0028, ro := mk 47 32, rw := mk 15 0, guard := .steward },                             -- TRAIN
    { base := 0x0030, rw := all64, guard := .steward },                                               -- FLIP_CTX
    { base := 0x0038, rw := mk 31 0, guard := .steward },                                             -- ENERGY
    { base := 0x0040, stride := 0x10, count := 2, rw := mk 63 6, guard := .port },                    -- PUBp
    { base := 0x0048, stride := 0x10, count := 2, rw := mk 63 12 + mk 4 0, guard := .port },          -- RINGp
    cnt 0x0060 2,                                                                                     -- CONSUMEDp
    { base := 0x0080, ro := mk 47 0 },                                                                -- PLAN_ID
    { base := 0x0088, ro := mk 57 25 },                                                               -- PLAN_SHAPE
    cnt 0x0090 8,                                                                                     -- PLAN_E .. EMPTY_PLANS
    { base := 0x0100, count := 8, reset := 0x100000000, rw := mk 39 32 + mk 19 0, guard := .steward },-- CLASSn
    cnt 0x0140 8,                                                                                     -- MISSn
    { base := 0x0200, stride := 0x20, count := 4, rw := all64, guard := .steward },                   -- VARv_CAP
    { base := 0x0208, stride := 0x20, count := 4, rw := mk 63 63 + mk 7 0, guard := .steward },       -- VARv_CFG
    { base := 0x0210, stride := 0x20, count := 4, rw := mk 47 12, guard := .steward },                -- VARv_TPL
    { base := 0x0400, count := 64, rw := mk 63 59 + mk 39 0, guard := .steward } ]                    -- COSTi

/-- THRk: N and W_S as R343 gives them for class k. -/
def thr (k n w : Nat) : RegDef := { base := 0x40 + 8 * k, reset := n <<< 32 ||| w, rw := mk 35 0, guard := .steward }

/-- ITG block (R359 to R363). -/
def rowsItg : List RegDef :=
  [ { base := 0x0000, w1c := mk 8 0, guard := .steward },                                             -- STATUS
    { base := 0x0008, reset := 3 <<< 62, rw := mk 63 62, guard := .steward },                         -- CTL
    cnt 0x0010,                                                                                       -- CLOCK
    thr 0 3 86400, thr 1 1 86400, thr 2 3 86400, thr 3 2 86400, thr 4 2 3600, thr 5 2 3600, thr 6 4 86400,
    thr 7 1 86400, thr 8 4 86400, thr 9 1 86400, thr 10 2 3600, thr 11 1 86400, thr 12 2 259200,
    { base := 0x00C0, ro := mk 63 63, rw := mk 62 60 + mk 47 0, guard := .steward },                  -- RETIRE_CMD
    { base := 0x00C8, ro := mk 15 0 },                                                                -- RETIRE_STATUS
    { base := 0x0100, rw := mk 47 12 + mk 4 0, guard := .steward },                                   -- CAPRING
    cnt 0x0108,                                                                                       -- CAP_WR
    { base := 0x0110, rw := all64, guard := .steward },                                               -- CAP_RD
    { base := 0x0200, reset := 1 <<< 63 ||| 95 <<< 40 ||| 24 <<< 16, rw := mk 63 63 + mk 47 40 + mk 31 16, guard := .steward }, -- SWEEP_CTL
    { base := 0x0208, ro := mk 47 34 },                                                               -- SWEEP_STATUS
    { base := 0x0300, rw := mk 47 30, guard := .steward },                                            -- PKG_BASE
    { base := 0x0308, ro := mk 63 63, rw := mk 62 60 + mk 7 0, guard := .steward },                   -- PKG_CMD
    { base := 0x0310, ro := mk 15 0 },                                                                -- PKG_STATUS
    cnt 0x0400 16,                                                                                    -- PKGn
    cnt 0x0500 9 ]                                                                                    -- EVENTS .. TEST_FAIL

/-- LNK block (R450 to R454). -/
def rowsLnk : List RegDef :=
  [ { base := 0x0000, ro := mk 63 63, rw := mk 16 0, guard := .steward },                             -- DEVID
    { base := 0x0008, rw := mk 63 63 + mk 20 16 + mk 11 0, guard := .steward },                       -- ROUTE
    { base := 0x0010, rw := mk 11 0, guard := .steward },                                             -- RTAB_IDX
    { base := 0x0018, rw := mk 63 63 + mk 21 0, guard := .steward },                                  -- RTAB_DATA
    { base := 0x0020, reset := 2048 <<< 48 ||| 4096 <<< 32 ||| 8192 <<< 16 ||| 1024, rw := all64, guard := .steward }, -- POOLCAP
    { base := 0x0028, ro := all64 },                                                                  -- POOLUSE
    cnt 0x0100 4,                                                                                     -- FORWARDED .. STEERED
    { base := 0x1000, stride := 0x40, count := 24, reset := 1 <<< 63, rw := mk 63 63 + mk 61 61 + mk 15 0, guard := .steward }, -- Lk_CTL
    { base := 0x1008, stride := 0x40, count := 24, ro := mk 63 56 + mk 49 28 + mk 15 0 },             -- Lk_STATUS
    { base := 0x1010, stride := 0x40, count := 24, ro := mk 33 0 },                                   -- Lk_LANES
    { base := 0x1018, stride := 0x40, count := 24, ro := mk 31 0 },                                   -- Lk_DELAY
    cnt 0x1020 24 0x40, cnt 0x1028 24 0x40, cnt 0x1030 24 0x40, cnt 0x1038 24 0x40,                   -- counters of a link
    { base := 0x2000, stride := 0x10, count := 64, reset := 1 <<< 53, rw := mk 63 47 + mk 16 0, guard := .own }, -- OSTRs_CFG
    { base := 0x2008, stride := 0x10, count := 64, rw := mk 63 58 + mk 47 0, guard := .own },         -- OSTRs_SRC
    { base := 0x2400, stride := 0x10, count := 64, reset := 1 <<< 53, rw := mk 63 32 + mk 16 0, guard := .own }, -- ISTRs_CFG
    { base := 0x2408, stride := 0x10, count := 64, rw := mk 63 58 + mk 47 0, guard := .own } ]        -- ISTRs_DST

/-- MEM block (R333 to R338). -/
def rowsMem : List RegDef :=
  [ { base := 0x0000, reset := 1 <<< 62 ||| 90 <<< 48 ||| 85 <<< 40 ||| 24 <<< 32, ro := mk 63 63,
      rw := mk 62 62 + mk 55 32, guard := .steward },                                                 -- CTL
    { base := 0x0008, rw := mk 63 21, guard := .steward },                                            -- PT_POOL
    { base := 0x0010, count := 8, rw := mk 63 21, guard := .steward },                                -- RESVn
    { base := 0x0050, reset := 1 <<< 62, ro := mk 61 61, rw := mk 62 62 + mk 5 0, guard := .steward },-- RETRAIN
    cnt 0x0058,                                                                                       -- TICK
    { base := 0x0080, count := 36, reset := 4 <<< 61, ro := mk 63 48 + mk 45 24 + mk 21 0 },          -- STACKs
    cnt 0x0200 7,                                                                                     -- CORR .. QUOTA_HIT
    { base := 0x0400, count := 64, reset := all64, rw := all64, guard := .steward },                  -- QCTXc
    cnt 0x0600 64,                                                                                    -- UCTXc
    { base := 0x0800, count := 8, reset := all64, rw := all64, guard := .steward },                   -- QCLSn
    cnt 0x0840 8,                                                                                     -- UCLSn
    { base := 0x0A00, count := 64, rw := mk 63 30, guard := .own },                                   -- KVARc
    { base := 0x0C00, count := 64, ro := mk 63 63 + mk 47 8 },                                        -- PTROOTc
    { base := 0x0E00, stride := 0x20, count := 2, ro := mk 63 63, rw := mk 62 56 + mk 53 16 + mk 5 0, guard := .port }, -- OPp_CMD
    { base := 0x0E08, stride := 0x20, count := 2, rw := mk 47 16, guard := .port },                   -- OPp_ARG
    { base := 0x0E10, stride := 0x20, count := 2, ro := mk 63 63 + mk 15 0 } ]                        -- OPp_STATUS

/-- PWR block (R414 to R421). -/
def rowsPwr : List RegDef :=
  [ { base := 0x0000, reset := 0x64400000 <<< 24 ||| 100 <<< 16 ||| 100 <<< 8, ro := mk 15 8,
      rw := mk 63 63 + mk 55 44 + mk 31 16, w1s := mk 62 62, guard := .steward },                     -- CTL
    { base := 0x0008, reset := 10500 <<< 16 ||| 10500, ro := mk 31 16, rw := mk 15 0, guard := .steward }, -- CAP_W
    { base := 0x0010, w1c := mk 11 0, guard := .steward },                                            -- STATUS
    { base := 0x0018, ro := mk 63 32 + mk 15 0 },                                                     -- EST
    { base := 0x0020, ro := mk 63 63 + mk 15 0, rw := mk 62 60 + mk 19 16, guard := .steward },       -- FIELD_CMD
    { base := 0x0040, reset := 2500 <<< 32 ||| 620, ro := mk 47 32 + mk 15 0 },                       -- OP0 (R390, R417)
    { base := 0x0048, reset := 2850 <<< 32 ||| 660, ro := mk 47 32 + mk 15 0 },
    { base := 0x0050, reset := 3400 <<< 32 ||| 720, ro := mk 47 32 + mk 15 0 },
    { base := 0x0058, reset := 4400 <<< 32 ||| 820, ro := mk 47 32 + mk 15 0 },
    { base := 0x0100, count := 16, reset := 96 <<< 41 ||| 792 <<< 28, ro := mk 63 56 + mk 47 41 + mk 39 28 + mk 23 0 }, -- FIELDf
    { base := 0x0180, count := 16, ro := mk 47 0 },                                                   -- PHMAPf
    { base := 0x0200, count := 16, reset := all64, ro := all64 },                                     -- TEMPf (R419)
    { base := 0x0280, count := 5, reset := all64, ro := all64 },                                      -- MTEMPg
    { base := 0x0300, rw := mk 63 63 + mk 17 12 + mk 7 0, guard := .steward },                        -- ETAB_IDX
    { base := 0x0308, ro := mk 63 63, rw := mk 31 0, guard := .steward },                             -- ETAB_DATA
    cnt 0x0400 6 ]                                                                                    -- CLAMPS .. OVERCAP


/-- The row of a table that holds an offset. -/
def findRow : List RegDef → Nat → Option RegDef
  | [], _ => none
  | r :: rs, o =>
    if r.base ≤ o && (o - r.base) % r.stride == 0 && (o - r.base) / r.stride < r.count then some r else findRow rs o

/-- The table and the offset within its block of a BAR0 offset (R457). -/
def regRow (off : Nat) : Option RegDef :=
  if off % 8 ≠ 0 then none
  else if off ≥ 0x1000000 then
    (if (off - 0x1000000) / 0x1000 < 1664 then findRow rowsTile ((off - 0x1000000) % 0x1000) else none)
  else match off / 0x100000 with
    | 0 => findRow rowsDev off
    | 1 => findRow rowsCad (off % 0x100000)
    | 2 => findRow rowsInt (off % 0x100000)
    | 3 => findRow rowsPwr (off % 0x100000)
    | 4 => findRow rowsMem (off % 0x100000)
    | 5 => findRow rowsLnk (off % 0x100000)
    | 6 => findRow rowsItg (off % 0x100000)
    | 8 => findRow rowsFirn (off % 0x100000)
    | 9 => findRow rowsBoot (off % 0x100000)
    | 10 => findRow rowsClk (off % 0x100000)
    | 7 => findRow rowsVrv (off % 0x100000)
    | _ => none

/-- What port block n's manifest register holds (R249). -/
def tmanPb (n : Nat) : Nat :=
  (pbLat n).2 * 2 ^ 24 + (pbLat n).1 * 2 ^ 16 + (homes n).2 * 2 ^ 8 + (homes n).1

/-- The reset value of the register at a BAR0 offset. -/
def regReset (off : Nat) : W64 :=
  if 0x1240 ≤ off ∧ off < 0x1240 + 8 * 36 then w64 (tmanPb ((off - 0x1240) / 8))
  else match regRow off with
    | some r => w64 r.reset
    | none => 0

/-- The bits of a register that exist; all others read as zero (R18). -/
def regImpl (off : Nat) : W64 :=
  if 0x1240 ≤ off ∧ off < 0x1240 + 8 * 36 then w64 all64
  else match regRow off with
    | some r => w64 (r.ro ||| r.rw ||| r.w1c)
    | none => 0

/-! ## Names of the registers the operations use -/

namespace Reg
/-- Offset of a tile's register (R28). The array indices of a tile are those the manual gives it: 4 context slots, 64 routines, 16
windows, 64 handles. -/
def tile (t off : Nat) : Nat := 0x1000000 + 0x1000 * t + off
def CS (n : Nat) : Nat := 0x20 * (n % 4)
def SP (n : Nat) : Nat := 0x20 * (n % 4) + 0x08
def SAVE (n : Nat) : Nat := 0x20 * (n % 4) + 0x10
def CTXSTATE (n : Nat) : Nat := 0x20 * (n % 4) + 0x18
def SEQ : Nat := 0x80
def SWITCH : Nat := 0x88
def BEAT : Nat := 0x90
def ISSUE : Nat := 0x98
def STALL_BANK : Nat := 0xA0
def STALL_WARM : Nat := 0xA8
def STALL_ROUTE : Nat := 0xB0
def STALL_MOVE : Nat := 0xB8
def WAIT_TAG : Nat := 0xC0
def WAIT_BAR : Nat := 0xC8
def WAIT_FRAME : Nat := 0xD0
def TLOAD : Nat := 0xD8
def RT (k : Nat) : Nat := 0x100 + 8 * (k % 64)
def CUBE_STATE : Nat := 0x300
def CUBE_MISMATCH : Nat := 0x308
def CUBE_ACTIVE : Nat := 0x310
def CAP_STATUS : Nat := 0x318
def VEC_STATE : Nat := 0x320
def VEC_MISMATCH : Nat := 0x328
def LCAP_STATUS : Nat := 0x330
def LCAP (i : Nat) : Nat := 0x338 + 8 * (i % 5)
def RT_PORT : Nat := 0x368
def RT_FWD : Nat := 0x370
def RT_CORR : Nat := 0x378
def RT_DOUBLE : Nat := 0x380
def RT_FWDHOLD : Nat := 0x388
def WIN (n : Nat) : Nat := 0x400 + 0x10 * (n % 16)
def WINB (n : Nat) : Nat := 0x408 + 0x10 * (n % 16)
def SP_CTL : Nat := 0x500
def SP_CORR : Nat := 0x508
def SP_DOUBLE : Nat := 0x510
def SP_SHADOW : Nat := 0x518
def SP_WINREFUSE : Nat := 0x520
def SP_HOLD : Nat := 0x528
def SP_REPAIR : Nat := 0x530
def SHADOW_REC : Nat := 0x538
def SHADOW_BEAT : Nat := 0x540
def SHADOW_FRAME : Nat := 0x548
def HDL (h : Nat) : Nat := 0x600 + 8 * (h % 64)
-- DEV
def STEWARD : Nat := 0x40
def EVENT : Nat := 0x48
def P_REC (p : Nat) : Nat := 0x100 + 0x40 * (p % 2)
def P_CTRL (p : Nat) : Nat := 0x108 + 0x40 * (p % 2)
def P_CQ (p : Nat) : Nat := 0x110 + 0x40 * (p % 2)
def P_CTL (p : Nat) : Nat := 0x118 + 0x40 * (p % 2)
def P_WIN (p : Nat) : Nat := 0x120 + 0x40 * (p % 2)
def P_WINERR (p : Nat) : Nat := 0x128 + 0x40 * (p % 2)
def P_WINCOUNT (p : Nat) : Nat := 0x130 + 0x40 * (p % 2)
def P_CTRL_DONE (p : Nat) : Nat := 0x138 + 0x40 * (p % 2)
def P_CQ_WR (p : Nat) : Nat := 0x180 + 8 * (p % 2)
def P_LOST (p : Nat) : Nat := 0x190 + 8 * (p % 2)
def CWIN (w : Nat) : Nat := 0x200 + 0x10 * (w % 8)
def CWINR (w : Nat) : Nat := 0x208 + 0x10 * (w % 8)
def RST_CMD (p : Nat) : Nat := 0x300 + 0x10 * (p % 2)
def RST_STATUS (p : Nat) : Nat := 0x308 + 0x10 * (p % 2)
def RECOV_CTL : Nat := 0x320
def CTX (c : Nat) : Nat := 0x400 + 8 * (c % 64)
def ROWMAP (f : Nat) : Nat := 0x1000 + 8 * (f % 16)
def HSEAM (h : Nat) : Nat := 0x1080 + 8 * (h % 12)
def VSEAM (v : Nat) : Nat := 0x10E0 + 8 * (v % 12)
def TMAN_ID : Nat := 0x1200
def AVL (f : Nat) : Nat := 0x1400 + 8 * (f % 16)
def ABSENT (f r : Nat) : Nat := 0x1500 + 0x10 * (f % 16) + 8 * (r % 8 / 4)
-- CAD
def TB_CTL : Nat := 0x100000
def TB_STATUS : Nat := 0x100008
def TB_TIME : Nat := 0x100010
def TB_SET : Nat := 0x100018
def GRP : Nat := 0x100040
def FRAME_CFG : Nat := 0x100048
def FRAME_NEXT : Nat := 0x100050
def FRAME_SWITCH : Nat := 0x100058
def FRAME_EPOCH : Nat := 0x100060
def FRAME_BASE : Nat := 0x100068
def FRAME_NOW : Nat := 0x100070
def VOTE_TREE : Nat := 0x100080
def VOTE_RTT : Nat := 0x100088
def COMMITTED : Nat := 0x100090
def VOID_LAST : Nat := 0x100098
def VOID_COUNT : Nat := 0x1000A0
def DROP : Nat := 0x1000A8
def INPUT (k : Nat) : Nat := 0x100100 + 8 * (k % 24)
def SCH_CTL (n : Nat) : Nat := 0x108000 + 0x40 * (n % 8)
def SCH_RATE (n : Nat) : Nat := 0x108008 + 0x40 * (n % 8)
def SCH_LEN (n : Nat) : Nat := 0x108010 + 0x40 * (n % 8)
def SCH_STEP (n : Nat) : Nat := 0x108018 + 0x40 * (n % 8)
def SCH_OUT (n : Nat) : Nat := 0x108020 + 0x40 * (n % 8)
-- VRV
def VRV_CTL : Nat := 0x700000
def VRV_BASE : Nat := 0x700008
def VRV_WR : Nat := 0x700010
def VRV_RD : Nat := 0x700018
def VRV_STATUS : Nat := 0x700020
def VRV_EV (c : Nat) : Nat := 0x700100 + 8 * (c % 64)
def VRV_DROP (c : Nat) : Nat := 0x700300 + 8 * (c % 64)
-- registers of later blocks that earlier operations read
def ITG_CLOCK : Nat := 0x600010
def CLK_STATUS : Nat := 0xA00000
def CLK_BEAT : Nat := 0xA00010
def MEM_TICK : Nat := 0x400058
def DEV_ID : Nat := 0x0
def SERIAL : Nat := 0x8
def CAP : Nat := 0x10
-- INT
def INT_CTL : Nat := 0x200000
def INT_TABLE : Nat := 0x200008
def INT_SLOTS : Nat := 0x200010
def INT_JOB : Nat := 0x200018
def INT_JOB_CTX : Nat := 0x200020
def INT_TRAIN : Nat := 0x200028
def INT_FLIP_CTX : Nat := 0x200030
def INT_ENERGY : Nat := 0x200038
def PLAN_ID : Nat := 0x200080
def PLAN_SHAPE : Nat := 0x200088
def PLAN_E : Nat := 0x200090
def SHED_CHUNKS : Nat := 0x200098
def SHED_LANES : Nat := 0x2000A0
def REFUSED : Nat := 0x2000A8
def NOPAGE : Nat := 0x2000B0
def LATE : Nat := 0x2000B8
def NOTOKEN : Nat := 0x2000C0
def EMPTY_PLANS : Nat := 0x2000C8
def PUB (p : Nat) : Nat := 0x200040 + 0x10 * (p % 2)
def RING (p : Nat) : Nat := 0x200048 + 0x10 * (p % 2)
def CONSUMED (p : Nat) : Nat := 0x200060 + 0x8 * (p % 2)
def CLASS (n : Nat) : Nat := 0x200100 + 0x8 * (n % 8)
def MISS (n : Nat) : Nat := 0x200140 + 0x8 * (n % 8)
def VAR_CAP (v : Nat) : Nat := 0x200200 + 0x20 * (v % 4)
def VAR_CFG (v : Nat) : Nat := 0x200208 + 0x20 * (v % 4)
def VAR_TPL (v : Nat) : Nat := 0x200210 + 0x20 * (v % 4)
def COST (i : Nat) : Nat := 0x200400 + 0x8 * (i % 64)
-- PWR
def PWR_CTL : Nat := 0x300000
def CAP_W : Nat := 0x300008
def PWR_STATUS : Nat := 0x300010
def EST : Nat := 0x300018
def FIELD_CMD : Nat := 0x300020
def ETAB_IDX : Nat := 0x300300
def ETAB_DATA : Nat := 0x300308
def CLAMPS : Nat := 0x300400
def DEFERS : Nat := 0x300408
def SHORTS : Nat := 0x300410
def TRIPS : Nat := 0x300418
def THERM_STEPS : Nat := 0x300420
def OVERCAP : Nat := 0x300428
def OP (n : Nat) : Nat := 0x300040 + 0x8 * (n % 4)
def FIELD (f : Nat) : Nat := 0x300100 + 0x8 * (f % 16)
def PHMAP (f : Nat) : Nat := 0x300180 + 0x8 * (f % 16)
def TEMP (f : Nat) : Nat := 0x300200 + 0x8 * (f % 16)
def MTEMP (g : Nat) : Nat := 0x300280 + 0x8 * (g % 5)
-- MEM (MEM_TICK above)
def MEM_CTL : Nat := 0x400000
def PT_POOL : Nat := 0x400008
def RETRAIN : Nat := 0x400050
def MEM_CORR : Nat := 0x400200
def MEM_UNCORR : Nat := 0x400208
def CV_FAIL : Nat := 0x400210
def CV_UNCHECKED : Nat := 0x400218
def PROMOTED : Nat := 0x400220
def DEMOTED : Nat := 0x400228
def QUOTA_HIT : Nat := 0x400230
def RESV (n : Nat) : Nat := 0x400010 + 0x8 * (n % 8)
def STACK (s : Nat) : Nat := 0x400080 + 0x8 * (s % 36)
def QCTX (c : Nat) : Nat := 0x400400 + 0x8 * (c % 64)
def UCTX (c : Nat) : Nat := 0x400600 + 0x8 * (c % 64)
def QCLS (n : Nat) : Nat := 0x400800 + 0x8 * (n % 8)
def UCLS (n : Nat) : Nat := 0x400840 + 0x8 * (n % 8)
def KVAR (c : Nat) : Nat := 0x400A00 + 0x8 * (c % 64)
def PTROOT (c : Nat) : Nat := 0x400C00 + 0x8 * (c % 64)
def OP_CMD (p : Nat) : Nat := 0x400E00 + 0x20 * (p % 2)
def OP_ARG (p : Nat) : Nat := 0x400E08 + 0x20 * (p % 2)
def OP_STATUS (p : Nat) : Nat := 0x400E10 + 0x20 * (p % 2)
-- LNK
def DEVID : Nat := 0x500000
def ROUTE : Nat := 0x500008
def RTAB_IDX : Nat := 0x500010
def RTAB_DATA : Nat := 0x500018
def POOLCAP : Nat := 0x500020
def POOLUSE : Nat := 0x500028
def FORWARDED : Nat := 0x500100
def DISCARD : Nat := 0x500108
def AUTHFAIL : Nat := 0x500110
def STEERED : Nat := 0x500118
def L_CTL (k : Nat) : Nat := 0x501000 + 0x40 * (k % 24)
def L_STATUS (k : Nat) : Nat := 0x501008 + 0x40 * (k % 24)
def L_LANES (k : Nat) : Nat := 0x501010 + 0x40 * (k % 24)
def L_DELAY (k : Nat) : Nat := 0x501018 + 0x40 * (k % 24)
def FEC_CORR (k : Nat) : Nat := 0x501020 + 0x40 * (k % 24)
def FEC_UNCORR (k : Nat) : Nat := 0x501028 + 0x40 * (k % 24)
def RESENT (k : Nat) : Nat := 0x501030 + 0x40 * (k % 24)
def ATTEMPTS (k : Nat) : Nat := 0x501038 + 0x40 * (k % 24)
def OSTR_CFG (s : Nat) : Nat := 0x502000 + 0x10 * (s % 64)
def OSTR_SRC (s : Nat) : Nat := 0x502008 + 0x10 * (s % 64)
def ISTR_CFG (s : Nat) : Nat := 0x502400 + 0x10 * (s % 64)
def ISTR_DST (s : Nat) : Nat := 0x502408 + 0x10 * (s % 64)
-- ITG (ITG_CLOCK above)
def ITG_STATUS : Nat := 0x600000
def ITG_CTL : Nat := 0x600008
def RETIRE_CMD : Nat := 0x6000C0
def RETIRE_STATUS : Nat := 0x6000C8
def CAPRING : Nat := 0x600100
def CAP_WR : Nat := 0x600108
def CAP_RD : Nat := 0x600110
def SWEEP_CTL : Nat := 0x600200
def SWEEP_STATUS : Nat := 0x600208
def PKG_BASE : Nat := 0x600300
def PKG_CMD : Nat := 0x600308
def PKG_STATUS : Nat := 0x600310
def EVENTS : Nat := 0x600500
def LASTING : Nat := 0x600508
def RETIRED : Nat := 0x600510
def TRACK_EVICT : Nat := 0x600518
def SWEEPS : Nat := 0x600520
def SWEEP_FAIL : Nat := 0x600528
def SWEEP_LATE : Nat := 0x600530
def TEST_RUNS : Nat := 0x600538
def TEST_FAIL : Nat := 0x600540
def THR (k : Nat) : Nat := 0x600040 + 0x8 * (k % 13)
def PKG (n : Nat) : Nat := 0x600400 + 0x8 * (n % 16)
-- FIRN
def FIRN_CMD : Nat := 0x800000
def FIRN_DATA : Nat := 0x800008
def FIRN_STATUS : Nat := 0x800010
def AUTH_PUB (i : Nat) : Nat := 0x800100 + 0x8 * (i % 4)
def AUTH_SIG (i : Nat) : Nat := 0x800120 + 0x8 * (i % 8)
def NEWHASH (i : Nat) : Nat := 0x800160 + 0x8 * (i % 8)
-- BOOT
def READY0 : Nat := 0x900000
def READY1 : Nat := 0x900008
def FAILED0 : Nat := 0x900010
def FAILED1 : Nat := 0x900018
def BOOT_STATUS : Nat := 0x900020
def FIELD_CAUSE : Nat := 0x900028
def T_FIRST : Nat := 0x900030
def T_DONE : Nat := 0x900038
def PUSH_CTL : Nat := 0x900100
def PUSH_DATA : Nat := 0x900108
def PUSH_STATUS : Nat := 0x900110
def SCRIPT_ADDR : Nat := 0x900200
def SCRIPT_OUT : Nat := 0x900208
def SCRIPT_CMD : Nat := 0x900210
def SCRIPT_STATUS : Nat := 0x900218
-- CLK (CLK_STATUS, CLK_BEAT above)
def CLK_CTL : Nat := 0xA00008
def CLK_SWITCH : Nat := 0xA00018
def SWITCH_BEAT : Nat := 0xA00020
def CLK_WINDOW : Nat := 0xA00028
def STRETCH_BEATS : Nat := 0xA00300
def STRETCH_EVENTS : Nat := 0xA00308
def STEPDOWNS : Nat := 0xA00310
def SLIP : Nat := 0xA00318
def OSC_FAIL : Nat := 0xA00320
def FLOE (k : Nat) : Nat := 0xA00100 + 0x8 * (k % 64)
end Reg

end Sys2Proof.Machine
end

