-- ==== Sys2Proof/Machine/Ops.lean ====
section
/-! DEFINITION. The named operations over the device's state: registers, tiles, memory bytes, scratchpad words, the row
maps, outputs and free values; and how a meaning answers. -/

namespace Sys2Proof.Machine

/-! ## Registers -/

/-- The value a register holds. -/
def Dev.rd (d : Dev) (off : Nat) : W64 := smGet regReset d.regs off
/-- Set a register. -/
def Dev.wr (d : Dev) (off : Nat) (v : W64) : Dev := { d with regs := smSet regReset d.regs off v }
/-- A field of a register. -/
def Dev.rf (d : Dev) (off hi lo : Nat) : Nat := fld (d.rd off) hi lo
/-- Set a field of a register. -/
def Dev.wf (d : Dev) (off hi lo x : Nat) : Dev := d.wr off (put (d.rd off) hi lo x)
/-- A bit of a register. -/
def Dev.rb (d : Dev) (off i : Nat) : Bool := tst (d.rd off) i
/-- A register whose writes take effect later: its value as of the occasion on which they last did (R303, R481). -/
def Dev.effRd (d : Dev) (off : Nat) : W64 := smGet regReset d.eff off
/-- Writes to registers take effect. -/
def Dev.latch (d : Dev) (offs : List Nat) : Dev := { d with eff := offs.foldl (fun m o => smSet regReset m o (d.rd o)) d.eff }
/-- Raise a counter. -/
def Dev.add (d : Dev) (off n : Nat) : Dev := d.wr off (d.rd off + w64 n)
def Dev.inc (d : Dev) (off : Nat) : Dev := d.add off 1
/-- A register as a number. -/
def Dev.rn (d : Dev) (off : Nat) : Nat := (d.rd off).toNat
/-- Set a register to a number. -/
def Dev.wn (d : Dev) (off n : Nat) : Dev := d.wr off (w64 n)

/-- A tile's register and its field. -/
def Dev.trd (d : Dev) (t off : Nat) : W64 := d.rd (Reg.tile t off)
def Dev.trf (d : Dev) (t off hi lo : Nat) : Nat := d.rf (Reg.tile t off) hi lo
def Dev.twr (d : Dev) (t off : Nat) (v : W64) : Dev := d.wr (Reg.tile t off) v
def Dev.twf (d : Dev) (t off hi lo x : Nat) : Dev := d.wf (Reg.tile t off) hi lo x
def Dev.tinc (d : Dev) (t off : Nat) : Dev := d.inc (Reg.tile t off)
def Dev.tadd (d : Dev) (t off n : Nat) : Dev := d.add (Reg.tile t off) n

/-! ## Tiles -/

def tileReset : Nat → Tile := fun _ => {}
def Dev.tile (d : Dev) (t : Nat) : Tile := smGet tileReset d.tiles t
def Dev.setTile (d : Dev) (t : Nat) (x : Tile) : Dev := { d with tiles := smSet tileReset d.tiles t x }
def Dev.upd (d : Dev) (t : Nat) (f : Tile → Tile) : Dev := d.setTile t (f (d.tile t))
def Dev.updRegs (d : Dev) (t : Nat) (f : Regs → Regs) : Dev := d.upd t fun x => { x with regs := f x.regs }

/-! ## Memory (R40): one list of bytes by physical address; an unlisted byte reads as 0 -/

def memReset : Nat → Byte := fun _ => 0
def Dev.rdByte (d : Dev) (a : Nat) : Byte := smGet memReset d.mem a
def Dev.wrByte (d : Dev) (a : Nat) (b : Byte) : Dev := { d with mem := smSet memReset d.mem a b }
/-- The canonical form of memory: addresses strictly rising, no listed byte 0. -/
def Memory.wf (m : List Host.Cell) : Bool := smWf memReset m

def Dev.rdBytes (d : Dev) (a : Nat) : Nat → List Byte
  | 0 => []
  | n + 1 => d.rdByte a :: d.rdBytes (a + 1) n
def Dev.wrBytes (d : Dev) (a : Nat) : List Byte → Dev
  | [] => d
  | b :: bs => (d.wrByte a b).wrBytes (a + 1) bs
/-- n bytes as a little-endian number (R14). -/
def Dev.rdNum (d : Dev) (a n : Nat) : Nat := ofBytes (d.rdBytes a n)
def Dev.wrNum (d : Dev) (a n v : Nat) : Dev := d.wrBytes a (toBytes n v)
/-- Set n bytes to zero. -/
def Dev.zero (d : Dev) (a n : Nat) : Dev := d.wrBytes a (List.replicate n 0)

/-! ## Scratchpad words, tags and poison (R42, R148, R162) -/

/-- Physical address of scratchpad word w of physical tile t (R42). -/
def spAddr (t w : Nat) : Nat := apertureBase t + 32 * w
def Dev.spRd (d : Dev) (t w : Nat) : Word256 := BitVec.ofNat 256 (d.rdNum (spAddr t w) 32)
def Dev.spWr (d : Dev) (t w : Nat) (v : Word256) : Dev := d.wrNum (spAddr t w) 32 v.toNat
def noTag : Nat → Bool := fun _ => false
def Tile.full (x : Tile) (w : Nat) : Bool := smGet noTag x.tags w
def Tile.poisoned (x : Tile) (w : Nat) : Bool := smGet noTag x.poison w
def Tile.setTag (x : Tile) (w : Nat) (b : Bool) : Tile := { x with tags := smSet noTag x.tags w b }
def Tile.setPoison (x : Tile) (w : Nat) (b : Bool) : Tile := { x with poison := smSet noTag x.poison w b }
def Tile.setCorr (x : Tile) (w : Nat) (b : Bool) : Tile := { x with corrPend := smSet noTag x.corrPend w b }

/-! ## Register files of the running context (R47) -/

def zero2048 : Nat → BitVec 2048 := fun _ => 0
def zeroP : Nat → BitVec 64 := fun _ => 0
def zeroLc : Nat → BitVec 32 := fun _ => 0
def zeroAcc : Nat → BitVec 32768 := fun _ => 0
def accReset : Nat → AccSet := fun _ => {}
def cvReset : Nat → BitVec 64 := fun _ => 0xFFFFFFFFFFFFFFFF
def agReset : Nat → AddrGen := fun _ => {}
def Regs.rv (r : Regs) (n : Nat) : BitVec 2048 := smGet zero2048 r.v n
def Regs.wv (r : Regs) (n : Nat) (x : BitVec 2048) : Regs := { r with v := smSet zero2048 r.v n x }
def Regs.rp (r : Regs) (n : Nat) : BitVec 64 := smGet zeroP r.p n
def Regs.wp (r : Regs) (n : Nat) (x : BitVec 64) : Regs := { r with p := smSet zeroP r.p n x }
def Regs.rlc (r : Regs) (n : Nat) : Nat := (smGet zeroLc r.lc n).toNat
/-- A loop counter is 32 bits wide (R47). -/
def Regs.wlc (r : Regs) (n x : Nat) : Regs := { r with lc := smSet zeroLc r.lc n (BitVec.ofNat 32 x) }
def Regs.rAcc (r : Regs) (n : Nat) : AccSet := smGet accReset r.acc n
def Regs.wAcc (r : Regs) (n : Nat) (x : AccSet) : Regs := { r with acc := smSet accReset r.acc n x }
def Regs.rAg (r : Regs) (n : Nat) : AddrGen := smGet agReset r.ag n
def Regs.wAg (r : Regs) (n : Nat) (x : AddrGen) : Regs := { r with ag := smSet agReset r.ag n x }
/-- Lane i of a vector. -/
def lane (v : BitVec 2048) (i : Nat) : W32 := v.extractLsb' (32 * i) 32
/-- A vector from its lanes, lane 0 first. -/
def ofLanes : List W32 → BitVec 2048
  | [] => 0
  | x :: xs => (ofLanes xs <<< 32) ||| x.zeroExtend 2048
/-- All 64 lanes from a function of the lane. -/
def mkVec (f : Nat → W32) : BitVec 2048 := ofLanes ((List.range 64).map f)
/-- The bits of 64 lanes spread from a lane mask. -/
def spread (m : BitVec 64) : BitVec 2048 := mkVec fun i => if m.getLsbD i then 0xFFFFFFFF#32 else 0

/-! ## The row maps (R29 to R31, R557) -/

/-- Bypass value B of a row. -/
def Dev.bypass (d : Dev) (f r : Nat) : Nat := d.rf (Reg.ROWMAP f) (8 * r + 3) (8 * r)
/-- Whether physical column p of a row has failed and left its logical tile absent. -/
def Dev.absentCol (d : Dev) (f r p : Nat) : Bool := d.rb (Reg.ABSENT f r) (16 * (r % 4) + p)
/-- Physical tile of a logical tile; none while it is absent. -/
def Dev.physOf (d : Dev) (l : Nat) : Option Nat :=
  let f := logField l; let r := logRow l; let c := logCol l
  let p := if c < d.bypass f r then c else c + 1
  if l ≥ 1536 ∨ d.absentCol f r p then none else some (physId f r p)
/-- Logical tile of a physical tile; none for the bypassed column and for an absent tile. -/
def Dev.logOf (d : Dev) (t : Nat) : Option Nat :=
  let f := physField t; let r := physRow t; let p := physCol t
  let b := d.bypass f r
  if t ≥ 1664 ∨ d.absentCol f r p ∨ p = b ∨ (b = 13 ∧ p = 12) then none
  else some (logId f r (if p < b then p else p - 1))

/-! ## Frames, outputs, free values -/

/-- CAD.FRAME_NOW ACTIVE: the device runs frames. -/
def Dev.framesRun (d : Dev) : Bool := d.rb Reg.FRAME_NOW 63
def Dev.frame (d : Dev) : Nat := d.rf Reg.FRAME_NOW 47 0
/-- Something leaves the device. -/
def Dev.emit (d : Dev) (o : Out) : Dev := { d with out := d.out ++ [o] }
/-- Draw a free value (log entry 3). -/
def Dev.draw (d : Dev) : BitVec 64 × Dev := (Config.free d.free, { d with free := d.free + 1 })
/-- Whether an event goes before another of its beat: the lower class first, then the lower location (R342). -/
def Event.before (e f : Event) : Bool :=
  e.beat == f.beat && (e.cls < f.cls || e.cls == f.cls && (e.kind < f.kind || e.kind == f.kind && (e.idx < f.idx
    || e.idx == f.idx && e.loc.toNat < f.loc.toNat)))
def insEvent (e : Event) : List Event → List Event
  | [] => [e]
  | f :: fs => if e.before f then e :: f :: fs else f :: insEvent e fs
/-- An event sets out for the integrity block (R342). -/
def Dev.event (d : Dev) (e : Event) : Dev := { d with events := insEvent e d.events }
/-- A source reports an event of a class; the manual does not give its syndrome, which is free (log entry 3). -/
def Dev.reportAt (d : Dev) (cls kind idx : Nat) (loc : BitVec 64) : Dev := (d.draw.2).event 
  { cls := cls, kind := kind, idx := idx, loc := loc, syn := d.draw.1
    beat := d.rn Reg.CLK_BEAT + if kind = 0 then (d.tile idx).ahead else 0 }
/-- A tile reports an event. -/
def Dev.report (d : Dev) (cls t : Nat) (loc : BitVec 64) : Dev := d.reportAt cls 0 t loc
/-- Fold a device operation over a list. -/
def Dev.each {α : Type} (d : Dev) (l : List α) (f : Dev → α → Dev) : Dev := l.foldl f d
/-- Apply an operation when a condition holds. -/
def Dev.when (d : Dev) (b : Bool) (f : Dev → Dev) : Dev := if b then f d else d

/-- An INT register as the scheduler works with it: as of the last intake start while frames run (R303). -/
def Dev.int (d : Dev) (off : Nat) : W64 := if d.framesRun then d.effRd off else d.rd off
def Dev.intf (d : Dev) (off hi lo : Nat) : Nat := fld (d.int off) hi lo

/-! ## The steward (R461, R462) -/

/-- Whether a port holds the steward lease. -/
def Dev.isSteward (d : Dev) (p : Nat) : Bool := d.rb Reg.STEWARD 63 && d.rf Reg.STEWARD 62 62 == p

/-! ## How a meaning answers -/

/-- Registers with the bits that no field holds reading as zero (R18). -/
def maskRegs (m : SMap W64) : SMap W64 := m.map fun e => (e.1, e.2 &&& regImpl e.1)
/-- The canonical form of everything kept by key, and R18 of every register. The operations keep both; a meaning's answer
passes through here, so both hold of every next state. -/
def Dev.seal (d : Dev) : Dev :=
  { d with regs := smCanon regReset (maskRegs d.regs), mem := smCanon memReset d.mem, tiles := smCanon tileReset d.tiles }

/-- A next state whose queue is the one the command was given (R-independent; the queue is the block's own). -/
def State.ok (s : State) (d : Dev) : Host.Outcome State Fault Refusal := .next { s with dev := d.seal }

end Sys2Proof.Machine
end

