-- ==== Sys2Proof/Machine/Cube.lean ====
section
/-! DEFINITION. What the cube engine computes: one step into an accumulator set (R86 to R97), the check cube's row sums
(R105), and the conversions of a drain (R100 to R103). -/

namespace Sys2Proof.Machine

/-- Bits of an element as it lies in the scratchpad (R89, R90). -/
def elemBits (f : Nat) : Nat :=
  match f with
  | 0 => 32
  | 1 => 16
  | 2 => 16
  | 8 => 4
  | _ => 8

/-- K of one step (R86). -/
def kPerStep (fa fb : Nat) : Nat :=
  if fa = 0 then 1 else if fa ≤ 2 then 4 else if fa = 8 ∧ fb = 8 then 16 else 8

/-- Scratchpad words of A and of B in a step (R203). -/
def aWords (fa fb : Nat) : Nat := 16 * kPerStep fa fb * elemBits fa / 256
def bWords (fa fb : Nat) : Nat := 64 * kPerStep fa fb * elemBits fb / 256

/-- Scratchpad words joined, the first lowest. -/
def joinWords : List Word256 → Nat
  | [] => 0
  | w :: ws => w.toNat + 2 ^ 256 * joinWords ws

/-- Element n of an operand; an MXFP6 element ignores bits 7:6 of its byte (R90). -/
def elemAt (f op n : Nat) : Nat :=
  let c := (op >>> (n * elemBits f)) % 2 ^ elemBits f
  if f = 6 ∨ f = 7 then c % 64 else c

/-- Special states of R95: 0 none, 1 +infinity, 2 −infinity, 3 NaN. -/
def specJoin (x y : Nat) : Nat := if x = 0 then y else if y = 0 then x else if x = y then x else 3

/-- The product of two MX elements: what it adds to the block sum, and its special state (R93, R95). -/
def mxProd : MxVal → MxVal → Int × Nat
  | .int a, .int b => (a * b, 0)
  | .nan, _ => (0, 3)
  | _, .nan => (0, 3)
  | .inf a, .inf b => (0, if a = b then 1 else 2)
  | .inf a, .int b => (0, if b = 0 then 3 else if a = decide (b < 0) then 1 else 2)
  | .int a, .inf b => (0, if a = 0 then 3 else if b = decide (a < 0) then 1 else 2)

def noSum : Nat → BitVec 72 := fun _ => 0
def noSpec : Nat → BitVec 2 := fun _ => 0
def AccSet.sum (s : AccSet) (n : Nat) : Int := (smGet noSum s.sums n).toInt
def AccSet.spc (s : AccSet) (n : Nat) : Nat := (smGet noSpec s.spec n).toNat

/-- FP32 value n (64 · row + column) of a set. -/
def accVal (v : BitVec 32768) (n : Nat) : W32 := v.extractLsb' (32 * n) 32

/-- A set's 1,024 values from a function of the element. -/
def mkAcc (f : Nat → W32) : BitVec 32768 :=
  BitVec.ofNat 32768 ((List.range 1024).reverse.foldl (fun n i => n * 2 ^ 32 + (f i).toNat) 0)

/-- The operands of a step as read. -/
structure StepIn where
  fa : Nat
  fb : Nat
  a : Nat
  b : Nat
  deriving DecidableEq, Repr

/-- The integer and special state that a step adds to output (i, j) (R93, R95). -/
def stepSum (x : StepIn) (i j : Nat) : Int × Nat :=
  let k := kPerStep x.fa x.fb
  (List.range k).foldl (fun (acc : Int × Nat) kk =>
    let p := mxProd (mxDec x.fa (elemAt x.fa x.a (i * k + kk))) (mxDec x.fb (elemAt x.fb x.b (kk * 64 + j)))
    (acc.1 + p.1, specJoin acc.2 p.2)) (0, 0)

/-- The scaled contribution of a closing block to element n (R94, R95). -/
def closeVal (fa fb : Nat) (scaleA scaleB : Nat) (sum : Int) (spec n : Nat) (old : W32) : W32 :=
  let ca := (scaleA >>> (8 * (n / 64))) % 256
  let cb := (scaleB >>> (8 * (n % 64))) % 256
  let spec := if ca = 255 ∨ cb = 255 then 3 else spec
  let c : FVal := match spec with
    | 0 => .fin (decide (sum < 0)) sum.natAbs (mxU fa + mxU fb + (ca : Int) - 127 + (cb : Int) - 127)
    | 1 => .inf false
    | 2 => .inf true
    | _ => .nan
  enc32 (fAdd (dec32 old) c)

/-! ## What the main engine really gave (R105, R106) -/

/-- The set an observation is of. -/
def obsSet : CubeObs → Nat
  | .sum n .. => n.toNat
  | .product n .. => n.toNat
  | .close n .. => n.toNat
  | .drain n .. => n.toNat
  | .parity n => n.toNat

/-- What the main engine added to the block sum of an element beside the exact integer. -/
def devSum (l : List CubeObs) (n : Nat) : Int :=
  l.foldl (fun z o => match o with
    | .sum _ i j e => if 64 * i.val + j.val = n then z + e.toInt else z
    | _ => z) 0
/-- The product of a row, k and column that the main engine gave in place of the exact one. -/
def devProd (l : List CubeObs) (i k j : Nat) : Option (BitVec 64) :=
  l.findSome? fun o => match o with
    | .product _ r q c v => if r.val = i ∧ q.val = k ∧ c.val = j then some v else none
    | _ => none
/-- The result of an element at a block close that the main engine gave. -/
def devClose (l : List CubeObs) (n : Nat) : Option W32 :=
  l.findSome? fun o => match o with
    | .close _ i j v => if 64 * i.val + j.val = n then some v else none
    | _ => none
/-- The output words and scale bytes of a row pair that the main engine gave. -/
def devDrain (l : List CubeObs) (pair : Nat) : Option (List Word256 × BitVec 32) :=
  l.findSome? fun o => match o with
    | .drain _ p ws sc => if p.val = pair then some (ws, sc) else none
    | _ => none

/-- A product as a capture lays it out (R113). The codes of the special state are those of R95 here (DESIGN CHOICE, log entry 94). -/
def prodBits : FVal → BitVec 64
  | .fin neg m e => BitVec.ofNat 64 (b2n neg * 2 ^ 63 + (BitVec.ofInt 10 e).toNat * 2 ^ 53 + m % 2 ^ 48)
  | .inf neg => BitVec.ofNat 64 (b2n neg * 2 ^ 63 + (if neg then 2 else 1) * 2 ^ 48)
  | .nan => BitVec.ofNat 64 (3 * 2 ^ 48)
/-- The value a product so laid out stands for. -/
def ofProd (b : BitVec 64) : FVal :=
  match fld b 52 48 with
  | 0 => .fin (b.getLsbD 63) (fld b 47 0) (BitVec.ofNat 10 (fld b 62 53)).toInt
  | 1 => .inf false
  | 2 => .inf true
  | _ => .nan

/-- The exact product of a wide step (R96). -/
def exactProd (x : StepIn) (i kk j : Nat) : FVal :=
  let f := if x.fa = 0 then fp32 else if x.fa = 1 then bf16 else fp16
  fMul (fDec f (elemAt x.fa x.a (i * kPerStep x.fa x.fb + kk))) (fDec f (elemAt x.fb x.b (kk * 64 + j)))

/-- Block sum and special state of every element after an MX step, as the main engine forms them. -/
def mxSums (s : AccSet) (x : StepIn) (l : List CubeObs) : List (Nat × Int × Nat) :=
  (List.range 1024).map fun n =>
    let p := stepSum x (n / 64) (n % 64)
    (n, s.sum n + p.1 + devSum l n, specJoin (s.spc n) p.2)

/-- One step into a set whose chain and scales the issue has set up; `closes` tells that the block ends here (R93 to
R97). `l` holds what the main engine really gave of it. -/
def cubeStep (s : AccSet) (x : StepIn) (closes : Bool) (l : List CubeObs) : AccSet :=
  if isMx x.fa then
    let res := mxSums s x l
    if closes then
      let vals := res.map fun r =>
        (devClose l r.1).getD (closeVal x.fa x.fb s.scaleA.toNat s.scaleB.toNat r.2.1 r.2.2 r.1 (accVal s.vals r.1))
      { s with vals := mkAcc (fun n => nth vals n 0), sums := [], spec := [] }
    else
      { s with sums := res.filterMap fun r => if r.2.1 = 0 then none else some (r.1, BitVec.ofInt 72 r.2.1),
               spec := res.filterMap fun r => if r.2.2 = 0 then none else some (r.1, BitVec.ofNat 2 r.2.2) }
  else
    let k := kPerStep x.fa x.fb
    let val (n : Nat) : W32 :=
      enc32 (fSum (dec32 (accVal s.vals n) :: (List.range k).map fun kk => match devProd l (n / 64) kk (n % 64) with
        | some b => ofProd b
        | none => exactProd x (n / 64) kk (n % 64)))
    { s with vals := mkAcc val }

/-- R(i) of the check cube: each row of B summed first, then multiplied by A, modulo 2^64 (R105). -/
def checkRow (x : StepIn) (i : Nat) : BitVec 64 :=
  let k := kPerStep x.fa x.fb
  let int (v : MxVal) : Int := match v with
    | .int z => z
    | _ => 0
  BitVec.ofInt 64 ((List.range k).foldl (fun (acc : Int) kk =>
    acc + int (mxDec x.fa (elemAt x.fa x.a (i * k + kk)))
      * (List.range 64).foldl (fun (t : Int) j => t + int (mxDec x.fb (elemAt x.fb x.b (kk * 64 + j)))) 0) 0)

/-! ## What the check cube finds (R105, R106, R113) -/

/-- A mismatch found: its cause, the mismatching rows, the sampled column or row pair, and the words of the record from 0xB10. -/
structure Found where
  cause : Nat
  rows : Nat := 0
  col : Nat := 0
  area : List W64 := []
  deriving DecidableEq, Repr

/-- A row mask. -/
def rowMask (l : List Nat) : Nat := l.foldl (fun n i => n + 2 ^ i) 0
/-- Numbers of w bits packed into 64-bit words, the first lowest. -/
def packWords (w : Nat) (l : List Nat) : List W64 :=
  let per := 64 / w
  (List.range (cdiv l.length per)).map fun i =>
    w64 ((List.range per).foldl (fun n j => n + nth l (per * i + j) 0 * 2 ^ (w * j)) 0)
/-- The columns the rotating share samples (R106). -/
def sampled (rot : Nat) : List Nat := (List.range 8).map fun i => 8 * i + rot

/-- L(i) of the main engine: what it added to the block sums of a row in the step (R105). -/
def mainRow (x : StepIn) (l : List CubeObs) (i : Nat) : BitVec 64 :=
  BitVec.ofInt 64 ((List.range 64).foldl (fun (z : Int) j => z + (stepSum x i j).1 + devSum l (64 * i + j)) 0)
/-- The integer checksum of an MX step. Where the main engine gave the exact integers both sides are the same, so it is formed only
where an observation says otherwise. -/
def sumFound (x : StepIn) (l : List CubeObs) : Option Found :=
  if l.all fun o => match o with
      | .sum .. => false
      | _ => true then none else
  let rows := (List.range 16).filter fun i => mainRow x l i != checkRow x i
  if rows == [] then none
  else some { cause := 1, rows := rowMask rows, area := (List.range 16).map (checkRow x) ++ (List.range 16).map (mainRow x l) }

/-- The product sample of a wide step; the column recorded is the lowest that mismatches (DESIGN CHOICE, log entry 94). -/
def prodFound (x : StepIn) (l : List CubeObs) (rot : Nat) : Option Found :=
  let k := kPerStep x.fa x.fb
  let bad (i j : Nat) : Bool := (List.range k).any fun kk => (devProd l i kk j).any (· != prodBits (exactProd x i kk j))
  match (sampled rot).find? fun j => (List.range 16).any fun i => bad i j with
  | none => none
  | some j =>
    let at' (f : Nat → Nat → W64) : List W64 := ((List.range 16).flatMap fun i => (List.range k).map fun kk => f i kk) ++ List.replicate (64 - 16 * k) 0
    let want (i kk : Nat) : W64 := prodBits (exactProd x i kk j)
    some { cause := 2, rows := rowMask ((List.range 16).filter fun i => (sampled rot).any (bad i)), col := j
           area := at' want ++ at' fun i kk => (devProd l i kk j).getD (want i kk) }

/-- The recomputation of an MX block close, from the block sums as they stand (R94, R95). -/
def closeFound (s : AccSet) (x : StepIn) (l : List CubeObs) (rot : Nat) : Option Found :=
  let sums := mxSums s x l
  let want (n : Nat) : W32 := match sums[n]? with
    | some r => closeVal x.fa x.fb s.scaleA.toNat s.scaleB.toNat r.2.1 r.2.2 n (accVal s.vals n)
    | none => 0
  let bad (i j : Nat) : Bool := (devClose l (64 * i + j)).any (· != want (64 * i + j))
  match (sampled rot).find? fun j => (List.range 16).any fun i => bad i j with
  | none => none
  | some j =>
    let sum (i : Nat) : List W64 := match sums[64 * i + j]? with
      | some r => [BitVec.ofInt 64 r.2.1, BitVec.ofInt 64 (r.2.1 / 2 ^ 64)]
      | none => []
    some { cause := 3, rows := rowMask ((List.range 16).filter fun i => (sampled rot).any (bad i)), col := j
           area := packWords 32 ((List.range 16).map fun i => (want (64 * i + j)).toNat)
             ++ packWords 32 ((List.range 16).map fun i => ((devClose l (64 * i + j)).getD (want (64 * i + j))).toNat)
             ++ (List.range 16).flatMap sum }

/-- What the check cube finds of a step, in the order of capture: integer checksum, block close, product sample (R105, R106, R112). -/
def stepFound (s : AccSet) (x : StepIn) (closes : Bool) (l : List CubeObs) (rot : Nat) : List Found :=
  if isMx x.fa then (sumFound x l).toList ++ (if closes then (closeFound s x l rot).toList else [])
  else (prodFound x l rot).toList

/-- The 256 bytes of a capture that hold the output of a row pair: its words, then its scale bytes. The spec gives the scale bytes no
place in the record (DESIGN CHOICE, log entry 94). -/
def pairBytes (ws : List Word256) (fmt : Nat) (scales : BitVec 32) : List W64 :=
  let l := ws.flatMap fun w => packWords 64 ((List.range 4).map fun i => (w.extractLsb' (64 * i) 64).toNat)
  ((l ++ (if isMx fmt then [w64 scales.toNat] else [])) ++ List.replicate 32 0).take 32

/-- The recomputation of a drain's sampled row pair: the exact output words and scale bytes against those given (R106). -/
def drainFound (fmt pair : Nat) (inputs : BitVec 4096) (want : List Word256 × BitVec 32) (ws : List Word256) (scales : BitVec 32) : Option Found :=
  if ws == want.1 && (!isMx fmt || scales == want.2) then none
  else some { cause := 4, rows := 2 ^ pair, col := pair
              area := (List.range 64).map (fun i => inputs.extractLsb' (64 * i) 64) ++ pairBytes want.1 fmt want.2 ++ pairBytes ws fmt scales }

/-! ## Drains -/

/-- Scratchpad words of an output row (R100). -/
def rowWords (fmt : Nat) : Nat :=
  match fmt with
  | 0 => 8
  | 1 => 4
  | 2 => 4
  | 8 => 1
  | _ => 2

/-- The 16 random bits of an output element (R103). -/
def stochBits (seed : BitVec 64) (base stream row col : Nat) : Nat :=
  let e := (base + 64 * row + col) % 2 ^ 32
  let o := philox (seed.toNat % 2 ^ 32) (seed.toNat / 2 ^ 32) (e / 8) stream 0 0
  ((o.1 + o.2.1 * 2 ^ 32 + o.2.2.1 * 2 ^ 64 + o.2.2.2 * 2 ^ 96) >>> (16 * (e % 8))) % 65536

/-- The scale code of a run of 32 columns (R102). -/
def runScale (fmt : Nat) (vs : List FVal) : Nat :=
  if vs.any (fun v => match v with | .fin .. => false | _ => true) then 255 else
  let logs := vs.filterMap fun v => match v with
    | .fin _ m e => if m = 0 then none else some ((m.log2 : Int) + e)
    | _ => none
  match logs with
  | [] => 127
  | l :: ls => (max (-127) (min 127 (ls.foldl max l - mxEmax fmt)) + 127).toNat

/-- An MX element from a value under a scale code (R102, R103). -/
def mxElem (fmt scale : Nat) (r : Option Nat) (v : FVal) : Nat :=
  match v with
  | .fin neg m e =>
    if scale = 255 then 0 else
    let (num, den) := dyRat m (e - ((scale : Int) - 127))
    let mw := (mxEM fmt).2
    let mag := match r with
      | some r => stochRound mw (mxU fmt) (mxMaxCode fmt) (mxMaxCode fmt) num den r
      | none => mxRound fmt num den
    if fmt = 9 then (if neg then (256 - mag) % 256 else mag)
    else mag + b2n neg * 2 ^ ((mxEM fmt).1 + mw)
  | _ => 0

/-- A BF16 or FP16 element (R101, R103). -/
def halfElem (fmt : Nat) (r : Option Nat) (v : FVal) : Nat :=
  match r, v with
  | some r, .fin neg m e =>
    let (num, den) := dyRat m e
    stochRound 7 (-133) 0x7F7F 0x7F80 num den r + b2n neg * 0x8000
  | _, _ => fEnc (if fmt = 1 then bf16 else fp16) v

/-- Whether the 32 values of a run are all zero (R102). -/
def allZero (vals : BitVec 32768) (row run : Nat) : Bool :=
  (List.range 32).all fun c => (accVal vals (64 * row + 32 * run + c)).toNat % 2 ^ 31 == 0

/-- An output row as a number, its bytes in ascending column order, and its two scale bytes (R100 to R103). -/
def drainRow (vals : BitVec 32768) (fmt row : Nat) (rnd : Option (BitVec 64 × Nat × Nat)) : Nat × Nat :=
  let v (c : Nat) : FVal := dec32 (accVal vals (64 * row + c))
  let r (c : Nat) : Option Nat := rnd.map fun x => stochBits x.1 x.2.1 x.2.2 row c
  let pack (w : Nat) (f : Nat → Nat) : Nat := (List.range 64).reverse.foldl (fun n c => n * 2 ^ w + f c) 0
  if fmt = 0 then (pack 32 fun c => (accVal vals (64 * row + c)).toNat, 0)
  else if fmt ≤ 2 then (pack 16 fun c => halfElem fmt (r c) (v c), 0)
  else
    let s0 := runScale fmt ((List.range 32).map v)
    let s1 := runScale fmt ((List.range 32).map fun c => v (c + 32))
    (pack (elemBits fmt) fun c => if allZero vals row (c / 32) then 0 else mxElem fmt (if c < 32 then s0 else s1) (r c) (v c), s0 + 256 * s1)

/-- The words of a row. -/
def rowToWords (fmt n : Nat) : List Word256 :=
  (List.range (rowWords fmt)).map fun i => BitVec.ofNat 256 (n >>> (256 * i))

end Sys2Proof.Machine
end

