-- ==== Sys2Proof/Machine/Flags.lean ====
section
/-! DEFINITION. Status bits and what they raise: MSI-X vectors (R475), DEV.EVENT (R476), the varve log (R531 to R537). -/

namespace Sys2Proof.Machine

/-- Raise an MSI-X vector: sent at once, or once on unmasking (R475). -/
def Dev.msix (d : Dev) (p v : Nat) : Dev :=
  if d.msixMask.getLsbD (4 * p + v) then { d with msixPend := d.msixPend ||| BitVec.ofNat 8 (2 ^ (4 * p + v)) }
  else d.emit (.msix p v)

/-- Set a bit of DEV.EVENT; a bit that rises while unmasked raises vector 1 on the steward's port (R475, R476). -/
def Dev.raiseEvent (d : Dev) (i : Nat) : Dev :=
  let rises := !d.rb Reg.EVENT i
  let masked := !d.rb Reg.EVENT (32 + i)
  let d := d.wf Reg.EVENT i i 1
  if rises && !masked && d.rb Reg.STEWARD 63 then d.msix (d.rf Reg.STEWARD 62 62) 1 else d

/-- Set status bits of a register whose bits are summarised in DEV.EVENT bit `ev` (R476). -/
def Dev.setStatus (d : Dev) (off i ev : Nat) : Dev :=
  let rises := !d.rb off i
  let d := d.wf off i i 1
  if rises then d.raiseEvent ev else d

/-! ## The varve log -/

/-- The names an event carries beside its source: context, sequence slot and port (R532 word 3). -/
structure Who where
  ctx : Option Nat := none
  slot : Option Nat := none
  port : Option Nat := none
  deriving DecidableEq, Repr

def Who.word (w : Who) : W64 :=
  w64 ((match w.ctx with | some c => c % 64 + 2 ^ 6 | none => 0)
    + (match w.slot with | some c => 2 ^ 15 + (c % 65536) * 2 ^ 16 | none => 0)
    + (match w.port with | some c => (c % 4) * 2 ^ 32 + 2 ^ 34 | none => 0))

/-- Base of the varve ring (R537). -/
def Dev.vrvBase (d : Dev) : Nat := d.rf Reg.VRV_BASE 47 22 * 2 ^ 22

/-- The 64 bytes of an entry (R532). -/
def VEntry.bytes (e : VEntry) (num : Nat) : List Byte :=
  let w0 := num % 2 ^ 48 + e.sev * 2 ^ 48 + e.cls * 2 ^ 50 + b2n e.noframe * 2 ^ 56 + b2n (e.rep > 0) * 2 ^ 57
  let w2 := e.kind * 2 ^ 60 + e.idx % 65536
  let body := toBytes 8 w0 ++ toBytes 8 e.w1.toNat ++ toBytes 8 w2 ++ toBytes 8 e.w3.toNat ++ toBytes 8 e.a.toNat
    ++ toBytes 8 e.b.toNat ++ toBytes 8 (e.rep + e.span * 2 ^ 32)
  body ++ toBytes 8 (crc32c body)

/-! ## The side band of memory lines (R308, R313) -/

def lineReset : Nat → Line := fun _ => {}
def Dev.lineAt (d : Dev) (a : Nat) : Line := smGet lineReset d.lines (a / 64)
def Dev.setLine (d : Dev) (a : Nat) (l : Line) : Dev := { d with lines := smSet lineReset d.lines (a / 64) l }
/-- The block that holds an address takes a kind (R314): the side band of its 64 lines keeps the rest. -/
def Dev.setKind (d : Dev) (a kind : Nat) : Dev :=
  let line (m : SMap Line) (i : Nat) : SMap Line :=
    smSet lineReset m (a / 4096 * 64 + i) { smGet lineReset m (a / 4096 * 64 + i) with kind := kind }
  { d with lines := (List.range 64).foldl line d.lines }

/-- Write an entry at its ring position, entry number mod 65,536 (R531): a write of a whole line, which clears POISON and makes its block
NONE (R309, R314). -/
def Dev.vrvLine (d : Dev) (e : VEntry) (num : Nat) : Dev :=
  let a := d.vrvBase + 64 * (num % 65536)
  ((d.setLine a { d.lineAt a with poison := false }).setKind a 0).wrBytes a (e.bytes num)

/-- Whether two entries are of the same source and class. -/
def VEntry.same (x y : VEntry) : Bool := x.kind == y.kind && x.idx == y.idx && x.cls == y.cls

/-- Keep an entry as the latest of its pair; past 4,096 pairs the least recent is displaced (R535). -/
def Dev.keepLatest (d : Dev) (e : VEntry) : Dev :=
  let l := d.varve.latest.filter (fun x => !x.same e) ++ [e]
  { d with varve := { d.varve with latest := if l.length > 4096 then l.drop 1 else l } }

/-- Whether the ring is written (R531). -/
def Dev.vrvOn (d : Dev) : Bool := d.rb Reg.VRV_CTL 63

/-- Place an entry in the ring under the limits of R536; none when it is refused. -/
def Dev.toRing (d : Dev) (e : VEntry) : Dev × Option VEntry :=
  let room := d.rn Reg.VRV_WR - d.rn Reg.VRV_RD
  if room ≥ (if e.sev = 0 then 61440 else 65536) then
    (((d.inc (Reg.VRV_DROP e.cls)).wf Reg.VRV_STATUS (if e.sev = 0 then 0 else 1) (if e.sev = 0 then 0 else 1) 1), none)
  else
    let n := d.rn Reg.VRV_WR
    let e := { e with num := some n }
    ((d.inc Reg.VRV_WR).vrvLine e n, some e)

/-- Drop the first entry of severity C. -/
def dropFirstC : List VEntry → List VEntry
  | [] => []
  | e :: es => if e.sev = 0 then es else e :: dropFirstC es

/-- Hold an entry in the early buffer (R531). -/
def Dev.toEarly (d : Dev) (e : VEntry) : Dev × Option VEntry :=
  let keep (l : List VEntry) : Dev := { d with varve := { d.varve with early := l } }
  -- an entry that has been displaced is the latest of its pair no more
  let displace (c : VEntry) : Dev :=
    { d with varve := { d.varve with early := dropFirstC d.varve.early ++ [e], latest := d.varve.latest.filter (· != c) } }
  if d.varve.early.length < 1024 then (keep (d.varve.early ++ [e]), some e)
  else match e.sev, d.varve.early.find? (fun x => x.sev == 0) with
    | 0, _ => ((d.inc (Reg.VRV_DROP e.cls)).wf Reg.VRV_STATUS 2 2 1, none)
    | _, none => ((d.inc (Reg.VRV_DROP e.cls)).wf Reg.VRV_STATUS 2 2 1, none)
    | _, some c => (((displace c).inc (Reg.VRV_DROP c.cls)).wf Reg.VRV_STATUS 2 2 1, some e)

/-- The unit of a span: the frame number, or the tick while no frame runs (R532 word 6). -/
def Dev.unitNow (d : Dev) : Nat := if d.framesRun then d.frame else d.rn Reg.MEM_TICK

/-- Record an event in the varve log: counted, coalesced, limited, placed, and signalled (R475, R531 to R536). -/
def Dev.varveLog (d : Dev) (cls sev kind idx : Nat) (who : Who) (a b : W64) : Dev :=
  -- at 125 °C memory access stops and no entry is written (R413, R534)
  if d.killed then d else
  let d := d.inc (Reg.VRV_EV cls)
  let clock := d.rn Reg.ITG_CLOCK
  let nf := !d.framesRun
  let w1 : W64 := if nf then d.rd Reg.CLK_BEAT
    else w64 (d.frame + min 65535 ((d.rn Reg.CLK_BEAT - d.frameBeat) / 512) * 2 ^ 48)
  let e : VEntry := { num := none, sev := sev, cls := cls, noframe := nf, w1 := w1, kind := kind, idx := idx,
                      w3 := who.word, a := a, b := b, since := d.unitNow, clock := clock }
  let joins (x : VEntry) : Bool :=
    x.same e && x.sev == sev && x.a == a && clock ≤ x.clock + 1000 && x.noframe == nf
      && (match x.num with | some n => d.rn Reg.VRV_RD ≤ n | none => true)
  match d.varve.latest.find? joins with
  | some x =>
    let y := { x with rep := min (x.rep + 1) 0xFFFFFFFF, span := min (d.unitNow - x.since) 0xFFFFFFFF, clock }
    let d := d.keepLatest y
    match x.num with
    | some n => d.vrvLine y n
    | none => { d with varve := { d.varve with early := updIf (· == x) (fun _ => y) d.varve.early } }
  | none =>
    let n := smGet (fun _ => 0) d.varve.second cls
    if n ≥ 1024 then d.inc (Reg.VRV_DROP cls)
    else
      let d := { d with varve := { d.varve with second := smSet (fun _ => 0) d.varve.second cls (n + 1) } }
      let (d, placed) := if d.vrvOn then d.toRing e else d.toEarly e
      match placed with
      | none => d
      | some e =>
        let d := d.keepLatest e
        match who.port with
        | some p => if sev ≥ 2 then d.msix p 3 else d
        | none => d

end Sys2Proof.Machine
end

