-- ==== Sys2Proof/Machine/Report.lean ====
section
/-! DEFINITION. Status codes (R514), what the blocks report to their status registers and to DEV.EVENT, readiness bits
(R499, R500), the states of stacks, links and the time base, operating points (R364, R373) and the field clamp (R403). -/

namespace Sys2Proof.Machine

namespace St
def INVALID : Nat := 1
def BUSY : Nat := 2
def FENCED : Nat := 3
def FENCED_ABORT : Nat := 4
def UNMAPPED : Nat := 5
def NO_TILE : Nat := 6
def WINDOW : Nat := 7
def TAG_FULL : Nat := 8
def POISONED : Nat := 9
def TIER_BUSY : Nat := 10
def PAGE : Nat := 11
def QUOTA : Nat := 12
def NO_MEMORY : Nat := 13
def WORN : Nat := 14
def AUTH_FAIL : Nat := 15
def TIMEOUT : Nat := 16
def MISMATCH : Nat := 17
def LOCKSTEP : Nat := 18
def FAULTED : Nat := 19
def LINK_DOWN : Nat := 20
end St

/-- A register field clamped to its range: values outside act as the nearest limit. -/
def Dev.rfIn (d : Dev) (off hi lo a b : Nat) : Nat := max a (min b (d.rf off hi lo))

/-- Set a bit of ITG.STATUS (R359, R476 bit 0). -/
def Dev.itgStatus (d : Dev) (i : Nat) : Dev := d.setStatus Reg.ITG_STATUS i 0

/-- An in-band interrupt request goes to the bus master, unless interrupts are disabled (R549); it stays pending until it
is acknowledged. -/
def Dev.ibi (d : Dev) (payload : Nat) : Dev :=
  let d := { d with ibiPend := some payload }
  d.when d.ibiOn (·.emit (.pin 1 true))

/-- Set a bit of PWR.STATUS (R415, R476 bit 1); a rise of SHORT, HOT or TRIP raises an in-band interrupt (R549). -/
def Dev.pwrStatus (d : Dev) (i : Nat) : Dev :=
  let rises := !d.rb Reg.PWR_STATUS i
  let d := d.setStatus Reg.PWR_STATUS i 1
  d.when (rises && (i == 5 || i == 7 || i == 8)) fun d =>
    d.ibi (d.rf Reg.PWR_STATUS 7 0)

/-- BAR0 is served outside recovery; in recovery only the BOOT block and the identity registers are (R489). -/
def Dev.served (d : Dev) : Bool := !d.rb Reg.BOOT_STATUS 63

/-! ## Readiness (R499, R500) -/

/-- A readiness bit by its number: 0 to 63 in READY0, 64 + i for bit i of READY1. -/
def readyOff (n : Nat) : Nat := if n < 64 then Reg.READY0 else Reg.READY1
def Dev.ready (d : Dev) (n : Nat) : Bool := d.rb (readyOff n) (n % 64)
/-- A readiness bit changes; DEV.EVENT bit 2 sets (R476). -/
def Dev.setReady (d : Dev) (n : Nat) (v : Bool) : Dev :=
  if d.ready n == v then d else (d.wf (readyOff n) (n % 64) (n % 64) (b2n v)).raiseEvent 2
def readyField (f : Nat) : Nat := 2 + f
def readyStack (s : Nat) : Nat := if s < 20 then 18 + s else 38 + (s - 20)
def readyLink (k : Nat) : Nat := 64 + k
def readyPort (p : Nat) : Nat := 88 + p
def readyDevice : Nat := 127
def Dev.failedBit (d : Dev) (n : Nat) : Bool := d.rb (readyOff n + 0x10) (n % 64)
def Dev.setFailed (d : Dev) (n : Nat) : Dev := d.wf (readyOff n + 0x10) (n % 64) (n % 64) 1
/-- The functions of device readiness: every bit of READY but DEVICE. -/
def allFunctions : List Nat := List.range 54 ++ (List.range 26).map (64 + ·)
/-- A function that no longer holds up device readiness: ready, failed, or a link that the board disables (R498, R500). -/
def Dev.settled (d : Dev) (n : Nat) : Bool :=
  d.ready n || d.failedBit n || (64 ≤ n && n < 88 && d.rf (Reg.L_STATUS (n - 64)) 63 61 == 6)
/-- Counters that count from the device's readiness (R279, R304, R335, R363, R421, R453, R481). The counts that place a port in its
rings go on (log entry 91). -/
def countsFromReady (off : Nat) : Bool :=
  off == Reg.VOID_COUNT || (0x200098 ≤ off && off ≤ 0x2000C8) || (0x300400 ≤ off && off ≤ 0x300428) || (0x400200 ≤ off && off ≤ 0x400230)
    || (0x500100 ≤ off && off ≤ 0x500118) || (0x501000 ≤ off && off < 0x501600 && off % 0x40 ≥ 0x20) || (0x600500 ≤ off && off ≤ 0x600540)
    || off == Reg.P_WINCOUNT 0 || off == Reg.P_WINCOUNT 1 || off == Reg.P_LOST 0 || off == Reg.P_LOST 1
/-- At device readiness these counters start, and the thermal cap stands at 10,500 W (R409, R483). -/
def Dev.startCounts (d : Dev) : Dev :=
  ({ d with regs := d.regs.filter fun e => !countsFromReady e.1, thermalCap := 10500 } : Dev).wf Reg.CAP_W 31 16 (d.rfIn Reg.CAP_W 15 0 4000 10500)
/-- Device readiness once every function is ready or has failed (R483). -/
def Dev.checkReady (d : Dev) : Dev :=
  if !d.ready readyDevice && allFunctions.all d.settled then
    ((d.setReady readyDevice true).wr Reg.T_DONE (d.rd Reg.ITG_CLOCK)).startCounts
  else d

/-! ## Stacks, links, the time base -/

def stackState (d : Dev) (s : Nat) : Nat := d.rf (Reg.STACK s) 63 61
def stackKind (s : Nat) : Nat × Nat := if s < 20 then (3, s) else (4, s - 20)
/-- A stack's STATE changes: DEV.EVENT bit 4, its readiness bit (R499), and a class 29 entry (R534). -/
def Dev.setStack (d : Dev) (s v : Nat) : Dev :=
  if stackState d s = v then d else
  let d := (d.wf (Reg.STACK s) 63 61 v).raiseEvent 4
  let d := if v = 0 then d.setReady (readyStack s) true else if v ≥ 3 then d.setReady (readyStack s) false else d
  d.varveLog 29 (if v = 1 ∨ v = 2 then 0 else 2) (stackKind s).1 (stackKind s).2 {} (w64 v) (w64 (d.rf (Reg.STACK s) 60 48))
/-- Unavailable: every state but READY and EVACUATING (R332). -/
def Dev.stackUp (d : Dev) (s : Nat) : Bool := stackState d s ≤ 1 && !d.killed

def Dev.linkState (d : Dev) (k : Nat) : Nat := d.rf (Reg.L_STATUS k) 63 61
/-- A link's STATE changes: DEV.EVENT bit 3 (R476) and its readiness bit (R499). -/
def Dev.setLink (d : Dev) (k v : Nat) : Dev :=
  if d.linkState k = v then d
  else ((d.wf (Reg.L_STATUS k) 63 61 v).raiseEvent 3).setReady (readyLink k) (v == 3 || v == 4)

def Dev.tbState (d : Dev) : Nat := d.rf Reg.TB_STATUS 1 0
/-- The time base changes state: DEV.EVENT bit 6 and a class 19 entry (R256, R534); MASTER_ID reads 0 while UNLOCKED. -/
def Dev.setTb (d : Dev) (v master : Nat) : Dev :=
  let old := d.tbState
  let d := d.wf Reg.TB_STATUS 48 32 (if v = 0 then 0 else master)
  if old = v then d else
  let d := (d.wf Reg.TB_STATUS 1 0 v).raiseEvent 6
  d.varveLog 19 (if v = 0 then 2 else 0) 8 0 {} (w64 v) (w64 (d.rf Reg.TB_STATUS 48 32))

/-! ## Operating points (R364, R373, R390) -/

def mhz (op : Nat) : Nat := nth [800, 1200, 1600, 1900] op 1600
def Dev.opNow (d : Dev) : Nat := d.rf Reg.CLK_STATUS 1 0
def Dev.opMv (d : Dev) (op : Nat) : Nat := d.rf (Reg.OP op) 15 0
def Dev.switchPending (d : Dev) : Bool := d.rb Reg.CLK_SWITCH 63

/-- Announce a switch 4,096 beats ahead, the earliest beat R373 allows. -/
def Dev.announce (d : Dev) (op cause : Nat) : Dev :=
  let d := d.wr Reg.CLK_SWITCH (w64 (2 ^ 63 + cause * 2 ^ 8 + op))
  d.wr Reg.SWITCH_BEAT (d.rd Reg.CLK_BEAT + w64 4096)

/-- Order an operating point: after a pending switch if there is one (R373), and upward only once the supplies have
reached its voltage (R375). -/
def Dev.orderOp (d : Dev) (op cause : Nat) : Dev :=
  if d.switchPending then { d with afterSwitch := some (op, cause) }
  else if op > d.opNow then { d with raising := some (op, cause) }
  else if op = d.opNow then d
  else { d.announce op cause with raising := none }

/-- The point in force once every decided change has been taken. -/
def Dev.opDecided (d : Dev) : Nat :=
  match d.afterSwitch with
  | some (op, _) => op
  | none => if d.switchPending then d.rf Reg.CLK_SWITCH 1 0 else d.opNow

/-- A step-down by one code sets the ceiling to the code it steps to (R408). False at code 0. -/
def Dev.stepDown (d : Dev) (cause : Nat) : Dev × Bool :=
  let op := d.opDecided
  if op = 0 then (d, false)
  else
    ({ d.orderOp (op - 1) cause with ceiling := op - 1 }, true)

/-! ## The field clamp (R403) -/

def noClamp : Nat → Nat := fun _ => 96
def Dev.clampSrc (d : Dev) (f s : Nat) : Nat := smGet noClamp d.clamps (4 * f + s)
/-- The derating source from the count of retired phases (R393). -/
def Dev.derate (d : Dev) (f : Nat) : Nat :=
  let n := d.rf (Reg.FIELD f) 60 56
  if n < 5 then 96 else 96 * (24 - n) / 20
/-- The field current limit for a count of retired phases (R393). -/
def limitOf (n : Nat) : Nat := if n < 5 then 792 else 792 * (24 - n) / 20
/-- K_f: the least of the active sources, from 12 to 96. -/
def Dev.clampK (d : Dev) (f : Nat) : Nat :=
  max 12 ((List.range 4).foldl (fun k s => min k (d.clampSrc f s)) (d.derate f))
/-- K_f is shown in PWR.FIELDf, and the ceilings in force fall to it at once (R403). -/
def Dev.syncClamp (d : Dev) (f : Nat) : Dev :=
  let k := d.clampK f
  let d := d.wf (Reg.FIELD f) 47 41 k
  let v := d.rd (Reg.AVL f)
  d.wr (Reg.AVL f) (put (put v 38 32 (min k (fld v 38 32))) 30 24 (min k (fld v 30 24)))
/-- Apply a clamp source (counted in PWR.CLAMPS, shown in CLAMP). -/
def Dev.applyClamp (d : Dev) (f s k : Nat) : Dev :=
  let d := { d with clamps := smSet noClamp d.clamps (4 * f + s) k }
  ((d.inc Reg.CLAMPS).pwrStatus 0).syncClamp f
def Dev.releaseClamp (d : Dev) (f s : Nat) : Dev :=
  ({ d with clamps := smSet noClamp d.clamps (4 * f + s) 96 }).syncClamp f

/-! ## Energy figures (R400, R401) and phase starts (R402) -/

def noFig : Nat → Option Nat := fun _ => none
def zeroNat : Nat → Nat := fun _ => 0
def figKey (f op p : Nat) : Nat := (4 * f + op) * 256 + p
def Dev.pjMax (d : Dev) (op : Nat) : Nat := d.rf (Reg.OP op) 47 32
def Dev.learnedFig (d : Dev) (f op p : Nat) : Nat := (smGet noFig d.learned (figKey f op p)).getD (d.pjMax op)
def Dev.pinnedFig (d : Dev) (op p : Nat) : Nat :=
  let x := smGet zeroNat d.pinned (op * 256 + p)
  if x = 0 then d.pjMax op else x
/-- The figure the planner uses: the learned one in floating mode, the pinned entry in pinned mode. -/
def Dev.fig (d : Dev) (f op p : Nat) : Nat := if d.floatOn then d.learnedFig f op p else d.pinnedFig op p

/-- Tiles of a field whose running context marked phase p last. -/
def Dev.phaseTiles (d : Dev) (f p : Nat) : Nat :=
  (d.tiles.filter fun e => physField e.1 == f && e.2.mode == .running
    && d.rf (Reg.tile e.1 (Reg.CTXSTATE e.2.slot)) 23 16 == p).length

/-- A phase start of a field: feed-forward current, and a clamp when the prediction exceeds the field's limit (R402). -/
def Dev.phaseStart (d : Dev) (f p : Nat) : Dev :=
  let op := d.opNow
  let drawn := d.learnedFig f op p * d.phaseTiles f p * mhz op
  let amp := d.opMv op * 1000
  let limit := d.rf (Reg.FIELD f) 39 28
  let d := { d with feedFwd := smSet zeroNat d.feedFwd f (drawn / amp) }
  if drawn > limit * amp then d.applyClamp f 0 (96 * limit * amp / drawn)
  else if d.clampSrc f 0 < 96 then d.releaseClamp f 0 else d

end Sys2Proof.Machine
end

