-- ==== Sys2Proof/Machine/Firn.lean ====
section
/-! DEFINITION. The firn registers (R507 to R510): values, wear, and the queue of writes on their way. -/

namespace Sys2Proof.Machine

/-- What manufacture left in a word (the manual gives no values; log entry 2): the typical set voltages and PJ_MAX of R390
and R417, PART_PCT 100, stepping B0 (R5), no row repaired (LOST 0xF, BYPASS 12), no seam bypass (12). -/
def firnReset (w : Nat) : BitVec 32 :=
  if 0x200 ≤ w ∧ w ≤ 0x208 then BitVec.ofNat 32 (nth [620, 660, 720, 820, 2500, 2850, 3400, 4400, 100] (w - 0x200) 0)
  else if 0x400 ≤ w ∧ w ≤ 0x41F then 0xFCFCFCFC
  else if w = 0x3B then 0x10
  else if w = 0x420 then 0xCCCCCCCC
  else if w = 0x421 then 0xCCCC
  else 0
def wearReset : Nat → BitVec 20 := fun _ => 0

def Dev.firnRd (d : Dev) (w : Nat) : Nat := (smGet firnReset d.firn w).toNat
def Dev.wearOf (d : Dev) (w : Nat) : Nat := (smGet wearReset d.wear w).toNat
/-- A word as it will stand once the writes on their way are done. -/
def Dev.firnView (d : Dev) (w : Nat) : Nat :=
  match (d.firnQ.flatMap (·.words)).reverse.find? (·.1 == w) with
  | some x => x.2.toNat
  | none => d.firnRd w

/-- Ordinary words are 0x0040 to 0x01FF; the rest are of the safety class (R508). -/
def firnOrdinary (w : Nat) : Bool := 0x40 ≤ w && w ≤ 0x1FF
/-- The limit of 10^6 writes (R510). -/
def Dev.firnWorn (d : Dev) (w : Nat) : Bool := d.wearOf w ≥ 1000000

/-- Start a firn operation; refused whole when a safety-class word of it is worn (R510). -/
def Dev.firnPut (d : Dev) (ws : List (Nat × Nat)) (host : Bool := false) : Dev × Bool :=
  if ws.any fun w => d.firnWorn w.1 && !firnOrdinary w.1 then (d, false)
  else ({ d with firnQ := d.firnQ ++ [(⟨ws.map fun w => (w.1, BitVec.ofNat 32 w.2), host⟩ : FirnOp)] }, true)

/-- Write one word: both copies hold it, its wear rises; a write of an ordinary word at the limit makes a class 22 entry. -/
def Dev.firnWrite (d : Dev) (w : Nat) (v : BitVec 32) : Dev :=
  let n := min (d.wearOf w + 1) 0xFFFFF
  let atLimit := d.firnWorn w
  let d := { d with firn := smSet firnReset d.firn w v, wear := smSet wearReset d.wear w (BitVec.ofNat 20 n) }
  d.when (atLimit && firnOrdinary w) (·.varveLog 22 0 9 0 {} (w64 w) (w64 n))

/-- Raise a lifetime counter (R508): 0 power-ons, 1 hours, 2 over-temperature, 3 field shorts, 4 failed bring-ups, 5 host writes. -/
def Dev.firnCount (d : Dev) (i : Nat) : Dev := (d.firnPut [(0x40 + i, d.firnView (0x40 + i) + 1)]).1

/-- The first free entry of a list (R509). -/
def Dev.firnSlot (d : Dev) (lo n step : Nat) : Option Nat :=
  ((List.range n).map fun i => lo + step * i).find? fun w => !bit (d.firnView w) 31

/-- Why a list entry did not reach firn (R318, R349). -/
inductive FirnEnd where
  | done
  | worn
  | full
  deriving DecidableEq, Repr

/-- Add an entry to a list. -/
def Dev.firnList (d : Dev) (lo n step : Nat) (words : List Nat) : Dev × FirnEnd :=
  match d.firnSlot lo n step with
  | none => (d.varveLog 22 2 9 0 {} (w64 lo) 0, .full)
  | some w =>
    match d.firnPut ((List.range words.length).map fun i => (w + i, nth words i 0)) with
    | (d, true) => (d, .done)
    | (d, false) => (d, .worn)

/-! ## Retirements in effect (R346, R349) -/

/-- The class 21 entry of a retirement: KIND and WHERE as ITG.RETIRE_CMD has them, a spare row by the row it serves. -/
def Dev.retireNote (d : Dev) (r : Retiree) (refused : Bool) : Dev :=
  let (a, kind, idx) := match r with
    | .tile t => (2 ^ 60 + t, 0, t)
    | .row t b w => (2 * 2 ^ 60 + t + b * 2 ^ 16 + (if w < 256 then w else smGet (fun _ => 0) (d.tile t).remap (4 * b + w - 256) - 1) * 2 ^ 24, 0, t)
    | .wire t p w => (p + 4 * w, 0, t)
    | .memory m => (3 * 2 ^ 60 + m.frame, (stackKind ((stackOf (m.frame * 65536)).getD 0)).1,
        (stackKind ((stackOf (m.frame * 65536)).getD 0)).2)
  d.varveLog 21 2 kind idx {} (w64 a) (w64 (b2n refused))

/-- The order of ITG.RETIRE_CMD has taken effect or has been dropped (R346, R360). -/
def Dev.hostOrderEnd (d : Dev) : Dev := { (d.wf Reg.RETIRE_CMD 63 63 0).wr Reg.RETIRE_STATUS 0 with hostRetire := none }

/-- A retirement takes effect (R346); a firn write refused for wear or a full list is recorded in a second entry (R349). -/
def Dev.retired (d : Dev) (r : Retiree) (fin : FirnEnd) : Dev :=
  let d := d.retireNote r false
  let d := d.when (fin != .done) (·.retireNote r true)
  let d := (d.inc Reg.RETIRED).itgStatus 3
  d.when (d.hostRetire == some r) (·.hostOrderEnd)

/-- The oldest operation on its way becomes durable (R507, R511). -/
def Dev.firnDone (d : Dev) : Dev :=
  match d.firnQ with
  | [] => d
  | o :: os =>
    let d := { d with firnQ := os }
    let d := d.each o.words fun d w => d.firnWrite w.1 w.2
    d.when o.host fun d => (d.wf Reg.FIRN_CMD 63 63 0).wr Reg.FIRN_STATUS 0

/-! ## Floes (R368, R387) -/

/-- A floe whose oscillator stands in the firn list (R368, R508). -/
def Dev.oscFailed (d : Dev) (k : Nat) : Bool := bit (d.firnView (0x442 + k / 32)) (k % 32)
def Dev.floeState (d : Dev) (k : Nat) : Nat := d.rf (Reg.FLOE k) 63 61
/-- INJECTED of CLK.STATUS counts the injected floes (R384). -/
def Dev.syncInjected (d : Dev) : Dev :=
  d.wf Reg.CLK_STATUS 52 48 (findAll 64 fun k => d.floeState k == 1).length
/-- The injection source of a floe (R368). -/
def Dev.floeSrc (d : Dev) (k : Nat) : Nat := if k % 4 > 0 && (d.floeState (k - 1) == 0 || k % 4 == 3) then k - 1 else k + 1
/-- Set the state of a field's four floes. -/
def Dev.setFloes (d : Dev) (f st : Nat) : Dev :=
  (d.each (List.range 4) fun d k => (d.wf (Reg.FLOE (4 * f + k)) 63 61 st).wf (Reg.FLOE (4 * f + k)) 40 32 0).syncInjected
/-- A field's floes lock to the mesh; one with a failed oscillator comes up injected (R368, R492). -/
def Dev.floesUp (d : Dev) (f : Nat) : Dev :=
  let d := d.setFloes f 0
  (d.each (findAll 4 fun k => d.oscFailed (4 * f + k)) fun d k =>
    (d.wf (Reg.FLOE (4 * f + k)) 57 52 (d.floeSrc (4 * f + k))).wf (Reg.FLOE (4 * f + k)) 63 61 1).syncInjected

end Sys2Proof.Machine
end

