-- ==== Sys2Proof/Machine/Operands.lean ====
section
/-! DEFINITION. The bundle (R186), every slot's encoding and decoding with the checks of R187, the address generators
(R191 to R195), window and private accesses (R67, R167, R194), and the slots that WAITF and TAGSET name (R199). -/

namespace Sys2Proof.Machine

/-! ## Fault codes (R77, R115, R143, R178, R218, R515) -/
namespace FC
def ILLEGAL_BUNDLE : Nat := 0x01
def PC_BOUND : Nat := 0x02
def SP_BOUND : Nat := 0x03
def CALL_DEPTH : Nat := 0x04
def ROUTINE : Nat := 0x05
def LOOP_DEPTH : Nat := 0x06
def SCHEDULE : Nat := 0x07
def CUBE_BUSY : Nat := 0x10
def CUBE_FORMAT : Nat := 0x11
def CUBE_BLOCK : Nat := 0x12
def CHECK_FAIL : Nat := 0x13
def SFU_BUSY : Nat := 0x18
def LANE_FAIL : Nat := 0x19
def WINDOW : Nat := 0x20
def TAG_DEADLOCK : Nat := 0x21
def POISON : Nat := 0x22
def HANDLE : Nat := 0x23
def ROUTE : Nat := 0x28
def PAGE : Nat := 0x29
def FENCED : Nat := 0x30
def HANG : Nat := 0x31
def TILE_LOST : Nat := 0x32
end FC

/-! ## Slots -/

inductive CtrlOp where
  | nop
  | loop (a : LoopArg)
  | skip (test p n : Nat)
  | wait (full : Bool) (a : SlotArg)
  | bar (n : Nat)
  | phase (id : Nat)
  | fsync
  | call (k : Nat)
  | ret
  | halt
  deriving DecidableEq, Repr

structure DrainF where
  acc : Nat
  fmt : Nat
  agd : Nat
  ags : Nat
  sr : Bool
  vr : Nat
  cve : Bool
  cv : Nat
  cvs : Bool
  deriving DecidableEq, Repr

inductive CubeOp where
  | nop
  | mac (mul : Bool) (acc aga agb : Nat)
  | zero (acc : Nat)
  | drain (f : DrainF)
  | fmt (fa fb saga sagb : Nat)
  deriving DecidableEq, Repr

inductive VecOp where
  | nop
  | reg (op : Nat) (f : VecF)
  | imm (d : Nat) (v : BitVec 32)
  | mem (store : Bool) (d ag : Nat) (msk : Bool) (pm : Nat)
  | agld (ag word : Nat)
  deriving DecidableEq, Repr

inductive MoveOp where
  | nop
  | send (hdl ag len port vc dlvl dstr : Nat)
  | recv (inp outp n : Nat)
  | xfer (isGet : Bool) (f : XferF)
  | tag (set : Bool) (a : SlotArg)
  deriving DecidableEq, Repr

/-- A decoded bundle: the loop end of its CTRL slot and one operation for each slot. -/
structure Bundle where
  ctrl : CtrlOp
  fin : Nat
  cube : CubeOp
  veca : VecOp
  vecb : VecOp
  move : MoveOp
  deriving DecidableEq, Repr

/-! ## Slot positions (R186) -/
def slotCtrl (w : Word256) : Nat := bits w.toNat 255 224
def slotCube (w : Word256) : Nat := bits w.toNat 223 160
def slotVec (u : VUnit) (w : Word256) : Nat :=
  match u with
  | .a => bits w.toNat 159 112
  | .b => bits w.toNat 111 64
def slotMove (w : Word256) : Nat := bits w.toNat 63 0

/-- Replace bits hi:lo of a bundle. -/
def putBundle (w : Word256) (hi lo x : Nat) : Word256 :=
  let m : Word256 := BitVec.ofNat 256 ((2 ^ (hi + 1 - lo) - 1) <<< lo)
  (w &&& ~~~m) ||| (BitVec.ofNat 256 (x <<< lo) &&& m)
def putCtrl (w : Word256) (x : Nat) : Word256 := putBundle w 255 224 x
def putCube (w : Word256) (x : Nat) : Word256 := putBundle w 223 160 x
def putVec (u : VUnit) (w : Word256) (x : Nat) : Word256 :=
  match u with
  | .a => putBundle w 159 112 x
  | .b => putBundle w 111 64 x
def putMove (w : Word256) (x : Nat) : Word256 := putBundle w 63 0 x

/-! ## Encoding: the slot words of the operations (R196 to R211) -/

def encCtrl (op e args : Nat) : Nat := op * 2 ^ 27 + e * 2 ^ 23 + args
def encLoop : LoopArg → Nat
  | .imm m => m.toNat
  | .reg v => 2 ^ 22 + v.toNat
def encSlot : SlotArg → Nat
  | .imm w i => w.toNat * 2 ^ 17 + i.toNat
  | .gen a => 2 ^ 22 + a.toNat
def encVec (op : Nat) (f : VecF) : Nat :=
  op * 2 ^ 42 + f.d.toNat * 2 ^ 36 + f.a.toNat * 2 ^ 30 + f.b.toNat * 2 ^ 24 + f.c.toNat * 2 ^ 18
    + f.ss.toNat * 2 ^ 16 + f.msk.toNat * 2 ^ 15 + f.pm.toNat * 2 ^ 11 + f.fn.toNat
def encVecMem (op : Nat) (d : BitVec 6) (ag : BitVec 3) (m : BitVec 1) (pm : BitVec 4) : Nat :=
  op * 2 ^ 42 + d.toNat * 2 ^ 36 + ag.toNat * 2 ^ 33 + m.toNat * 2 ^ 15 + pm.toNat * 2 ^ 11
def encXfer (op : Nat) (f : XferF) : Nat :=
  op * 2 ^ 59 + f.hdl.toNat * 2 ^ 53 + f.ag.toNat * 2 ^ 50 + f.ent.toNat * 2 ^ 48 + f.off.toNat * 2 ^ 44
    + f.nb1.toNat * 2 ^ 40 + f.llvl.toNat * 2 ^ 36 + f.lstr.toNat * 2 ^ 19 + f.cve.toNat * 2 ^ 18
    + f.cvb.toNat * 2 ^ 15 + f.tk.toNat * 2 ^ 14
def encTag (op : Nat) : SlotArg → Nat
  | .imm w i => op * 2 ^ 59 + w.toNat * 2 ^ 54 + i.toNat * 2 ^ 37
  | .gen a => op * 2 ^ 59 + 2 ^ 58 + a.toNat * 2 ^ 34

/-! ## Decoding; none is an encoding R187 refuses -/

def decSlot (w : Nat) : Option SlotArg :=
  if bit w 21 then none
  else if bit w 22 then (if bits w 20 3 = 0 then some (.gen (BitVec.ofNat 3 w)) else none)
  else some (.imm (BitVec.ofNat 4 (bits w 20 17)) (BitVec.ofNat 17 w))

/-- The CTRL slot (R196 to R198): the operation and END. END above 8 is reserved, and must be zero with LOOP, CALL, RET
and HALT (R187 item 6). -/
def decCtrl (w : Nat) : Option (CtrlOp × Nat) :=
  let op := bits w 31 27
  let e := bits w 26 23
  let a := bits w 22 0
  if e > 8 then none else
  match op with
  | 0 => if a = 0 then some (.nop, e) else none
  | 1 => if e ≠ 0 ∨ bits a 21 16 ≠ 0 then none
         else if bit a 22 then (if bits a 15 6 = 0 then some (.loop (.reg (BitVec.ofNat 6 a)), 0) else none)
         else some (.loop (.imm (BitVec.ofNat 16 a)), 0)
  | 2 => if bits a 16 10 ≠ 0 then none else some (.skip (bits a 22 21) (bits a 20 17) (bits a 9 0 + 1), e)
  | 3 => (decSlot a).map fun s => (.wait true s, e)
  | 4 => (decSlot a).map fun s => (.wait false s, e)
  | 5 => if a < 16 then some (.bar a, e) else none
  | 6 => if a < 256 then some (.phase a, e) else none
  | 7 => if a < 2 then some (.fsync, e) else none
  | 8 => if a < 64 ∧ e = 0 then some (.call a, 0) else none
  | 9 => if a = 0 ∧ e = 0 then some (.ret, 0) else none
  | 10 => if a = 0 ∧ e = 0 then some (.halt, 0) else none
  | _ => none

/-- The CUBE slot (R201, R202). Format codes are judged at issue (R89). -/
def decCube (w : Nat) : Option CubeOp :=
  match bits w 63 59 with
  | 0 => if w = 0 then some .nop else none
  | 1 => if bits w 49 0 = 0 then some (.mac false (bits w 58 56) (bits w 55 53) (bits w 52 50)) else none
  | 2 => if bits w 49 0 = 0 then some (.mac true (bits w 58 56) (bits w 55 53) (bits w 52 50)) else none
  | 3 => if bits w 55 0 = 0 then some (.zero (bits w 58 56)) else none
  | 4 => if bits w 33 0 = 0 then
           some (.drain ⟨bits w 58 56, bits w 55 52, bits w 51 49, bits w 48 46, bit w 45, bits w 44 39, bit w 38,
             bits w 37 35, bit w 34⟩) else none
  | 5 => if bits w 44 0 = 0 then some (.fmt (bits w 58 55) (bits w 54 51) (bits w 50 48) (bits w 47 45)) else none
  | _ => none

/-- What R206 to R208 lay down for a register-form VEC opcode: sources used, special scalars allowed, mask allowed, which
of D, A and B name predicates, register pairs, and the latency. -/
structure VInfo where
  useA : Bool := true
  useB : Bool := false
  useC : Bool := false
  s : Bool := false
  mask : Bool := true
  predD : Bool := false
  predA : Bool := false
  predB : Bool := false
  pairD : Bool := false
  pairA : Bool := false
  pairB : Bool := false
  sfu : Bool := false
  covered : Bool := true
  lat : Nat := 3
  deriving DecidableEq, Repr

/-- The register-form opcodes of R207. -/
def vInfo (op fn : Nat) : Option VInfo :=
  match op with
  | 0x01 => some { useB := true, s := true }
  | 0x02 => some { useB := true, s := true }
  | 0x03 => some { useB := true, s := true }
  | 0x04 => some { useB := true, useC := true, s := true }
  | 0x05 => some { useB := true, s := true }
  | 0x06 => some { useB := true, s := true }
  | 0x07 => some {}
  | 0x08 => some {}
  | 0x09 => some {}
  | 0x0A => some { useB := true, s := true }
  | 0x10 => some { useB := true, s := true }
  | 0x11 => some { useB := true, s := true }
  | 0x12 => some { useB := true, s := true }
  | 0x13 => some { useB := true, s := true }
  | 0x14 => some { useB := true, s := true }
  | 0x15 => some { useB := true, s := true }
  | 0x16 => some { useB := !bit fn 5 }
  | 0x17 => some { useB := !bit fn 5 }
  | 0x18 => some { useB := !bit fn 5 }
  | 0x19 => some { useB := true, s := true }
  | 0x1A => some { useB := true, s := true }
  | 0x1C => some { useB := fn == 4 || fn == 5 }
  | 0x1D => some { useB := true, s := true, predD := true }
  | 0x1E => some { useB := true, s := true, predD := true }
  | 0x20 => some { useB := true, mask := false, predD := true, predA := true, predB := true }
  | 0x21 => some { useB := true, mask := false, predD := true, predA := true, predB := true }
  | 0x22 => some { useB := true, mask := false, predD := true, predA := true, predB := true }
  | 0x23 => some { mask := false, predD := true, predA := true }
  | 0x24 => some { mask := false, predA := true }
  | 0x25 => some { mask := false, predD := true }
  | 0x28 => some { lat := 6, covered := false }
  | 0x29 => some { lat := 6, covered := false }
  | 0x2A => some { lat := 6, covered := false }
  | 0x2B => some { lat := 6, covered := false }
  | 0x2C => some { lat := 6, covered := false }
  | 0x2D => some { useB := true, mask := false, covered := false }
  | 0x2E => some { mask := false, covered := false }
  | 0x2F => some { mask := false, covered := false }
  | 0x30 => some { mask := false, pairD := true, pairA := true, lat := 6, covered := false }
  | 0x31 => some { useB := true, mask := false, pairD := true, pairA := true, pairB := true, lat := 10, covered := false }
  | 0x34 => some { sfu := true, lat := 8 }
  | 0x35 => some { sfu := true, lat := 8 }
  | 0x36 => some { sfu := true, lat := 8 }
  | 0x37 => some { sfu := true, lat := 8 }
  | 0x38 => some { sfu := true, lat := 8 }
  | 0x39 => some { sfu := true, lat := 8 }
  | _ => none

/-- Whether FN holds a value its operation allows (R208). -/
def fnOk (op fn : Nat) : Bool :=
  match op with
  | 0x0A => fn < 16
  | 0x16 => if bit fn 5 then fn < 64 else fn == 0
  | 0x17 => if bit fn 5 then fn < 64 else fn == 0
  | 0x18 => if bit fn 5 then fn < 64 else fn == 0
  | 0x19 => fn == 0 || fn == 8
  | 0x1A => fn == 0 || fn == 8
  | 0x1C => fn ≤ 9
  | 0x1D => fn ≤ 5
  | 0x1E => fn % 8 ≤ 5 && fn < 16
  | 0x2E => 1 ≤ fn && fn < 64
  | 0x2F => fn < 64
  | 0x30 => fn < 64 && 1 ≤ fn / 8 && fn / 8 ≤ 6 && fn % 8 < fn / 8
  | 0x31 => fn < 64
  | _ => fn == 0

/-- The checks of R187, R206 and R208 on a register-form VEC slot. -/
def vecRegOk (op : Nat) (f : VecF) : Bool :=
  match vInfo op f.fn.toNat with
  | none => false
  | some i =>
    fnOk op f.fn.toNat
      && (f.ss != 3 && (i.s || f.ss == 0) && (f.ss == 0 || f.b == 0))
      && (i.useB || f.b == 0) && (i.useC || f.c == 0)
      && (i.mask || f.msk == 0) && (f.msk == 1 || f.pm == 0)
      && (!i.predD || f.d.toNat < 16) && (!i.predA || f.a.toNat < 16) && (!i.predB || f.b.toNat < 16)
      && (!i.pairD || f.d.toNat % 2 == 0) && (!i.pairA || f.a.toNat % 2 == 0) && (!i.pairB || f.b.toNat % 2 == 0)

def decVecF (w : Nat) : VecF :=
  { d := BitVec.ofNat 6 (bits w 41 36), a := BitVec.ofNat 6 (bits w 35 30), b := BitVec.ofNat 6 (bits w 29 24),
    c := BitVec.ofNat 6 (bits w 23 18), ss := BitVec.ofNat 2 (bits w 17 16), msk := BitVec.ofNat 1 (bits w 15 15),
    pm := BitVec.ofNat 4 (bits w 14 11), fn := BitVec.ofNat 11 (bits w 10 0) }

/-- A VEC slot (R205 to R208). -/
def decVec (w : Nat) : Option VecOp :=
  let op := bits w 47 42
  match op with
  | 0x00 => if w = 0 then some .nop else none
  | 0x0B => if bits w 35 32 = 0 then some (.imm (bits w 41 36) (BitVec.ofNat 32 w)) else none
  | 0x3C => if bits w 32 16 = 0 ∧ bits w 10 0 = 0 ∧ (bit w 15 ∨ bits w 14 11 = 0) then
              some (.mem false (bits w 41 36) (bits w 35 33) (bit w 15) (bits w 14 11)) else none
  | 0x3D => if bits w 32 16 = 0 ∧ bits w 10 0 = 0 ∧ (bit w 15 ∨ bits w 14 11 = 0) then
              some (.mem true (bits w 41 36) (bits w 35 33) (bit w 15) (bits w 14 11)) else none
  | 0x3E => if bits w 38 17 = 0 then some (.agld (bits w 41 39) (bits w 16 0)) else none
  | _ => if vecRegOk op (decVecF w) then some (.reg op (decVecF w)) else none

def decXferF (w : Nat) : XferF :=
  { hdl := BitVec.ofNat 6 (bits w 58 53), ag := BitVec.ofNat 3 (bits w 52 50), ent := BitVec.ofNat 2 (bits w 49 48),
    off := BitVec.ofNat 4 (bits w 47 44), nb1 := BitVec.ofNat 4 (bits w 43 40), llvl := BitVec.ofNat 4 (bits w 39 36),
    lstr := BitVec.ofNat 17 (bits w 35 19), cve := BitVec.ofNat 1 (bits w 18 18), cvb := BitVec.ofNat 3 (bits w 17 15),
    tk := BitVec.ofNat 1 (bits w 14 14) }

/-- The reserved combinations of R210. -/
def xferOk (isGet : Bool) (f : XferF) : Bool :=
  f.off.toNat + f.nb1.toNat + 1 ≤ 16 && f.llvl.toNat ≤ 8 && !(f.cve == 1 && (isGet || f.nb1.toNat + 1 > 8))
    && !(f.tk == 1 && isGet) && (f.llvl != 0 || f.lstr == 0)

/-- The MOVE slot (R210, R211). -/
def decMove (w : Nat) : Option MoveOp :=
  match bits w 63 59 with
  | 0 => if w = 0 then some .nop else none
  | 1 => if bits w 13 0 = 0 ∧ bits w 34 31 ≤ 8 ∧ (bits w 34 31 = 0 → bits w 30 14 = 0) then
           some (.send (bits w 58 53) (bits w 52 50) (bits w 49 38 + 1) (bits w 37 36) (bits w 35 35) (bits w 34 31)
             (bits w 30 14)) else none
  | 2 => if bits w 48 0 = 0 ∧ bits w 58 57 ≠ bits w 56 55 then
           some (.recv (bits w 58 57) (bits w 56 55) (bits w 54 49 + 1)) else none
  | 3 => if bits w 13 0 = 0 ∧ xferOk true (decXferF w) then some (.xfer true (decXferF w)) else none
  | 4 => if bits w 13 0 = 0 ∧ xferOk false (decXferF w) then some (.xfer false (decXferF w)) else none
  | 5 => if bits w 33 0 ≠ 0 then none else (decTag w).map fun a => .tag true a
  | 6 => if bits w 33 0 ≠ 0 then none else (decTag w).map fun a => .tag false a
  | _ => none
where
  /-- TAGSET and TAGCLR operands: in each form the other form's fields are zero. -/
  decTag (w : Nat) : Option SlotArg :=
    if bit w 58 then (if bits w 57 37 = 0 then some (.gen (BitVec.ofNat 3 (bits w 36 34))) else none)
    else if bits w 36 34 = 0 then some (.imm (BitVec.ofNat 4 (bits w 57 54)) (BitVec.ofNat 17 (bits w 53 37)))
    else none

/-- The registers a VEC slot writes, coded with their kind, and the latency (R51, R187 item 4). -/
def vecDests : VecOp → List (Nat × Nat)
  | .nop => []
  | .imm d _ => [(d, 3)]
  | .mem store d _ _ _ => if store then [] else [(d, 8)]
  | .agld ag _ => [(128 + ag, 8)]
  | .reg op f =>
    match vInfo op f.fn.toNat with
    | none => []
    | some i =>
      if i.predD then [(64 + f.d.toNat, i.lat)]
      else if i.pairD then [(f.d.toNat, i.lat), (f.d.toNat + 1, i.lat)]
      else [(f.d.toNat, i.lat)]

def vecSfu : VecOp → Bool
  | .reg op f => (vInfo op f.fn.toNat).any (·.sfu)
  | _ => false

/-- Decode a bundle; none where R187 refuses it. -/
def decBundle (w : Word256) : Option Bundle :=
  match decCtrl (slotCtrl w), decCube (slotCube w), decVec (slotVec .a w), decVec (slotVec .b w), decMove (slotMove w) with
  | some (c, e), some q, some a, some b, some m =>
    if (vecDests a).any (fun x => (vecDests b).any (· == x)) || (vecSfu a && vecSfu b) then none
    else some ⟨c, e, q, a, b, m⟩
  | _, _, _, _, _ => none

/-! ## Address generators -/

/-- Dimension i of a descriptor: SRC, count and stride (R191). -/
def agSrc (g : AddrGen) (i : Nat) : Nat := bits g.desc.toNat (32 + 56 * i + 38) (32 + 56 * i + 35)
def agCount (g : AddrGen) (i : Nat) : Nat := bits g.desc.toNat (32 + 56 * i + 34) (32 + 56 * i + 18) + 1
def agStride (g : AddrGen) (i : Nat) : Int := sgn 18 (bits g.desc.toNat (32 + 56 * i + 17) (32 + 56 * i))
def agCtr (g : AddrGen) (i : Nat) : Nat :=
  match i with
  | 0 => g.c0
  | 1 => g.c1
  | 2 => g.c2
  | _ => g.c3
def agTake (g : AddrGen) : Bool := bit g.desc.toNat 22
def agWin (g : AddrGen) : Nat := bits g.desc.toNat 21 18
def agWindowed (g : AddrGen) : Bool := bit g.desc.toNat 17

/-- A descriptor VAGLD accepts (R191). -/
def descOk (w : Word256) : Bool :=
  let n := w.toNat
  bits n 31 23 == 0 && (bit n 17 || bits n 21 18 == 0)
    && (List.range 4).all (fun i => bits n (32 + 56 * i + 55) (32 + 56 * i + 39) == 0
          && bits n (32 + 56 * i + 38) (32 + 56 * i + 35) ≤ 8)

/-- The pass index of loop level k: its loaded count less lck, 0 for a level that is not open (R192). -/
def passIdx (r : Regs) (k : Nat) : Nat :=
  match r.loops[k]? with
  | some l => l.count - r.rlc k
  | none => 0

/-- A generator's index in dimension i (R192). -/
def agIndex (r : Regs) (g : AddrGen) (i : Nat) : Nat :=
  if agSrc g i = 0 then agCtr g i else passIdx r (agSrc g i - 1) % agCount g i

/-- The generator's offset, an exact signed integer (R192). -/
def agOffset (r : Regs) (g : AddrGen) : Int :=
  (List.range 4).foldl (fun s i => s + agStride g i * (agIndex r g i : Int)) (bits g.desc.toNat 16 0 : Int)

/-- One use advances the self-counting dimensions as an odometer (R193). -/
def agAdvance (g : AddrGen) : AddrGen :=
  let stepDim (carry : Bool) (i : Nat) : Bool × Nat :=
    if !carry || agSrc g i != 0 then (carry, agCtr g i)
    else if agCtr g i + 1 ≥ agCount g i then (true, 0) else (false, agCtr g i + 1)
  let (k0, c0) := stepDim true 0
  let (k1, c1) := stepDim k0 1
  let (k2, c2) := stepDim k1 2
  let (_, c3) := stepDim k2 3
  { g with c0 := c0, c1 := c1, c2 := c2, c3 := c3 }

/-! ## Accesses of a tile to its scratchpad -/

/-- A resolved access: its words as absolute scratchpad words, its window, and whether that window is tagged. -/
structure Res where
  first : Nat
  n : Nat
  win : Option Nat
  tagged : Bool
  deriving DecidableEq, Repr

def Res.words (r : Res) : List Nat := (List.range r.n).map (r.first + ·)

/-- A window's settings (R165, R179, R180). -/
def Dev.winValid (d : Dev) (t w : Nat) : Bool := d.rb (Reg.tile t (Reg.WIN w)) 63
def Dev.winTagged (d : Dev) (t w : Nat) : Bool := d.rb (Reg.tile t (Reg.WIN w)) 62
def Dev.winPersist (d : Dev) (t w : Nat) : Bool := d.rb (Reg.tile t (Reg.WIN w)) 61
def Dev.winRLocal (d : Dev) (t w : Nat) : Bool := d.rb (Reg.tile t (Reg.WIN w)) 60
def Dev.winWLocal (d : Dev) (t w : Nat) : Bool := d.rb (Reg.tile t (Reg.WIN w)) 59
def Dev.winWRemote (d : Dev) (t w : Nat) : Bool := d.rb (Reg.tile t (Reg.WIN w)) 58
def Dev.winRRemote (d : Dev) (t w : Nat) : Bool := d.rb (Reg.tile t (Reg.WIN w)) 57
def Dev.winOwner (d : Dev) (t w : Nat) : Nat := d.trf t (Reg.WIN w) 55 54
def Dev.winCtx (d : Dev) (t w : Nat) : Nat := d.trf t (Reg.WIN w) 53 48
/-- Whether the context a window belongs to is being fenced: what would cross into it is refused (R517). -/
def Dev.winFenced (d : Dev) (t w : Nat) : Bool := d.fences.contains (.context (d.winCtx t w))
def Dev.winSlot (d : Dev) (t w : Nat) : Nat := 2 ^ d.trf t (Reg.WIN w) 35 32
def Dev.winBase (d : Dev) (t w : Nat) : Nat := d.trf t (Reg.WIN w) 16 0
def Dev.winBound (d : Dev) (t w : Nat) : Nat := d.trf t (Reg.WINB w) 17 0

/-- A window access of n words from an offset, by the running context's slot (R167). -/
def Dev.winAccess (d : Dev) (t slot w : Nat) (off : Int) (n : Nat) (wr : Bool) : Except Nat Res :=
  if d.winValid t w && d.winOwner t w == slot && decide (0 ≤ off) && decide (off.toNat + n ≤ d.winBound t w)
      && (if wr then d.winWLocal t w else d.winRLocal t w)
  then .ok ⟨d.winBase t w + off.toNat, n, some w, d.winTagged t w⟩
  else .error FC.WINDOW

/-- A private access (R67, R194). -/
def Dev.privAccess (d : Dev) (t slot : Nat) (off : Int) (n : Nat) : Except Nat Res :=
  if decide (0 ≤ off) && decide (off.toNat + n ≤ d.trf t (Reg.SP slot) 49 32)
  then .ok ⟨d.trf t (Reg.SP slot) 16 0 + off.toNat, n, none, false⟩
  else .error FC.SP_BOUND

/-- The access of n words through generator g of the running context (R194). -/
def Dev.agAccess (d : Dev) (t g n : Nat) (wr : Bool) : Except Nat Res :=
  let r := (d.tile t).regs
  let a := r.rAg g
  if agWindowed a then d.winAccess t (d.tile t).slot (agWin a) (agOffset r a) n wr
  else d.privAccess t (d.tile t).slot (agOffset r a) n

/-- The words of the slot that WAITF, WAITE, TAGSET or TAGCLR names (R199), with its window. -/
def Dev.slotWords (d : Dev) (t : Nat) (a : SlotArg) : Except Nat (Nat × List Nat) :=
  let x := d.tile t
  let named : Option (Nat × Nat) :=
    match a with
    | .imm w i => some (w.toNat, i.toNat)
    | .gen g =>
      let ag := x.regs.rAg g.toNat
      let off := agOffset x.regs ag
      if agWindowed ag && decide (0 ≤ off) then some (agWin ag, off.toNat / d.winSlot t (agWin ag)) else none
  match named with
  | none => .error FC.WINDOW
  | some (w, i) =>
    let sz := d.winSlot t w
    if d.winValid t w && d.winOwner t w == x.slot && decide ((i + 1) * sz ≤ d.winBound t w)
    then .ok (w, (List.range sz).map (d.winBase t w + i * sz + ·))
    else .error FC.WINDOW

end Sys2Proof.Machine
end

