-- ==== Sys2Proof/Machine/Sfu.lean ====
section
/-! DEFINITION. The special-function unit (R127), correctly rounded, and the cosine of the schedule engine (R137). The
transcendental values are computed in integers to 2^−240 and rounded once; log entry 6. -/

namespace Sys2Proof.Machine

/-- Fraction bits of the fixed-point work. -/
def fxBits : Nat := 240

/-- ln 2 in fixed point, by the series of 1/(k 2^k). -/
def fxLn2 : Nat :=
  ((List.range 260).foldl (fun acc k => acc + 2 ^ (fxBits + 30) / ((k + 1) * 2 ^ (k + 1))) 0) / 2 ^ 30

/-- atan(1/n) in fixed point with 30 guard bits. -/
def fxAtanInv (n terms : Nat) : Int :=
  (List.range terms).foldl (fun (acc : Int) k =>
    let t : Int := ((2 ^ (fxBits + 30) / ((2 * k + 1) * n ^ (2 * k + 1)) : Nat) : Int)
    if k % 2 = 0 then acc + t else acc - t) 0

/-- π in fixed point (16 atan(1/5) − 4 atan(1/239)). -/
def fxPi : Nat := (16 * fxAtanInv 5 62 - 4 * fxAtanInv 239 20).toNat / 2 ^ 30

/-- exp(y) in fixed point for 0 ≤ y < 1, by the Taylor series. -/
def fxExpGo : Nat → Nat → Nat → Nat → Nat → Nat
  | 0, _, _, _, acc => acc
  | n + 1, k, y, term, acc =>
    let t := term * y / 2 ^ fxBits / k
    fxExpGo n (k + 1) y t (acc + t)
def fxExp (y : Nat) : Nat := fxExpGo 60 1 y (2 ^ fxBits) (2 ^ fxBits)

/-- 2 atanh(z) in fixed point for 0 ≤ z ≤ 1/3. -/
def fxLnGo : Nat → Nat → Nat → Nat → Nat → Nat
  | 0, _, _, _, acc => acc
  | n + 1, k, z2, pw, acc =>
    fxLnGo n (k + 2) z2 (pw * z2 / 2 ^ fxBits) (acc + pw / k)
def fxLn (num den : Nat) : Nat :=
  let z := (num - den) * 2 ^ fxBits / (num + den)
  2 * fxLnGo 80 1 (z * z / 2 ^ fxBits) z 0

/-- cos(y) in fixed point for 0 ≤ y ≤ π/2. -/
def fxCosGo : Nat → Nat → Int → Int → Int → Int
  | 0, _, _, _, acc => acc
  | n + 1, k, y2, term, acc =>
    let t := -(term * y2 / ((2 ^ fxBits : Nat) : Int) / (((k + 1) * (k + 2) : Nat) : Int))
    fxCosGo n (k + 2) y2 t (acc + t)
def fxCos (y : Nat) : Nat :=
  (fxCosGo 40 0 ((y * y / 2 ^ fxBits : Nat) : Int) ((2 ^ fxBits : Nat) : Int) ((2 ^ fxBits : Nat) : Int)).toNat

/-- The floor of the square root of n, by bits from the top. -/
def isqrtGo : Nat → Nat → Nat → Nat
  | 0, _, r => r
  | k + 1, n, r => let c := r + 2 ^ k; isqrtGo k n (if c * c ≤ n then c else r)
def isqrt (n : Nat) : Nat := isqrtGo (n.log2 / 2 + 1) n 0

/-- RNE of an irrational value that lies strictly between v/2^fxBits and (v+1)/2^fxBits, times 2^k. -/
def rndFx (neg : Bool) (v : Nat) (k : Int) : W32 := enc32 (.fin neg (2 * v + 1) (k - ((fxBits + 1 : Nat) : Int)))

/-- EXP2 (R127). A whole exponent is exact. -/
def exp2F (a : W32) : W32 :=
  match dec32 a with
  | .nan => nan32
  | .inf n => if n then 0 else 0x7F800000#32
  | .fin n m e =>
    if m = 0 then 0x3F800000#32 else
    let (num, den) := dyRat m e
    if num ≥ 256 * den then (if n then 0 else 0x7F800000#32) else
    let y : Int := signedM n num
    let k := y / (den : Int)
    let r := (y - k * den).toNat
    if r = 0 then enc32 (.fin false 1 k)
    else if den > 2 ^ 40 then
      -- |x| below 2^-16 with more fraction bits than the work carries: 1 plus or minus less than half a unit
      (if num * 2 ^ 26 < den then 0x3F800000#32 else rndFx false (fxExp (r * fxLn2 / den)) k)
    else rndFx false (fxExp (r * fxLn2 / den)) k

/-- LOG2 (R127). A power of two is exact. -/
def log2F (a : W32) : W32 :=
  match dec32 a with
  | .nan => nan32
  | .inf n => if n then nan32 else 0x7F800000#32
  | .fin n m e =>
    if m = 0 then 0xFF800000#32 else if n then nan32 else
    let k : Int := (m.log2 : Int) + e
    let den := 2 ^ m.log2
    if m = den then enc32 (.fin (decide (k < 0)) k.natAbs 0) else
    let l := fxLn m den * 2 ^ fxBits / fxLn2
    let v : Int := k * ((2 ^ fxBits : Nat) : Int) + l
    if v ≥ 0 then rndFx false v.toNat 0 else rndFx true (-v - 1).toNat 0

/-- RCP (R127): the reciprocal is a quotient of integers, rounded once. -/
def rcpF (a : W32) : W32 :=
  match dec32 a with
  | .nan => nan32
  | .inf n => if n then 0x80000000#32 else 0
  | .fin n m e =>
    if m = 0 then (if n then 0xFF800000#32 else 0x7F800000#32) else
    let (num, den) := dyRat m e
    BitVec.ofNat 32 (roundRat fp32 den num + b2n n * 0x80000000)

/-- RSQ (R127): the square of the result is a quotient of integers. -/
def rsqF (a : W32) : W32 :=
  match dec32 a with
  | .nan => nan32
  | .inf n => if n then nan32 else 0
  | .fin n m e =>
    if m = 0 then (if n then 0xFF800000#32 else 0x7F800000#32) else if n then nan32 else
    let (num, den) := dyRat m e
    let q := den * 2 ^ (2 * fxBits)
    let r := isqrt (q / num)
    if r * r * num = q then enc32 (.fin false r (-(fxBits : Int))) else rndFx false r 0

/-- TANH (R127). Below 2^−13 the exact value rounds to x; at 10 and above to 1. -/
def tanhF (a : W32) : W32 :=
  match dec32 a with
  | .nan => nan32
  | .inf n => if n then 0xBF800000#32 else 0x3F800000#32
  | .fin n m e =>
    if m = 0 then a else
    let (num, den) := dyRat m e
    if num * 8192 < den then a
    else if num ≥ 10 * den then (if n then 0xBF800000#32 else 0x3F800000#32)
    else
      let y := 2 * num * 2 ^ fxBits / den
      let k := y / fxLn2
      let ex := fxExp (y - k * fxLn2) * 2 ^ k
      let one := 2 ^ fxBits
      let t := (ex - one) * one / (ex + one)
      rndFx n t 0

/-- cos(π x) for an FP32 x in 0 to 1, correctly rounded (R137). -/
def cosPiF (x : W32) : W32 :=
  match dec32 x with
  | .fin _ m e =>
    let (num, den) := dyRat m e
    if num = 0 then 0x3F800000#32
    else if 2 * num = den then 0
    else if num ≥ den then 0xBF800000#32
    else
      let neg := decide (2 * num > den)
      let y := if neg then den - num else num
      if y * 2 ^ 20 < den then (if neg then 0xBF800000#32 else 0x3F800000#32)
      else rndFx neg (fxCos (y * fxPi / den)) 0
  | _ => nan32

/-- u and the cycle length after the restarts of R137; `fuel` bounds the restarts. -/
def lrCycle (mult : Nat) : Nat → Nat → Nat → Nat × Nat
  | 0, u, len => (u, len)
  | n + 1, u, len => if u ≥ len then lrCycle mult n (u - len) (min (len * max mult 1) (2 ^ 63)) else (u, len)

/-- The learning rate of step t (R137). Each line rounds once. With a multiplier of 1 the restarts leave u modulo the
period. -/
def lrOf (peak floor : W32) (warm period mult t : Nat) : W32 :=
  if t < warm then
    match dec32 peak with
    | .fin n m e => let (num, den) := dyRat m e
                    BitVec.ofNat 32 (roundRat fp32 (num * (t + 1)) (den * warm) + b2n n * 0x80000000)
    | v => enc32 v
  else if period = 0 then peak
  else
    let u0 := t - warm
    let (u, len) := if max mult 1 = 1 then (u0 % period, period) else lrCycle mult 40 u0 period
    let d := subF peak floor
    let h := mulF 0x3F000000#32 d
    let x : W32 := BitVec.ofNat 32 (roundRat fp32 u len)
    let c := cosPiF x
    let e := addF 0x3F800000#32 c
    fmaF h e floor

end Sys2Proof.Machine
end

