-- ==== Sys2Proof/Machine/Vec.lean ====
section
/-! DEFINITION. What the vector operations compute (R121 to R132, R207, R208), as functions of their sources. -/

namespace Sys2Proof.Machine

/-- The sources of a VEC operation, read at the start of the issue beat (R188). -/
structure VSrc where
  a : BitVec 2048
  b : BitVec 2048
  c : BitVec 2048
  a1 : BitVec 2048
  b1 : BitVec 2048
  pa : BitVec 64
  pb : BitVec 64
  sel : BitVec 64
  msk : BitVec 64
  deriving DecidableEq, Repr

/-- The shift count: FN 4:0, or lane i of B modulo 32 (R208). -/
def shCount (fn : Nat) (b : W32) : Nat := if bit fn 5 then fn % 32 else b.toNat % 32

/-- VCVT of one lane (R208). -/
def cvtLane (kind : Nat) (a b : W32) : W32 :=
  match kind with
  | 0 => toI32 a
  | 1 => toU32 a
  | 2 => ofI32 a
  | 3 => ofU32 a
  | 4 => BitVec.ofNat 32 (fEnc bf16 (dec32 a) + fEnc bf16 (dec32 b) * 65536)
  | 5 => BitVec.ofNat 32 (fEnc fp16 (dec32 a) + fEnc fp16 (dec32 b) * 65536)
  | 6 => enc32 (fDec bf16 (a.toNat % 65536))
  | 7 => enc32 (fDec bf16 (a.toNat / 65536))
  | 8 => enc32 (fDec fp16 (a.toNat % 65536))
  | _ => enc32 (fDec fp16 (a.toNat / 65536))

/-- A lane-wise operation on lane i (R121, R122, R127, R129, R207). -/
def vecLane (op fn i : Nat) (s : VSrc) : W32 :=
  let a := lane s.a i; let b := lane s.b i; let c := lane s.c i
  match op with
  | 0x01 => addF a b
  | 0x02 => subF a b
  | 0x03 => mulF a b
  | 0x04 => fmaF a b c
  | 0x05 => maxF a b
  | 0x06 => minF a b
  | 0x07 => absF a
  | 0x08 => negF a
  | 0x09 => signF a
  | 0x0A => if s.sel.getLsbD i then a else b
  | 0x10 => a + b
  | 0x11 => a - b
  | 0x12 => a * b
  | 0x13 => a &&& b
  | 0x14 => a ||| b
  | 0x15 => a ^^^ b
  | 0x16 => a <<< shCount fn b
  | 0x17 => a >>> shCount fn b
  | 0x18 => a.sshiftRight (shCount fn b)
  | 0x19 => if (if bit fn 3 then a.ult b else a.slt b) then b else a
  | 0x1A => if (if bit fn 3 then b.ult a else b.slt a) then b else a
  | 0x1C => cvtLane fn a b
  | 0x24 => if i = 0 then s.pa.truncate 32 else if i = 1 then (s.pa >>> 32).truncate 32 else 0
  | 0x34 => exp2F a
  | 0x35 => log2F a
  | 0x36 => rcpF a
  | 0x37 => rsqF a
  | 0x38 => tanhF a
  | 0x39 => BitVec.ofNat 32 (philox (lane s.a 0).toNat (lane s.a 1).toNat
              (((lane s.a 2).toNat + i) % 2 ^ 32) (lane s.a 3).toNat 0 0).1
  | _ => 0

/-- An FP32 or integer comparison (R123, R208). Ordered FP32 compares give 0 on a NaN, NE gives 1. -/
def cmpLane (op fn : Nat) (a b : W32) : Bool :=
  let (lt, gt, un) :=
    if op = 0x1D then (fLt (dec32 a) (dec32 b), fLt (dec32 b) (dec32 a), isNan32 a || isNan32 b)
    else if bit fn 3 then (a.ult b, b.ult a, false) else (a.slt b, b.slt a, false)
  match fn % 8 with
  | 0 => !lt && !gt && !un
  | 1 => lt || gt || un
  | 2 => lt
  | 3 => !gt && !un
  | 4 => gt
  | _ => !lt && !un

/-- A predicate result (R207). -/
def predBit (op fn i : Nat) (s : VSrc) : Bool :=
  match op with
  | 0x1D => cmpLane op fn (lane s.a i) (lane s.b i)
  | 0x1E => cmpLane op fn (lane s.a i) (lane s.b i)
  | 0x20 => s.pa.getLsbD i && s.pb.getLsbD i
  | 0x21 => s.pa.getLsbD i || s.pb.getLsbD i
  | 0x22 => s.pa.getLsbD i != s.pb.getLsbD i
  | 0x23 => !s.pa.getLsbD i
  | 0x25 => s.a.getLsbD i
  | _ => false

/-- A predicate from a function of the lane. -/
def mkPred (f : Nat → Bool) : BitVec 64 :=
  BitVec.ofNat 64 ((List.range 64).foldl (fun n i => n + if f i then 2 ^ i else 0) 0)

/-- One level of a reduction tree: positions 2i and 2i + 1 combine, lower left (R125). -/
def pairUp (f : W32 → W32 → W32) : List W32 → List W32
  | x :: y :: r => f x y :: pairUp f r
  | l => l

/-- Six levels reduce 64 lanes (R125). -/
def reduce64 (f : W32 → W32 → W32) (l : List W32) : W32 :=
  (pairUp f (pairUp f (pairUp f (pairUp f (pairUp f (pairUp f l)))))).headD 0

/-- The combining function and identity of a reduction (R125). -/
def redFn (op : Nat) : (W32 → W32 → W32) × W32 :=
  match op with
  | 0x28 => (addF, 0)
  | 0x29 => (maxF, 0xFF800000#32)
  | 0x2A => (minF, 0x7F800000#32)
  | 0x2B => ((· ||| ·), 0)
  | _ => ((· &&& ·), 0xFFFFFFFF#32)

def reduction (op : Nat) (s : VSrc) : BitVec 2048 :=
  let (f, e) := redFn op
  let r := reduce64 f ((List.range 64).map fun i => if s.msk.getLsbD i then lane s.a i else e)
  mkVec fun _ => r

/-- Whether entry (k, x) comes before entry (l, y) in sample order (R130). -/
def before (k x l y : W32) : Bool := sampleKeyGt k l || (!sampleKeyGt l k && x.ult y)

/-- One stage of a bitonic sort on a pair: keys s.a, indices s.a1; distance j, block size z (R131). Where neither entry comes before the other, the
lower lane's counts as the first (DESIGN CHOICE, log entry 99: the spec is silent on it). -/
def bitonic (j z : Nat) (s : VSrc) : BitVec 2048 × BitVec 2048 :=
  let src (i : Nat) : Nat :=
    let lo := if (i / j) % 2 = 0 then i else i - j
    let hi := lo + j
    let fwd := (lo / z) % 2 == 0 || z == 64
    let first := if before (lane s.a hi) (lane s.a1 hi) (lane s.a lo) (lane s.a1 lo) then hi else lo
    let second := if first = hi then lo else hi
    if (i == lo) == fwd then first else second
  (mkVec fun i => lane s.a (src i), mkVec fun i => lane s.a1 (src i))

/-- Merge the running pair (a, a1) and the candidate pair (b, b1); the running head is taken on a tie (R132). -/
def mergeGo (s : VSrc) : Nat → Nat → Nat → List (W32 × W32)
  | 0, _, _ => []
  | n + 1, i, j =>
    let takeB := j < 64 && (i ≥ 64 || before (lane s.b j) (lane s.b1 j) (lane s.a i) (lane s.a1 i))
    if takeB then (lane s.b j, lane s.b1 j) :: mergeGo s n i (j + 1)
    else (lane s.a i, lane s.a1 i) :: mergeGo s n (i + 1) j

def topk (k : Nat) (s : VSrc) : BitVec 2048 × BitVec 2048 :=
  let l := mergeGo s k 0 0 ++ List.replicate (64 - k) (0xFF800000#32, 0xFFFFFFFF#32)
  (ofLanes (l.map (·.1)), ofLanes (l.map (·.2)))

/-- Replace lane i of a vector. -/
def setLane (v : BitVec 2048) (i : Nat) (x : W32) : BitVec 2048 :=
  (v &&& ~~~(BitVec.ofNat 2048 (0xFFFFFFFF <<< (32 * i)))) ||| (x.zeroExtend 2048 <<< (32 * i))

/-- What a register-form operation delivers (R207). -/
def vecResult (op fn d : Nat) (s : VSrc) : List Deliver :=
  if op = 0x1D ∨ op = 0x1E then [.p d (mkPred fun i => predBit op fn i s) s.msk]
  else if op = 0x20 ∨ op = 0x21 ∨ op = 0x22 ∨ op = 0x23 ∨ op = 0x25 then
    [.p d (mkPred fun i => predBit op fn i s) (BitVec.allOnes 64)]
  else if 0x28 ≤ op ∧ op ≤ 0x2C then [.v d (reduction op s) (BitVec.allOnes 64)]
  else if op = 0x2D then [.v d (mkVec fun i => lane s.a ((lane s.b i).toNat % 64)) (BitVec.allOnes 64)]
  else if op = 0x2E then [.v d (mkVec fun i => lane s.a ((i + fn) % 64)) (BitVec.allOnes 64)]
  else if op = 0x2F then [.v d (mkVec fun _ => lane s.a fn) (BitVec.allOnes 64)]
  else if op = 0x30 then
    let r := bitonic (2 ^ (fn % 8)) (2 ^ (fn / 8)) s
    [.v d r.1 (BitVec.allOnes 64), .v (d + 1) r.2 (BitVec.allOnes 64)]
  else if op = 0x31 then
    let r := topk (fn + 1) s
    [.v d r.1 (BitVec.allOnes 64), .v (d + 1) r.2 (BitVec.allOnes 64)]
  else [.v d (mkVec fun i => vecLane op fn i s) (if op = 0x24 then BitVec.allOnes 64 else s.msk)]

end Sys2Proof.Machine
end

