-- ==== Sys2Proof/Machine/Tile.lean ====
section
/-! DEFINITION. The tile as it executes (chapters 2 to 6): reads and writes of the scratchpad with ECC, poison, tags and
shadow tags; results; mismatches and captures; context faults. -/

namespace Sys2Proof.Machine

/-! ## Contexts of a tile -/

def Dev.isCad (d : Dev) (t slot : Nat) : Bool := d.rb (Reg.tile t (Reg.CS slot)) 47
def Dev.ctxOf (d : Dev) (t slot : Nat) : Nat := d.trf t (Reg.CS slot) 53 48
def Dev.slotState (d : Dev) (t slot : Nat) : Nat := d.trf t (Reg.CTXSTATE slot) 2 0
def Dev.setSlotState (d : Dev) (t slot v : Nat) : Dev := d.twf t (Reg.CTXSTATE slot) 2 0 v
def noCtx : Nat → Option CtxInfo := fun _ => none
def Dev.ctx (d : Dev) (c : Nat) : Option CtxInfo := smGet noCtx d.ctxs c
def Dev.setCtx (d : Dev) (c : Nat) (x : Option CtxInfo) : Dev := { d with ctxs := smSet noCtx d.ctxs c x }
/-- The port that owns a context (R460). -/
def Dev.ctxPort (d : Dev) (c : Nat) : Option Nat := (d.ctx c).map (·.port)

/-- Fail a tile's verdict with a cause (R264). -/
def Dev.failVerdict (d : Dev) (t cause : Nat) : Dev :=
  d.upd t fun x => { x with verdict := x.verdict ||| BitVec.ofNat 16 (2 ^ cause) }

/-! ## Scratchpad words (R155 to R163) -/

/-- The bank row that holds a row of a bank: its spare once it is remapped, 256 and up, the last one given to it (R161). -/
def Tile.bankRow (x : Tile) (bank row : Nat) : Nat :=
  match ([3, 2, 1, 0] : List Nat).find? fun i => smGet (fun _ => 0) x.remap (4 * bank + i) == row + 1 with
  | some i => 256 + i
  | none => row
/-- The location of a word as R559 lays it out: bank, bank row and position. -/
def Dev.spLoc (d : Dev) (t w : Nat) : W64 :=
  w64 (w % 64 + (d.tile t).bankRow (w % 64) (w / 512) * 64 + ((w / 64) % 8) * 2 ^ 15)

/-- What the read of a word, or the merge of a partial write, finds wrong with its check bits; of a word that is already poisoned nothing
is counted or reported again (R155 to R158). The report names the place given. -/
def Dev.eccCheckAt (d : Dev) (t w : Nat) (loc : W64) (o : Obs) : Dev :=
  let d := d.when (o.ecc.contains (BitVec.ofNat 17 w, false) && !smGet noTag (d.tile t).corrPend w && !(d.tile t).poisoned w) fun d =>
    ((d.tinc t Reg.SP_CORR).report 0 t loc).upd t (·.setCorr w true)
  d.when (o.ecc.contains (BitVec.ofNat 17 w, true) && !(d.tile t).poisoned w) fun d =>
    ((d.tinc t Reg.SP_DOUBLE).report 1 t loc).upd t (·.setPoison w true)
def Dev.eccCheck (d : Dev) (t w : Nat) (o : Obs) : Dev := d.eccCheckAt t w (d.spLoc t w) o

/-- Read a word: its value, whether it is poisoned, and the state after the check. -/
def Dev.spRead (d : Dev) (t w : Nat) (o : Obs) : (Word256 × Bool) × Dev :=
  let d := d.eccCheck t w o
  ((d.spRd t w, (d.tile t).poisoned w), d)

/-- Read words in order. -/
def Dev.spReads (d : Dev) (t : Nat) (o : Obs) : List Nat → List (Word256 × Bool) × Dev
  | [] => ([], d)
  | w :: ws =>
    let (x, d) := d.spRead t w o
    let (xs, d) := d.spReads t o ws
    (x :: xs, d)

/-- Write a word, whole or merged by 32-bit lanes (R155, R157, R158); a write into a window sets its tag (R163). -/
def Dev.spWrite (d : Dev) (t w : Nat) (v : Word256) (lanes : BitVec 8) (inWin : Bool) (o : Obs) : Dev :=
  let whole := lanes == 0xFF
  let d := if whole then d.upd t (·.setPoison w false)
           else d.eccCheck t w o
  let m : Word256 := BitVec.ofNat 256 ((List.range 8).foldl
    (fun n i => n + if lanes.getLsbD i then 0xFFFFFFFF * 2 ^ (32 * i) else 0) 0)
  let d := d.spWr t w ((d.spRd t w &&& ~~~m) ||| (v &&& m))
  let d := d.upd t (·.setCorr w false)
  if inWin then d.upd t (·.setTag w true) else d

/-- A shadow-tag violation at word w of a static window (R171, R184), recorded under a context slot: the running context's for an access
of the tile, the window owner's for a landing or an aperture access (DESIGN CHOICE, log entry 82). -/
def Dev.shadowViolation (d : Dev) (t slot win w : Nat) (write : Bool) : Dev :=
  let sz := d.winSlot t win
  let first := d.winBase t win + (w - d.winBase t win) / sz * sz
  let c := d.ctxOf t slot
  let rec' : W64 := w64 (b2n write * 2 ^ 62 + c * 2 ^ 56 + slot * 2 ^ 54 + win * 2 ^ 48 + first)
  let d := d.tinc t Reg.SP_SHADOW
  let d := d.when (!d.rb (Reg.tile t Reg.SHADOW_REC) 63) fun d =>
    ((d.twr t Reg.SHADOW_REC (rec' ||| w64 (2 ^ 63))).twr t Reg.SHADOW_BEAT (d.trd t Reg.BEAT)).twr t Reg.SHADOW_FRAME
      (w64 (if d.isCad t slot then d.frame else 0))
  d.varveLog 14 0 0 t { ctx := some c } rec' (d.trd t Reg.BEAT)

/-! ## Register delivery (R49, R51, R123) -/

/-- Merge by lanes under a mask. -/
def mergeV (old new : BitVec 2048) (m : BitVec 64) : BitVec 2048 :=
  if m = BitVec.allOnes 64 then new else (old &&& ~~~(spread m)) ||| (new &&& spread m)

/-- An in-flight register write becomes readable. -/
def deliverReg (r : Regs) : Deliver → Regs
  | .v n x m => r.wv n (mergeV (r.rv n) x m)
  | .p n x m => r.wp n ((r.rp n &&& ~~~m) ||| (x &&& m))
  | .acc n x => { r with accOut := smSet zeroAcc r.accOut n x }
  | .ag n w => if descOk w then r.wAg n { desc := w } else r
  | _ => r

/-- Keep in-flight operations in the order they deliver; those of one beat in the order of issue (R51). -/
def insInflight (x : Inflight) : List Inflight → List Inflight
  | [] => [x]
  | y :: ys => if x.due < y.due then x :: y :: ys else y :: insInflight x ys

def Dev.addInflight (d : Dev) (t : Nat) (l : List Inflight) : Dev :=
  d.upd t fun x => { x with inflight := l.foldl (fun acc i => insInflight i acc) x.inflight }

/-- What of the in-flight operations is more than a register write: it acts in an issue beat (R159, R191, R135). -/
def Inflight.acts (i : Inflight) : Bool :=
  match i.what with
  | .poison => true
  | .lane .. => true
  | .ag _ w => !descOk w
  | _ => false

/-- Every due register write becomes readable; what is due but acts in an issue beat stays. -/
def Dev.deliverDue (d : Dev) (t upTo : Nat) : Dev :=
  d.upd t fun x =>
    { x with regs := (x.inflight.filter (fun i => i.due ≤ upTo)).foldl (fun r i => deliverReg r i.what) x.regs
             inflight := x.inflight.filter (fun i => i.acts || !(i.due ≤ upTo)) }

/-! ## Mismatches and captures -/

/-- Write a tile's register words from an offset. -/
def Dev.twords (d : Dev) (t off : Nat) : List W64 → Dev
  | [] => d
  | w :: ws => (d.twr t off w).twords t (off + 8) ws

/-- The 64-bit words of a number. -/
def numWords (n v : Nat) : List W64 := (List.range n).map fun i => w64 (v >>> (64 * i))

/-- Whether a tile's field is under a sweep (R351). -/
def Dev.underTest (d : Dev) (t : Nat) : Bool :=
  d.rf Reg.SWEEP_STATUS 47 40 ≥ 2 && d.rf Reg.SWEEP_STATUS 39 36 == physField t
/-- A capture buffer takes what a mismatch left, held until it is released; `test` tells a capture of a sweep or a test run (R112, R146, R351). -/
def Dev.holdCube (d : Dev) (t : Nat) (ws : List W64) (test : Bool) : Dev :=
  ((d.twords t 0x800 ws).twf t Reg.CAP_STATUS 63 63 1).upd t fun x => { x with capTest := test }
def Dev.holdLane (d : Dev) (t : Nat) (ws : List W64) (test : Bool) : Dev :=
  ((d.twords t 0x338 ws).twf t Reg.LCAP_STATUS 63 63 1).upd t fun x => { x with lcapTest := test }
/-- Count a mismatch that finds the capture buffer held, saturating (R119, R146). -/
def Dev.missed (d : Dev) (t off : Nat) : Dev := d.twf t off 47 32 (min 65535 (d.trf t off 47 32 + 1))

/-- What the record of a mismatch takes from the step, close or drain beside what the check cube found: its set, formats, the elements
of the chain before it, operands as read, context slot, pc and CUBE slot (R113). -/
structure CubeStep where
  acc : Nat
  fa : Nat
  fb : Nat
  before : Nat := 0
  a : Nat := 0
  b : Nat := 0
  slot : Nat
  pc : Nat
  word : BitVec 64
  deriving DecidableEq, Repr

/-- The capture record (R113). -/
def Dev.cubeRecord (d : Dev) (t : Nat) (f : Found) (x : CubeStep) : List W64 :=
  let s := (d.tile t).regs.rAcc x.acc
  let cad := d.isCad t x.slot
  let h := f.cause + x.fa * 16 + x.fb * 256 + x.acc * 4096 + f.rows * 2 ^ 16 + f.col * 2 ^ 32 + x.slot * 2 ^ 38 + d.ctxOf t x.slot * 2 ^ 40
  let ops := f.cause ≠ 4
  [w64 h, d.trd t Reg.BEAT, w64 (d.frame + b2n cad * 2 ^ 63), w64 (x.pc + x.before * 2 ^ 16), x.word, 0, 0, 0]
    ++ numWords 16 (if ops then x.a else 0) ++ numWords 64 (if ops then x.b else 0)
    ++ numWords 2 (if ops && isMx x.fa then s.scaleA.toNat else 0) ++ numWords 8 (if ops && isMx x.fa then s.scaleB.toNat else 0)
    ++ (f.area ++ List.replicate 128 0).take 128 ++ List.replicate 30 0

/-- A mismatch of the check cube, or accumulator parity as cause 0, which takes no capture (R108, R110, R112, R113, R340). A second
mismatch of the same beat finds the buffer held and counts in MISSED (DESIGN CHOICE, log entry 94). -/
def Dev.cubeMismatch (d : Dev) (t : Nat) (f : Found) (x : CubeStep) : Dev :=
  let d := d.updRegs t fun r => r.wAcc x.acc
    { r.rAcc x.acc with bad := true, badOpen := false, markedAt := (d.trd t Reg.BEAT).toNat }
  let d := d.tinc t Reg.CUBE_MISMATCH
  let d := if f.cause = 0 then d else if d.rb (Reg.tile t Reg.CAP_STATUS) 63 then d.missed t Reg.CAP_STATUS
    else d.holdCube t (d.cubeRecord t f x) (d.underTest t)
  let d := d.report 4 t 0
  if d.isCad t x.slot then d.failVerdict t 1 else d

/-! ## Discarding open blocks (R111) -/

/-- Open blocks of the outgoing context are discarded; every chain a CZERO or CMUL ended has been read or overwritten by then. -/
def discardOpen (r : Regs) : Regs :=
  { r with acc := r.acc.map fun e =>
      let s : AccSet := { e.2 with oldBad := 0, oldOpen := false }
      if s.count % 32 ≠ 0 ∧ s.pair.isSome then
        (e.1, { s with count := s.count / 32 * 32, pair := none, sums := [], spec := [], bad := true, badOpen := true })
      else (e.1, s) }

/-! ## Faults of a context (R78) and the end of an entry or launch (R71, R75) -/

/-- Entry i of the latched switch list: its context slot and trigger phase ID (R69, R83). -/
def listCount (l : BitVec 64) : Nat := fld l 63 61
def listSlot (l : BitVec 64) (i : Nat) : Nat := if i = 0 then fld l 9 8 else fld l (10 * i + 9) (10 * i + 8)
def listPhase (l : BitVec 64) (i : Nat) : Nat := fld l (10 * i + 7) (10 * i)

/-- A tile ends its part of a launch; a fault is kept as the launch's first (R466). -/
def Dev.launchPart (d : Dev) (t id : Nat) (fault : Option Nat) : Dev :=
  let part (l : Launch) : Launch :=
    { l with left := l.left.filter (· != t)
             fault := l.fault.orElse fun _ => fault.map fun c => (c, t) }
  { d with launches := updIf (fun l => l.id == id) part d.launches }

/-- Whether launches may start on the tile: not while it is fenced, in a group's tile set, or in a row whose bypass change
has not taken effect (R68, R517, R521). -/
def Dev.mayLaunch (d : Dev) (t : Nat) : Bool :=
  !(d.tile t).fenced && !(d.tile t).inGroup
    && !d.restores.any fun x => x.field == physField t && x.row == physRow t && x.col ≤ physCol t

/-- Queued launches of a context that is FAULTED on the tile never start: the tile's part of each ends with the fault recorded (R78; DESIGN
CHOICE, log entry 95: the spec names no record for them). -/
def Dev.dropFaulted (d : Dev) (t : Nat) : List TileLaunch → Dev × List TileLaunch
  | [] => (d, [])
  | l :: ls =>
    if d.slotState t l.slot == 6 then (d.launchPart t l.id (some (d.trf t (Reg.CTXSTATE l.slot) 47 40))).dropFaulted t ls else (d, l :: ls)

/-- The running entry or launch is over: the switch to the next one begins, or the tile has nothing to run. `left` is
the number of beats that issue nothing before the next context issues. -/
def Dev.proceed (d : Dev) (t left : Nat) (fault : Option Nat) : Dev :=
  let x := d.tile t
  if d.isCad t x.slot then
    let d := d.when (d.slotState t x.slot == 2) fun d =>
      (d.setSlotState t x.slot 4).twf t (Reg.CTXSTATE x.slot) 15 3 x.regs.pc
    if x.entry + 1 < listCount x.list then
      d.upd t fun x => { x with mode := .switch left (.entry (x.entry + 1)), reached := none, waited := 0 }
    else d.upd t fun x => { x with mode := .idle, reached := none, waited := 0 }
  else
    let d := match x.cur with
      | some l => d.launchPart t l.id fault
      | none => d
    let d := d.when (d.slotState t x.slot == 2) fun d => d.setSlotState t x.slot 5
    let (d, ls) := d.dropFaulted t x.launches
    match ls with
    | l :: ls =>
      if d.mayLaunch t then
        d.upd t fun x => { x with mode := .switch left (.launch l), cur := none, launches := ls, reached := none, waited := 0 }
      else d.upd t fun x => { x with mode := .idle, cur := none, launches := l :: ls, reached := none, waited := 0 }
    | [] => d.upd t fun x => { x with mode := .idle, cur := none, launches := [], reached := none, waited := 0 }

/-- Record a fault of the context in a slot of a tile (R78, R81, R530). -/
def Dev.recordFault (d : Dev) (t slot code pc : Nat) : Dev :=
  let c := d.ctxOf t slot
  let d := d.twf t (Reg.CTXSTATE slot) 47 40 code
  let d := d.twf t (Reg.CTXSTATE slot) 36 24 pc
  let d := d.setSlotState t slot 6
  let d := d.when (d.rf (Reg.CTX c) 47 40 == 0) fun d =>
    ((d.wf (Reg.CTX c) 47 40 code).wf (Reg.CTX c) 10 0 t).wf (Reg.CTX c) 63 61 6
  let d := d.varveLog 13 2 0 t { ctx := some c, port := d.ctxPort c } (w64 (code + pc * 2 ^ 16 + slot * 2 ^ 32)) (d.trd t Reg.BEAT)
  if d.isCad t slot then d.failVerdict t (if code = FC.POISON then 3 else 4) else d

/-- A fault of the context in `slot`: if it is running, the tile proceeds as on a HALT; if not, it is FAULTED at once. -/
def Dev.ctxFault (d : Dev) (t slot code pc : Nat) : Dev :=
  if d.slotState t slot = 6 ∨ d.slotState t slot = 0 then d else
  let run := (d.tile t).slot == slot && (d.tile t).mode == .running
  let d := d.recordFault t slot code pc
  if run then d.proceed t 79 (some code) else d

/-- A fault that reaches a tile from outside its own issue (R168, R215): of the running context it is raised in the tile's beat, the first
one; another context is FAULTED at once. -/
def Dev.raiseFault (d : Dev) (t slot code pc : Nat) : Dev :=
  let x := d.tile t
  if x.slot == slot && x.mode == .running && !x.fenced then d.upd t fun x => { x with raise := x.raise.orElse fun _ => some (code, pc) }
  else d.ctxFault t slot code pc

end Sys2Proof.Machine
end

