-- ==== Sys2Proof/Machine/Image.lean ====
section
/-! DEFINITION. The tile base image of the running bundle (R486, R487, R494), and what a tile holds of it (R495, R501). -/

namespace Sys2Proof.Machine

/-- n bytes of a byte string at an offset, and the number they stand for. -/
def slice (b : List Byte) (off n : Nat) : List Byte := (b.drop off).take n
def sliceNum (b : List Byte) (off n : Nat) : Nat := ofBytes (slice b off n)

/-- COMPONENTS of a bundle, and an entry of its component table: type, offset, length (R486, R487). -/
def bundleComps (b : List Byte) : Nat := sliceNum b 0xC 4
def compEntry (b : List Byte) (i : Nat) : Nat × Nat × Nat :=
  (sliceNum b (0x80 + 96 * i) 4, sliceNum b (0x88 + 96 * i) 8, sliceNum b (0x90 + 96 * i) 8)
/-- The bytes of the component of a type. -/
def component (b : List Byte) (ty : Nat) : List Byte :=
  match (List.range (bundleComps b)).find? fun i => (compEntry b i).1 == ty with
  | some i => slice b (compEntry b i).2.1 (compEntry b i).2.2
  | none => []
/-- IMAGE_BLOCKS, and block j of the image. -/
def imageCount (b : List Byte) : Nat := sliceNum b 0x18 4
def imageBlock (b : List Byte) (j : Nat) : List Byte := slice (component b 1) (4096 * j) 4096

/-- A good block is written into place (R494): routines 0 to 31, or 128 bundles of the control store. -/
def Dev.putBlock (d : Dev) (t j : Nat) : Dev :=
  let b := imageBlock d.boot.bundle j
  if j = 0 then
    d.each (List.range 32) fun d k => d.twr t (Reg.RT k) (w64 (sliceNum b (8 * k) 8) &&& regImpl (Reg.tile t (Reg.RT k)))
  else
    d.upd t fun x => { x with cstore := (List.range 128).foldl (fun m k =>
      smSet (fun _ => 0) m (128 * (j - 1) + k) (BitVec.ofNat 256 (sliceNum b (32 * k) 32))) x.cstore }

/-- Blocks of the image that a tile lacks. -/
def Dev.missing (d : Dev) (t : Nat) : List Nat :=
  (List.range (imageCount d.boot.bundle)).filter fun j => !d.rb (Reg.tile t Reg.TLOAD) j
/-- The blocks a tile lacks are sent to it, all but those that do not arrive good; STATE reads 1 once none is missing. -/
def Dev.sendBlocks (d : Dev) (t : Nat) (bad : List Nat) : Dev :=
  if d.boot.bundle = [] then d else
  let d := d.each ((d.missing t).filter fun j => !bad.contains j) fun d j => (d.putBlock t j).twf t Reg.TLOAD j j 1
  if d.missing t = [] then d.twf t Reg.TLOAD 17 16 1 else d
/-- A load of the image begins on a tile. -/
def Dev.loadImage (d : Dev) (t : Nat) (bad : List Nat) : Dev := (d.twr t Reg.TLOAD 0).sendBlocks t bad

end Sys2Proof.Machine
end

