-- ==== Sys2Proof/Machine/Mem.lean ====
section
/-! DEFINITION. The memory tiers: lines and their side band (R308 to R311), block check values (R312 to R315), frames and
pools (R316, R327), page tables (R319 to R324), quotas (R329) and page moves (R328). -/

namespace Sys2Proof.Machine

/-! ## Lines -/

/-- Detail A of a line's event (R558, R559): channel, bank and row of its granule. -/
def lineLoc (a : Nat) : W64 :=
  match stackOf a with
  | none => 0
  | some s =>
    let o := a - stackBase s
    if s < 20 then
      let k := o / 8192
      w64 (((o / 256) % 32 ^^^ (o / 65536) % 32) + ((k / 4) % 64) * 2 ^ 5 + (k / 256) * 2 ^ 11)
    else
      let k := o / 2048
      w64 (((o / 256) % 8 ^^^ (o / 65536) % 8) + ((k / 8) % 64) * 2 ^ 5 + (k / 512) * 2 ^ 11)

/-- Report a line: corrected (class 6 or 8) or uncorrectable (class 7 or 9). -/
def Dev.lineEvent (d : Dev) (a : Nat) (bad : Bool) : Dev :=
  match stackOf a with
  | none => d
  | some s => (d.inc (if bad then Reg.MEM_UNCORR else Reg.MEM_CORR)).reportAt
      ((if s < 20 then 6 else 8) + b2n bad) (stackKind s).1 (stackKind s).2 (lineLoc a)

/-- The lines a reader finds in error in this step: line address, and whether two or more symbols are wrong. -/
abbrev LineErrs := List (Nat × Bool)
def LineErrs.at' (e : LineErrs) (a : Nat) : Option Bool := (e.find? fun x => x.1 / 64 == a / 64).map (·.2)

/-- A read of the line at a (R309): whether it is delivered poisoned, and whether it was uncorrectable on this read. -/
def Dev.readLine (d : Dev) (a : Nat) (errs : LineErrs) : (Bool × Bool) × Dev :=
  let l := d.lineAt a
  match errs.at' a with
  | some true =>
    if l.poison then ((true, false), d)
    else ((true, true), (d.setLine a { l with poison := true }).lineEvent a true)
  | some false => ((l.poison, false), d.lineEvent a false)
  | none => ((l.poison, false), d)

/-- A write of bytes within one line (R309): whole, clearing POISON, or partial, keeping it. -/
def Dev.writeLine (d : Dev) (a : Nat) (bs : List Byte) (poison : Bool) (errs : LineErrs) : Dev :=
  let whole := a % 64 == 0 && bs.length == 64
  let d := if whole then d.setLine a { d.lineAt a with poison := poison } else
    let ((p, _), d) := d.readLine a errs
    d.setLine a { d.lineAt a with poison := p || poison }
  d.wrBytes a bs

/-- Write bytes line by line; every block touched becomes NONE (R314). -/
def Dev.writeMem (d : Dev) (a : Nat) (bs : List Byte) (errs : LineErrs) : Nat → Dev
  | 0 => d
  | n + 1 =>
    if bs = [] then d else
    let k := 64 - a % 64
    ((d.writeLine a (bs.take k) false errs).setKind a 0).writeMem (a + k) (bs.drop k) errs n

/-- Write bytes, with enough steps for their length. -/
def Dev.store (d : Dev) (a : Nat) (bs : List Byte) (errs : LineErrs := []) : Dev := d.writeMem a bs errs (bs.length + 1)
def Dev.storeNum (d : Dev) (a n v : Nat) : Dev := d.store a (toBytes n v)

/-- KIND and value of the block at a (R308, R313). -/
def Dev.blockKind (d : Dev) (a : Nat) : Nat := (d.lineAt (a / 4096 * 4096)).kind
def Dev.blockCv (d : Dev) (a : Nat) : Nat :=
  (List.range 64).foldl (fun n i => n + b2n (d.lineAt (a / 4096 * 4096 + 64 * i)).cv * 2 ^ i) 0
/-- Store a block whole with its kind and value, every line poisoned or as told. -/
def Dev.storeBlock (d : Dev) (a : Nat) (bs : List Byte) (kind cv : Nat) (poison : Nat → Bool) : Dev :=
  let d := d.wrBytes a bs
  d.each (List.range 64) fun d i => d.setLine (a + 64 * i) ⟨kind, bit cv i, poison i⟩

/-- Read the lines of a range in order: addresses delivered poisoned, whether any was uncorrectable. -/
def Dev.readLines (d : Dev) (errs : LineErrs) : List Nat → (List Bool × Bool) × Dev
  | [] => (([], false), d)
  | a :: as =>
    let ((p, u), d) := d.readLine a errs
    let ((ps, us), d) := d.readLines errs as
    ((p :: ps, u || us), d)

/-- Remove a byte range and its side band: data zero, KIND NONE, no poison (R314). -/
def Dev.clearRange (d : Dev) (a n : Nat) : Dev :=
  { d with mem := d.mem.filter (fun c => c.1 < a || c.1 ≥ a + n), lines := d.lines.filter (fun c => c.1 < a / 64 || c.1 ≥ (a + n) / 64) }

/-- Copy a range with its side band unchanged (R314, R328). -/
def Dev.copyRange (d : Dev) (src dst n : Nat) : Dev :=
  let bytes := d.mem.filter fun c => src ≤ c.1 && c.1 < src + n
  let side := d.lines.filter fun c => src / 64 ≤ c.1 && c.1 < (src + n) / 64
  let d := d.clearRange dst n
  let d := d.each bytes fun d c => d.wrByte (c.1 - src + dst) c.2
  d.each side fun d c => { d with lines := smSet lineReset d.lines (c.1 - src / 64 + dst / 64) c.2 }

/-! ## Frames and pools (R316, R318, R327) -/

/-- Base and size of a range register: PT_POOL or RESVn. -/
def Dev.rangeOf (d : Dev) (off : Nat) : Nat × Nat := (d.rf off 47 21 * 2 ^ 21, d.rf off 63 48 * 2 ^ 21)
def Dev.inRange (d : Dev) (off a : Nat) : Bool := (d.rangeOf off).1 ≤ a && a < (d.rangeOf off).1 + (d.rangeOf off).2
/-- Whether an address lies in a reserved range MEM.RESVn. -/
def Dev.inResv (d : Dev) (a : Nat) : Bool := (List.range 8).any fun n => d.inRange (Reg.RESV n) a
def Dev.inPool (d : Dev) (a : Nat) : Bool := d.inRange Reg.PT_POOL a
def Dev.locked (d : Dev) : Bool := d.rb Reg.MEM_CTL 63

def Page.frames (p : Page) : Nat := if p.large then 32 else 1
def Page.holds (p : Page) (f : Nat) : Bool := p.frame ≤ f && f < p.frame + p.frames
def frameTier (f : Nat) : Nat := if f * 65536 < 0x28000000000 then 0 else 1
def Dev.pageAt (d : Dev) (f : Nat) : Option Page := d.pages.find? (·.holds f)
def Dev.moveLen (d : Dev) (m : Move) : Nat := ((d.pageAt m.src).map (·.frames)).getD 1
/-- Frames without a page that transfers translated before still hold (R322, R328). -/
def Dev.pinnedFrames (d : Dev) : List Nat :=
  ((d.tiles.flatMap fun e => e.2.xfers.filterMap fun x => x.pa.map (· / 65536)).filter fun f => (d.pageAt f).isNone).eraseDups
/-- Whether a frame is free: in a pool, and nothing in it. -/
def Dev.frameFree (d : Dev) (f : Nat) : Bool :=
  d.locked && !d.inResv (f * 65536) && !d.inPool (f * 65536) && (d.pageAt f).isNone && !d.outFrames.contains f && !d.pinnedFrames.contains f
    && !d.moves.any fun m => m.dst ≤ f && f < m.dst + d.moveLen m

def stackFrame (s : Nat) : Nat := stackBase s / 65536
/-- Frames of a stack in use by pages and by moves to it. -/
def Dev.usedOn (d : Dev) (s : Nat) : Nat :=
  let on (f : Nat) : Bool := stackOf (f * 65536) == some s
  ((d.pages.filter (on ·.frame)).map (·.frames)).sum + ((d.moves.filter (on ·.dst)).map d.moveLen).sum
/-- Frames of a stack in the reserved ranges and the page-table pool, 32 to each unit of 2 MiB. -/
def Dev.heldOn (d : Dev) (s : Nat) : Nat :=
  32 * ((List.range 65536).filter fun u => d.inResv (stackBase s + u * 2 ^ 21) || d.inPool (stackBase s + u * 2 ^ 21)).length
/-- FREE and USED of a stack, once its pool is formed (R334). -/
def Dev.freeOn (d : Dev) (s : Nat) : Nat :=
  if !d.locked || stackState d s ≥ 4 then 0
  else 2 ^ 21 - d.heldOn s - d.usedOn s - (d.pinnedFrames.filter fun f => stackOf (f * 65536) == some s).length
    - (d.outFrames.filter fun f =>
        stackOf (f * 65536) == some s && (d.pageAt f).isNone && !d.inResv (f * 65536) && !d.inPool (f * 65536)).length
def Dev.syncStack (d : Dev) (s : Nat) : Dev := (d.wf (Reg.STACK s) 45 24 (d.usedOn s)).wf (Reg.STACK s) 21 0 (d.freeOn s)
def Dev.syncFrame (d : Dev) (f : Nat) : Dev :=
  match stackOf (f * 65536) with
  | some s => d.syncStack s
  | none => d

/-- The first free place at or after i, in steps, wrapping within n units. -/
def seekFree (ok : Nat → Bool) (n : Nat) : Nat → Nat → Option Nat
  | 0, _ => none
  | k + 1, i => if ok (i % n) then some (i % n) else seekFree ok n k (i + 1)

/-- A free place for a page on a stack: which one is left open (R327), so the search starts at a free value. -/
def Dev.placeOn (d : Dev) (s : Nat) (large : Bool) : Option Nat × Dev :=
  let (v, d) := d.draw
  if large then
    ((seekFree (fun u => (List.range 32).all fun i => d.frameFree (stackFrame s + 32 * u + i)) 65536 65536 v.toNat).map
      fun u => stackFrame s + 32 * u, d)
  else ((seekFree (fun u => d.frameFree (stackFrame s + u)) (2 ^ 21) (2 ^ 21) v.toNat).map (stackFrame s + ·), d)

def tierStacks (tier : Nat) : List Nat := if tier = 0 then List.range 20 else (List.range 16).map (20 + ·)

/-- Stacks a page may be placed on: READY, with a free place, the most free frames first, ties to the lower number. -/
def Dev.bestStack (d : Dev) (tier : Nat) (large : Bool) : Option Nat :=
  let ok := (tierStacks tier).filter fun s => stackState d s == 0 && (d.placeOn s large).1.isSome
  ok.foldl (fun b s => match b with
    | none => some s
    | some x => if d.freeOn s > d.freeOn x then some s else some x) none

/-- A frame in a tier, if any stack of it has one. -/
def Dev.placeIn (d : Dev) (tier : Nat) (large : Bool) : Option Nat × Dev :=
  match d.bestStack tier large with
  | none => (none, d)
  | some s => d.placeOn s large

/-! ## Quotas (R329) -/

def tierHi (tier : Nat) : Nat := if tier = 0 then 63 else 31
def tierLo (tier : Nat) : Nat := if tier = 0 then 32 else 0
/-- Room under the quotas of a tier for n pages. -/
def Dev.quotaRoom (d : Dev) (c : Nat) (cls : Option Nat) (tier n : Nat) : Bool :=
  d.rf (Reg.UCTX c) (tierHi tier) (tierLo tier) + n ≤ d.rf (Reg.QCTX c) (tierHi tier) (tierLo tier) &&
    match cls with
    | none => true
    | some k => d.rf (Reg.UCLS k) (tierHi tier) (tierLo tier) + n ≤ d.rf (Reg.QCLS k) (tierHi tier) (tierLo tier)
/-- Add to, or take from, the use counts of a page's owner. -/
def Dev.useAdd (d : Dev) (p : Page) (tier : Nat) (add : Bool) : Dev :=
  let go (d : Dev) (off : Nat) : Dev :=
    let u := d.rf off (tierHi tier) (tierLo tier)
    d.wf off (tierHi tier) (tierLo tier) (if add then u + p.frames else u - p.frames)
  let d := go d (Reg.UCTX p.ctx)
  match p.cls with
  | some k => go d (Reg.UCLS k)
  | none => d

/-- HBM occupancy has reached a percentage (R326). -/
def Dev.occupied (d : Dev) (pct : Nat) (past : Bool) : Bool :=
  let used := ((tierStacks 0).map d.usedOn).sum
  let all := used + ((tierStacks 0).map d.freeOn).sum
  if past then 100 * used > pct * all else 100 * used ≥ pct * all
def Dev.highPct (d : Dev) : Nat := d.rfIn Reg.MEM_CTL 55 48 1 100

/-- The frame a new page takes under R327, or the status of the refusal. -/
def Dev.allocate (d : Dev) (c : Nat) (cls : Option Nat) (tier : Nat) (large : Bool) : Except Nat Nat × Dev :=
  let n := if large then 32 else 1
  let open' : List Nat := if tier = 1 then [0] else if tier = 2 then [1] else
    (if d.occupied d.highPct false then [] else [0]) ++ [1]
  let room := open'.filter fun t => d.quotaRoom c cls t n
  match room.find? fun t => (d.bestStack t large).isSome with
  | some t => match d.placeIn t large with
    | (some f, d) => (.ok f, d)
    | (none, d) => (.error St.NO_MEMORY, d)
  | none => (.error (if room = [] then St.QUOTA else St.NO_MEMORY), d)

/-! ## Page tables (R319 to R321) -/

def Dev.ptRoot (d : Dev) (c : Nat) : Nat := d.rf (Reg.PTROOT c) 47 8 * 256
def levelShift (l : Nat) : Nat := nth [16, 21, 30, 39] l 0
def levelIdx (l va : Nat) : Nat := (va >>> levelShift l) % (if l = 0 then 32 else 512)
/-- The entry of a level in a node: its address and its value. -/
def Dev.entryAt (d : Dev) (l node va : Nat) : Nat × Nat := (node + 8 * levelIdx l va, d.rdNum (node + 8 * levelIdx l va) 8)

/-- An entry found by a walk: address of the entry, its value, and its level. -/
structure Leaf where
  addr : Nat
  val : Nat
  lvl : Nat
  deriving DecidableEq, Repr
def Leaf.frame (l : Leaf) : Nat := bits l.val 47 16
def Leaf.large (l : Leaf) : Bool := l.lvl == 1

/-- Walk from a level; none where the walk fails under R321. -/
def Dev.walkGo (d : Dev) : Nat → Nat → Nat → Option Leaf
  | 0, node, va =>
    let (a, e) := d.entryAt 0 node va
    if bit e 63 && bit e 62 && bits e 61 60 ≠ 3 && bits e 57 48 == 0 && bits e 15 0 == 0 && (stackOf (bits e 47 16 * 65536)).isSome
    then some ⟨a, e, 0⟩ else none
  | l + 1, node, va =>
    let (a, e) := d.entryAt (l + 1) node va
    if !bit e 63 || bits e 61 60 == 3 || bits e 57 48 != 0 || bits e 7 0 != 0 then none
    else if bit e 62 then
      (if l = 0 && bits e 15 8 == 0 && (stackOf (bits e 47 16 * 65536)).isSome then some ⟨a, e, 1⟩ else none)
    else d.walkGo l (bits e 47 8 * 256) va
def Dev.walk (d : Dev) (c va : Nat) : Option Leaf :=
  if d.rb (Reg.PTROOT c) 63 then d.walkGo 3 (d.ptRoot c) va else none

/-- The physical address a virtual address translates to; a write needs WRITE (R321). -/
def Dev.translate (d : Dev) (c va : Nat) (wr : Bool) : Option Nat :=
  match d.walk c va with
  | none => none
  | some l => if wr && !bit l.val 59 then none
    else some (l.frame * 65536 + (if l.large then va % 2 ^ 21 else va % 2 ^ 16))

/-- A page is touched (R325). -/
def Dev.touch (d : Dev) (pa : Nat) : Dev :=
  { d with pages := updIf (·.holds (pa / 65536)) (fun p => { p with touch := d.rn Reg.MEM_TICK }) d.pages }

/-- A node, or a load image, from the page-table pool: which place is taken is left open (log entry 3). -/
def Dev.newNode (d : Dev) (size c : Nat) (slot : Option Nat) : Option Nat × Dev :=
  let (base, len) := d.rangeOf Reg.PT_POOL
  let units := len / size
  let (v, d) := d.draw
  let clear (u : Nat) : Bool := !d.nodes.any fun n => n.addr < base + size * (u + 1) && base + size * u < n.addr + n.size
  match (if units = 0 then none else seekFree clear units units v.toNat) with
  | none => (none, d)
  | some u =>
    let a := base + size * u
    (some a, { d.clearRange a size with nodes := d.nodes ++ [⟨a, size, c, slot⟩] })

/-- The address of the entry for a page at a level, allocating the nodes on the path (R319). -/
def Dev.pathGo (d : Dev) (c va stop : Nat) : Nat → Nat → Option Nat × Dev
  | 0, node => (some (node + 8 * levelIdx 0 va), d)
  | l + 1, node =>
    let (a, e) := d.entryAt (l + 1) node va
    if l + 1 = stop then (some a, d)
    else if bit e 63 then (if bit e 62 then (none, d) else d.pathGo c va stop l (bits e 47 8 * 256))
    else match d.newNode (if l = 0 then 256 else 4096) c none with
      | (none, d) => (none, d)
      | (some n, d) => (d.storeNum a 8 (2 ^ 63 + n)).pathGo c va stop l n

/-- Write a leaf for a page (R320). -/
def leafVal (frame tier : Nat) (wr large moving : Bool) : Nat :=
  2 ^ 63 + 2 ^ 62 + tier * 2 ^ 60 + b2n wr * 2 ^ 59 + b2n moving * 2 ^ 58 + frame * 65536 + 0 * b2n large

/-- Map a frame at a page number; none when the pool has no node free. -/
def Dev.mapAt (d : Dev) (c vpn frame tier : Nat) (wr large moving : Bool) : Option Dev :=
  match d.pathGo c (vpn * 65536) (if large then 1 else 0) 3 (d.ptRoot c) with
  | (some a, d) => some (d.storeNum a 8 (leafVal frame tier wr large moving))
  | (none, _) => none

/-- Whether a page number, or any of the 32 of a large page, is in use. -/
def Dev.vpnUsed (d : Dev) (c vpn : Nat) (large : Bool) : Bool :=
  if large then (List.range 32).any fun i => (d.walk c ((vpn + i) * 65536)).isSome else (d.walk c (vpn * 65536)).isSome

/-! ## Moves (R328) -/

/-- Rewrite every leaf that maps a page. -/
def Dev.reLeaf (d : Dev) (p : Page) (f : Nat → Nat) : Dev :=
  d.each p.maps fun d m => match d.walk m.1 (m.2 * 65536) with
    | some l => d.storeNum l.addr 8 (f l.val)
    | none => d

/-- Whether a page may start to move: not moving already, and no transfer to or from it outstanding (R326). -/
def Dev.idlePage (d : Dev) (p : Page) : Bool :=
  !d.moves.any (fun m => m.src == p.frame)
    && !d.tiles.any fun e => e.2.xfers.any fun x => match x.vpn with
        | some v => p.maps.contains (x.ctx, v)
        | none => false

/-- Begin a move: the destination counts from now on, and MOVING is set (R320, R328). -/
def Dev.startMove (d : Dev) (p : Page) (dst : Nat) (why : MoveWhy) : Dev :=
  let d := { d with moves := d.moves ++ [(⟨p.frame, dst, why⟩ : Move)] }
  let d := d.useAdd p (frameTier dst) true
  (d.reLeaf p fun e => if bit e 58 then e else e + 2 ^ 58).syncFrame dst

/-- Move a page to a tier if a frame is free there. -/
def Dev.moveTo (d : Dev) (p : Page) (tier : Nat) (why : MoveWhy) : Dev × Bool :=
  match d.placeIn tier p.large with
  | (some f, d) => (d.startMove p f why, true)
  | (none, d) => (d, false)

/-- Repairs waiting for a frame are served first, in order (R318); a page on a stack that is not up cannot move (R332). -/
def Dev.serveRepairs (d : Dev) : Dev :=
  d.each d.repairs fun d r => match d.pageAt r.frame with
    | some p => if d.moves.any (·.src == p.frame) || !d.stackUp ((stackOf (p.frame * 65536)).getD 0) then d else (d.moveTo p (frameTier r.frame) .repair).1
    | none => d

/-- A move is abandoned: the page stays where it was (R322, R328). -/
def Dev.abandon (d : Dev) (m : Move) : Dev :=
  let d := { d with moves := d.moves.erase m }
  match d.pageAt m.src with
  | none => d.syncFrame m.dst
  | some p => ((d.useAdd p (frameTier m.dst) false).reLeaf p fun e => if bit e 58 then e - 2 ^ 58 else e).syncFrame m.dst
/-- A move is abandoned, and the frame it gives back goes to a waiting repair first (R318). -/
def Dev.dropMove (d : Dev) (m : Move) : Dev := (d.abandon m).serveRepairs

/-- The soft repair of a row of an HBM stack uses its bank's one resource (R318). -/
def Dev.softRepair (d : Dev) (s : Nat) (r : Repair) : Bool × Dev :=
  match r.soft with
  | none => (false, d)
  | some (ch, bk, row) =>
    if s ≥ 20 || d.softUsed.contains (s, ch, bk) then (false, d) else
    let d := { d with softUsed := d.softUsed ++ [(s, ch, bk)] }
    let (d, fin) := d.firnList 0x2000 4096 2 [2 ^ 31 + s * 2 ^ 24 + ch * 2 ^ 19 + bk * 2 ^ 13, row]
    (true, d.retired (.memory r) fin)
def Dev.softRepairs (d : Dev) (s : Nat) : List Repair → List Repair × Dev
  | [] => ([], d)
  | r :: rs =>
    let (ok, d) := d.softRepair s r
    let (left, d) := d.softRepairs s rs
    (if ok then left else r :: left, d)

/-- The repairs of a frame once its page has moved (R318): with soft repair of every row it returns to the pool; otherwise it is retired. -/
def Dev.finishRepair (d : Dev) (frame : Nat) : Dev :=
  let s := (stackOf (frame * 65536)).getD 0
  let rs := d.repairs.filter (·.frame == frame)
  if rs == [] then d else
  let d := { d with repairs := d.repairs.filter (·.frame != frame) }
  let (left, d) := d.softRepairs s rs
  if left == [] then { d with outFrames := d.outFrames.filter (· != frame) }.syncFrame frame
  else
    let (d, fin) := d.firnList 0x2000 4096 2 [2 ^ 31 + 2 ^ 30 + s * 2 ^ 24, frame]
    let d := d.each left fun d r => d.retired (.memory r) fin
    (d.wf (Reg.STACK s) 60 48 (min 8191 (d.rf (Reg.STACK s) 60 48 + 1))).syncFrame frame

/-- A lasting row fault (R318): the frame leaves the pool, its page moves to a free frame of the same tier, or waits. Of a frame that is
retired for good no row is repaired any more. -/
def Dev.repairFrame (d : Dev) (r : Repair) : Dev :=
  let d := { d with outFrames := if d.outFrames.contains r.frame then d.outFrames else d.outFrames ++ [r.frame], repairs := d.repairs ++ [r] }
  if (d.pageAt r.frame).isNone then d.finishRepair r.frame else d.serveRepairs

/-- The switch of a move (R328): data and side band stand at the destination, every leaf names it, the source is free. -/
def Dev.switchMove (d : Dev) (m : Move) : Dev :=
  let d := { d with moves := d.moves.erase m }
  match d.pageAt m.src with
  | none => d
  | some p =>
    let d := d.copyRange (m.src * 65536) (m.dst * 65536) (65536 * p.frames)
    let d := d.reLeaf p fun e => (e - (if bit e 58 then 2 ^ 58 else 0)) - bits e 47 16 * 65536 + m.dst * 65536
    let d := { d with pages := updIf (·.frame == m.src) (fun p => { p with frame := m.dst }) d.pages }
    let d := d.useAdd p (frameTier m.src) false
    let d := match frameTier m.src, frameTier m.dst with
      | 0, 1 => d.inc Reg.DEMOTED
      | 1, 0 => d.inc Reg.PROMOTED
      | _, _ => d
    let d := (d.syncFrame m.src).syncFrame m.dst
    let d := d.each ((d.repairs.filter (p.holds ·.frame)).map (·.frame)) fun d f => d.finishRepair f
    d.serveRepairs

/-- A page leaves memory: nothing maps it, its moves are abandoned, its frames return to the pool (R322). -/
def Dev.freePage (d : Dev) (p : Page) : Dev :=
  let d := d.each (d.moves.filter (·.src == p.frame)) fun d m => d.abandon m
  let d := (d.useAdd p (frameTier p.frame) false)
  let d := ({ d with pages := d.pages.filter (·.frame != p.frame) }).syncFrame p.frame
  let d := d.each ((d.repairs.filter (p.holds ·.frame)).map (·.frame)) fun d f => d.finishRepair f
  d.serveRepairs

/-- Remove one mapping of a page (R322); with the last, the page leaves memory. A counted page stays counted against the
context that mapped it while an alias remains. -/
def Dev.unmapPage (d : Dev) (c vpn : Nat) : Dev :=
  match d.walk c (vpn * 65536) with
  | none => d
  | some l =>
    let d := d.storeNum l.addr 8 0
    match d.pageAt l.frame with
    | none => d
    | some p =>
      let d := { d with pages := updIf (·.frame == p.frame) (fun p => { p with maps := p.maps.filter (· != (c, vpn)) }) d.pages }
      if p.maps.filter (· != (c, vpn)) = [] then d.freePage p
      else d.each (d.moves.filter (·.src == p.frame)) fun d m => d.dropMove m

/-- Allocate a page and map it (R322 MAP, R324): zero data, every block NONE. -/
def Dev.mapNew (d : Dev) (c vpn tier : Nat) (wr large : Bool) (cls slot : Option Nat) : Except Nat Dev :=
  match d.allocate c cls tier large with
  | (.error e, _) => .error e
  | (.ok f, d) =>
    match d.mapAt c vpn f tier wr large false with
    | none => .error St.NO_MEMORY
    | some d =>
      let p : Page := { frame := f, large := large, ctx := c, cls := cls, slot := slot, maps := [(c, vpn)], tier := tier,
                        touch := d.rn Reg.MEM_TICK }
      let d := (d.clearRange (f * 65536) (65536 * p.frames)).useAdd p (frameTier f) true
      .ok (({ d with pages := d.pages ++ [p] }).syncFrame f)

/-- Whether a page number lies in a context's key/value arena (R322, R337). -/
def Dev.inArena (d : Dev) (c vpn : Nat) : Bool :=
  let base := d.rf (Reg.KVAR c) 47 30 * 16384
  base ≤ vpn && vpn < base + d.rf (Reg.KVAR c) 63 48 * 16384

/-! ## Key/value page tables (R323, R324) -/

/-- The address of the leaf entry of a page index, allocating the nodes on the path. -/
def Dev.kvLeaf (d : Dev) (c slot root i : Nat) : Option Nat × Dev :=
  let step (d : Dev) (a : Nat) : Option Nat × Dev :=
    let e := d.rdNum a 8
    if bit e 63 then (some (bits e 47 8 * 256), d)
    else match d.newNode 4096 c (some slot) with
      | (some n, d) => (some n, d.storeNum a 8 (2 ^ 63 + n))
      | (none, d) => (none, d)
  match step d (root + 8 * bits i 22 18) with
  | (none, d) => (none, d)
  | (some m, d) => match step d (m + 8 * bits i 17 9) with
    | (none, d) => (none, d)
    | (some l, d) => (some (l + 8 * bits i 8 0), d)

/-- The page-list entry of page index i of a sequence, 0 when it has none. -/
def Dev.kvEntry (d : Dev) (root i : Nat) : Nat :=
  let m := d.rdNum (root + 8 * bits i 22 18) 8
  if !bit m 63 then 0 else
  let l := d.rdNum (bits m 47 8 * 256 + 8 * bits i 17 9) 8
  if !bit l 63 then 0 else d.rdNum (bits l 47 8 * 256 + 8 * bits i 8 0) 8

/-- A free page number of a context's arena: which one is left open (log entry 3). -/
def Dev.arenaFree (d : Dev) (c : Nat) : Option Nat × Dev :=
  let base := d.rf (Reg.KVAR c) 47 30 * 16384
  let n := d.rf (Reg.KVAR c) 63 48 * 16384
  let (v, d) := d.draw
  if n = 0 then (none, d)
  else ((seekFree (fun i => !d.pages.any fun p => p.maps.contains (c, base + i)) n n v.toNat).map (base + ·), d)

/-- Allocate the page of a page index of a sequence; none leaves the index unmapped, and a quota counts (R324). -/
def Dev.kvPage (d : Dev) (c slot cls root i : Nat) : Option Dev :=
  match d.kvLeaf c slot root i with
  | (none, _) => none
  | (some a, d) => match d.arenaFree c with
    | (none, _) => none
    | (some v, d) => match d.mapNew c v 0 true false (some cls) (some slot) with
      | .ok d => some (d.storeNum a 8 (2 ^ 63 + v * 65536))
      | .error _ => none
/-- Whether a quota is what keeps a key/value page from being allocated. -/
def Dev.kvQuota (d : Dev) (c cls : Nat) : Bool :=
  match (d.allocate c (some cls) 0 false).1 with
  | .error e => e == St.QUOTA
  | .ok _ => false

/-- RELEASE returns every page and node of a sequence's tree (R324). -/
def Dev.kvRelease (d : Dev) (slot : Nat) : Dev :=
  let d := d.each (d.pages.filter (·.slot == some slot)) fun d p => d.each p.maps fun d m => d.unmapPage m.1 m.2
  { d with nodes := d.nodes.filter (·.slot != some slot) }

end Sys2Proof.Machine
end

