-- ==== Sys2Proof/Machine/Route.lean ====
section
/-! DEFINITION. The router links of the die: hops, credits, link directions and the routes of edge traffic (R219 to R229, R233, R236 to
R238). -/

namespace Sys2Proof.Machine

/-- The beat of the die a tile has come to: CLK.BEAT, and the beats it has had by commands of its own since (log entry 8). -/
def Dev.now (d : Dev) (t : Nat) : Nat := d.rn Reg.CLK_BEAT + (d.tile t).ahead

/-! ## Hops -/

/-- Whether a logical tile's link on a port is cut (R233, R251). -/
def Dev.linkCut (d : Dev) (l p : Nat) : Bool :=
  match d.physOf l with
  | some t => d.rb (Reg.tile t Reg.RT_PORT) (8 * p + 5)
  | none => true

/-- The neighbour a flit reaches through a port: none at the perimeter, past a cut link, at an absent tile or in a
dark field (R30, R212, R233, R397). -/
def Dev.hop (d : Dev) (l p : Nat) : Option Nat :=
  match neighbour l p with
  | some (n, _) =>
    if (d.physOf n).isSome && !d.linkCut l p && (logField n == logField l || d.ready (readyField (logField n))) then some n else none
  | none => none

/-- The hop constant of the link at a port, 1 at the perimeter (R220, R237). -/
def hopConst (l p : Nat) : Nat := ((neighbour l p).map (·.2)).getD 1
/-- TILE.RT_PORT of a tile shows its neighbours as they stand; spares in use and cuts stay (R30, R233, R251, R397). -/
def Dev.showPorts (d : Dev) (t : Nat) : Dev :=
  d.each (List.range 4) fun d p =>
    let v := match d.logOf t with
      | none => 0
      | some l => if (neighbour l p).isNone then 1 else if (d.hop l p).isSome then 2 else 0
    d.twf t Reg.RT_PORT (8 * p + 7) (8 * p + 6) v
/-- The ends of a field's seam links, as tiles and ports: its own, then those that face it. -/
def Dev.seamPairs (d : Dev) (f : Nat) : List ((Nat × Nat) × (Nat × Nat)) :=
  (List.range 96).flatMap fun i => (List.range 4).filterMap fun p => match neighbour (96 * f + i) p with
    | some (n, h) => if h = 8 then match d.physOf (96 * f + i), d.physOf n with
        | some t, some u => some ((t, p), (u, oppPort p))
        | _, _ => none
      else none
    | none => none
/-- The ports of a field's seams show what the field's readiness makes of them. -/
def Dev.showSeams (d : Dev) (f : Nat) : Dev :=
  d.each ((d.seamPairs f).flatMap fun e => [e.1.1, e.2.1]) (·.showPorts ·)
/-- The flit slot of the link at a port in beats (R219). -/
def slotLen (l p : Nat) : Nat := if hopConst l p = 8 then 2 else 1

/-! ## Flits and credits (R226) -/

/-- The number of the edge ring, beside the logical tiles, as a place of a flit. -/
def ringPlace : Nat := 1536

def Flit.same (f g : Flit) : Bool := f.src == g.src && f.tid == g.tid && f.k == g.k && f.cargo == g.cargo && f.dst == g.dst
def Dev.updFlit (d : Dev) (f : Flit) (g : Flit → Flit) : Dev := { d with flits := updIf (·.same f) g d.flits }

/-- The receive buffer, as tile and inbound port, of which a flit holds a credit: the one it is in or on its way to; for one that
waits in the tile where it starts, the neighbour's. -/
def Flit.buffer (f : Flit) : Option (Nat × Nat) :=
  if f.inp < 4 then some (f.at', f.inp)
  else if f.inp < 8 then (neighbour f.at' (f.inp - 4)).map fun n => (n.1, oppPort (f.inp - 4))
  else none

/-- Flits a receive buffer holds of a channel (R226). -/
def vcCap (vc : Nat) : Nat := nth [16, 8, 2, 4] vc 0

/-- Room in the receive buffer of a tile, inbound port and channel: a credit that its sender holds in a beat (R226). -/
def Dev.bufRoom (d : Dev) (at' inp vc n : Nat) : Bool :=
  (d.flits.filter fun f => f.vc == vc && f.buffer == some (at', inp)).length
    + (d.credits.filter fun c => c.at' == at' && c.inp == inp && c.vc == vc && n < c.due).length < vcCap vc

/-- Room beyond a port of a tile: the neighbour's buffer, or the side switch, which takes one flit a beat (R226, R236). -/
def Dev.portRoom (d : Dev) (l p vc n : Nat) : Bool :=
  match neighbour l p with
  | some (m, _) => d.bufRoom m (oppPort p) vc n
  | none => true

/-- A flit leaves the receive buffer it is in, and its credit goes back (R226). -/
def Dev.credit (d : Dev) (f : Flit) (n : Nat) : Dev :=
  if f.inp < 4 then
    { d with credits := (d.credits.filter fun c => d.rn Reg.CLK_BEAT < c.due) ++ [(⟨f.at', f.inp, f.vc, n + hopConst f.at' f.inp⟩ : Credit)] }
  else d
/-- A flit is gone from the network. -/
def Dev.dropFlit (d : Dev) (f : Flit) (n : Nat) : Dev := { d.credit f n with flits := d.flits.filter fun g => !g.same f }

/-- The oldest flit of a queue of a tile on a channel. -/
def Dev.headFlit (d : Dev) (me inp vc : Nat) : Option Flit :=
  d.flits.find? fun f => f.at' == me && f.inp == inp && f.vc == vc

/-! ## Routes of edge traffic (R228) -/

/-- Die-wide row and column position of a logical tile. -/
def rowPos (l : Nat) : Nat := 8 * fieldX (logField l) + logRow l
def colPos (l : Nat) : Nat := 12 * fieldY (logField l) + logCol l
def meshDist (a b : Nat) : Nat :=
  (max (rowPos a) (rowPos b) - min (rowPos a) (rowPos b)) + (max (colPos a) (colPos b) - min (colPos a) (colPos b))

/-- The port R228 steers by: east or west until the row position matches, then north or south. -/
def steerPort (l dst : Nat) : Option Nat :=
  if rowPos l < rowPos dst then some 1 else if rowPos dst < rowPos l then some 3
  else if colPos l < colPos dst then some 0 else if colPos dst < colPos l then some 2 else none

/-- Whether that way is free of absent tiles and cut links up to the destination. -/
def Dev.wayClear (d : Dev) (dst : Nat) : Nat → Nat → Bool
  | 0, l => l == dst
  | n + 1, l => match steerPort l dst with
    | none => true
    | some p => match d.hop l p with
      | some m => d.wayClear dst n m
      | none => false

/-- Tiles from which one hop leads to one of a list. -/
def Dev.before (d : Dev) (l : List Nat) : List Nat :=
  (l.flatMap fun v => (List.range 4).filterMap fun q => match neighbour v q with
    | some (u, _) => if d.hop u (oppPort q) == some v then some u else none
    | none => none).eraseDups

/-- Hops from a tile to the nearest of a list, with the tiles that are one hop nearer: a search backwards of at most n hops. -/
def Dev.search (d : Dev) (src : Nat) : Nat → Nat → List Nat → List Nat → Option (Nat × List Nat)
  | 0, _, _, _ => none
  | n + 1, k, front, seen =>
    let next := (d.before front).filter fun u => !seen.contains u
    if next.contains src then some (k + 1, front)
    else if next == [] then none else d.search src n (k + 1) next (seen ++ next)

/-- Hops from a tile to another by the route tables. -/
def Dev.hops (d : Dev) (l dst : Nat) : Option Nat :=
  if d.wayClear dst 100 l then some (meshDist l dst) else if l = dst then some 0 else (d.search l 1536 0 [dst] [dst]).map (·.1)

/-- The port by which a router sends edge traffic on: that of R228 where the way is clear; otherwise the detour, a shortest way round
absent tiles and cut links, east or west before north or south (DESIGN CHOICE, log entry 93: the spec gives the detour no other rule). -/
def Dev.meshPort (d : Dev) (l dst : Nat) : Option Nat :=
  if d.wayClear dst 100 l then steerPort l dst
  else match d.search l 1536 0 [dst] [dst] with
    | some (_, near) => ([1, 3, 0, 2] : List Nat).find? fun p => match d.hop l p with
      | some m => near.contains m
      | none => false
    | none => none

/-! ## The edge ring (R35 to R38, R236 to R238) -/

/-- The side of the die a port block stands on, as the port that faces it (R35). -/
def blockSide (n : Nat) : Nat :=
  if n < 4 then 3 else if n < 10 then 0 else if n < 14 then 1 else if n < 20 then 2
  else if n < 24 then 3 else if n < 28 then 0 else if n < 32 then 1 else 2

/-- The home a port block uses now, and its latency there (R34, R238). -/
def Dev.homeOf (d : Dev) (n : Nat) : Option (Nat × Nat) :=
  if d.ready (readyField (homes n).1) then some ((homes n).1, (pbLat n).1)
  else if d.ready (readyField (homes n).2) then some ((homes n).2, (pbLat n).2) else none

/-- The tiles of a field with a perimeter port on a side, in ascending order, without absent ones (R236). -/
def Dev.perimeter (d : Dev) (f side : Nat) : List Nat :=
  ((List.range 96).map (96 * f + ·)).filter fun l => (neighbour l side).isNone && (d.physOf l).isSome

/-- The perimeter port of a home through which a tile is reached in the fewest hops, ties to the lower logical ID (R236). The same port
carries the way back (DESIGN CHOICE, log entry 93). -/
def Dev.entryTile (d : Dev) (f side dst : Nat) : Option Nat :=
  ((d.perimeter f side).filterMap fun l => (d.hops l dst).map fun h => (h, l)).foldl (fun (b : Option (Nat × Nat)) x => match b with
    | none => some x
    | some y => if x.1 < y.1 then some x else some y) none |>.map (·.2)

/-! ## Link directions (R219, R223, R224) -/

def linkReset : Nat → LinkUse := fun _ => {}
def Dev.link (d : Dev) (k : Nat) : LinkUse := smGet linkReset d.linkUse k
/-- A link direction carries a flit from a beat on: it is taken for the slot, and after VC2 for VC2 for 16 slots. -/
def Dev.takeLink (d : Dev) (k s vc n : Nat) : Dev :=
  { d with linkUse := smSet linkReset d.linkUse k ⟨n + s, if vc = 2 then n + 16 * s else (d.link k).vc2⟩ }

/-- The armed entry that forwards a flit (R213): the one its transfer has begun to use, or the oldest on its port with a transfer left. -/
def Tile.entryFor (x : Tile) (f : Flit) (n : Nat) : Option Fwd :=
  (x.fwd.find? fun e => e.inp == f.inp && e.bound.contains (f.src, f.tid)).orElse fun _ =>
    x.fwd.find? fun e => e.inp == f.inp && e.left > 0 && e.since < n

/-- The port by which a flit leaves a tile (R212, R213, R228). -/
def Dev.wants (d : Dev) (t me : Nat) (f : Flit) (n : Nat) : Option Nat :=
  match f.cargo with
  | .send => if f.inp ≥ 4 then some (f.inp - 4) else if f.dst = me then none else ((d.tile t).entryFor f n).map (·.outp)
  | _ => if f.dst = me then f.exit else d.meshPort me f.dst

/-- A forwarded flit uses its entry: the first flit of a transfer begins one of its n, the last ends it (R213). -/
def Tile.useEntry (x : Tile) (f : Flit) (n : Nat) : Tile :=
  match x.entryFor f n with
  | none => x
  | some e =>
    let step (e : Fwd) : Fwd :=
      let e := if e.bound.contains (f.src, f.tid) then e else { e with left := e.left - 1, bound := e.bound ++ [(f.src, f.tid)] }
      if f.last then { e with bound := e.bound.erase (f.src, f.tid) } else e
    { x with fwd := (updIf (·.entry == e.entry) step x.fwd).filter fun e => e.left > 0 || e.bound != [] }

/-- A flit starts over the link of a port in beat n: it reaches the neighbour's router after the hop constant, or through a perimeter port
the port block after its latency, which a PUT's flit holds in `win` (R219 to R221, R236 to R238). -/
def Dev.startFlit (d : Dev) (t me p n : Nat) (f : Flit) : Dev :=
  let d := d.takeLink (4 * me + p) (slotLen me p) f.vc n
  let d := d.when (f.cargo == .send && f.inp < 4) (·.upd t (·.useEntry f n))
  let g := match neighbour me p with
    | some (m, h) => { f with at' := m, inp := oppPort p, beat := n + h, held := 0, seen := false }
    | none => { f with at' := ringPlace, inp := 0, beat := n + ((d.homeOf f.win).map (·.2)).getD 0, held := 0, seen := true }
  { d.dropFlit f n with flits := (d.dropFlit f n).flits ++ [g] }

/-- The flit that a link direction starts in a beat: the highest-priority channel with a flit ready and a credit; of one channel the
lowest-numbered inbound port, then what starts here (R223, R224). -/
def Dev.nextFlit (d : Dev) (t me p n : Nat) : Option Flit :=
  let u := d.link (4 * me + p)
  if n < u.free then none else
  ([2, 0, 1, 3] : List Nat).findSome? fun vc =>
    if vc = 2 && n < u.vc2 then none else
    ([0, 1, 2, 3, 4 + p, 12] : List Nat).findSome? fun q => match d.headFlit me q vc with
      | some f => if f.beat ≤ n && d.wants t me f n == some p && ((neighbour me p).isNone || (d.hop me p).isSome)
          && (q == 4 + p || d.portRoom me p vc n) then some f else none
      | none => none

/-- A link direction starts its next flit, where it is free and has one. -/
def Dev.startLink (d : Dev) (t me p n : Nat) : Dev :=
  match d.nextFlit t me p n with
  | some f => d.startFlit t me p n f
  | none => d

/-- A side switch sends the next flit of its queue through a perimeter port, one a beat, VC2 first (R223, R226, R236). -/
def Dev.startSide (d : Dev) (l p n : Nat) : Dev :=
  let k := 6144 + 4 * l + p
  if (neighbour l p).isSome || n < (d.link k).free then d else
  match ([2, 1, 3] : List Nat).findSome? fun vc =>
      if vc = 2 && n < (d.link k).vc2 then none else match d.headFlit l (8 + p) vc with
        | some f => if f.beat ≤ n && d.bufRoom l p vc n then some f else none
        | none => none with
  | some f =>
    let d := d.takeLink k 1 f.vc n
    { d with flits := (d.flits.filter fun g => !g.same f) ++ [{ f with inp := p, beat := n, seen := false }] }
  | none => d

end Sys2Proof.Machine
end

