-- ==== Sys2Proof/Machine/Bank.lean ====
section
/-! DEFINITION. A beat of a tile's scratchpad and router: the crossbar ports in their order (R149 to R154), shadow-tag checks and tags as
each word is accessed (R163, R171), landings (R168, R173, R227) and the flits that pass (R213, R223, R230). -/

namespace Sys2Proof.Machine

/-! ## Translation of a transfer (R215, R321, R325) -/

/-- Remove a transfer, with its flits and the source reads it has still to make. A frame it held alone is free again (R322, R334), first for a
repair that waits (R318). -/
def Dev.dropXfer (d : Dev) (t id : Nat) : Dev :=
  let pin := ((d.tile t).xfers.find? (·.id == id)).bind (·.pa)
  let d := d.upd t fun x => { x with xfers := x.xfers.filter (·.id != id), mvq := x.mvq.filter fun a => a.kind != .putRead id }
  let d := { d with flits := d.flits.filter fun f => !(f.src == t && (f.cargo == .get id || f.cargo == .put id)) }
  match pin with
  | some a => (d.syncFrame (a / 65536)).serveRepairs
  | none => d
/-- Remove the transfers of a tile that a test names. -/
def Dev.dropXfers (d : Dev) (t : Nat) (gone : Xfer → Bool) : Dev :=
  d.each ((d.tile t).xfers.filter gone) fun d x => d.dropXfer t x.id
def Dev.updXfer (d : Dev) (t id : Nat) (f : Xfer → Xfer) : Dev :=
  d.upd t fun y => { y with xfers := updIf (·.id == id) f y.xfers }
/-- The page a transfer moves: translated once, on its first use (R321); touched then (R325). -/
def Dev.xferPage (d : Dev) (t : Nat) (x : Xfer) : Option (Nat × Dev) :=
  match x.pa, x.vpn with
  | some a, _ => some (a, d)
  | none, some v => (d.translate x.ctx (v * 65536) (!x.isGet)).map fun a =>
      (a, (d.updXfer t x.id fun z => { z with pa := some a }).touch a)
  | none, none => none

/-! ## Banks (R149 to R151) -/

/-- Words a port may touch in one beat (R150). -/
def portCap (p : Nat) : Nat := nth [64, 16, 16, 7, 17, 8, 8, 8, 8, 1] p 0

/-- Grant up to n words whose banks are free, in order; the banks granted are then taken (R149): the words granted, those left, and the
banks. -/
def grantWords : Nat → List Nat → BitVec 64 → List Nat × List Nat × BitVec 64
  | _, [], b => ([], [], b)
  | n, w :: ws, b =>
    if n = 0 || b.getLsbD (w % 64) then
      let (g, l, b) := grantWords n ws b
      (g, w :: l, b)
    else
      let (g, l, b) := grantWords (n - 1) ws (b ||| BitVec.ofNat 64 (2 ^ (w % 64)))
      (w :: g, l, b)

/-- The words of an access that are granted to a port in a beat. -/
def grantParts (p : Nat) : List Part → Nat → BitVec 64 → List Part × Nat × BitVec 64
  | [], n, b => ([], n, b)
  | q :: qs, n, b =>
    if q.port != p then
      let (r, n, b) := grantParts p qs n b
      (q :: r, n, b)
    else
      let (g, l, b) := grantWords n q.words b
      let (r, n, b) := grantParts p qs (n - g.length) b
      ({ q with words := l, now := q.now ++ g } :: r, n, b)
/-- The words of a list of accesses that are granted to a port, in the order of issue. -/
def grantAccs (p : Nat) : List Acc → Nat → BitVec 64 → List Acc × BitVec 64
  | [], _, b => ([], b)
  | a :: as, n, b =>
    let (ps, n, b) := grantParts p a.parts n b
    let (r, b) := grantAccs p as n b
    ({ a with parts := ps } :: r, b)
/-- The tile's own ports in their order: cube B, cube A and scales, drains, units A and B (R150). -/
def grantTile (l : List Acc) (b : BitVec 64) : List Acc × BitVec 64 :=
  ([2, 3, 4, 5, 6] : List Nat).foldl (fun (x : List Acc × BitVec 64) p => grantAccs p x.1 (portCap p) x.2) (l, b)
/-- Every word granted: what the beat would be if no bank were contended. -/
def Acc.grantAll (a : Acc) : Acc := { a with parts := a.parts.map fun q => { q with words := [], now := q.now ++ q.words } }

def Acc.done (a : Acc) : Bool := a.parts.all (·.words == [])
/-- Whether an access is of the tile kind, whose loss stalls the tile (R151). -/
def Acc.tileKind (a : Acc) : Bool := a.parts.any fun q => q.port < 7
/-- Whether an access belongs to a drain, which goes on in every beat in which the tile is not stalled (R204). -/
def Acc.isDrain (a : Acc) : Bool := a.parts.any (·.port == 4)

/-! ## What an access does in a beat -/

/-- The shadow-tag check of the words of a part that are accessed in a beat; a part records one violation (R171). -/
def Dev.shadowPart (d : Dev) (t slot : Nat) (wr : Bool) (q : Part) : Bool × Dev :=
  match q.win with
  | none => (false, d)
  | some w =>
    if d.winTagged t w || q.shadowed then (false, d) else
    match q.now.find? (fun x => (d.tile t).full x == wr) with
    | some x => (true, d.shadowViolation t slot w x wr)
    | none => (false, d)

/-- A taking read empties the words it reads, unless they are filled in the same beat (R163). -/
def Dev.takeWords (d : Dev) (t : Nat) (q : Part) : Dev :=
  if q.take && q.win.isSome then
    d.upd t fun x => (q.now.filter fun w => !x.netWords.contains w).foldl (fun x w => x.setTag w false) x
  else d

/-- Write the words of a part granted in this beat. -/
def Dev.storeNow (d : Dev) (t : Nat) (o : Obs) (q : Part) : Dev :=
  d.each q.now fun d w => match q.data[w - q.foot.headD 0]? with
    | some (v, m) => d.spWrite t w v m q.win.isSome o
    | none => d

/-- One part of an access in a beat: the check, then its words are read and taken, or written. -/
def Dev.partNow (d : Dev) (t : Nat) (o : Obs) (a : Acc) (q : Part) : Part × List (Nat × (Word256 × Bool)) × Dev :=
  let (v, d) := d.shadowPart t a.slot a.wr q
  let q' := { q with now := [], shadowed := q.shadowed || v }
  if a.wr then (q', [], d.storeNow t o q)
  else
    let (ws, d) := d.spReads t o q.now
    (q', q.now.zip ws, d.takeWords t q)
def Dev.partsNow (d : Dev) (t : Nat) (o : Obs) (a : Acc) : List Part → List Part × List (Nat × (Word256 × Bool)) × Dev
  | [] => ([], [], d)
  | q :: qs =>
    let (q, g, d) := d.partNow t o a q
    let (qs, gs, d) := d.partsNow t o a qs
    (q :: qs, g ++ gs, d)

/-- The words an access has read of a footprint. -/
def Acc.words (a : Acc) (foot : List Nat) : List (Word256 × Bool) :=
  foot.map fun w => ((a.got.find? fun g => g.1 == w).map (·.2)).getD (0, false)

/-- Mismatches of one access, in the order in which a capture is taken (R112), then accumulator parity (R340). -/
def Dev.mismatches (d : Dev) (t : Nat) (l : List Found) (par : Bool) (x : CubeStep) : Dev :=
  d.each (l ++ (if par then [{ cause := 0 }] else [])) fun d f => d.cubeMismatch t f x

/-- What an access does in the beat its last word is granted. -/
def Dev.finish (d : Dev) (t : Nat) (o : Obs) (a : Acc) : Dev :=
  let of' (n : Nat) : List CubeObs := o.cube.filter fun c => obsSet c == n
  let par (n : Nat) : Bool := (of' n).any fun c => match c with
    | .parity _ => true
    | _ => false
  let ws := a.words (a.parts.flatMap (·.foot))
  match a.kind with
  | .load n mask due =>
    let d := d.addInflight t [⟨due, a.pc, .v n (BitVec.ofNat 2048 (joinWords (ws.map (·.1)))) mask⟩]
    if ws.any (·.2) then d.addInflight t [⟨due - 1, a.pc, .poison⟩] else d
  | .store => d
  | .drain n fmt inp want sc cv =>
    let data := ((a.parts.headD ⟨0, [], [], none, false, [], [], false⟩).data).map (·.1)
    let d := match cv with
      | none => d
      | some c => d.updRegs t fun r => { r with cv := smSet cvReset r.cv c (BitVec.ofNat 64
          (crc64Fold (smGet cvReset r.cv c).toNat (toBytes (32 * data.length) (joinWords data)))) }
    let acc := bits a.cubeSlot.toNat 58 56
    let r := (d.tile t).regs
    let l := want.bind fun w => drainFound fmt n inp w data sc
    d.mismatches t l.toList (par acc) { acc := acc, fa := r.fa, fb := r.fb, before := (r.rAcc acc).count, slot := a.slot, pc := a.pc, word := a.cubeSlot }
  | .agload n due =>
    if ws.any (·.2) then d.addInflight t [⟨due - 1, a.pc, .poison⟩]
    else d.addInflight t (ws.map fun w => ⟨due, a.pc, .ag n w.1⟩)
  | .cube n fa fb k opens closes due =>
    -- the parts are B, A, and the scales of A and of B
    let part (i : Nat) : Nat := joinWords ((a.words ((a.parts.map (·.foot)).getD i [])).map (·.1))
    let x : StepIn := ⟨fa, fb, part 1, part 0⟩
    let d := d.updRegs t fun r =>
      let s := r.rAcc n
      r.wAcc n (if opens then { s with scaleA := BitVec.ofNat 256 (part 2), scaleB := BitVec.ofNat 512 (part 3) } else s)
    let s := (d.tile t).regs.rAcc n
    let found := stepFound s x closes (of' n) (d.tile t).rotCube
    let d := d.updRegs t fun r => r.wAcc n (cubeStep (r.rAcc n) x closes (of' n))
    let d := d.mismatches t found (par n) { acc := n, fa := fa, fb := fb, before := s.count - k, a := part 1, b := part 0, slot := a.slot, pc := a.pc, word := a.cubeSlot }
    let d := d.upd t fun x => { x with rotCube := if !isMx fa || closes then (x.rotCube + 1) % 8 else x.rotCube }
    let d := d.addInflight t [⟨due, a.pc, .acc n ((d.tile t).regs.rAcc n).vals⟩]
    if ws.any (·.2) then d.addInflight t [⟨due - 5, a.pc, .poison⟩] else d
  | .tagSet => d
  | .tagClr => d
  | .entry id =>
    match (d.tile t).xfers.find? (·.id == id) with
    | none => d
    | some x =>
      let e := (joinWords (ws.map (·.1)) >>> (64 * x.ent)) % 2 ^ 64
      if ws.any (·.2) then (d.dropXfer t id).raiseFault t x.slot FC.POISON x.pc
      else if !bit e 63 || bits e 62 48 ≠ 0 || bits e 15 0 ≠ 0 then (d.dropXfer t id).raiseFault t x.slot FC.PAGE x.pc
      else
        let d := d.updXfer t id fun z => { z with vpn := some (bits e 47 16) }
        ((d.xferPage t { x with vpn := some (bits e 47 16) }).map (·.2)).getD d
  | .flit f => { d with flits := d.flits ++ [{ f with data := ws, beat := d.now t }] }
  | .putRead id =>
    match (d.tile t).xfers.find? (·.id == id), d.logOf t with
    | some x, some me =>
      let n := (stackOf (x.pa.getD 0)).getD 0
      let out := ((d.homeOf n).bind fun h => d.entryTile h.1 (blockSide n) me).getD me
      let side := blockSide n
      let port := if out = me then side else (d.meshPort me out).getD side
      let k := a.parts.foldl (fun m q => max m ((q.foot.headD x.base - x.base) / 8)) 0
      let f : Flit := { tid := id, k := k, last := k + 1 = 16 * x.nb, src := t, ctx := x.ctx, slot := x.slot, pc := x.pc, cadence := x.cadence,
                        dst := out, win := n, off := 0, data := ws, vc := 1, at' := me, inp := 4 + port, cargo := .put id, beat := d.now t,
                        exit := some side }
      { d with flits := d.flits ++ [f] }
    | _, _ => d

/-- An access in a beat: TAGSET and TAGCLR act on their slot's tags (R163); of any other the words granted are read or written, and with the
last of them it is complete. The second part tells what is left of it. -/
def Dev.accNow (d : Dev) (t : Nat) (o : Obs) (a : Acc) : Option Acc × Dev :=
  let (ps, g, d) := d.partsNow t o a a.parts
  let a := { a with parts := ps, got := a.got ++ g }
  if a.done then (none, d.finish t o a) else (some { a with delay := 0 }, d)
def Dev.accsNow (d : Dev) (t : Nat) (o : Obs) : List Acc → List Acc × Dev
  | [] => ([], d)
  | a :: as =>
    let (r, d) := d.accNow t o a
    let (rs, d) := d.accsNow t o as
    (r.toList ++ rs, d)

/-- The slot that a TAGSET or TAGCLR names. -/
def Acc.tagFoot (a : Acc) : List Nat := a.parts.flatMap (·.foot)
/-- TAGCLR empties its slot, but not words that are filled in the same beat (R163). -/
def Dev.clearTags (d : Dev) (t : Nat) (l : List Acc) : Dev :=
  d.each (l.filter (·.kind == .tagClr)) fun d a =>
    d.upd t fun x => (a.tagFoot.filter fun w => !x.netWords.contains w).foldl (fun x w => x.setTag w false) x
/-- TAGSET fills its slot. -/
def Dev.setTags (d : Dev) (t : Nat) (l : List Acc) : Dev :=
  d.each (l.filter (·.kind == .tagSet)) fun d a => d.upd t fun x => a.tagFoot.foldl (fun x w => x.setTag w true) x

/-! ## Landings (R168, R171, R173, R227) -/

/-- Whether landings are held because a switch saves or restores: beats 17 to 66 after its trigger (R152). -/
def Tile.swBusy (x : Tile) : Bool :=
  match x.mode with
  | .switch n _ => 14 ≤ n && n ≤ 63
  | _ => false

/-- Whether a SEND's flit may land at the tile (R168, R516, R517). -/
def Dev.landOk (d : Dev) (t : Nat) (f : Flit) : Bool :=
  d.winValid t f.win && d.winWRemote t f.win && decide (f.off + f.data.length ≤ d.winBound t f.win) && !(d.tile t).fenced
    && !(d.winFenced t f.win && f.ctx != d.winCtx t f.win)

/-- The scratchpad words a flit still has to land in, with their data: a SEND's in its window, a GET's in the transfer's local range. -/
def Dev.landing (d : Dev) (t : Nat) (f : Flit) : List (Nat × (Word256 × Bool)) :=
  let first := match f.cargo with
    | .get id => ((d.tile t).xfers.find? (·.id == id)).map fun x => x.base + 8 * f.k
    | _ => some (d.winBase t f.win + f.off)
  match first with
  | some w => ((List.range f.data.length).map fun i => (w + i, nth f.data i (0, false))).filter fun e => !f.landed.contains e.1
  | none => []
/-- Whether a flit is held at the tile: in a tagged window with a target word full, or while a switch saves or restores (R152, R173). -/
def Dev.landHeld (d : Dev) (t : Nat) (f : Flit) : Bool :=
  (d.tile t).swBusy || (d.winTagged t f.win && (d.landing t f).any fun e => (d.tile t).full e.1)

/-- Land words in a window from a scratchpad word on: written whole, tagged full, poison passed on (R155, R160, R163). -/
def Dev.landWord (d : Dev) (t : Nat) (e : Nat × (Word256 × Bool)) : Dev :=
  (d.spWrite t e.1 e.2.1 0xFF true {}).upd t (·.setPoison e.1 e.2.2)

/-- The words of a flit that have been granted land: the shadow-tag check of a static window (R171), then the writes. With its last word
the flit is gone, and with its last flit a GET has ended (R217). -/
def Dev.landNow (d : Dev) (t n : Nat) (f : Flit) : Dev :=
  let es := (d.landing t f).filter fun e => f.now.contains e.1
  let bad := if d.winTagged t f.win || f.shadowed then none else (es.map (·.1)).find? fun w => (d.tile t).full w
  let d := match bad with
    | some w => d.shadowViolation t (d.winOwner t f.win) f.win w true
    | none => d
  let d := d.each es fun d e => d.landWord t e
  let left := (d.landing t { f with landed := f.landed ++ f.now }).length
  if left > 0 then d.updFlit f fun g => { g with landed := f.landed ++ f.now, now := [], shadowed := f.shadowed || bad.isSome }
  else
    let d := d.dropFlit f n
    match f.cargo with
    | .get id => match (d.tile t).xfers.find? (·.id == id) with
      | some x => if x.landed + 1 ≥ 16 * x.nb then d.dropXfer t id else d.updXfer t id fun z => { z with landed := z.landed + 1 }
      | none => d
    | _ => d

/-- The flits at a tile's landing stage that have come in an earlier beat: of each inbound port and channel the oldest; in channel priority,
then in port order (R227). -/
def Dev.landers (d : Dev) (me n : Nat) (vcs : List Nat) : List Flit :=
  vcs.flatMap fun vc => ([0, 1, 2, 3] : List Nat).filterMap fun p =>
    (d.headFlit me p vc).filter fun f => f.dst == me && f.beat < n

/-- Grant landings their banks, in order, up to c of them: the flits with the words they are granted, whether any is held, and the banks. A
flit whose words are full stays for `again`. -/
def Dev.grantLand (d : Dev) (t : Nat) : List Flit → Nat → BitVec 64 → List Flit × List Flit × Bool × Nat × BitVec 64
  | [], c, b => ([], [], false, c, b)
  | f :: fs, c, b =>
    if d.landHeld t f then
      let (g, a, h, c, b) := d.grantLand t fs c b
      (g, f :: a, h, c, b)
    else if c = 0 then
      let (g, a, _, c, b) := d.grantLand t fs c b
      (g, a, true, c, b)
    else
      let (w, l, b) := grantWords 8 ((d.landing t f).map (·.1)) b
      let (g, a, h, c, b) := d.grantLand t fs (c - 1) b
      ({ f with now := w } :: g, a, h || l != [], c, b)

/-- Refuse a flit at a tile: a refusal sets out over VC2 for its sender, and a cadence transfer fails the refusing tile's verdict with
cause 13 when that tile is in the group's tile set (R168, R233). -/
def Dev.refuse (d : Dev) (t n : Nat) (f : Flit) (code : Nat) : Dev :=
  let d := d.dropFlit f n
  let d := match d.logOf t, d.logOf f.src with
    | some me, some home =>
      let g : Flit := { f with src := t, dst := home, data := [], vc := 2, at' := me, inp := 12, held := 0, cargo := .refusal code }
      { d with flits := d.flits ++ [{ g with beat := n, seen := true, landed := [], now := [] }] }
    | _, _ => d
  d.when (f.cadence && (d.tile t).inGroup) (·.failVerdict t 13)

/-- No entry of a tile passes a transfer any more that is gone (R213). -/
def Tile.unbind (x : Tile) (k : Nat × Nat) : Tile :=
  { x with fwd := (x.fwd.map fun e => { e with bound := e.bound.filter (· != k) }).filter fun e => e.left > 0 || e.bound != [] }

/-- A landing held at a tile that its watchdog ends: it is refused with what is left of its transfer, and the context that sent it, or
issued the GET, faults with TAG_DEADLOCK (R173). -/
def Dev.expireLanding (d : Dev) (t n : Nat) (f : Flit) : Dev :=
  let d := d.tinc t Reg.SP_WINREFUSE
  match f.cargo with
  | .get id => match (d.tile t).xfers.find? (·.id == id) with
    | some x => (d.dropXfer t id).raiseFault t x.slot FC.TAG_DEADLOCK x.pc
    | none => d.dropFlit f n
  | _ =>
    let d := d.refuse t n f FC.TAG_DEADLOCK
    let gone (g : Flit) : Bool := g.cargo == .send && g.src == f.src && g.tid == f.tid
    let d := d.each (d.flits.filter gone) fun d g => d.dropFlit g n
    d.each (d.tiles.map (·.1)) fun d u => d.upd u (·.unbind (f.src, f.tid))

/-- The tag watchdog's length N; values below 1,024 act as 1,024 (R174, R181). -/
def Dev.wdog (d : Dev) (t : Nat) : Nat := max 1024 (d.trf t Reg.SP_CTL 23 0)

/-- A beat in which landings are held: each counts it, and one held since its watchdog's N beats is refused in this beat (R174). -/
def Dev.holdLandings (d : Dev) (t n : Nat) (l : List Flit) : Dev :=
  d.each l fun d f => if f.held ≥ d.wdog t then d.expireLanding t n f else d.updFlit f fun g => { g with held := g.held + 1 }

/-! ## The flits that pass (R213, R222 to R233) -/

/-- Arrivals of a beat at a tile's router: refusals reach their sender (R168); SENDs that may not land are refused, and so are those whose
forwarding entry leads to a cut link (R233). A transfer refused there leaves its entry armed (DESIGN CHOICE, log entry 93). -/
def Dev.arrivals (d : Dev) (t me n : Nat) : Dev :=
  let here := d.flits.filter fun f => f.at' == me && f.inp < 4 && f.beat ≤ n
  let d := { d with flits := updIf (fun f => f.at' == me && f.inp < 4 && f.beat ≤ n) (fun f => { f with seen := true }) d.flits }
  d.each here fun d f => match f.cargo with
    | .refusal code =>
      if f.dst != me then d else
      let d := d.dropFlit f n
      if d.ctxOf t f.slot = f.ctx then d.raiseFault t f.slot code f.pc else d
    | .send =>
      if f.dst = me then (if d.landOk t f then d else (d.refuse t n f FC.WINDOW).tinc t Reg.SP_WINREFUSE)
      else match (d.tile t).entryFor f n with
        | some e => if (d.hop me e.outp).isNone then d.refuse t n f FC.ROUTE else d
        | none => d
    | _ => d

/-- Whether a SEND is held at a tile's router with no armed entry (R213). -/
def Dev.fwdHeld (d : Dev) (t me n : Nat) (f : Flit) : Bool :=
  f.at' == me && f.inp < 4 && f.cargo == .send && f.dst != me && f.beat ≤ n && d.headFlit me f.inp f.vc == some f && ((d.tile t).entryFor f n).isNone

/-- The router of a tile in one beat: side switches deliver, arrivals are told apart, every link direction starts its next flit, and a beat
in which a SEND is held for want of an entry counts (R213, R223, R253). -/
def Dev.router (d : Dev) (t n : Nat) : Dev :=
  match d.logOf t with
  | none => d
  | some me =>
    if !d.flits.any (·.at' == me) then d else
    let d := d.each (List.range 4) fun d p => d.startSide me p n
    let d := d.arrivals t me n
    let d := d.each (List.range 4) fun d p => d.startLink t me p n
    let stuck := d.flits.filter (d.fwdHeld t me n)
    let d := d.each stuck fun d f => d.updFlit f fun g => { g with held := g.held + 1 }
    d.when (stuck != []) (·.tinc t Reg.RT_FWDHOLD)

/-! ## Spare rows (R161) -/

/-- A word of the row that a copy is at: two bank beats for each of its 8 words, the read and the write. -/
def RowCopy.word (c : RowCopy) : Nat := 512 * (c.key % 256) + 64 * (c.beats / 2) + c.key / 256
/-- One bank beat of a spare-row copy: a read is checked as any other, and its word is stored with fresh check bits; with the last beat the
remap is written to the firn list. -/
def Dev.copyBeat (d : Dev) (t : Nat) (o : Obs) (c : RowCopy) : Dev :=
  let w := c.word
  let d := if c.beats % 2 = 0 then d.eccCheckAt t w (w64 (c.key / 256 + c.src * 64 + c.beats / 2 * 2 ^ 15)) o else d.upd t (·.setCorr w false)
  if c.beats + 1 < 16 then d.upd t fun x => { x with rowCopy := { c with beats := c.beats + 1 } :: x.rowCopy.tail }
  else
    let d := d.upd t fun x => { x with rowCopy := x.rowCopy.tail }
    let (d, fin) := d.firnList 0x800 2048 1 [2 ^ 31 + t * 2 ^ 20 + c.key / 256 * 2 ^ 14 + c.key % 256 * 2 ^ 6 + c.spare * 2 ^ 4]
    d.when (fin != .done) (·.retireNote (.row t (c.key / 256) (c.key % 256)) true)

/-! ## Aperture writes (R42, R150, R152, R170) -/

/-- Words that MNT moves take their banks in beats to come, one word a beat (R150). -/
def Dev.mntTouch (d : Dev) (t : Nat) (ws : List Nat) : Dev := d.upd t fun x => { x with mntq := x.mntq ++ ws }
/-- The opened window that holds a scratchpad word. -/
def Dev.winOfWord (d : Dev) (t w : Nat) : Option Nat :=
  (List.range 16).find? fun k => d.winValid t k && d.winBase t k ≤ w && w < d.winBase t k + d.winBound t k
/-- The words an access of n bytes at an offset of a scratchpad touches. -/
def touched (off n : Nat) : List Nat := (List.range ((off + n + 31) / 32 - off / 32)).map (off / 32 + ·)
/-- The shadow tags of the static windows an access touches (R171). -/
def Dev.apertureShadow (d : Dev) (t : Nat) (ws : List Nat) (wr : Bool) : Dev :=
  match ws.find? fun w => w < 131072 && (d.tile t).full w == wr && (d.winOfWord t w).any fun k => !d.winTagged t k with
  | some w => match d.winOfWord t w with
    | some k => d.shadowViolation t (d.winOwner t k) k w wr
    | none => d
  | none => d
/-- A byte of a word as it stands. -/
def byteOf (v : Word256) (i : Nat) : Byte := v.extractLsb' (8 * i) 8
/-- Write bytes into the words they touch, each merged with the word's stored bytes, and tag the words full. -/
def Dev.apertureWrite (d : Dev) (t off : Nat) (bs : List Byte) (o : Obs) : Dev :=
  let ws := (touched off bs.length).filter (· < 131072)
  let d := (d.apertureShadow t ws true).mntTouch t ws
  d.each ws fun d w =>
    let covered (i : Nat) : Bool := off ≤ 32 * w + i && 32 * w + i < off + bs.length
    let whole := (List.range 32).all covered
    let d := if whole then d else d.eccCheck t w o
    let bad := (d.tile t).poisoned w
    let old := d.spRd t w
    let v := ofBytes ((List.range 32).map fun i => if covered i then nth bs (32 * w + i - off) 0 else byteOf old i)
    (d.spWrite t w (BitVec.ofNat 256 v) 0xFF true {}).upd t (·.setPoison w (bad && !whole))

/-- Aperture writes held while a switch saved or restored are made once it no longer does (R152). -/
def Dev.heldStores (d : Dev) (t : Nat) : Dev :=
  let l := (d.tile t).heldWrites
  if l == [] || (d.tile t).swBusy then d
  else (d.upd t fun x => { x with heldWrites := [] }).each l fun d w => d.apertureWrite t w.off w.bytes { ecc := w.ecc }

/-! ## A beat -/

/-- What a beat of the tile makes of its own accesses: every access that is due, none contended (`free` tells what the beat would be without
a contended bank), or, of a beat that is no issue beat, those of drains and of accesses that lost (`wait`), or the latter alone (`stall`). -/
inductive BankMode where
  | arb
  | free
  | wait
  | stall
  deriving DecidableEq, Repr

/-- Whether an access is made in the beat: loads, stores and operand reads in issue beats (R53, R154), a drain's writes in every beat in
which the tile is not stalled (R204), what lost a bank in every beat (R151). -/
def Acc.due (a : Acc) (m : BankMode) : Bool :=
  a.delay = 0 || (a.delay = 1 && match m with
    | .arb => true
    | .free => true
    | .wait => a.isDrain
    | .stall => false)

/-- The MV port: entry words of GETs and PUTs, then the sources of SENDs and PUTs in issue order, up to 8 words in all (R212, R215). A
source read pauses while the first link has no credit for its flit, and a PUT's until its page is translated (R226). -/
def Dev.mvReady (d : Dev) (t : Nat) (a : Acc) : Bool :=
  a.delay ≤ 1 && match a.kind with
    | .flit f => d.portRoom f.at' (f.inp - 4) f.vc (d.now t)
    | .putRead id => match (d.tile t).xfers.find? (·.id == id), d.logOf t with
      | some x, some me =>
        let n := (stackOf (x.pa.getD 0)).getD 0
        x.pa.isSome && match (d.homeOf n).bind fun h => d.entryTile h.1 (blockSide n) me with
          | some out => if out = me then true else match d.meshPort me out with
            | some p => d.portRoom me p 1 (d.now t)
            | none => false
          | none => false
      | _, _ => true
    | _ => true

/-- The MV port's accesses of a beat and what is left of its queues: whether one is held, and the banks. -/
def Dev.mvBeat (d : Dev) (t : Nat) (o : Obs) (b : BitVec 64) : Bool × BitVec 64 × Dev :=
  let x := d.tile t
  let entries := x.bankq.filter fun a => a.parts.any (·.port == 7)
  let (head, rest) := match x.mvq with
    | a :: as => if d.mvReady t a then ([a], as) else ([], x.mvq)
    | [] => ([], [])
  let (l, b) := grantAccs 7 (entries ++ head) (portCap 7) b
  let d := d.upd t fun x => { x with bankq := x.bankq.filter fun a => !a.parts.any (·.port == 7), mvq := rest }
  let (left, d) := d.accsNow t o l
  let isEntry (a : Acc) : Bool := match a.kind with
    | .entry _ => true
    | _ => false
  (left != [], b, d.upd t fun x => { x with bankq := left.filter isEntry ++ x.bankq, mvq := left.filter (fun a => !isEntry a) ++ x.mvq })

/-- The scratchpad in one beat (R149 to R154, R163): SW; a spare-row copy, if one runs; NET; the tile's ports as the mode has it; MV; MEM;
MNT. Reads and clears act before writes and sets; a landing that a clear of the beat releases lands in it, in the banks left (R173). The
first part tells whether an access of the tile has lost a bank. -/
def Dev.bankBeat (d : Dev) (t : Nat) (o : Obs) (m : BankMode) : Bool × Dev :=
  let d := d.heldStores t
  let x := d.tile t
  let n := d.now t
  let me := (d.logOf t).getD ringPlace
  let all := BitVec.allOnes 64
  let b := if x.swBusy then all else x.netBanks
  let mv := x.bankq != [] || x.mvq != []
  -- MNT copies a row to its spare: no port but SW goes before it
  let (b, d) := match x.rowCopy with
    | c :: _ => if x.swBusy then (b, d) else (b ||| BitVec.ofNat 64 (2 ^ (c.key / 256)), d.copyBeat t o c)
    | [] => (b, d)
  let (net, netAgain, netHeld, room, b) := d.grantLand t (d.landers me n [0, 3]) (2 - x.netCount) b
  let tags := x.bankq.filter fun a => a.kind == .tagSet || a.kind == .tagClr
  let own := x.bankq.filter (·.tileKind)
  let due := own.filter (·.due m)
  let later := own.filter fun a => !a.due m
  let (due, b) := if m = .free then (due.map (·.grantAll), b) else grantTile due b
  let d := d.upd t fun x => { x with bankq := x.bankq.filter fun a => !a.tileKind && !tags.contains a }
  let d := d.clearTags t tags
  let (lost, d) := d.accsNow t o (due.filter fun a => !a.wr)
  let (mvHeld, b, d) := if mv then d.mvBeat t o b else (false, b, d)
  let (mem, memAgain, memHeld, memRoom, b) := d.grantLand t (d.landers me n [1]) 1 b
  let (mntHeld, b, d) := match x.mntq with
    | w :: ws => if b.getLsbD (w % 64) then (true, b, d) else
        (false, b ||| BitVec.ofNat 64 (2 ^ (w % 64)), d.upd t fun x => { x with mntq := ws })
    | [] => (false, b, d)
  -- the beat's clears have been made: what they release lands in the banks that are left
  let (net', netStay, h1, _, b) := d.grantLand t netAgain room b
  let (mem', memStay, h2, _, _) := d.grantLand t memAgain memRoom b
  let d := d.each (net ++ net') fun d f => d.landNow t n f
  let (lostW, d) := d.accsNow t o (due.filter (·.wr))
  let d := d.each (mem ++ mem') fun d f => d.landNow t n f
  let d := d.setTags t tags
  let stay := netStay ++ memStay
  let d := d.holdLandings t n stay
  let stall := lost != [] || lostW != []
  let step (a : Acc) : Acc := if a.delay > 1 && !stall && m != .stall then { a with delay := a.delay - 1 } else a
  let d := d.upd t fun x => { x with bankq := x.bankq ++ lost ++ lostW ++ later.map step, netBanks := 0, netWords := [], netCount := 0 }
  let held := netHeld || memHeld || mvHeld || mntHeld || h1 || h2 || stay != [] || x.heldWrites != []
  (stall, d.when held (·.tinc t Reg.SP_HOLD))

/-- Complete every access of the tile's own ports still queued by an outgoing context, without arbitration (the drain stage of R72; DESIGN
CHOICE, log entry 95). -/
def Dev.flushBank (d : Dev) (t : Nat) (o : Obs) : Dev :=
  let all := (d.tile t).bankq
  let tags := all.filter fun a => a.kind == .tagSet || a.kind == .tagClr
  let q := all.filter fun a => a.tileKind || tags.contains a
  let d := d.upd t fun x => { x with bankq := all.filter fun a => !q.contains a }
  let d := d.clearTags t tags
  let l := (q.filter fun a => !tags.contains a).map (·.grantAll)
  let (_, d) := d.accsNow t o (l.filter fun a => !a.wr)
  let (_, d) := d.accsNow t o (l.filter (·.wr))
  d.setTags t tags

end Sys2Proof.Machine
end

