-- ==== Sys2Proof/Machine/Switch.lean ====
section
/-! DEFINITION. Launches, context switches and the entries of a switch list (R69 to R75), spare rows (R161), and TILE.SEQ (R82). -/

namespace Sys2Proof.Machine

/-! ## Launches and switches -/

/-- The registers of a schedule. -/
def schedRegs (n : Nat) : List Nat := [Reg.SCH_CTL n, Reg.SCH_RATE n, Reg.SCH_LEN n, Reg.SCH_STEP n]
/-- Written values take effect for the schedules that serve a context, or served it until now (R139). -/
def Dev.latchSched (d : Dev) (c : Nat) : Dev :=
  let ns := (List.range 8).filter fun n => d.rf (Reg.SCH_CTL n) 53 48 == c || fld (d.effRd (Reg.SCH_CTL n)) 53 48 == c
  { d.latch (ns.flatMap schedRegs) with schWrote := d.schWrote.filter fun n => !ns.contains n }

/-- The schedule whose learning rate and step count a context reads (R124, R138, R139): the lowest enabled one that names it. -/
def Dev.schedOf (d : Dev) (c : Nat) : Option Nat :=
  (List.range 8).find? fun n => tst (d.effRd (Reg.SCH_CTL n)) 63 && fld (d.effRd (Reg.SCH_CTL n)) 53 48 == c
def Dev.lrAt (d : Dev) (n step : Nat) : W32 :=
  let f (r hi lo : Nat) : Nat := fld (d.effRd r) hi lo
  lrOf (BitVec.ofNat 32 (f (Reg.SCH_RATE n) 63 32)) (BitVec.ofNat 32 (f (Reg.SCH_RATE n) 31 0))
    (f (Reg.SCH_LEN n) 63 32) (f (Reg.SCH_LEN n) 31 0) (f (Reg.SCH_CTL n) 35 32) step
/-- lr and stepno of a context as its schedule stands, +0 and 0 without one; SCHn_OUT shows them (R124, R138, R142). -/
def Dev.rateOf (d : Dev) (c : Nat) : W64 × Dev :=
  match d.schedOf c with
  | none => (0, d)
  | some n =>
    let step := fld (d.effRd (Reg.SCH_STEP n)) 31 0
    let lr := d.lrAt n step
    (w64 (lr.toNat + step * 2 ^ 32), d.wr (Reg.SCH_OUT n) (w64 (lr.toNat + (d.lrAt n (min (step + 1) 0xFFFFFFFF)).toNat * 2 ^ 32)))
/-- Latch lr and stepno of the context of a slot (R138). -/
def Dev.latchLr (d : Dev) (t slot : Nat) : Dev :=
  let (v, d) := d.rateOf (d.ctxOf t slot)
  d.upd t fun x => { x with lr := smSet zeroP x.lr slot v }
/-- A launch latches once, as its first tile begins it, and every tile of it reads the same (R124, R138). -/
def Dev.launchLr (d : Dev) (t : Nat) (l : TileLaunch) : Dev :=
  match (d.launches.find? (·.id == l.id)).bind (·.lr) with
  | some v => d.upd t fun x => { x with lr := smSet zeroP x.lr l.slot v }
  | none =>
    let c := d.ctxOf t l.slot
    let (v, d) := (d.latchSched c).rateOf c
    { d with launches := updIf (fun m => m.id == l.id) (fun m => { m with lr := some v }) d.launches }.upd t fun x =>
      { x with lr := smSet zeroP x.lr l.slot v }

/-- Empty the tags of a context's windows with PERSIST 0 (R163). -/
def Dev.emptyWindows (d : Dev) (t c : Nat) : Dev :=
  d.each (findAll 16 fun w => d.winValid t w && d.winCtx t w == c && !d.winPersist t w) fun d w =>
    d.upd t fun x => { x with tags := x.tags.filter fun e => e.1 < d.winBase t w || e.1 ≥ d.winBase t w + d.winBound t w }

/-- Withdraw the arrivals a tile left standing on a context's barrier lines (R242). -/
def Dev.withdrawArrivals (d : Dev) (l c : Nat) : Dev :=
  { d with bars := updIf (·.ctx == c) (fun b => { b with arrived := b.arrived.filter (·.1 != l), rel := b.rel.filter (·.1 != l) }) d.bars }

/-- Ordered row remaps take effect (R161): each row goes to its bank's next spare, and its copy begins. -/
def Dev.applyRemaps (d : Dev) (t : Nat) : Dev :=
  let pend := (d.tile t).remapPend
  let d := if pend = [] then d else d.upd t fun x => { x with remapPend := [] }
  d.each pend fun d k =>
    let bank := k / 512
    let row := if k % 512 < 256 then k % 512 else smGet (fun _ => 0) (d.tile t).remap (4 * bank + k % 512 - 256) - 1
    match (List.range 4).find? fun i => smGet (fun _ => 0) (d.tile t).remap (4 * bank + i) == 0 with
    | none => d
    | some i =>
      let d := d.upd t fun x => { x with remap := smSet (fun _ => 0) x.remap (4 * bank + i) (row + 1)
                                         rowCopy := x.rowCopy ++ [⟨256 * bank + row, x.bankRow bank row, i, 0⟩] }
      let d := d.twf t Reg.SP_REPAIR 8 0 (d.trf t Reg.SP_REPAIR 8 0 + 1)
      let d := d.when (i == 3) fun d => d.twf t Reg.SP_REPAIR 22 16 (d.trf t Reg.SP_REPAIR 22 16 + 1)
      d.retired (.row t bank (k % 512)) .done

/-- The first beat of a launch on a tile (R75, R163, R195, R213, R242): cleared registers, empty windows and forwarding
entries, the learning rate latched. One whose context has become FAULTED ends there (R78). What CUBE_BUSY counts from (R88, R100) does not carry over a
switch (DESIGN CHOICE, log entry 94). -/
def Dev.startLaunch (d : Dev) (t : Nat) (l : TileLaunch) : Dev :=
  if d.slotState t l.slot = 6 then
    (d.dropFaulted t [l]).1.upd t fun x => { x with mode := .idle, slot := l.slot, cur := none, reached := none, waited := 0 }
  else
  let c := d.ctxOf t l.slot
  let d := (d.applyRemaps t).emptyWindows t c
  let d := match d.logOf t with
    | some n => d.withdrawArrivals n c
    | none => d
  let d := d.launchLr t l
  let d := d.setSlotState t l.slot 2
  d.upd t fun x => { x with regs := {}, mode := .running, slot := l.slot, cur := some l, fwd := [], inflight := [],
                            lastFp32 := none, lastDrain := none, lastSfu := none, reached := none, waited := 0, raise := none }

/-- Whether a switch-list entry's slot runs: it holds a context that is neither FAULTED nor set aside by an isolation
frame (R78, R524), and that has not parked in this frame (R71, R74). An entry that names a parked context costs what one of a FAULTED
slot does (DESIGN CHOICE, log entry 95: the spec only rules out that the context resumes). -/
def Dev.slotRuns (d : Dev) (t slot : Nat) : Bool :=
  d.rb (Reg.tile t (Reg.CS slot)) 63 && d.slotState t slot != 0 && d.slotState t slot != 6 && d.slotState t slot != 4
    && !(d.tile t).skipCtx.contains (d.ctxOf t slot)

def noSaved : Nat → Option Regs := fun _ => none

/-- A switch-list entry's context issues its first bundle in the next beat, or, where its slot does not run, that beat
begins the switch to the following entry (R72, R78). What CUBE_BUSY counts from (R88, R100) does not carry over a switch (DESIGN CHOICE, log
entry 94: the spec is silent on it). -/
def Dev.enterEntry (d : Dev) (t i : Nat) : Dev :=
  let x := d.tile t
  let slot := listSlot x.list i
  if d.slotRuns t slot then
    let d := d.setSlotState t slot 2
    d.upd t fun x => { x with regs := (smGet noSaved x.saved slot).getD {}, mode := .running, slot := slot, entry := i,
                              lastFp32 := none, lastDrain := none, lastSfu := none, reached := none, waited := 0, raise := none }
  else if i + 1 < listCount x.list then d.upd t fun x => { x with mode := .switch 80 (.entry (i + 1)), entry := i }
  else d.upd t fun x => { x with mode := .idle, entry := i }

/-- Record a shadow mismatch (R135, R146, R147). -/
def Dev.laneMismatch (d : Dev) (t : Nat) (i : Inflight) : Dev :=
  match i.what with
  | .lane u ln op s0 s1 s2 m sh =>
    let slot := (d.tile t).slot
    let cad := d.isCad t slot
    let d := d.tinc t Reg.VEC_MISMATCH
    let d := if d.rb (Reg.tile t Reg.LCAP_STATUS) 63 then d.missed t Reg.LCAP_STATUS else
      let ub := match u with
        | .a => 0
        | .b => 1
      let w0 := b2n cad * 2 ^ 63 + d.ctxOf t slot * 2 ^ 57 + slot * 2 ^ 55 + ln * 2 ^ 49 + ub * 2 ^ 48 + op.toNat
      d.holdLane t [w64 w0, w64 (s0.toNat + s1.toNat * 2 ^ 32), w64 s2.toNat, w64 (sh.toNat + m.toNat * 2 ^ 32), d.trd t Reg.BEAT, w64 d.frame]
        (d.underTest t)
    let d := d.report 5 t 0
    if cad then d.failVerdict t 2 else d
  | _ => d

/-- The fault an in-flight operation raises as it falls due (R135, R159, R191). -/
def Inflight.fault (i : Inflight) (cad : Bool) : Option (Nat × Nat) :=
  match i.what with
  | .poison => some (FC.POISON, i.pc)
  | .ag _ w => if descOk w then none else some (FC.ILLEGAL_BUNDLE, i.pc)
  | .lane .. => if cad then none else some (FC.LANE_FAIL, i.pc)
  | _ => none

/-- The in-flight operations of an outgoing context complete (the drain of R72): register writes are delivered, shadow
mismatches are recorded, and the first operation that raises a fault faults its context. -/
def Dev.drainFaults (d : Dev) (t : Nat) : Dev :=
  let acts := (d.tile t).inflight.filter (·.acts)
  let d := d.each acts fun d i => d.laneMismatch t i
  let d := match acts.findSome? (·.fault (d.isCad t (d.tile t).slot)) with
    | some (code, pc) => d.ctxFault t (d.tile t).slot code pc
    | none => d
  let d := d.deliverDue t (2 ^ 64)
  d.upd t fun x => { x with inflight := [] }

/-! ## The save area (R72, R80) -/

/-- Fields packed from bit 0 up, each with its width. -/
def packFields : List (Nat × Nat) → Nat
  | [] => 0
  | (w, v) :: r => v % 2 ^ w + 2 ^ w * packFields r
def rtnCode : Option Nat → Nat
  | none => 0
  | some k => 64 + k
/-- The sequencer state of an image: pc, routine, squash count, open loops, return points, formats and scale generators, check-value
registers, positions of the generators, and of each accumulator set its count and marks. -/
def seqImage (r : Regs) : Nat :=
  packFields ([(16, r.pc), (8, rtnCode r.rtn), (16, r.squash), (8, r.loops.length), (8, r.calls.length), (4, r.fa), (4, r.fb), (4, r.saga), (4, r.sagb)]
    ++ (List.range 8).flatMap (fun i => match r.loops[i]? with
      | some l => [(8, rtnCode l.rtn), (16, l.body), (32, l.count), (8, b2n l.squashed)]
      | none => [(64, 0)])
    ++ (List.range 4).flatMap (fun i => match r.calls[i]? with
      | some c => [(8, rtnCode c.rtn), (16, c.pc), (8, c.depth)]
      | none => [(32, 0)])
    ++ [(8, r.cvGood.toNat)] ++ (List.range 8).map (fun n => (64, (smGet cvReset r.cv n).toNat))
    ++ (List.range 8).flatMap (fun n => let g := r.rAg n; [(18, g.c0), (18, g.c1), (18, g.c2), (18, g.c3)])
    ++ (List.range 8).flatMap fun n => let s := r.rAcc n; [(32, s.count), (8, b2n s.bad + 2 * b2n s.badOpen)])

/-- The bytes of a number that are not zero, as cells from an address on. -/
def numCells (a n v : Nat) : List Host.Cell :=
  (List.range n).filterMap fun i => if (v >>> (8 * i)) % 256 = 0 then none else some (a + i, BitVec.ofNat 8 (v >>> (8 * i)))
/-- The cells of a context's image: v0 to v63, acc0 to acc7, p0 to p15, lc0 to lc7, ag0 to ag7 and the sequencer state, 1,568 words. The
order within the image is the model's (DESIGN CHOICE, log entry 19). -/
def regImage (a : Nat) (r : Regs) : List Host.Cell :=
  (r.v.filter (·.1 < 64)).flatMap (fun e => numCells (a + 256 * e.1) 256 e.2.toNat)
    ++ (r.accOut.filter (·.1 < 8)).flatMap (fun e => numCells (a + 16384 + 4096 * e.1) 4096 e.2.toNat)
    ++ (r.p.filter (·.1 < 16)).flatMap (fun e => numCells (a + 49152 + 8 * e.1) 8 e.2.toNat)
    ++ (r.lc.filter (·.1 < 8)).flatMap (fun e => numCells (a + 49280 + 4 * e.1) 4 e.2.toNat)
    ++ (r.ag.filter (·.1 < 8)).flatMap (fun e => numCells (a + 49312 + 32 * e.1) 32 e.2.desc.toNat)
    ++ numCells (a + 49568) 608 (seqImage r)

/-- The save of an outgoing context: its image stands in the 1,568 words of its slot's save area, with fresh check bits (R72). -/
def Dev.saveImage (d : Dev) (t slot : Nat) (r : Regs) : Dev :=
  if !d.rb (Reg.tile t (Reg.CS slot)) 63 then d else
  let w := d.trf t (Reg.SAVE slot) 16 0
  let a := spAddr t w
  let d := { d with mem := d.mem.filter (fun (c : Host.Cell) => c.1 < a) ++ regImage a r ++ d.mem.filter fun (c : Host.Cell) => a + 50176 ≤ c.1 }
  d.upd t fun x => { x with poison := x.poison.filter fun e => e.1 < w || w + 1568 ≤ e.1
                            corrPend := x.corrPend.filter fun e => e.1 < w || w + 1568 ≤ e.1 }

/-- The 80 beats of a switch are over (R72): the outgoing context has drained and is saved, the incoming one is in. The restore reads what
the save kept; nothing else writes a save area (R80). -/
def Dev.finishSwitch (d : Dev) (t : Nat) (dst : SwitchTo) : Dev :=
  let d := d.flushBank t {}
  let d := d.drainFaults t
  let d := d.upd t fun x => { x with regs := discardOpen x.regs }
  match dst with
  | .entry i =>
    let d := d.saveImage t (d.tile t).slot (d.tile t).regs
    let d := d.upd t fun x => { x with saved := smSet noSaved x.saved x.slot (some x.regs) }
    d.enterEntry t i
  | .launch l => d.startLaunch t l

/-- The frame entry of R70 is over: entry 0's context issues its pc 0 next, or a list of 0 entries runs nothing (R69). -/
def Dev.finishEntry (d : Dev) (t : Nat) : Dev :=
  if listCount (d.tile t).list = 0 then d.upd t fun x => { x with mode := .idle } else d.enterEntry t 0

/-- TILE.SEQ as R82 reports it. -/
def Dev.syncSeq (d : Dev) (t hold : Nat) : Dev :=
  let x := d.tile t
  d.twr t Reg.SEQ (w64 (hold * 2 ^ 29 + x.entry * 2 ^ 26 + x.slot * 2 ^ 24 + x.regs.loops.length * 2 ^ 20
    + x.regs.calls.length * 2 ^ 17 + x.regs.pc))

end Sys2Proof.Machine
end

