-- ==== Sys2Proof/Machine/Issue.lean ====
section
/-! DEFINITION. One beat of a tile (R48 to R64, R74 to R78, R187 to R190): what each slot of a bundle checks, waits for and
starts, the control flow, and the tag watchdog. -/

namespace Sys2Proof.Machine

/-- What a slot of a bundle wants: the accesses it starts, those of the MV port, in-flight operations, the generators it
uses in order, and whether its tag conditions hold (R172). -/
structure SlotPlan where
  accs : List Acc := []
  mv : List Acc := []
  infl : List Inflight := []
  uses : List Nat := []
  ready : Bool := true
  deriving DecidableEq, Repr

/-- The implied wait of an access in a tagged window: full for a read, empty for a write (R172). -/
def Dev.tagsReady (d : Dev) (t : Nat) (r : Res) (wr : Bool) : Bool :=
  !r.tagged || r.words.all fun w => (d.tile t).full w != wr

def Dev.issueNo (d : Dev) (t : Nat) : Nat := (d.trd t Reg.ISSUE).toNat

/-- Whether generator g's reads take (R191). -/
def Dev.agTakes (d : Dev) (t g : Nat) : Bool := agTake ((d.tile t).regs.rAg g)

/-! ## The CUBE slot -/

/-- A CMAC or CMUL (R86 to R97, R201 to R203). -/
def Dev.planMac (d : Dev) (t : Nat) (mul : Bool) (n aga agb : Nat) : Except Nat SlotPlan :=
  let x := d.tile t
  let r := x.regs
  let s := r.rAcc n
  let count := if mul then 0 else s.count
  let mx := isMx r.fa
  let k := kPerStep r.fa r.fb
  if !mul && count % 32 != 0 && s.pair.any (· != (r.fa, r.fb)) then .error FC.CUBE_BLOCK else do
  let opens := mx && count % 32 == 0
  let a ← d.agAccess t aga (aWords r.fa r.fb) false
  let b ← d.agAccess t agb (bWords r.fa r.fb) false
  let sc ← if opens then do
      let sa ← d.agAccess t r.saga 1 false
      let sb ← d.agAccess t r.sagb 2 false
      pure [sa, sb]
    else pure []
  let part (port g : Nat) (z : Res) : Part := { port := port, words := z.words, foot := z.words, win := z.win, take := d.agTakes t g }
  pure { accs := [{ delay := 1, parts := [part 2 agb b, part 3 aga a] ++ (sc.zip [r.saga, r.sagb]).map fun z => part 3 z.2 z.1
                    wr := false, slot := x.slot, pc := r.pc
                    kind := .cube n r.fa r.fb k opens (mx && (count + k) % 32 == 0) (d.issueNo t + 12)
                    cubeSlot := w64 ((if mul then 2 else 1) * 2 ^ 59 + n * 2 ^ 56 + aga * 2 ^ 53 + agb * 2 ^ 50) }]
         uses := [aga, agb] ++ (if opens then [r.saga, r.sagb] else [])
         ready := ([a, b] ++ sc).all fun z => d.tagsReady t z false }

/-- The CUBE slot of a CDRAIN, as R201 lays it out. -/
def encDrain (f : DrainF) : BitVec 64 :=
  w64 (4 * 2 ^ 59 + f.acc * 2 ^ 56 + f.fmt * 2 ^ 52 + f.agd * 2 ^ 49 + f.ags * 2 ^ 46 + b2n f.sr * 2 ^ 45 + f.vr * 2 ^ 39
    + b2n f.cve * 2 ^ 38 + f.cv * 2 ^ 35 + b2n f.cvs * 2 ^ 34)

/-- Whether CDRAIN finds a set bad: its chain, or the chain a CZERO or CMUL has ended whose values it still reads (R108, R109). -/
def Dev.drainBad (d : Dev) (t n : Nat) : Bool :=
  ((d.tile t).regs.rAcc n).bad || decide (d.issueNo t < ((d.tile t).regs.rAcc n).oldBad)
/-- Whether every such mark came from a discarded open block (R109, R111). -/
def Dev.drainOpen (d : Dev) (t n : Nat) : Bool :=
  let s := (d.tile t).regs.rAcc n
  (!s.bad || s.badOpen) && (!decide (d.issueNo t < s.oldBad) || s.oldOpen)

/-- A CDRAIN (R100 to R104, R109, R204). Where it meets several of CUBE_FORMAT, CUBE_BUSY, CUBE_BLOCK and CHECK_FAIL, it faults with the
first of them in this order (DESIGN CHOICE, log entry 94: the spec gives none). -/
def Dev.planDrain (d : Dev) (t : Nat) (f : DrainF) (o : Obs) : Except Nat SlotPlan :=
  let x := d.tile t
  let r := x.regs
  let s := r.rAcc f.acc
  let cad := d.isCad t x.slot
  if !fmtOk f.fmt || (f.sr && !(f.fmt == 1 || f.fmt == 4 || f.fmt == 5)) then .error FC.CUBE_FORMAT
  else if x.lastDrain.any (fun i => d.issueNo t < i + 8) then .error FC.CUBE_BUSY
  else if s.pair.isSome && s.count % 32 != 0 then .error FC.CUBE_BLOCK
  else if d.drainBad t f.acc && !cad then .error FC.CHECK_FAIL else do
  let rw := rowWords f.fmt
  let a ← d.agAccess t f.agd (16 * rw) true
  let sc ← if isMx f.fmt then (d.agAccess t f.ags 1 true).map fun z => [z] else pure []
  let vals := smGet zeroAcc r.accOut f.acc
  let sd : BitVec 64 := match d.ctx (d.ctxOf t x.slot) with
    | some c => c.seed
    | none => 0
  let vr := r.rv f.vr
  let rnd := if f.sr then some (sd, (lane vr 0).toNat, (lane vr 1).toNat) else none
  let row (i : Nat) : Nat × Nat := drainRow vals f.fmt i rnd
  -- what the engine gives: an observation of the issue beat tells where it is not the exact conversion
  let l := o.cube.filter fun c => obsSet c == f.acc
  let want (n : Nat) : List Word256 × BitVec 32 :=
    (rowToWords f.fmt (row (2 * n)).1 ++ rowToWords f.fmt (row (2 * n + 1)).1, BitVec.ofNat 32 ((row (2 * n)).2 + (row (2 * n + 1)).2 * 2 ^ 16))
  let out (n : Nat) : List Word256 × BitVec 32 := (devDrain l n).getD (want n)
  let words (n : Nat) : List Nat := (List.range (2 * rw)).map fun i => a.first + 2 * rw * n + i
  let scale : List Part := sc.map fun z =>
    { port := 4, words := z.words, foot := z.words, win := z.win
      data := [(BitVec.ofNat 256 ((List.range 8).foldl (fun k n => k + (out n).2.toNat * 2 ^ (32 * n)) 0), 0xFF)] }
  let data (n : Nat) : Part := { port := 4, words := words n, foot := words n, win := a.win, data := (out n).1.map fun w => (w, 0xFF) }
  let rows : List Acc := (List.range 8).map fun n =>
    { delay := n + 1, parts := data n :: (if n = 0 then scale else []), wr := true, slot := x.slot, pc := r.pc, cubeSlot := encDrain f
      kind := .drain n f.fmt (vals.extractLsb' (4096 * n) 4096) (if f.fmt ≠ 0 && x.rotCube == n then some (want n) else none) (out n).2
        (if f.cve then some f.cv else none) }
  pure { accs := rows
         uses := [f.agd] ++ (if isMx f.fmt then [f.ags] else [])
         ready := ([a] ++ sc).all fun z => d.tagsReady t z true }

/-- What the CUBE slot wants. The issue beat after an FP32 step takes NOP only (R88). -/
def Dev.planCube (d : Dev) (t : Nat) (op : CubeOp) (o : Obs) : Except Nat SlotPlan :=
  let busy := (d.tile t).lastFp32.any fun i => d.issueNo t == i + 1
  match op with
  | .nop => .ok {}
  | .mac m n a b => if busy then .error FC.CUBE_BUSY else d.planMac t m n a b
  | .zero _ => if busy then .error FC.CUBE_BUSY else .ok {}
  | .drain f => if busy then .error FC.CUBE_BUSY else d.planDrain t f o
  | .fmt fa fb _ _ => if busy then .error FC.CUBE_BUSY
                      else if fmtOk fa && fmtOk fb && pairOk fa fb then .ok {} else .error FC.CUBE_FORMAT

/-- The check-value register of a CDRAIN as it starts: begun anew with CVS, and no longer good for a bad accumulator set
(R104, R109). -/
def drainCheck (f : DrainF) (bad : Bool) (r : Regs) : Regs :=
  let r := if f.cve && f.cvs then { r with cv := smSet cvReset r.cv f.cv 0xFFFFFFFFFFFFFFFF, cvGood := r.cvGood ||| BitVec.ofNat 8 (2 ^ f.cv) } else r
  if f.cve && bad then { r with cvGood := r.cvGood &&& ~~~(BitVec.ofNat 8 (2 ^ f.cv)) } else r

/-- A set as CZERO or CMUL begins it: cleared, but still bad if a mismatch on it was found in the same beat (R97, R109, R110). The mark of
the chain it ends holds for as long as CDRAIN still reads that chain's values (R108). -/
def Dev.freshSet (d : Dev) (t n : Nat) : AccSet :=
  let s := (d.tile t).regs.rAcc n
  let same := s.bad && s.markedAt == (d.trd t Reg.BEAT).toNat
  { bad := same, markedAt := if same then s.markedAt else 0
    oldBad := if s.bad then d.issueNo t + 12 else s.oldBad
    oldOpen := d.drainOpen t n }

/-- The CUBE slot's effect on the engine's own state at issue (R87, R97, R109, R114). An MX step into a chain whose wide steps have left its
count at no multiple of 32 opens no block and keeps no pair, so that nothing of it is open at a CDRAIN (DESIGN CHOICE, log entry 94). -/
def Dev.issueCube (d : Dev) (t : Nat) (op : CubeOp) : Dev :=
  let n0 := d.issueNo t
  match op with
  | .nop => d
  | .mac m n _ _ =>
    let r := (d.tile t).regs
    let k := kPerStep r.fa r.fb
    let s := if m then d.freshSet t n else r.rAcc n
    let s := { s with pair := if isMx r.fa && s.count % 32 == 0 then some (r.fa, r.fb) else s.pair, count := s.count + k }
    let s := if isMx r.fa then s else { s with pair := none }
    let fp := r.fa == 0
    let d := d.updRegs t fun r => r.wAcc n s
    let d := d.upd t fun x => { x with lastFp32 := if fp then some n0 else x.lastFp32, activeAt := some (d.now t), fpBeat := fp }
    d.tinc t Reg.CUBE_ACTIVE
  | .zero n => (d.updRegs t fun r => r.wAcc n (d.freshSet t n)).addInflight t [⟨n0 + 12, (d.tile t).regs.pc, .acc n 0⟩]
  | .drain f =>
    let bad := d.drainBad t f.acc
    let late := bad && d.drainOpen t f.acc
    let d := d.updRegs t (drainCheck f bad)
    let d := d.upd t fun x => { x with lastDrain := some n0, rotCube := if f.fmt = 0 then x.rotCube else (x.rotCube + 1) % 8 }
    if late && d.isCad t (d.tile t).slot then d.failVerdict t 12 else d
  | .fmt fa fb sa sb => d.updRegs t fun r => { r with fa := fa, fb := fb, saga := sa, sagb := sb }

/-! ## The VEC slots -/

/-- The lane a unit's shadow lane recomputes (R133). -/
def Tile.rot (x : Tile) (u : VUnit) : Nat :=
  match u with
  | .a => x.rotA
  | .b => x.rotB

/-- The sources of a register-form operation (R123, R124, R188). -/
def Dev.vsrc (d : Dev) (t : Nat) (f : VecF) : VSrc :=
  let x := d.tile t
  let r := x.regs
  let sp := smGet zeroP x.lr x.slot
  let b := if f.ss = 1 then mkVec fun _ => sp.truncate 32
           else if f.ss = 2 then mkVec fun _ => (sp >>> 32).truncate 32 else r.rv f.b.toNat
  { a := r.rv f.a.toNat, b := b, c := r.rv f.c.toNat, a1 := r.rv (f.a.toNat + 1), b1 := r.rv (f.b.toNat + 1),
    pa := r.rp (f.a.toNat % 16), pb := r.rp (f.b.toNat % 16), sel := r.rp (f.fn.toNat % 16),
    msk := if f.msk = 1 then r.rp f.pm.toNat else BitVec.allOnes 64 }

/-- Where the main lane really gave another result, the destination keeps that (R135). -/
def withLane (i : Nat) (o : Option LaneObs) (l : List Deliver) : List Deliver :=
  match o with
  | none => l
  | some o => l.map fun z => match z with
    | .v n v m => .v n (setLane v i o.main) m
    | .p n v m => .p n (if o.main.getLsbD 0 then v ||| BitVec.ofNat 64 (2 ^ i) else v &&& ~~~(BitVec.ofNat 64 (2 ^ i))) m
    | z => z

/-- Sources 0, 1 and 2 of a lane as a capture holds them (R147): a predicate's bit where the operation reads one, zero for a
source the operation does not have. -/
def laneSrcs (i : VInfo) (s : VSrc) (ln : Nat) : W32 × W32 × W32 :=
  let pb (p : BitVec 64) : W32 := if p.getLsbD ln then 1 else 0
  (if i.predA then pb s.pa else lane s.a ln,
   if i.predB then pb s.pb else if i.useB then lane s.b ln else 0,
   if i.useC then lane s.c ln else 0)

/-- The lane an observation concerns: the shadow lane's, or that of the register's parity error (R133, R134). -/
def Tile.obsLn (x : Tile) (u : VUnit) (lo : Option LaneObs) : Nat := ((lo.bind (·.parity)).map (·.toNat)).getD (x.rot u)

/-- What a VEC slot wants (R205 to R209). -/
def Dev.planVec (d : Dev) (t : Nat) (u : VUnit) (op : VecOp) (lo : Option LaneObs) (w : Nat) : Except Nat SlotPlan :=
  let x := d.tile t
  let r := x.regs
  let n := d.issueNo t
  let port := match u with
    | .a => 5
    | .b => 6
  let sh := x.obsLn u lo
  let par := lo.any (·.parity.isSome)
  let shadow (lat : Nat) (s0 s1 s2 : W32) : List Inflight := match lo with
    | some o => if o.main == o.shadow && !par then [] else [⟨n + lat, r.pc, .lane u sh (BitVec.ofNat 48 w) s0 s1 s2 o.main o.shadow⟩]
    | none => []
  match op with
  | .nop => .ok {}
  | .imm dst v => .ok { infl := (withLane sh lo [.v dst (mkVec fun _ => v) (BitVec.allOnes 64)]).map (fun z => ⟨n + 3, r.pc, z⟩) ++ shadow 3 0 0 0 }
  | .reg o f =>
    match vInfo o f.fn.toNat with
    | none => .error FC.ILLEGAL_BUNDLE
    | some i =>
      if i.sfu && x.lastSfu.any (fun l => n == l + 1) then .error FC.SFU_BUSY
      else
        let s := d.vsrc t f
        let cov := i.covered || par
        let lo' := if cov then lo else none
        -- a compare's or predicate operation's results are one bit each (R147)
        let bitOf (x : W32) : W32 := if i.predD then x &&& 1 else x
        let shadow (lat : Nat) (s0 s1 s2 : W32) : List Inflight := match lo' with
          | some o => if bitOf o.main == bitOf o.shadow && !par then [] else
            [⟨n + lat, r.pc, .lane u sh (BitVec.ofNat 48 w) s0 s1 s2 (bitOf o.main) (bitOf o.shadow)⟩]
          | none => []
        let q := laneSrcs i s sh
        .ok { infl := (withLane sh lo' (vecResult o f.fn.toNat f.d.toNat s)).map (fun z => ⟨n + i.lat, r.pc, z⟩)
                ++ (if cov then shadow i.lat q.1 q.2.1 q.2.2 else []) }
  | .mem store v ag m pm =>
    let mask := if m then r.rp pm else BitVec.allOnes 64
    (d.agAccess t ag 8 store).map fun a =>
      let data := (List.range 8).map fun i =>
        ((r.rv v).extractLsb' (256 * i) 256, mask.extractLsb' (8 * i) 8)
      { accs := [{ delay := 1, parts := [{ port := port, words := a.words, foot := a.words, win := a.win,
                                           take := !store && d.agTakes t ag, data := if store then data else [] }]
                   wr := store, slot := x.slot, pc := r.pc, kind := if store then .store else .load v mask (n + 8) }]
        infl := if par then shadow 1 (if store then lane (r.rv v) sh else 0) 0 0 else []
        uses := [ag], ready := d.tagsReady t a store }
  | .agld g word =>
    (d.privAccess t x.slot (word : Int) 1).map fun a =>
      { accs := [{ delay := 1, parts := [{ port := port, words := a.words, foot := a.words }], wr := false
                   slot := x.slot, pc := r.pc, kind := .agload g (n + 8) }] }

/-- Whether the shadow lane covers a VEC operation, and whether it occupies the special-function unit (R128, R133). -/
def vecUses : VecOp → Bool × Bool
  | .imm .. => (true, false)
  | .reg o f => match vInfo o f.fn.toNat with
    | some i => (i.covered, i.sfu)
    | none => (false, false)
  | _ => (false, false)

/-- A unit's shadow counter steps (R133). -/
def Tile.stepRot (x : Tile) (u : VUnit) : Tile :=
  match u with
  | .a => { x with rotA := (x.rotA + 1) % 64 }
  | .b => { x with rotB := (x.rotB + 1) % 64 }

/-- The unit's shadow counter and the special-function unit's occupation at issue (R128, R133). -/
def Dev.issueVec (d : Dev) (t : Nat) (u : VUnit) (op : VecOp) : Dev :=
  let n := d.issueNo t
  let d := d.when (vecUses op).2 (·.upd t fun x => { x with lastSfu := some n })
  d.when (vecUses op).1 (·.upd t (·.stepRot u))

/-! ## The MOVE slot -/

/-- A handle's fields (R185). -/
def Dev.hdlTile (d : Dev) (t h : Nat) : Nat := d.trf t (Reg.HDL h) 55 45
def Dev.hdlWin (d : Dev) (t h : Nat) : Nat := d.trf t (Reg.HDL h) 39 36
def Dev.hdlOff (d : Dev) (t h : Nat) : Nat := d.trf t (Reg.HDL h) 16 0

/-- The checks of R177 beside those a GET or PUT adds. -/
def Dev.hdlOk (d : Dev) (t h : Nat) : Bool :=
  d.rb (Reg.tile t (Reg.HDL h)) 63 && d.trf t (Reg.HDL h) 57 56 == (d.tile t).slot && (d.physOf (d.hdlTile t h)).isSome

/-- A strided offset: the field's stride times the pass index of its loop level (R212, R215). -/
def strideOff (r : Regs) (lvl str : Nat) : Nat := if lvl = 0 then 0 else str * passIdx r (lvl - 1)

/-- A SEND (R212, R219). -/
def Dev.planSend (d : Dev) (t hdl ag len port vc dlvl dstr : Nat) : Except Nat SlotPlan :=
  let x := d.tile t
  let r := x.regs
  match d.logOf t with
  | none => .error FC.ROUTE
  | some me =>
    if !d.hdlOk t hdl then .error FC.HANDLE
    else match d.hop me port with
      | none => .error FC.ROUTE
      | some _ =>
        if d.hdlTile t hdl = me then .error FC.ROUTE else
        (d.agAccess t ag len false).map fun a =>
          let off := d.hdlOff t hdl + strideOff r dlvl dstr
          let flits := (List.range (cdiv len 8)).map fun k =>
            let ws := (a.words.drop (8 * k)).take 8
            let f : Flit := { tid := x.nextId, k := k, last := 8 * (k + 1) ≥ len, src := t, ctx := d.ctxOf t x.slot,
                              slot := x.slot, pc := r.pc, cadence := d.isCad t x.slot, dst := d.hdlTile t hdl, win := d.hdlWin t hdl,
                              off := off + 8 * k, data := [], vc := if vc = 0 then 0 else 3, at' := me, inp := 4 + port }
            ({ delay := 1, parts := [{ port := 7, words := ws, foot := ws, win := a.win, take := d.agTakes t ag }], wr := false
               slot := x.slot, pc := r.pc, kind := .flit f } : Acc)
          { mv := flits, uses := [ag], ready := d.tagsReady t a false }

/-- A GET or PUT (R169, R215, R216). -/
def Dev.planXfer (d : Dev) (t : Nat) (isGet : Bool) (f : XferF) : Except Nat SlotPlan := do
  let x := d.tile t
  let r := x.regs
  let h := f.hdl.toNat
  let nb := f.nb1.toNat + 1
  let w := d.hdlWin t h
  let off := d.hdlOff t h + strideOff r f.llvl.toNat f.lstr.toNat
  if !(d.hdlOk t h && d.logOf t == some (d.hdlTile t h)) then throw FC.HANDLE
  if !(d.winValid t w && d.winOwner t w == x.slot && decide (off + 128 * nb ≤ d.winBound t w)) then throw FC.WINDOW
  if isGet && !(d.winWRemote t w && d.winTagged t w) then throw FC.WINDOW
  if !isGet && !d.winRLocal t w then throw FC.WINDOW
  let e ← d.agAccess t f.ag.toNat 1 false
  let local' : Res := ⟨d.winBase t w + off, 128 * nb, some w, d.winTagged t w⟩
  let acc (ws : List Nat) (win : Option Nat) (take : Bool) (k : AccKind) : Acc :=
    { delay := 1, parts := [{ port := 7, words := ws, foot := ws, win := win, take := take }], wr := false, slot := x.slot, pc := r.pc, kind := k }
  pure { accs := [acc e.words e.win (d.agTakes t f.ag.toNat) (.entry x.nextId)]
         mv := if isGet then [] else (List.range (16 * nb)).map fun i =>
                 acc ((local'.words.drop (8 * i)).take 8) (some w) (f.tk == 1) (.putRead x.nextId)
         uses := [f.ag.toNat]
         ready := d.tagsReady t e false && (isGet || d.tagsReady t local' false) }

/-- What the MOVE slot wants (R210 to R217). -/
def Dev.planMove (d : Dev) (t : Nat) (op : MoveOp) : Except Nat SlotPlan :=
  let x := d.tile t
  match op with
  | .nop => .ok {}
  | .send h ag len port vc lv st => d.planSend t h ag len port vc lv st
  | .recv .. => if x.fwd.length ≥ 8 then .error FC.ROUTE else .ok {}
  | .xfer g f => d.planXfer t g f
  | .tag set a =>
    match d.slotWords t a with
    | .error e => .error e
    | .ok (w, ws) =>
      if d.winWLocal t w then
        .ok { accs := [{ delay := 1, parts := [{ port := 7, words := [], foot := ws }], wr := set
                         slot := x.slot, pc := x.regs.pc, kind := if set then .tagSet else .tagClr }] }
      else .error FC.WINDOW

/-- The lowest-numbered free forwarding entry. -/
def freeEntry (l : List Fwd) : Nat := ((List.range 8).find? fun e => !l.any (·.entry == e)).getD 0

/-- The MOVE slot's effect on the tile's own state at issue (R213, R216, R217). -/
def Dev.issueMove (d : Dev) (t : Nat) (op : MoveOp) : Dev :=
  let x := d.tile t
  match op with
  | .send .. => d.upd t fun x => { x with nextId := x.nextId + 1 }
  | .recv i o n => d.upd t fun x => { x with fwd := x.fwd ++ [({ entry := freeEntry x.fwd, inp := i, outp := o, left := n, since := d.now t } : Fwd)] }
  | .xfer g f =>
    let h := f.hdl.toNat
    let nb := f.nb1.toNat + 1
    let cvs := (List.range nb).map fun j =>
      let n := (f.cvb.toNat + j) % 8
      (smGet cvReset x.regs.cv n, x.regs.cvGood.getLsbD n)
    let z : Xfer := { id := x.nextId, isGet := g, ctx := d.ctxOf t x.slot, slot := x.slot, cadence := d.isCad t x.slot,
                      pc := x.regs.pc, win := d.hdlWin t h,
                      base := d.winBase t (d.hdlWin t h) + d.hdlOff t h + strideOff x.regs f.llvl.toNat f.lstr.toNat,
                      off := f.off.toNat, nb := nb, ent := f.ent.toNat, cve := f.cve == 1,
                      cvs := if f.cve = 1 then cvs else [], tk := f.tk == 1 }
    d.upd t fun x => { x with xfers := x.xfers ++ [z], nextId := x.nextId + 1 }
  | _ => d

/-- Whether the tile must stall before this MOVE operation issues, and on which counter (R54, R212, R217, R226). -/
def Dev.moveStall (d : Dev) (t : Nat) (op : MoveOp) : Option Nat :=
  match op with
  | .send _ _ _ port vc _ _ =>
    let room := match d.logOf t with
      | some me => d.portRoom me port (if vc = 0 then 0 else 3) (d.now t)
      | none => true
    if room then none else some Reg.STALL_ROUTE
  | .xfer .. => if (d.tile t).xfers.length ≥ 16 then some Reg.STALL_MOVE else none
  | _ => none

/-! ## The CTRL slot -/

/-- The running context's bound for its pc: its own extent, or the routine's (R64, R66). -/
def Dev.pcBound (d : Dev) (t : Nat) : Nat :=
  let x := d.tile t
  match x.regs.rtn with
  | none => d.trf t (Reg.CS x.slot) 29 16
  | some k => d.trf t (Reg.RT k) 29 16

/-- The control-store index of the next bundle (R66). -/
def Dev.pcIndex (d : Dev) (t : Nat) : Nat :=
  let x := d.tile t
  match x.regs.rtn with
  | none => d.trf t (Reg.CS x.slot) 12 0 + x.regs.pc
  | some k => d.trf t (Reg.RT k) 12 0 + x.regs.pc

/-- Whether a routine entry may be called by the running context (R63). -/
def Dev.rtOk (d : Dev) (t k : Nat) : Bool :=
  d.rb (Reg.tile t (Reg.RT k)) 63 && (d.rb (Reg.tile t (Reg.RT k)) 62 || d.trf t (Reg.RT k) 55 54 == (d.tile t).slot)

/-- The faults of the CTRL slot (R58, R59, R62 to R64, R74, R199). -/
def Dev.ctrlFault (d : Dev) (t : Nat) (op : CtrlOp) (fin : Nat) : Option Nat :=
  let x := d.tile t
  let r := x.regs
  let depth := r.loops.length
  let own : Option Nat := match op with
    | .loop a =>
      if depth ≥ 8 then some FC.LOOP_DEPTH
      else match a with
        | .reg _ => if d.isCad t x.slot then some FC.SCHEDULE else none
        | .imm _ => none
    | .wait _ a => match d.slotWords t a with
      | .error e => some e
      | .ok (w, _) => if d.winTagged t w then none else some FC.WINDOW
    | .fsync => if d.isCad t x.slot then none else some FC.SCHEDULE
    | .call k => if r.calls.length ≥ 4 then some FC.CALL_DEPTH else if d.rtOk t k then none else some FC.ROUTINE
    | .ret => match r.calls.getLast? with
      | none => some FC.CALL_DEPTH
      | some c => if depth > c.depth then some FC.LOOP_DEPTH else none
    | _ => none
  own.orElse fun _ => if fin > depth then some FC.LOOP_DEPTH else none

/-- Whether a predicate test holds (R60). -/
def testHolds (test : Nat) (p : BitVec 64) : Bool :=
  match test with
  | 0 => p != 0
  | 1 => p == BitVec.allOnes 64
  | 2 => p == 0
  | _ => p.getLsbD 0

/-- Close the n innermost open loops at this bundle (R57). -/
def closeLoops : Nat → Regs → Option (Option Nat × Nat) × Regs
  | 0, r => (none, r)
  | n + 1, r =>
    match r.loops.getLast? with
    | none => (none, r)
    | some l =>
      let k := r.loops.length - 1
      let left := r.rlc k - 1
      if left > 0 then (some (l.rtn, l.body), r.wlc k left)
      else closeLoops n { r.wlc k 0 with loops := r.loops.dropLast }

/-- The CTRL slot's effect on the sequencer: the operation, then its loop end, then the next pc (R56 to R62, R196). -/
def ctrlNext (op : CtrlOp) (fin : Nat) (squashed : Bool) (r0 r : Regs) : Regs :=
  let nextPc := r.pc + 1
  let r1 : Regs := match op with
    | .loop a =>
      if r.loops.length ≥ 8 then { r with pc := nextPc } else
      let c := match a with
        | .imm m => m.toNat + 1
        | .reg v => (lane (r0.rv v.toNat) 0).toNat
      let lvl : LoopLevel := ⟨r.rtn, nextPc, max c 1, c == 0⟩
      { (r.wlc r.loops.length (max c 1)) with loops := r.loops ++ [lvl], pc := nextPc }
    | .skip test p n => if !squashed && testHolds test (r0.rp p) then { r with pc := nextPc, squash := n } else { r with pc := nextPc }
    | .call k => if squashed then { r with pc := nextPc }
                 else { r with calls := r.calls ++ [⟨r.rtn, nextPc, r.loops.length⟩], rtn := some k, pc := 0 }
    | .ret => if squashed then { r with pc := nextPc } else match r.calls.getLast? with
      | some c => { r with calls := r.calls.dropLast, rtn := c.rtn, pc := c.pc }
      | none => { r with pc := nextPc }
    | _ => { r with pc := nextPc }
  if fin = 0 then r1 else
  match closeLoops fin r1 with
  | (some (rt, b), r2) => { r2 with rtn := rt, pc := b }
  | (none, r2) => r2

/-- Whether the next bundle is squashed (R58, R60, R61). -/
def Regs.squashed (r : Regs) : Bool := r.squash > 0 || r.loops.any (·.squashed)

/-! ## Barriers (R239 to R242) -/

def Dev.barOf (d : Dev) (c n : Nat) : Option BarLine := d.bars.find? fun b => b.ctx == c && b.n == n
def Dev.setBar (d : Dev) (b : BarLine) : Dev := { d with bars := updIf (fun x => x.ctx == b.ctx && x.n == b.n) (fun _ => b) d.bars }

/-- The root of a line: its participant of lowest logical ID (R239). -/
def BarLine.root (b : BarLine) : Nat := b.parts.foldl min (b.parts.headD 0)

/-- When the last participant has arrived, the root's release beat is Q, and participant t issues from Q + D(t) (R241). -/
def BarLine.settle (b : BarLine) : BarLine :=
  if b.parts.all (fun p => b.arrived.any (·.1 == p)) then
    let q := b.arrived.foldl (fun m a => max m (a.2 + tileDist b.root a.1)) 0
    { b with arrived := [], rel := b.parts.map fun p => (p, q + tileDist b.root p) }
  else b

/-- Record an arrival. -/
def Dev.arrive (d : Dev) (c n l beat : Nat) : Dev :=
  match d.barOf c n with
  | none => d
  | some b =>
    if b.rel.any (·.1 == l) || b.arrived.any (·.1 == l) || !b.parts.contains l then d else
    d.setBar ({ b with arrived := b.arrived ++ [(l, beat)] } : BarLine).settle

/-- Whether the release has reached a participant by a beat. -/
def Dev.released (d : Dev) (c n l beat : Nat) : Bool :=
  match d.barOf c n with
  | some b => b.rel.any fun r => r.1 == l && r.2 ≤ beat
  | none => false

/-- A participant's BAR bundle has issued. -/
def Dev.consumeRelease (d : Dev) (c n l : Nat) : Dev :=
  match d.barOf c n with
  | some b => d.setBar { b with rel := b.rel.filter (·.1 != l) }
  | none => d

/-! ## The beat -/

/-- Join the plans of the slots in the order CUBE, VECA, VECB, MOVE (R188). -/
def joinPlans (l : List SlotPlan) : SlotPlan :=
  { accs := l.flatMap (·.accs), mv := l.flatMap (·.mv), infl := l.flatMap (·.infl), uses := l.flatMap (·.uses)
    ready := l.all (·.ready) }

/-- A parity error of a register that CDRAIN, LOOP or SKIP reads is handled as a shadow mismatch (R134, R339). It is recorded as unit A's,
with the lane of the error and sources of zero (DESIGN CHOICE, log entry 22). -/
def Dev.planParity (d : Dev) (t : Nat) (w : Word256) (b : Bundle) (o : Obs) : SlotPlan :=
  let reads := (match b.cube with
      | .drain f => f.sr
      | _ => false) || match b.ctrl with
      | .loop (.reg _) => true
      | .skip .. => true
      | _ => false
  match o.reg with
  | some r => if reads then
      { infl := [⟨d.issueNo t + 1, (d.tile t).regs.pc, .lane .a ((r.parity.map (·.toNat)).getD 0) (BitVec.ofNat 48 (slotVec .a w)) 0 0 0 r.main r.shadow⟩] }
    else {}
  | none => {}

/-- What the bundle's slots want, or the fault of the first slot that faults, in the order CTRL, CUBE, VECA, VECB, MOVE. -/
def Dev.planBundle (d : Dev) (t : Nat) (w : Word256) (b : Bundle) (o : Obs) : Except Nat SlotPlan := do
  match d.ctrlFault t b.ctrl b.fin with
  | some e => throw e
  | none => pure ()
  let q ← d.planCube t b.cube o
  let va ← d.planVec t .a b.veca o.laneA (slotVec .a w)
  let vb ← d.planVec t .b b.vecb o.laneB (slotVec .b w)
  let m ← d.planMove t b.move
  pure (joinPlans [q, va, vb, m, d.planParity t w b o])

/-- A beat in which nothing issues: one counter rises (R54). -/
def Dev.holdBeat (d : Dev) (t ctr hold : Nat) (wait : Bool) (w : Option Word256) : Dev :=
  let d := d.tinc t ctr
  let d := d.upd t fun x => { x with waited := if wait then x.waited + 1 else 0, reached := w }
  d.syncSeq t hold

/-- The issue beat of a bundle that takes no effect, because a fault is raised in it (R78). -/
def Dev.faultBeat (d : Dev) (t code pc : Nat) : Dev :=
  let d := d.tinc t Reg.ISSUE
  (d.ctxFault t (d.tile t).slot code pc).syncSeq t 4

/-- PHASE takes effect at its issue beat and may trigger the switch to the next entry (R71, R76); it is a phase
start for its field (R402). -/
def Dev.phaseAt (d : Dev) (t id : Nat) : Dev :=
  let x := d.tile t
  let d := (d.twf t (Reg.CTXSTATE x.slot) 23 16 id).phaseStart (physField t) id
  if d.isCad t x.slot && decide (x.entry + 1 < listCount x.list) && listPhase x.list (x.entry + 1) == id then
    let d := (d.setSlotState t x.slot 3).twf t (Reg.CTXSTATE x.slot) 15 3 x.regs.pc
    d.upd t fun x => { x with mode := .switch 79 (.entry (x.entry + 1)) }
  else d

/-- The slots before CTRL act on the tile's own state. Every slot reads its registers as they stand at the start of the beat (R49), a PUT
its check values too (R216): MOVE takes them before CUBE begins them anew. -/
def Dev.issueSlots (d : Dev) (t : Nat) (b : Bundle) : Dev :=
  (((d.issueMove t b.move).issueCube t b.cube).issueVec t .a b.veca).issueVec t .b b.vecb

/-- What the slots started is under way, and the generators they used advance (R190, R193). -/
def Dev.issueQueues (d : Dev) (t : Nat) (p : SlotPlan) : Dev :=
  (d.addInflight t p.infl).upd t fun x =>
    { x with bankq := x.bankq ++ p.accs, mvq := x.mvq ++ p.mv, reached := none, waited := 0
             regs := p.uses.foldl (fun r g => r.wAg g (agAdvance (r.rAg g))) x.regs }

/-- A BAR's release is used up (R241). -/
def Dev.issueBar (d : Dev) (t c : Nat) (op : CtrlOp) : Dev :=
  match op, d.logOf t with
  | .bar n, some l => d.consumeRelease c n l
  | _, _ => d

/-- A PHASE or a HALT acts on what the tile runs (R71, R75, R76). -/
def Dev.issueEnd (d : Dev) (t : Nat) (op : CtrlOp) : Dev :=
  match op with
  | .phase id => d.phaseAt t id
  | .halt => d.proceed t 79 none
  | _ => d

/-- The bundle issues with all five slots (R48, R188, R190). `r0` is what the slots read. -/
def Dev.issueBundle (d : Dev) (t : Nat) (b : Bundle) (p : SlotPlan) : Dev :=
  let r0 := (d.tile t).regs
  let c := d.ctxOf t (d.tile t).slot
  let d := (((d.issueSlots t b).issueQueues t p).tinc t Reg.ISSUE).issueBar t c b.ctrl
  let d := d.updRegs t fun r => ctrlNext b.ctrl b.fin false r0 { r with squash := r.squash - 1 }
  let d := d.issueEnd t b.ctrl
  d.syncSeq t (if (d.tile t).mode == .running then 0 else 4)

/-- A squashed bundle: it occupies its beat, and only its LOOP and ENDL act (R61). -/
def Dev.squashBeat (d : Dev) (t : Nat) (b : Bundle) : Dev :=
  let d := d.tinc t Reg.ISSUE
  let d := d.updRegs t fun r => ctrlNext b.ctrl b.fin true r { r with squash := r.squash - 1 }
  (d.upd t fun x => { x with reached := none, waited := 0 }).syncSeq t 0

/-- What due in-flight operations raise in an issue beat: shadow mismatches, and the first fault (R135, R159, R191). -/
def Dev.dueActs (d : Dev) (t : Nat) : Dev × Option (Nat × Nat) :=
  let n := d.issueNo t
  let acts := (d.tile t).inflight.filter fun i => i.due ≤ n
  let d := d.upd t fun x => { x with inflight := x.inflight.filter fun i => !(i.due ≤ n) }
  let d := d.each acts fun d i => d.laneMismatch t i
  (d, acts.findSome? (·.fault (d.isCad t (d.tile t).slot)))

/-- Errors that the fetch of a bundle finds in its words (R341): reported against the word. A bundle
that is held has been fetched before. -/
def Dev.fetchCheck (d : Dev) (t : Nat) (o : Obs) : Dev :=
  if (d.tile t).reached.isSome then d
  else d.each o.fetch fun d e => d.report (b2n e.2) t (w64 (2 ^ 63 + (4 * d.pcIndex t + e.1.toNat) % 2 ^ 15))
/-- Whether the bundle is fetched with a double error, which is consumed as a poisoned word is (R341). -/
def Dev.fetchBad (d : Dev) (t : Nat) (o : Obs) : Bool := (d.tile t).reached.isNone && o.fetch.any (·.2)

/-- The bundle the sequencer fetches: the one held, or the control store's at the relocated pc (R66). -/
def Dev.fetch (d : Dev) (t : Nat) : Word256 :=
  match (d.tile t).reached with
  | some w => w
  | none => smGet (fun _ => 0) (d.tile t).cstore (d.pcIndex t)

/-! ## Cube activity (R114, R243, R244) -/

/-- Whether a tile asks for its cubes with its next bundle (R114, R244). -/
def Dev.wantsCube (d : Dev) (t : Nat) (w : Word256) : Bool :=
  let x := d.tile t
  x.mode == .running && !x.regs.squashed && (match decCube (slotCube w) with
    | some (.mac ..) => true
    | _ => false)

/-- The tiles of a field granted cube activity in beat n, of those that ask for it; an FP32 step keeps its grant for its second beat
(R244). -/
def Dev.grants (d : Dev) (f n : Nat) (asks : Nat → Bool) : List Nat :=
  let ask := (d.tiles.map (·.1)).filter fun t => physField t == f && asks t
  let cad (t : Nat) : Bool := d.isCad t (d.tile t).slot
  let was (t : Nat) : Bool := (d.tile t).activeAt.any fun b => b + 1 == n
  let ordered (l : List Nat) : List Nat := l.filter was ++ l.filter fun t => !was t
  let cads := (ordered (ask.filter cad)).take (max ((ask.filter cad).filter was).length (d.rf (Reg.AVL f) 30 24))
  let free := (ordered (ask.filter fun t => !cad t)).take (d.rf (Reg.AVL f) 38 32 - cads.length)
  cads ++ free

/-- Whether a tile is granted cube activity for bundle w in its next beat: of the other tiles those ask that had their cubes active in that
beat, or have not come to it and ask with their next bundle (R244). -/
def Dev.granted (d : Dev) (t : Nat) (w : Word256) : Bool :=
  let n := d.now t + 1
  (d.grants (physField t) n fun u =>
    if u = t then (d.tile u).fpBeat || d.wantsCube u w
    else if n ≤ d.now u then (d.tile u).activeAt == some n
    else (d.tile u).fpBeat || d.wantsCube u (d.fetch u)).contains t

/-- The count of cubes active in the tile's field in its beat goes into the limiter's window peaks (R243, R250). -/
def Dev.notePeaks (d : Dev) (t : Nat) : Dev :=
  let f := physField t
  let act := d.tiles.filter fun e => physField e.1 == f && e.2.activeAt == some (d.now t)
  let all := act.length
  let cad := (act.filter fun e => d.isCad e.1 e.2.slot).length
  let d := d.wf (Reg.AVL f) 22 16 (max (d.rf (Reg.AVL f) 22 16) (min 127 all))
  d.wf (Reg.AVL f) 14 8 (max (d.rf (Reg.AVL f) 14 8) (min 127 cad))

/-! ## What a beat makes of its bundle -/

/-- What becomes of the bundle a tile reaches: held, with its counter, the hold TILE.SEQ shows, and whether it waits; ended by the tag
watchdog; faulted; parked at FSYNC; squashed; or issued. -/
inductive Verdict where
  | hold (ctr hold : Nat) (wait : Bool)
  | expire (ctr : Nat)
  | fault (code pc : Nat)
  | park
  | squash (b : Bundle)
  | issue (b : Bundle) (p : SlotPlan)
  deriving DecidableEq, Repr

/-- A BAR's arrival is recorded in the beat it is reached (R239). -/
def Dev.barArrival (d : Dev) (t : Nat) (b : Bundle) : Dev :=
  match b.ctrl with
  | .bar n => d.arrive (d.ctxOf t (d.tile t).slot) n ((d.logOf t).getD 0) (d.now t)
  | _ => d

/-- Whether the slot a WAITF or WAITE names is as it waits for (R172). -/
def Dev.slotReady (d : Dev) (t : Nat) (b : Bundle) : Bool :=
  match b.ctrl with
  | .wait full a => match d.slotWords t a with
    | .ok (_, ws) => ws.all fun v => (d.tile t).full v == full
    | .error _ => false
  | _ => true

/-- Whether the release a BAR waits for has come (R241). -/
def Dev.barOpen (d : Dev) (t : Nat) (b : Bundle) : Bool :=
  match b.ctrl with
  | .bar n => (d.barArrival t b).released (d.ctxOf t (d.tile t).slot) n ((d.logOf t).getD 0) (d.now t)
  | _ => true

/-- A bundle that decodes and whose slots do not fault: what it waits for or is stalled by, or that it issues (R54, R55, R174). -/
def Dev.judgePlan (d : Dev) (t : Nat) (b : Bundle) (p : SlotPlan) (granted : Bool) : Verdict :=
  let wait (ctr h : Nat) : Verdict := if (d.tile t).waited ≥ d.wdog t then .expire ctr else .hold ctr h true
  if !(p.ready && d.slotReady t b) then wait Reg.WAIT_TAG 2
  else if !d.barOpen t b then wait Reg.WAIT_BAR 3
  else match d.moveStall t b.move with
    | some ctr => .hold ctr 1 false
    | none => match b.cube with
      | .mac .. => if granted then .issue b p else .hold Reg.STALL_WARM 1 false
      | _ => .issue b p

/-- What becomes of bundle w (R48, R54, R55, R74, R77, R174, R341). -/
def Dev.judge (d : Dev) (t : Nat) (w : Word256) (granted : Bool) (o : Obs) : Verdict :=
  let x := d.tile t
  let pc := x.regs.pc
  if pc ≥ d.pcBound t then .fault FC.PC_BOUND pc
  else if d.fetchBad t o then .fault FC.POISON pc
  else match decBundle w with
    | none => .fault FC.ILLEGAL_BUNDLE pc
    | some b =>
      if x.regs.squashed then .squash b
      else if b.ctrl == .fsync && d.isCad t x.slot then .park
      else match d.planBundle t w b o with
        | .error e => .fault e pc
        | .ok p => d.judgePlan t b p granted

/-- A fault raised from outside is taken (R168, R215). -/
def Dev.takeRaise (d : Dev) (t : Nat) : Dev :=
  match (d.tile t).raise with
  | none => d
  | some (code, pc) => (((d.upd t fun x => { x with raise := none }).ctxFault t (d.tile t).slot code pc).syncSeq t 4)

/-- An issue beat acts: what earlier operations raise in it comes first, and a bundle in whose beat a fault is raised takes no effect
(R78, R135, R159, R191). -/
def Dev.act (d : Dev) (t : Nat) (v : Verdict) : Dev :=
  let (e, due) := d.dueActs t
  match due with
  | some (code, pc) => e.faultBeat t code pc
  | none => match v with
    | .fault code pc => e.faultBeat t code pc
    | .squash b => e.squashBeat t b
    | .issue b p => ((d.barArrival t b).dueActs t).1.issueBundle t b p
    | _ => e

/-- A running tile as a beat comes to its bundle: results whose latency has elapsed are readable, and the fetch is checked. -/
def Dev.atReach (d : Dev) (t : Nat) (o : Obs) : Dev := (d.deliverDue t (d.issueNo t)).fetchCheck t o

/-- A beat whose accesses lost a bank: the bundle stalls (R54, R151). -/
def Dev.bankStall (d : Dev) (t : Nat) (w : Word256) (o : Obs) : Dev :=
  ((d.atReach t o).holdBeat t Reg.STALL_BANK 1 false (some w)).takeRaise t

/-- A beat that holds the bundle. Accesses of loads and stores wait for the next issue beat; a drain goes on while the tile waits (R53,
R154, R204). -/
def Dev.holdRun (d : Dev) (t ctr h : Nat) (wait late : Bool) (w : Word256) (o : Obs) : Dev :=
  let (lost, e) := d.bankBeat t o (if wait then .wait else .stall)
  if lost then e.bankStall t w o else
  let e := e.atReach t o
  let e := match decBundle w with
    | some b => e.barArrival t b
    | none => e
  let e := (e.holdBeat t ctr h wait (some w)).takeRaise t
  if late && (e.tile t).mode == .running then (e.ctxFault t (e.tile t).slot FC.TAG_DEADLOCK (e.tile t).regs.pc).syncSeq t 4 else e

/-- A beat of a running tile. The bundle is judged as in a beat without a contended bank; it stalls where an access of the beat loses one. -/
def Dev.runBeat (d : Dev) (t : Nat) (told : Option Word256) (granted : Bool) (o : Obs) : Dev :=
  let (lost, e) := d.bankBeat t o .arb
  let a := (if lost then (d.bankBeat t o .free).2 else e).atReach t o
  let w := told.getD (a.fetch t)
  match a.judge t w granted o with
  | .hold ctr h wait => d.holdRun t ctr h wait false w o
  | .expire ctr => d.holdRun t ctr 0 true true w o
  | .park =>
    let e := (e.atReach t o).tinc t Reg.WAIT_FRAME
    if (e.tile t).raise.isSome then e.takeRaise t else (e.proceed t 79 none).syncSeq t 4
  | v =>
    if lost then e.bankStall t w o
    else if (a.tile t).raise.isSome then (a.tinc t Reg.ISSUE).takeRaise t
    else a.act t v

/-- A beat begins: it is counted, and an FP32 step occupies the cubes for its second beat (R88, R114, R118). -/
def Dev.beginBeat (d : Dev) (t : Nat) : Dev :=
  let n := d.now t
  let d := d.tinc t Reg.BEAT
  if (d.tile t).fpBeat then (d.upd t fun x => { x with activeAt := some n, fpBeat := false }).tinc t Reg.CUBE_ACTIVE else d

/-- A beat in which nothing runs: the scratchpad's other accesses go on, operations in flight complete, and what a free-running launch has
left open in a set is discarded (R53, R72, R111). -/
def Dev.restBeat (d : Dev) (t : Nat) : Dev :=
  let d := (d.drainFaults t).tinc t Reg.WAIT_FRAME
  let d := d.when ((d.tile t).bankq == [] && !d.isCad t (d.tile t).slot) (·.updRegs t discardOpen)
  let (d, ls) := d.dropFaulted t (d.tile t).launches
  match ls with
  | l :: ls =>
    if d.mayLaunch t then (d.upd t fun x => { x with mode := .switch 79 (.launch l), launches := ls }).syncSeq t 4
    else (d.upd t fun x => { x with launches := l :: ls }).syncSeq t 5
  | [] => (d.upd t fun x => { x with launches := [] }).syncSeq t 5

/-- One beat of a tile whose beat number has come. `w` is the bundle at its pc where the sender tells it; otherwise the sequencer fetches. -/
def Dev.tileTick (d : Dev) (t : Nat) (w : Option Word256) (granted : Bool) (o : Obs) : Dev :=
  let d := d.beginBeat t
  if (d.tile t).fenced then ((d.bankBeat t o (if (d.tile t).mode == .running then .wait else .arb)).2.tinc t Reg.WAIT_FRAME).syncSeq t 5 else
  match (d.tile t).mode with
  | .idle => (d.bankBeat t o .arb).2.restBeat t
  | .entry n =>
    let d := (d.bankBeat t o .arb).2.tinc t Reg.WAIT_FRAME
    if n ≤ 1 then (d.finishEntry t).syncSeq t 4 else (d.upd t fun x => { x with mode := .entry (n - 1) }).syncSeq t 4
  | .switch n dst =>
    let d := (d.bankBeat t o .arb).2.tinc t Reg.WAIT_FRAME
    if n ≤ 1 then (d.finishSwitch t dst).syncSeq t 4 else (d.upd t fun x => { x with mode := .switch (n - 1) dst }).syncSeq t 4
  | .running => (d.runBeat t w granted o).notePeaks t

/-- A beat of a tile by a command of its own: its router has the beat before it, and it runs one beat ahead of the die (log entry 8). -/
def Dev.ownBeat (d : Dev) (t : Nat) : Dev := (d.router t (d.now t)).upd t fun x => { x with ahead := x.ahead + 1 }

/-- One beat of a tile by a command. -/
def Dev.tileBeat (d : Dev) (t : Nat) (w : Option Word256) (o : Obs) : Dev :=
  let granted := d.granted t (w.getD (d.fetch t))
  (d.ownBeat t).tileTick t w granted o

/-- A fault that reaches a tile from outside its own issue (R168, R215): in a running context the beat's bundle takes no
effect; another context is FAULTED at once. -/
def Dev.asyncFault (d : Dev) (t slot code pc : Nat) : Dev :=
  let run := (d.tile t).slot == slot && (d.tile t).mode == .running && !(d.tile t).fenced
  let d := d.raiseFault t slot code pc
  if run then d.tileBeat t none {} else d

end Sys2Proof.Machine
end

