-- ==== Sys2Proof/Machine/Context.lean ====
section
/-! DEFINITION. The sequence table (R280, R281), completion records (R472 to R475), a context's tiles (R466), and fencing
(R516 to R519). -/

namespace Sys2Proof.Machine

/-! ## The sequence table -/

namespace Sq
def EMPTY : Nat := 0
def WAITING : Nat := 1
def PREFILLING : Nat := 2
def DECODING : Nat := 3
def PARKED : Nat := 4
def FINISHED : Nat := 5
end Sq

def Dev.sqBase (d : Dev) : Nat := d.intf Reg.INT_TABLE 47 24 * 2 ^ 24
def Dev.sqAddr (d : Dev) (q : Nat) : Nat := d.sqBase + 256 * q
/-- A field of a slot: byte offset of its word, bits. -/
def Dev.sq (d : Dev) (q off hi lo : Nat) : Nat := bits (d.rdNum (d.sqAddr q + off) 8) hi lo
def Dev.setSq (d : Dev) (q off hi lo v : Nat) : Dev :=
  d.storeNum (d.sqAddr q + off) 8 (put (w64 (d.rdNum (d.sqAddr q + off) 8)) hi lo v).toNat
def Dev.sqState (d : Dev) (q : Nat) : Nat := d.sq q 0 2 0
def Dev.sqCtx (d : Dev) (q : Nat) : Nat := d.sq q 0 13 8
def Dev.sqClass (d : Dev) (q : Nat) : Nat := d.sq q 0 5 3
def Dev.sqReason (d : Dev) (q : Nat) : Nat := d.sq q 0 38 35
def Dev.sqRoot (d : Dev) (q : Nat) : Nat := d.sq q 0x28 47 0
def Dev.sqLen (d : Dev) (q : Nat) : Nat := d.sq q 0x80 22 0
/-- The port a slot belongs to (R280). -/
def Dev.sqPort (d : Dev) (q : Nat) : Nat := if q < d.intf Reg.INT_SLOTS 16 0 then 0 else 1
/-- Slots with any byte set, ascending. -/
def Dev.liveSlots (d : Dev) : List Nat :=
  (((d.mem.map (·.1)).filter fun a => d.sqBase ≤ a && a < d.sqBase + 2 ^ 24).map fun a => (a - d.sqBase) / 256).eraseDups
/-- Whether a sequence has a key/value page on a stack that is unavailable. -/
def Dev.sqBlocked (d : Dev) (q : Nat) : Bool :=
  d.pages.any fun p => p.slot == some q && !d.stackUp ((stackOf (p.frame * 65536)).getD 0)
/-- Park a slot, keeping its state for RESUME. -/
def Dev.park (d : Dev) (q reason : Nat) : Dev :=
  let s := d.sqState q
  if s = Sq.WAITING ∨ s = Sq.PREFILLING ∨ s = Sq.DECODING then
    ((d.setSq q 0 34 32 s).setSq q 0 2 0 Sq.PARKED).setSq q 0 38 35 reason
  else d
/-- Sequences with a page on a closing or unavailable stack are parked with REASON 6 (R331). -/
def Dev.closeStack (d : Dev) (s : Nat) : Dev :=
  d.each ((d.pages.filter fun p => stackOf (p.frame * 65536) == some s).filterMap (·.slot)).eraseDups fun d q => d.park q 6
/-- Slots parked for a stack that has come back return to their state (R331). -/
def Dev.reopenSlots (d : Dev) : Dev :=
  d.each (d.liveSlots.filter fun q => d.sqState q == Sq.PARKED && d.sqReason q == 6 && !d.sqBlocked q) fun d q =>
    (d.setSq q 0 2 0 (d.sq q 0 34 32)).setSq q 0 38 35 0

/-! ## Completion records -/

def Dev.cqSize (d : Dev) (p : Nat) : Option Nat :=
  let s := fld (d.effRd (Reg.P_CQ p)) 4 0
  if 8 ≤ s ∧ s ≤ 20 then some (2 ^ s) else none
def Dev.cqRead (d : Dev) (p : Nat) : Nat := if p = 0 then d.cqRead0 else d.cqRead1
def Dev.cqRoom (d : Dev) (p : Nat) : Bool :=
  match d.cqSize p with
  | some n => d.rn (Reg.P_CQ_WR p) - d.cqRead p < n
  | none => false
def Dev.portFenced (d : Dev) (p : Nat) : Bool := d.rb (Reg.P_CTL p) 62

/-- Write one record into its ring position, word 7 its number (R472). -/
def Dev.putRec (d : Dev) (r : Rec) : Dev :=
  let e := d.rn (Reg.P_CQ_WR r.port)
  let a := fld (d.effRd (Reg.P_CQ r.port)) 63 12 * 4096 + 64 * (e % (d.cqSize r.port).getD 1)
  let d := d.emit (.host r.port a ((r.words ++ [w64 e]).flatMap fun w => toBytes 8 w.toNat))
  { d.inc (Reg.P_CQ_WR r.port) with wrote := d.wrote ||| BitVec.ofNat 2 (2 ^ r.port) }

/-- Give a port a record: written, kept in the backlog, or discarded (R474). -/
def Dev.giveRec (d : Dev) (r : Rec) : Dev :=
  let waiting := (d.backlog.filter (·.port == r.port)).length
  if waiting = 0 && d.cqRoom r.port then d.putRec r
  else if waiting < 16384 then { d with backlog := d.backlog ++ [r] }
  else
    let d := (d.inc (Reg.P_LOST r.port)).wf (Reg.P_CTL r.port) 63 63 1
    d.varveLog 31 2 6 r.port { port := some r.port } 1 (d.rd (Reg.P_CQ_WR r.port) + w64 waiting)

/-- Write what waits for a port while room appears (R474). -/
def Dev.drainBacklog (d : Dev) (p : Nat) : Dev :=
  d.each (d.backlog.filter (·.port == p)) fun d r =>
    if d.cqRoom p && (d.backlog.find? (·.port == p)) == some r then { d with backlog := d.backlog.erase r }.putRec r else d

/-- Vector 0 after the records written for a port (R475). -/
def Dev.signalRecs (d : Dev) (p : Nat) : Dev :=
  if d.wrote.getLsbD p then { d with wrote := d.wrote &&& ~~~(BitVec.ofNat 2 (2 ^ p)) }.msix p 0 else d

/-- The CONTROL record of an operation that has ended (R472, R473); word 1 is the frame while frames run. -/
def Dev.control (d : Dev) (port tag op ctx status w3 : Nat) : Dev :=
  let r : Rec := ⟨port, [w64 (4 + status * 2 ^ 16), w64 (if d.framesRun then d.frame else 0),
    w64 (tag + op * 2 ^ 16 + ctx * 2 ^ 24), w64 w3, 0, 0, 0]⟩
  if d.framesRun then { d with ctrlWait := d.ctrlWait ++ [r] }
  else if d.portFenced port then d else d.giveRec r

/-- Frames stop running: the CONTROL records that waited are written (R473). -/
def Dev.flushControl (d : Dev) : Dev :=
  let l := d.ctrlWait
  ({ d with ctrlWait := [] }).each l fun d r => if d.portFenced r.port then d else d.giveRec r

/-! ## A context's tiles -/

def Dev.ctxState (d : Dev) (c : Nat) : Nat := d.rf (Reg.CTX c) 63 61
def Dev.setCtxState (d : Dev) (c s : Nat) : Dev := d.wf (Reg.CTX c) 63 61 s
def Dev.ctxTiles (d : Dev) (c : Nat) : List (Nat × Nat) :=
  match d.ctx c with
  | some x => x.tiles.filterMap fun e => (d.physOf e.1).map fun t => (t, e.2)
  | none => []
def Dev.ctxIsCad (d : Dev) (c : Nat) : Bool := match d.ctx c with
  | some x => x.cadence
  | none => false

/-- Clear a context's slot of a tile: extent, windows, handles, routines and everything in flight for it (R466). -/
def Dev.freeSlot (d : Dev) (t slot c : Nat) : Dev :=
  let wins := findAll 16 fun w => d.winValid t w && d.winOwner t w == slot && d.winCtx t w == c
  let d := d.each wins fun d w => (d.twr t (Reg.WIN w) 0).twr t (Reg.WINB w) 0
  let d := d.each (findAll 64 fun h => d.rb (Reg.tile t (Reg.HDL h)) 63 && d.trf t (Reg.HDL h) 57 56 == slot) fun d h => d.twr t (Reg.HDL h) 0
  let d := d.each (findAll 64 fun k => 32 ≤ k && d.rb (Reg.tile t (Reg.RT k)) 63 && d.trf t (Reg.RT k) 55 54 == slot) fun d k => d.twr t (Reg.RT k) 0
  let d := (((d.twr t (Reg.CS slot) 0).twr t (Reg.SP slot) 0).twr t (Reg.SAVE slot) 0).twr t (Reg.CTXSTATE slot) 0
  (d.dropXfers t (·.slot == slot)).upd t fun x =>
    let x := { x with saved := smSet noSaved x.saved slot none, launches := x.launches.filter (·.slot != slot) }
    if x.slot = slot ∧ x.mode ≠ .idle then { x with mode := .idle, cur := none, reached := none, waited := 0, bankq := [], mvq := [], inflight := [], fwd := [] } else x

/-- Free a context's tiles, barrier lines and forwarding entries (R466, R516). -/
def Dev.freeTiles (d : Dev) (c : Nat) : Dev :=
  let d := d.each (d.ctxTiles c) fun d e => d.freeSlot e.1 e.2 c
  let d := { d with bars := d.bars.filter (·.ctx != c), flits := d.flits.filter (·.ctx != c) }
  match d.ctx c with
  | some x => d.setCtx c (some { x with tiles := [] })
  | none => d

/-! ## Launches that end (R466, R472) -/

/-- Every enabled schedule that names a context advances (R138). -/
def Dev.stepSchedules (d : Dev) (c : Nat) : Dev :=
  let on (n : Nat) : Bool := tst (d.effRd (Reg.SCH_CTL n)) 63 && fld (d.effRd (Reg.SCH_CTL n)) 53 48 == c && !d.schWrote.contains n
  d.each (findAll 8 on) fun d n =>
    d.wr (Reg.SCH_STEP n) (w64 (min 0xFFFFFFFF (d.rn (Reg.SCH_STEP n) + 1)))

/-- Launches with no tile left end with their CONTROL record. LAUNCH_END writes it; an abort writes it at once. -/
def Dev.endLaunch (d : Dev) (l : Launch) (status : Nat) : Dev :=
  let d := { d with launches := d.launches.filter (·.id != l.id) }
  let w3 := match l.fault with
    | some (code, t) => code + t * 2 ^ 16
    | none => 0
  -- a schedule bound to the context advances with a committed frame or a launch that ended (R138)
  let d := d.when (status == 0) (·.stepSchedules l.ctx)
  if l.iso then d else d.control l.port l.tag 4 l.ctx status w3

/-- Abort every launch of a context (R517, R526): its tiles stop. -/
def Dev.abortLaunches (d : Dev) (c : Nat) : Dev :=
  let ls := d.launches.filter (·.ctx == c)
  let d := d.each ls fun d l => d.endLaunch { l with fault := none } St.FENCED_ABORT
  d.each (d.ctxTiles c) fun d e => d.upd e.1 fun x =>
    let x := { x with launches := x.launches.filter fun l => !ls.any (·.id == l.id) }
    match x.cur with
    | some l => if ls.any (·.id == l.id) then { x with cur := none, mode := .idle, reached := none, waited := 0 } else x
    | none => x

/-! ## Fencing (R516 to R519) -/

/-- A cause enters the running frame's device verdict (R264, R265) while the vote is open. -/
def Dev.cause (d : Dev) (n : Nat) : Dev :=
  if d.framesRun && !d.voted then { d with causes := d.causes ||| BitVec.ofNat 16 (2 ^ n) } else d

def Dev.ctxFencing (d : Dev) (c : Nat) : Bool := d.fences.contains (.context c) || d.fences.contains .device || d.ctxState c == 4

/-- Requests of a context still outstanding: launches, transfers, flits, copies, loads (R517). -/
def Dev.outstanding (d : Dev) (c : Nat) : Nat :=
  (d.launches.filter (·.ctx == c)).length + ((d.tiles.map fun e => (e.2.xfers.filter (·.ctx == c)).length).sum)
    + (d.flits.filter (·.ctx == c)).length + (d.copies.filter (·.ctx == c)).length + (d.loading.filter (·.ctx == c)).length

/-- A copy ends (R470, R472): its CONTROL record carries the units moved. -/
def Dev.endCopy (d : Dev) (k : Copy) (status units : Nat) : Dev :=
  ({ d with copies := d.copies.filter (·.id != k.id) }).control k.port k.tag 5 k.ctx status units

def fenceEntry (d : Dev) (row aborted : Nat) (who : Who) (kind idx : Nat) : Dev := d.varveLog 33 2 kind idx who (w64 row) (w64 aborted)

/-- The command of DEV.RSTp that asked for an operation on a target ends with a status (R528). -/
def Dev.rstEnd (d : Dev) (op target status : Nat) : Dev :=
  d.each [0, 1] fun d p =>
    if d.rb (Reg.RST_CMD p) 63 && d.rf (Reg.RST_CMD p) 62 60 == op && d.rf (Reg.RST_CMD p) 10 0 == target then
      (d.wf (Reg.RST_CMD p) 63 63 0).wr (Reg.RST_STATUS p) (w64 status)
    else d

/-- What a context has outstanding is aborted, and its tiles are freed (R516, R517). -/
def Dev.clearContext (d : Dev) (c : Nat) : Dev :=
  let d := d.abortLaunches c
  let d := d.each (d.copies.filter (·.ctx == c)) fun d k => d.endCopy k St.FENCED_ABORT 0
  let d := d.each (d.loading.filter (·.ctx == c)) fun d l => d.control l.port l.tag 2 c St.FENCED_ABORT 0
  let d := { d with loading := d.loading.filter (·.ctx != c) }
  let d := d.each (d.tiles.map (·.1)) fun d t => d.dropXfers t (·.ctx == c)
  d.freeTiles c

/-- Steps 3 and 4 for a context: what is outstanding is aborted, its tiles freed, and it reads FENCED (R516, R517). -/
def Dev.resetContext (d : Dev) (c : Nat) : Dev :=
  let n := d.outstanding c
  let d := d.clearContext c
  let d := { d with fences := d.fences.filter (· != Domain.context c) }
  let d := d.when (d.rf (Reg.CTX c) 47 40 == 0) (·.wf (Reg.CTX c) 47 40 FC.FENCED)
  fenceEntry ((d.setCtxState c 4).rstEnd 2 c 0) 0 n { ctx := some c, port := d.ctxPort c } 8 0

/-- Whether a context has a tile in the group's tile set, so that its fence fails the frame's verdict (R518). -/
def Dev.groupCtx (d : Dev) (c : Nat) : Bool := (d.ctxTiles c).any fun e => (d.tile e.1).inGroup

/-- The fence of a context begins (R517); with nothing outstanding it is reset at once. -/
def Dev.fenceContext (d : Dev) (c : Nat) : Dev :=
  if d.ctxState c = 0 ∨ d.ctxState c = 4 ∨ d.fences.contains (.context c) then d else
  let d := d.when (d.groupCtx c) (·.cause 10)
  if d.outstanding c = 0 then d.resetContext c else { d with fences := d.fences ++ [.context c] }

/-- The reset of a tile's state (R516): everything on the tile but its place in the row map. -/
def Dev.resetTile (d : Dev) (t : Nat) : Dev :=
  let gone := (d.tile t).launches ++ (d.tile t).cur.toList
  let d := d.each gone fun d l => d.launchPart t l.id (some FC.FENCED)
  let d := d.dropXfers t fun _ => true
  let keep := [Reg.RT_PORT, Reg.SP_REPAIR].map (Reg.tile t)
  let x := d.tile t
  let d := { d with regs := d.regs.filter fun e => !(Reg.tile t 0 ≤ e.1 && e.1 < Reg.tile t 0x1000) || keep.contains e.1
                    mem := d.mem.filter fun e => e.1 < apertureBase t || e.1 ≥ apertureBase t + 0x400000
                    flits := d.flits.filter fun f => f.src != t }
  d.setTile t { remap := x.remap, inGroup := x.inGroup, verdict := x.verdict, fenced := x.fenced, dead := x.dead }

/-- The reset of every tile of a field (R357, R516), those that hold nothing but a register's value among them. -/
def Dev.resetField (d : Dev) (f : Nat) : Dev :=
  let d := d.each ((d.tiles.map (·.1)).filter fun t => physField t == f) (·.resetTile ·)
  let lo := Reg.tile (104 * f) 0; let hi := Reg.tile (104 * f + 104) 0
  { d with regs := d.regs.filter fun e => !(lo ≤ e.1 && e.1 < hi) || [Reg.RT_PORT, Reg.SP_REPAIR].contains ((e.1 - lo) % 0x1000)
           mem := d.mem.filter fun e => e.1 < apertureBase (104 * f) || apertureBase (104 * f + 104) ≤ e.1
           flits := d.flits.filter fun x => physField x.src != f }

/-- Whether a tile is in a dark or fenced place: its field is not ready, or it is fenced (R43). -/
def Dev.tileDark (d : Dev) (t : Nat) : Bool := !d.ready (readyField (physField t)) || (d.tile t).fenced

/-- Contexts with a tile in a field. -/
def Dev.fieldCtxs (d : Dev) (f : Nat) : List Nat :=
  findAll 64 fun c => (d.ctxTiles c).any fun e => physField e.1 == f

/-- A stack both of whose homes are dark is UNREACHABLE; its sequences are parked as the stack closes (R34, R331). -/
def Dev.checkHomes (d : Dev) : Dev :=
  d.each (List.range 36) fun d s =>
    let up := d.ready (readyField (homes s).1) || d.ready (readyField (homes s).2)
    if !up && stackState d s ≤ 1 then
      let d := d.setStack s 3
      if d.framesRun then d else d.closeStack s
    else if up && stackState d s == 3 && !d.tripped.contains s then
      let d := d.setStack s 0
      if d.framesRun then d else d.reopenSlots
    else d

/-- A field goes dark (R34, R366, R397): readiness clears, its floes are DARK, its contexts are fenced, what its tiles held
is lost, and its port blocks serve through their other homes. -/
def Dev.fieldDark (d : Dev) (f floe : Nat) (quiet : Bool := false) : Dev :=
  let d := d.when ((List.range 104).any fun i => (d.tile (104 * f + i)).inGroup) (·.cause 10)
  let cs := d.fieldCtxs f
  let d := d.setReady (readyField f) false
  let d := d.setFloes f floe
  let d := d.each cs fun d c => d.fenceContext c
  let d := (d.resetField f).showSeams f
  let d := d.when (!quiet) (fenceEntry · 2 0 {} 1 f)
  d.checkHomes

end Sys2Proof.Machine
end

