-- ==== Sys2Proof/Machine/Loader.lean ====
section
/-! DEFINITION. Context descriptors: their checks (R466 to R468), what a load writes (R469), load images (R522), and the
loss and restore of a row's tiles (R521, R522). -/

namespace Sys2Proof.Machine

/-! ## Descriptors (R467) -/

/-- A 64-bit word of a byte string. -/
def word64 (b : List Byte) (off : Nat) : Nat := ofBytes ((b.drop off).take 8)

/-- A descriptor: its tile records are 2 KiB each from 4 KiB on. -/
structure Desc where
  bytes : List Byte
  deriving DecidableEq, Repr
def Desc.u (x : Desc) (off : Nat) : Nat := word64 x.bytes off
def Desc.tiles (x : Desc) : Nat := bits (x.u 0x10) 10 0
def Desc.cadence (x : Desc) : Bool := bit (x.u 0x10) 16
def Desc.r (x : Desc) (i off : Nat) : Nat := x.u (4096 + 2048 * i + off)
def Desc.logical (x : Desc) (i : Nat) : Nat := bits (x.r i 0) 10 0
def Desc.slot (x : Desc) (i : Nat) : Nat := bits (x.r i 0) 17 16
def Desc.extent (x : Desc) (i : Nat) : Nat × Nat := (bits (x.r i 8) 12 0, bits (x.r i 8) 29 16)
def Desc.priv (x : Desc) (i : Nat) : Nat × Nat := (bits (x.r i 0x18) 16 0, bits (x.r i 0x18) 49 32)
def Desc.save (x : Desc) (i : Nat) : Nat := bits (x.r i 0x20) 16 0
def Desc.win (x : Desc) (i w : Nat) : Nat × Nat := (x.r i (0x100 + 16 * w), x.r i (0x108 + 16 * w))
def Desc.hdl (x : Desc) (i h : Nat) : Nat := x.r i (0x200 + 8 * h)
def Desc.rt (x : Desc) (i k : Nat) : Nat := x.r i (0x400 + 8 * k)
/-- Logical tiles of barrier b (R239). -/
def Desc.barrier (x : Desc) (b : Nat) : List Nat :=
  if !bit (x.u 0x18) b then [] else findAll 1536 fun t => bit (x.u (0x100 + 192 * b + t / 64 * 8)) (t % 64)

/-- Windows of a record that are in use, as number, base, bound. -/
def Desc.wins (x : Desc) (i : Nat) : List (Nat × Nat × Nat) :=
  (findAll 16 fun w => bit (x.win i w).1 63).map fun w => (w, bits (x.win i w).1 16 0, bits (x.win i w).2 17 0)

def overlaps (a b : Nat × Nat) : Bool := a.1 < b.1 + b.2 && b.1 < a.1 + a.2
/-- Whether any two of a list of ranges overlap. -/
def anyOverlap : List (Nat × Nat) → Bool
  | [] => false
  | r :: rs => rs.any (overlaps r) || anyOverlap rs
def zeroBetween (b : List Byte) (off n : Nat) : Bool := ((b.drop off).take n).all (· == 0)

/-- Slots of a tile that hold a context. -/
def Dev.heldSlots (d : Dev) (t : Nat) : List Nat := findAll 4 fun n => d.rb (Reg.tile t (Reg.CS n)) 63

/-- Regions of the scratchpad a tile's contexts already use: private regions and save areas, or windows. -/
def Dev.privRegions (d : Dev) (t : Nat) : List (Nat × Nat) :=
  (d.heldSlots t).flatMap fun n =>
    [(d.trf t (Reg.SP n) 16 0, d.trf t (Reg.SP n) 49 32), (d.trf t (Reg.SAVE n) 16 0, 1568)]
def Dev.winRegions (d : Dev) (t : Nat) : List (Nat × Nat) :=
  (findAll 16 fun w => d.winValid t w).map fun w => (d.winBase t w, d.winBound t w)

/-- Whether a tile record breaks a rule of R166 or R468. -/
def Dev.badRecord (d : Dev) (x : Desc) (i : Nat) : Bool :=
  match d.physOf (x.logical i) with
  | none => true
  | some t =>
    let b := x.bytes.drop (4096 + 2048 * i)
    let wins := x.wins i
    let ws := wins.map fun w => (w.2.1, w.2.2)
    let handles := (List.range 64).filter fun h => bit (x.hdl i h) 63
    let (eb, el) := x.extent i
    let slotSize (w : Nat) := 2 ^ bits (x.win i w).1 35 32
    !d.ready (readyField (physField t)) || (d.tile t).dead
      || bits (x.r i 0) 15 11 != 0 || bits (x.r i 0) 63 18 != 0 || (x.r i 8) / 2 ^ 30 != 0 || bits (x.r i 8) 15 13 != 0
      || bits (x.r i 0x18) 31 17 != 0 || (x.r i 0x18) / 2 ^ 50 != 0 || (x.r i 0x20) / 2 ^ 17 != 0
      || !zeroBetween b 0x28 0xD8 || !zeroBetween b 0x500 768
      || el == 0 || eb < 1024 || eb + el > 8192
      || (d.heldSlots t).any (fun n => overlaps (eb, el) (d.trf t (Reg.CS n) 12 0, d.trf t (Reg.CS n) 29 16))
      || (x.priv i).1 + (x.priv i).2 > 131072 || x.save i + 1568 > 131072
      -- OWNER and CTX are the loader's (R467)
      || wins.any (fun w => bits (x.win i w.1).1 56 36 != 0 || bits (x.win i w.1).1 31 17 != 0 || (x.win i w.1).2 / 2 ^ 18 != 0
          || slotSize w.1 > 4096 || w.2.2 == 0 || w.2.1 % slotSize w.1 != 0 || w.2.2 % slotSize w.1 != 0 || w.2.1 + w.2.2 > 131072
          || d.winValid t w.1)
      || anyOverlap (ws ++ d.winRegions t)
      || ws.any (fun w => ((x.priv i) :: (x.save i, 1568) :: d.privRegions t).any (overlaps w))
      || (d.winRegions t).any (fun w => overlaps w (x.priv i) || overlaps w (x.save i, 1568))
      || overlaps (x.priv i) (x.save i, 1568)
      || (d.heldSlots t).any (fun n => overlaps (x.priv i) (d.trf t (Reg.SAVE n) 16 0, 1568))
      -- a save area lies outside every private region and save area of the tile (R80)
      || (d.privRegions t).any (overlaps (x.save i, 1568))
      || handles.any (fun h => bits (x.hdl i h) 62 56 != 0 || bits (x.hdl i h) 44 40 != 0 || bits (x.hdl i h) 35 17 != 0
          || (d.rb (Reg.tile t (Reg.HDL h)) 63)
          -- a static window with the remote write right that a handle names as a GET destination (R166)
          || (bits (x.hdl i h) 55 45 == x.logical i
              && wins.any fun w => w.1 == bits (x.hdl i h) 39 36 && !bit (x.win i w.1).1 62 && bit (x.win i w.1).1 58))
      || (List.range 32).any (fun k => bit (x.rt i k) 63 &&
          (bits (x.rt i k) 62 30 != 0 || bits (x.rt i k) 15 13 != 0 || d.rb (Reg.tile t (Reg.RT (32 + k))) 63
            || bits (x.rt i k) 12 0 < eb || bits (x.rt i k) 12 0 + bits (x.rt i k) 29 16 > eb + el))

/-- The check of R468: the status of the refusal, or 0. -/
def Dev.checkDesc (d : Dev) (b : List Byte) (len : Nat) : Nat :=
  let x : Desc := ⟨b⟩
  let n := x.tiles
  let idx := List.range n
  let barriers := findAll 16 fun k => bit (x.u 0x18) k
  if n = 0 ∨ n > 1536 ∨ len ≠ 4096 + 2048 * n ∨ b.length < len ∨ bits (x.u 0x10) 15 11 ≠ 0 ∨ bits (x.u 0x10) 63 17 ≠ 0 ∨ x.u 0x18 / 65536 ≠ 0
      ∨ !zeroBetween b 0x30 0xD0 ∨ !zeroBetween b 0xD00 768 then St.INVALID
  else if x.u 0 ≠ d.rn Reg.TMAN_ID then St.INVALID
  else if (idx.map x.logical).eraseDups.length ≠ n then St.INVALID
  else if idx.any (d.badRecord x) then St.INVALID
  else if barriers.any fun k => (x.barrier k).any fun t => !(idx.map x.logical).contains t then St.INVALID
  else if idx.any fun i => match d.physOf (x.logical i) with
      | some t => (d.heldSlots t).contains (x.slot i)
      | none => false
    then St.BUSY
  else if d.bars.length + barriers.length > 64 then St.BUSY
  else 0

/-- Bundle i of a code image (R186): 32 bytes, little-endian. -/
def bundleAt (code : List Byte) (i : Nat) : Word256 := BitVec.ofNat 256 (ofBytes ((code.drop (32 * i)).take 32))

/-- Write a tile's part of a load (R467, R469): extent and code, regions, windows, handles, routines. -/
def Dev.installTile (d : Dev) (c t : Nat) (x : Desc) (i : Nat) (code : List Byte) : Dev :=
  let slot := x.slot i
  let (eb, el) := x.extent i
  let put' (m : SMap Word256) : SMap Word256 :=
    (List.range el).foldl (fun m k => smSet (fun _ => 0) m (eb + k) (bundleAt code (x.r i 0x10 + k))) m
  let d := d.upd t fun y => { y with cstore := put' y.cstore }
  let d := d.twr t (Reg.CS slot) (w64 (2 ^ 63 + c * 2 ^ 48 + b2n x.cadence * 2 ^ 47 + el * 2 ^ 16 + eb))
  let d := (d.twr t (Reg.SP slot) (w64 (x.r i 0x18))).twr t (Reg.SAVE slot) (w64 (x.r i 0x20))
  let d := d.twr t (Reg.CTXSTATE slot) 0
  let d := d.each (x.wins i) fun d w =>
    let (wn, b, n) := w
    let d := (d.twr t (Reg.WIN wn) (put (put (w64 (x.win i wn).1) 55 54 slot) 53 48 c)).twr t (Reg.WINB wn) (w64 (x.win i wn).2)
    d.upd t fun y => { y with tags := y.tags.filter (fun e => e.1 < b || e.1 ≥ b + n) }
  let d := d.each ((List.range 64).filter fun h => bit (x.hdl i h) 63) fun d h => d.twr t (Reg.HDL h) (put (w64 (x.hdl i h)) 57 56 slot)
  d.each ((List.range 32).filter fun k => bit (x.rt i k) 63) fun d k => d.twr t (Reg.RT (32 + k)) (put (w64 (x.rt i k)) 55 54 slot)

/-- A cadence context waits for the next frame start to be RESIDENT, a free-running one is so at once (R469). -/
def Dev.resident (d : Dev) (c : Nat) : Dev :=
  d.each (d.ctxTiles c) fun d e => d.when (d.slotState e.1 e.2 == 0) fun d => d.setSlotState e.1 e.2 1

/-- Keep a load image in the page-table pool (R522). -/
def Dev.keepImage (d : Dev) (c : Nat) (desc code : List Byte) : Option Nat × Dev :=
  let bytes := toBytes 8 desc.length ++ toBytes 8 code.length ++ desc ++ code
  match d.newNode (cdiv bytes.length 4096 * 4096) c none with
  | (some a, d) => (some a, d.store a bytes)
  | (none, d) => (none, d)

/-- A load that its checks accepted begins (R469): code, tables and registers are written in slots that stay EMPTY until it
ends, barrier lines are mapped, and the image is kept. -/
def Dev.beginLoad (d : Dev) (c port tag : Nat) (desc code : List Byte) : Dev :=
  let x : Desc := ⟨desc⟩
  let idx := List.range x.tiles
  let d := d.each idx fun d i => match d.physOf (x.logical i) with
    | some t => d.installTile c t x i code
    | none => d
  let lines := (findAll 16 fun k => bit (x.u 0x18) k).map fun k => ({ ctx := c, n := k, parts := x.barrier k } : BarLine)
  let (img, d) := d.keepImage c desc code
  let d := { d with bars := d.bars ++ lines, loading := d.loading ++ [(⟨c, port, tag⟩ : Loading)] }
  let d := d.setCtx c (some { port := port, cadence := x.cadence, seed := w64 (x.u 8),
                              tiles := idx.map fun i => (x.logical i, x.slot i), image := img })
  d.wr (Reg.CTX c) (w64 (2 * 2 ^ 61 + port * 2 ^ 60 + b2n x.cadence * 2 ^ 59 + b2n img.isSome * 2 ^ 58))

/-- The load is done (R469): a free-running context is RESIDENT at once, a cadence context from the next frame start. -/
def Dev.finishLoad (d : Dev) (l : Loading) : Dev :=
  let d := ({ d with loading := d.loading.filter (·.ctx != l.ctx) }).setCtxState l.ctx 3
  let d := d.when (!d.ctxIsCad l.ctx) (·.resident l.ctx)
  d.control l.port l.tag 2 l.ctx 0 0

/-! ## Losing a tile (R521, R522) -/

/-- Set a row's BYPASS and LOST, and make a logical tile absent (R30, R31, R557), in the registers and in firn. -/
def Dev.setRow (d : Dev) (f r bypass : Nat) (absent : Option Nat) : Dev × FirnEnd :=
  let d := d.wf (Reg.ROWMAP f) (8 * r + 3) (8 * r) bypass
  let d := match absent with
    | some p =>
      let d := d.wf (Reg.ABSENT f r) (16 * (r % 4) + p) (16 * (r % 4) + p) 1
      d.when (d.rf (Reg.ROWMAP f) (8 * r + 7) (8 * r + 4) == 0xF) (·.wf (Reg.ROWMAP f) (8 * r + 7) (8 * r + 4) p)
    | none => d
  let map := d.rf (Reg.ROWMAP f) (if r < 4 then 31 else 63) (if r < 4 then 0 else 32)
  match d.firnPut [(0x400 + 2 * f + r / 4, map), (0x460 + 8 * f + r, d.rf (Reg.ABSENT f r) (16 * (r % 4) + 12) (16 * (r % 4)))] with
  | (d, true) => (d, .done)
  | (d, false) => (d, .worn)

/-- The tiles whose neighbours a change of a row's map concerns: the row's own, and those beside them. -/
def Dev.besideRow (d : Dev) (f r : Nat) : List Nat :=
  let row := (List.range 13).map (physId f r)
  let beside := (List.range 12).flatMap fun c => (List.range 4).filterMap fun p => (neighbour (96 * f + 12 * r + c) p).bind fun n => d.physOf n.1
  (row ++ beside).eraseDups

/-- What losing column c of a row does to its map: the new BYPASS, and the column whose logical tile becomes absent. -/
def Dev.rowAfter (d : Dev) (f r c : Nat) : Nat × Option Nat :=
  let b := d.bypass f r
  if b = 12 then (if c = 12 then 13 else c, none) else (b, if c = b ∨ (b = 13 ∧ c = 12) then none else some c)

/-- Physical tiles of a row at columns c to 12. -/
def rowFrom (f r c : Nat) : List Nat := (List.range 13).filterMap fun p => if p ≥ c then some (physId f r p) else none

/-- A tile is lost: the row from its column on is fenced, launches on it end, and the restore begins (R521). -/
def Dev.loseTile (d : Dev) (t : Nat) (dead : Bool) : Dev :=
  let f := physField t; let r := physRow t; let c := physCol t
  if (d.tile t).dead || d.restores.any (fun x => x.field == f && x.row == r && x.col == c) then d else
  let row := rowFrom f r c
  let d := d.when (row.any fun i => (d.tile i).inGroup) (·.cause 10)
  let ends := (row.flatMap fun i => ((d.tile i).cur.toList).map (·.id)).eraseDups
  let d := d.each (d.launches.filter fun l => ends.contains l.id) fun d l => d.endLaunch { l with fault := none } St.FENCED_ABORT
  let d := d.each row fun d i => (d.dropXfers i fun _ => true).upd i fun x =>
    { x with fenced := true, mode := .idle, cur := none, reached := none, waited := 0, bankq := [], mvq := [], inflight := [] }
  let d := d.when dead (·.upd t fun x => { x with dead := true })
  let (b, ab) := d.rowAfter f r c
  let lost := match ab with
    | some p => if d.rf (Reg.ROWMAP f) (8 * r + 7) (8 * r + 4) = 0xF then p else d.rf (Reg.ROWMAP f) (8 * r + 7) (8 * r + 4)
    | none => d.rf (Reg.ROWMAP f) (8 * r + 7) (8 * r + 4)
  let d := d.varveLog 23 2 0 t {} (w64 (b2n (!dead))) (w64 (b + 16 * lost))
  { d with restores := d.restores ++ [(⟨f, r, c, dead, false⟩ : Restore)] }

/-- The registers of a tile that hold its contexts' state (R522). -/
def tileStateRegs : List Nat :=
  [Reg.CS 0, Reg.SP 0, Reg.SAVE 0, Reg.CTXSTATE 0, Reg.CS 1, Reg.SP 1, Reg.SAVE 1, Reg.CTXSTATE 1,
               Reg.CS 2, Reg.SP 2, Reg.SAVE 2, Reg.CTXSTATE 2, Reg.CS 3, Reg.SP 3, Reg.SAVE 3, Reg.CTXSTATE 3, Reg.SP_CTL]
    ++ (List.range 32).map (fun k => Reg.RT (32 + k)) ++ (List.range 64).map Reg.HDL
    ++ (List.range 16).map Reg.WIN ++ (List.range 16).map Reg.WINB
/-- Copy a tile's state onto its northern neighbour (R522). -/
def Dev.copyTile (d : Dev) (src dst : Nat) : Dev :=
  let d := d.each tileStateRegs fun d o => d.twr dst o (d.trd src o)
  let lo := apertureBase src; let ld := apertureBase dst
  let bytes := d.mem.filter fun c => lo ≤ c.1 && c.1 < lo + 0x400000
  let d := { d with mem := d.mem.filter fun c => c.1 < ld || c.1 ≥ ld + 0x400000 }
  let d := d.each bytes fun d c => d.wrByte (c.1 - lo + ld) c.2
  let x := d.tile src
  d.upd dst fun y => { y with cstore := x.cstore, tags := x.tags, poison := x.poison, launches := x.launches, inGroup := x.inGroup,
                              list := x.list, verdict := x.verdict }

/-- The state of a dead tile's contexts is rebuilt from their load images on a tile (R522). -/
def Dev.rebuildTile (d : Dev) (logical t : Nat) : Dev :=
  let d := { d with mem := d.mem.filter fun c => c.1 < apertureBase t || c.1 ≥ apertureBase t + 0x400000 }
  let d := d.upd t fun y => { y with tags := [], poison := [], launches := [] }
  let d := d.each (tileStateRegs.erase Reg.SP_CTL) fun d o => d.twr t o 0
  d.each (findAll 64 fun c => match d.ctx c with
      | some x => x.tiles.any (·.1 == logical)
      | none => false) fun d c =>
    match (d.ctx c).bind (·.image) with
    | none => d
    | some a =>
      let dl := d.rdNum a 8; let cl := d.rdNum (a + 8) 8
      let x : Desc := ⟨d.rdBytes (a + 16) dl⟩
      match (List.range x.tiles).find? fun i => x.logical i == logical with
      | some i => d.installTile c t x i (d.rdBytes (a + 16 + dl) cl)
      | none => d

/-- A context of a lost tile that cannot be restored faults with TILE_LOST (R522): it is reset as a fence resets a context (R516). -/
def Dev.tileLost (d : Dev) (c t : Nat) : Dev :=
  let d := d.each (d.ctxTiles c) fun d e => (d.twf e.1 (Reg.CTXSTATE e.2) 47 40 FC.TILE_LOST).setSlotState e.1 e.2 6
  let d := d.when (d.rf (Reg.CTX c) 47 40 == 0) fun d => (d.wf (Reg.CTX c) 47 40 FC.TILE_LOST).wf (Reg.CTX c) 10 0 t
  let d := d.varveLog 13 2 0 t { ctx := some c, port := d.ctxPort c } (w64 FC.TILE_LOST) (d.trd t Reg.BEAT)
  (d.clearContext c).setCtxState c 6

/-- The bypass change takes effect (R521). -/
def Dev.applyRestore (d : Dev) (x : Restore) : Dev :=
  let (b, ab) := d.rowAfter x.field x.row x.col
  let (d, fin) := d.setRow x.field x.row b ab
  let d := d.each (d.besideRow x.field x.row) (·.showPorts ·)
  let d := d.when (!x.dead) (·.retired (.tile (physId x.field x.row x.col)) fin)
  { d with restores := d.restores.erase x }

/-- The restore of a row completes (R522): states are copied or rebuilt, contexts read RESIDENT with pc 0, the fences end,
and the change applies at once unless a tile judged is in the group's tile set. -/
def Dev.completeRestore (d : Dev) (x : Restore) : Dev :=
  let t := physId x.field x.row x.col
  let logical := d.logOf t
  let (_, ab) := d.rowAfter x.field x.row x.col
  let grouped := (rowFrom x.field x.row x.col).any fun i => (d.tile i).inGroup
  let shift := d.bypass x.field x.row = 12
  -- contexts of the lost tile that cannot be restored
  let lost := match logical with
    | none => []
    | some l => findAll 64 fun c => (match d.ctx c with
        | some y => y.tiles.any (·.1 == l)
        | none => false) &&
        (ab.isSome || (x.dead && ((d.ctx c).bind (·.image)).isNone)
          || (x.dead && (List.range 16).any fun w => d.winValid t w && d.winCtx t w == c && d.winPersist t w))
  let d := d.each lost fun d c => d.tileLost c t
  let d := if !shift then d else
    d.each ((List.range 12).reverse.filter fun p => p > x.col || (p == x.col && !x.dead)) fun d p =>
      d.copyTile (physId x.field x.row p) (physId x.field x.row (p + 1))
  let d := match shift && x.dead && x.col < 12, logical with
    | true, some l => d.rebuildTile l (physId x.field x.row (x.col + 1))
    | _, _ => d
  let d := if x.dead then d else (d.resetTile t).upd t fun y => { y with dead := true }
  let d := d.each (rowFrom x.field x.row x.col) fun d i =>
    let d := d.each (d.heldSlots i) fun d n => d.when (d.slotState i n != 6) fun d =>
      (d.setSlotState i n 1).twf i (Reg.CTXSTATE n) 15 3 0
    d.upd i fun y => { y with fenced := y.dead, saved := [], mode := .idle }
  let y := { x with done := true }
  let d := { d with restores := updIf (· == x) (fun _ => y) d.restores }
  if grouped then d else d.applyRestore y

end Sys2Proof.Machine
end

