-- ==== Sys2Proof/Machine/Integrity.lean ====
section
/-! DEFINITION. The integrity block: events (R342 to R345), retirement (R346 to R349), captures (R350, R351), packages
(R352 to R356), margin sweeps (R357, R358). -/

namespace Sys2Proof.Machine

/-- Wall time in ms is told: ITG.CLOCK and what is left of the lease follow it (R360, R461). -/
def Dev.atMs (d : Dev) (ms : Nat) : Dev :=
  let old := d.rn Reg.ITG_CLOCK
  if ms > old then (d.wr Reg.ITG_CLOCK (w64 ms)).wf Reg.STEWARD 31 0 (d.rf Reg.STEWARD 31 0 - (ms - old)) else d

/-! ## Lasting decisions -/

/-- The source kind and index of an event belong to a swept field in its stress, heat or test stage (R358). -/
def Dev.underStress (d : Dev) (kind idx : Nat) : Bool :=
  let st := d.rf Reg.SWEEP_STATUS 47 40
  3 ≤ st && st ≤ 5 && kind == 0 && physField idx == d.rf Reg.SWEEP_STATUS 39 36

/-- Spare rows of a bank in use or ordered. -/
def Dev.sparesUsed (d : Dev) (t bank : Nat) : Nat :=
  ((List.range 4).filter fun i => smGet (fun _ => 0) (d.tile t).remap (4 * bank + i) != 0).length
    + ((d.tile t).remapPend.filter fun k => k / 512 == bank).length
/-- Whether a bank row is in use: it, or the spare, still holds a row of the bank (R161). -/
def Dev.rowInUse (d : Dev) (t bank row : Nat) : Bool :=
  let r := if row < 256 then row + 1 else smGet (fun _ => 0) (d.tile t).remap (4 * bank + row - 256)
  r != 0 && (d.tile t).bankRow bank (r - 1) == row

/-- What a lasting location retires (R343, R347); none where nothing is ordered now. -/
def Dev.retireeOf (d : Dev) (e : Event) : Option Retiree :=
  let l := e.loc.toNat
  if e.cls ≤ 1 then
    (if bit l 63 || d.sparesUsed e.idx (l % 64) ≥ 4 then some (.tile e.idx)
     else some (.row e.idx (l % 64) (bits l 14 6)))
  else if e.cls = 2 then some (.wire e.idx (l % 4) (bits l 13 2))
  else if e.cls = 3 then none
  else if e.cls = 11 then some (.memory { frame := l % 2 ^ 32 })
  else if 6 ≤ e.cls ∧ e.cls ≤ 9 then
    let s := if e.kind = 3 then e.idx else 20 + e.idx
    let f := stackFrame s + (if s < 20 then 32 * bits l 28 11 + bits l 10 5 / 2 else 16 * bits l 28 11 + bits l 10 5 / 4)
    some (.memory { frame := f, soft := if s < 20 then some (bits l 4 0, bits l 10 5, bits l 28 11) else none })
  else some (.tile e.idx)

/-- Whether a tile can no longer be retired: it is lost, or its row is being restored without it. -/
def Dev.tileGone (d : Dev) (t : Nat) : Bool :=
  (d.tile t).dead || d.restores.any fun x => physId x.field x.row x.col == t

/-- Whether an order has been taken up whose effect is still to come. -/
def Dev.underWay (d : Dev) (r : Retiree) : Bool :=
  match r with
  | .tile t => d.tileGone t
  | .row t b w => d.tileGone t || (d.tile t).remapPend.contains (512 * b + w)
  | .wire t p w => d.tileGone t || d.wirePend.any fun x => x.tile == t && x.port == p && x.wire == w
  | .memory m => d.repairs.contains m
/-- Whether a retirement is decided and not yet in effect (R345). -/
def Dev.deciding (d : Dev) (r : Retiree) : Bool := (d.orders ++ d.held).any (·.what == r) || d.underWay r

/-- A location is classed lasting (R344): recorded, and ordered while RETIRE_EN is 1 (R348). -/
def Dev.lasting (d : Dev) (r : Option Retiree) (e : Event) : Dev :=
  let d := (d.inc Reg.LASTING).itgStatus 2
  match r with
  | none => { d with retest := d.retest ++ [(e.idx, e.loc.toNat % 4)] }
  | some r =>
    if d.deciding r then d
    else if d.rb Reg.ITG_CTL 62 then { d with orders := d.orders ++ [(⟨r, false⟩ : Order)] }
    else { d with held := d.held ++ [(⟨r, false⟩ : Order)] }

/-- The newest time of a pair. -/
def Track.newest (t : Track) : Nat := t.times.foldl max 0

/-- The table without its pair whose newest event is oldest (R344). -/
def evict (l : List Track) : List Track :=
  match l with
  | [] => []
  | t :: ts => l.erase (ts.foldl (fun m x => if x.newest < m.newest then x else m) t)

/-- Enter an event in the tracking table and decide (R344). -/
def Dev.trackEvent (d : Dev) (e : Event) : Dev :=
  let now := d.rn Reg.ITG_CLOCK
  let r := d.retireeOf e
  if (match r with
    | some r => d.deciding r
    | none => false) then d else
  let is (t : Track) : Bool := t.cls == e.cls && t.kind == e.kind && t.idx == e.idx && t.loc == e.loc
  let old := d.track.find? is
  let times := ((old.map (·.times)).getD [] ++ [now])
  let times := times.drop (times.length - 8)
  let t : Track := ⟨e.cls, e.kind, e.idx, e.loc, times⟩
  let d := if old.isNone && d.track.length ≥ 8192 then
    ({ d.inc Reg.TRACK_EVICT with track := evict d.track }).itgStatus 7 else d
  let d := { d with track := d.track.filter (fun x => !is x) ++ [t] }
  let n := d.rfIn (Reg.THR e.cls) 35 32 1 8
  let w := max 1 (d.rf (Reg.THR e.cls) 31 0) * 1000
  -- a double error in the base image is a tile failure (R341)
  let image := e.cls == 1 && e.loc.getLsbD 63 && decide (e.loc.toNat % 2 ^ 15 < 4096)
  if (times.filter fun x => now ≤ x + w).length ≥ n || image then d.lasting r e else d

/-- Severity of an integrity class (R534). -/
def clsSev (c : Nat) : Nat := if c = 4 ∨ c = 5 then 2 else if [0, 2, 6, 8, 12].contains c then 0 else 1

/-- An event reaches the integrity block (R342): logged, counted, tracked. -/
def Dev.takeEvent (d : Dev) (e : Event) : Dev :=
  if d.underStress e.kind e.idx && e.cls < 12 then d else
  ((d.varveLog e.cls (clsSev e.cls) e.kind e.idx {} e.loc e.syn).inc Reg.EVENTS).trackEvent e

/-! ## Retirement (R346 to R349) -/

/-- Whether what an order retires has been retired by an earlier one (R346). -/
def Dev.alreadyGone (d : Dev) (r : Retiree) : Bool :=
  d.underWay r || match r with
    | .row t b w => !d.rowInUse t b w
    | .memory m => d.outFrames.contains m.frame && !d.repairs.any (·.frame == m.frame)
    | _ => false

/-- A tile retirement cancels what is pending on the tile (R346), and the tile is lost (R521). -/
def Dev.retireTile (d : Dev) (t : Nat) : Dev :=
  let on (r : Retiree) : Bool := match r with
    | .row u _ _ => u == t
    | .wire u _ _ => u == t
    | _ => false
  let dropped := d.orders.any (fun x => on x.what && x.host) || d.hostRetire.any on
  let d := { d with orders := d.orders.filter (!on ·.what), held := d.held.filter (!on ·.what), wirePend := d.wirePend.filter (·.tile != t) }
  let d := d.upd t fun x => { x with remapPend := [] }
  (d.when dropped (·.hostOrderEnd)).loseTile t false

/-- Carry out one order (R346). It has taken effect when its row is remapped, its wire steered, its tile's row restored, its frame repaired or
retired. -/
def Dev.doOrder (d : Dev) (o : Order) : Dev :=
  if d.alreadyGone o.what then d.when o.host (·.hostOrderEnd) else
  let what : Retiree := match o.what with
    | .row t b _ => if d.sparesUsed t b ≥ 4 then .tile t else o.what
    | r => r
  let d := if o.host then { d with hostRetire := some what } else d
  match what with
  | .tile t => d.retireTile t
  | .row t b r => d.upd t fun x => { x with remapPend := x.remapPend ++ [512 * b + r] }
  | .wire t p w => { d with wirePend := d.wirePend ++ [({ tile := t, port := p, wire := w, since := d.rn Reg.CLK_BEAT } : WireOrder)] }
  | .memory r => d.repairFrame r

/-- The next retirement order is carried out: the oldest, and while RETIRE_EN is 0 the steward's oldest (R346, R348). -/
def Dev.nextOrder (d : Dev) : Dev :=
  match d.orders.find? fun o => o.host || d.rb Reg.ITG_CTL 62 with
  | none => d
  | some o => ({ d with orders := d.orders.erase o }).doOrder o

/-- A write of ITG.RETIRE_CMD by the steward (R348, R360). -/
def Dev.writeRetire (d : Dev) (p : Nat) (v : W64) : Dev :=
  if !d.isSteward p then d else
  let kind := fld v 62 60
  let wh := fld v 47 0
  let d := d.wr Reg.RETIRE_CMD (w64 (kind * 2 ^ 60 + wh))
  if !tst v 63 then d else
  let bad : Bool := match kind with
    | 1 => decide (wh ≥ 1664)
    | 2 => decide (bits wh 10 0 ≥ 1664) || bits wh 15 11 != 0 || bits wh 23 22 != 0 || bits wh 47 32 != 0
    | 3 => bits wh 47 32 != 0 || (stackOf (wh * 65536)).isNone
    | _ => true
  if bad then d.wr Reg.RETIRE_STATUS (w64 St.INVALID) else
  let r : Retiree := match kind with
    | 1 => .tile wh
    | 2 => .row (bits wh 10 0) (bits wh 21 16) (bits wh 31 24)
    | _ => .memory { frame := wh }
  { d.wf Reg.RETIRE_CMD 63 63 1 with orders := d.orders ++ [(⟨r, true⟩ : Order)] }

/-- RETIRE_EN set to 1 makes every pending decision an order (R348). -/
def Dev.writeItgCtl (d : Dev) (p : Nat) (v : W64) : Dev :=
  if !d.isSteward p then d else
  let d := d.wr Reg.ITG_CTL (v &&& maskOf 63 62)
  if tst v 62 then { d with orders := d.orders ++ d.held, held := [] } else d

/-! ## Captures (R350, R351) -/

def Dev.capSize (d : Dev) : Option Nat :=
  let s := d.rf Reg.CAPRING 4 0
  if 4 ≤ s ∧ s ≤ 16 then some (2 ^ s) else none

/-- Copy a held capture of a tile into the ring and release the buffer (R350, R351). -/
def Dev.copyCapture (d : Dev) (t : Nat) (laneCap : Bool) : Dev :=
  let off := if laneCap then Reg.LCAP_STATUS else Reg.CAP_STATUS
  match d.capSize with
  | none => d
  | some n =>
    if !d.rb Reg.ITG_CTL 63 || !d.rb (Reg.tile t off) 63 then d
    else if d.rn Reg.CAP_WR - d.rn Reg.CAP_RD ≥ n then d.itgStatus 1
    else
      let e := d.rn Reg.CAP_WR
      let locked := d.rb Reg.DEVID 63
      let head := [w64 (e % 2 ^ 48 + (if laneCap then 2 else 1) * 2 ^ 48 + b2n (if laneCap then (d.tile t).lcapTest else (d.tile t).capTest) * 2 ^ 63),
                   w64 (t + (if locked then d.rf Reg.DEVID 16 0 * 2 ^ 32 + 2 ^ 49 else 0)), w64 (d.trf t off 47 32),
                   d.rd Reg.ITG_CLOCK, d.rd Reg.DEV_ID]
      let words (l : List W64) : List Byte := l.flatMap fun w => toBytes 8 w.toNat
      let lcap := if laneCap then (List.range 6).map fun i => d.trd t (0x338 + 8 * i) else List.replicate 6 0
      let cap := if laneCap then List.replicate 256 0 else (List.range 256).map fun i => d.trd t (0x800 + 8 * i)
      let d := d.store (d.rf Reg.CAPRING 47 12 * 4096 + 4096 * (e % n))
        (words head ++ List.replicate 0x310 0 ++ words lcap ++ List.replicate 0x498 0 ++ words cap)
      ((d.inc Reg.CAP_WR).itgStatus 0).twr t off 0

/-! ## Packages (R352 to R356) -/

def noPkg : Nat → Option Pkg := fun _ => none
def Dev.pkg (d : Dev) (n : Nat) : Option Pkg := smGet noPkg d.pkgs n
def Dev.pkgAddr (d : Dev) (n : Nat) : Nat := d.rf Reg.PKG_BASE 47 30 * 2 ^ 30 + n * 2 ^ 26
/-- A slot's package is loaded or unloaded, as PKGn shows. -/
def Dev.setPkg (d : Dev) (n : Nat) (p : Option Pkg) : Dev :=
  { d.wr (Reg.PKG n) (match p with
      | some x => w64 (2 ^ 63 + x.id.toNat % 2 ^ 63)
      | none => 0) with pkgs := smSet noPkg d.pkgs n p }

/-- A kernel table entry is valid (R353). -/
def kernelOk (b : List Byte) (total i : Nat) : Bool :=
  let o := 0x100 + 128 * i
  let code := word64 b o; let inp := word64 b (o + 8)
  let cb := bits (word64 b (o + 0x10)) 31 0; let iw := bits (word64 b (o + 0x10)) 63 32
  let rw := bits (word64 b (o + 0x18)) 31 0; let rn := bits (word64 b (o + 0x18)) 63 32
  let fl := bits (word64 b (o + 0x28)) 31 0
  code % 32 == 0 && inp % 32 == 0 && 1 ≤ cb && cb ≤ 7168 && iw ≤ 131072 && 1 ≤ rn && rn ≤ 131072 && rw + rn ≤ 131072
    && 1 ≤ word64 b (o + 0x20) && word64 b (o + 0x20) ≤ 2 ^ 32 && fl ≤ 2
    && zeroBetween b (o + 0x2C) 20 && code + 32 * cb ≤ total && inp + 32 * iw ≤ total

def sha (b : List Byte) : Nat := (Config.sha512 b).toNat
def sigOk (key : List Byte) (msg : List Byte) (sig : List Byte) : Bool :=
  Config.ed25519Verify (BitVec.ofNat 256 (ofBytes key)) msg (BitVec.ofNat 512 (ofBytes sig))
/-- The owner key hash in firn (R508). -/
def Dev.ownerHash (d : Dev) : Nat := (List.range 16).foldl (fun n i => n + d.firnRd (0x10 + i) * 2 ^ (32 * i)) 0

/-- The checks of R354 on the bytes of a slot: the package, or the status of the first failure. -/
def Dev.checkPkg (d : Dev) (n : Nat) : Except Nat Pkg :=
  let a := d.pkgAddr n
  let total := d.rdNum (a + 0x18) 8
  let b := d.rdBytes a (min total (2 ^ 26))
  let signer := bits (word64 b 0) 63 48
  let kernels := bits (word64 b 0x10) 63 32
  let sl (o k : Nat) : List Byte := (b.drop o).take k
  let id := w64 (word64 b 8)
  let rev := bits (word64 b 0x10) 31 0
  if bits (word64 b 0) 31 0 ≠ 0x43545141 ∨ bits (word64 b 0) 47 32 ≠ 1 ∨ signer > 1 ∨ kernels < 1 ∨ kernels > 256
      ∨ total > 2 ^ 26 ∨ total < 0x100 + 128 * kernels ∨ !zeroBetween b 0x80 64 then .error St.INVALID
  else if sha (sl 0x20 32) ≠ (if signer = 0 then Config.vendorKeyHash.toNat else d.ownerHash) then .error St.AUTH_FAIL
  else if !sigOk (sl 0x20 32) (toBytes 64 (sha (sl 0 0xC0))) (sl 0xC0 64) then .error St.AUTH_FAIL
  else if sha (b.drop 0x100) ≠ ofBytes (sl 0x40 64) then .error St.AUTH_FAIL
  else if !(List.range kernels).all (kernelOk b total) then .error St.INVALID
  else if (List.range 16).any fun m => m != n && match d.pkg m with
      | some x => x.id == id && x.rev ≥ rev
      | none => false
    then .error St.INVALID
  else .ok ⟨id, rev, kernels, ((List.range kernels).filter fun i => bit (word64 b (0x100 + 128 * i + 0x28)) 0).length⟩

def Dev.pkgEnd (d : Dev) (status : Nat) : Dev := (d.wr Reg.PKG_STATUS (w64 status)).wf Reg.PKG_CMD 63 63 0

/-- LOAD of a slot. -/
def Dev.pkgLoad (d : Dev) (n : Nat) : Dev :=
  match d.checkPkg n with
  | .error e => d.pkgEnd e
  | .ok p =>
    let d := d.each (findAll 16 fun m => m != n && (match d.pkg m with
      | some x => x.id == p.id
      | none => false)) fun d m => d.setPkg m none
    (d.setPkg n (some p)).pkgEnd 0

/-- Whether a field holds a resident context or a tile of a cadence group (R356, R357, R398). -/
def Dev.fieldBusy (d : Dev) (f : Nat) : Bool :=
  d.tiles.any fun e => physField e.1 == f && (e.2.inGroup || !(d.heldSlots e.1).isEmpty)

/-- Writes into the slot of a loaded package unload it (R354). -/
def Dev.pkgTouched (d : Dev) (a n : Nat) : Dev :=
  d.each (findAll 16 fun m => (d.pkg m).isSome && a < d.pkgAddr m + 2 ^ 26 && d.pkgAddr m < a + n) fun d m => d.setPkg m none

/-- Tested tiles of a field: all that are not failed, spares included (R356). -/
def Dev.testedTiles (d : Dev) (f : Nat) : List Nat :=
  (List.range 104).map (104 * f + ·) |>.filter fun t => !(d.tile t).dead && !d.absentCol f (physRow t) (physCol t)
/-- Kernels of the loaded packages without MARGIN_ONLY (R356). -/
def Dev.kernelCount (d : Dev) : Nat := (d.pkgs.map fun e => match e.2 with
  | some p => p.kernels - p.marginOnly
  | none => 0).sum

/-- The restore stage (R357): every tile is reset and holds the base image again, and the field's floes run with the mesh again. -/
def Dev.restoreField (d : Dev) (f : Nat) : Dev :=
  let d := (d.resetField f).each ((List.range 104).map (104 * f + ·) |>.filter fun t => !(d.tile t).dead) fun d t => d.loadImage t []
  let d := d.when (d.floeState (4 * f) == 3) (·.floesUp f)
  (d.setReady (readyField f) true).checkHomes.showSeams f

/-- A retiree found failing is retired at once, whatever its class holds (R343, R358). -/
def Dev.failNow (d : Dev) (r : Retiree) : Dev := d.lasting (some r) { cls := 12, kind := 0, idx := 0, loc := 0, syn := 0 }

/-- A sweep ends (R357, R358). -/
def Dev.endSweep (d : Dev) (last : Nat) : Dev :=
  let f := d.rf Reg.SWEEP_STATUS 39 36
  let d := d.wr Reg.SWEEP_STATUS (w64 (f * 2 ^ 36 + last * 2 ^ 34))
  ({ d with sweepFails := [], sweepFailed := false, sweepNext := (f + 1) % 16 }).itgStatus 5

end Sys2Proof.Machine
end

