-- ==== Sys2Proof/Machine/Fabric.lean ====
section
/-! DEFINITION. Wires, cuts and seam bypasses (R231 to R234, R247, R251), field switches (R396 to R398) and the bring-up of
a field (R492, R493). -/

namespace Sys2Proof.Machine

/-! ## Wires -/

/-- Whether a tile's port faces a seam, and the spares its inbound direction has (R231). -/
def Dev.portSeam (d : Dev) (t p : Nat) : Bool :=
  match d.logOf t with
  | some l => match neighbour l p with
    | some (_, h) => h == 8
    | none => false
  | none => false
def Dev.spareCap (d : Dev) (t p : Nat) : Nat := if d.portSeam t p then 4 else 16

/-- Both ends of a link report it cut, and no neighbour (R233, R251). -/
def Dev.cutLink (d : Dev) (t p : Nat) : Dev :=
  let cut (d : Dev) (u q : Nat) : Dev := d.twf u Reg.RT_PORT (8 * q + 7) (8 * q + 5) 1
  let d := cut d t p
  match (d.logOf t).bind (neighbour · p) with
  | some (n, _) => match d.physOf n with
    | some u => cut d u (oppPort p)
    | none => d
  | none => d

/-- The vertical seam beside a field on its east (1) or west (3) side, and the horizontal one north (0) or south (2). -/
def vseamOf (f p : Nat) : Nat := 3 * fieldY f + (if p = 1 then fieldX f else fieldX f - 1)
def hseamOf (f p : Nat) : Nat := if p = 0 then f else f - 4

/-- The tiles on both sides of a vertical seam at a logical column, west side first, with their ports (R23, R234). -/
def Dev.seamEnds (d : Dev) (v c : Nat) : List (Nat × Nat) :=
  let w := 4 * (v / 3) + v % 3
  ((d.physOf (96 * w + 84 + c)).map (·, 1)).toList ++ ((d.physOf (96 * (w + 1) + c)).map (·, 3)).toList

/-- The seam bypass of a vertical seam changes, in the register and in firn (R234, R508). The logical columns from it on use the next physical
links, with the spares in use there. -/
def Dev.setSeamBypass (d : Dev) (v b : Nat) : Dev :=
  let spares (d : Dev) (t p : Nat) : Nat := d.trf t Reg.RT_PORT (8 * p + 4) (8 * p)
  let d := d.each ((List.range 12).filter (b ≤ ·)) fun d c =>
    d.each ((d.seamEnds v c).zip ((d.seamEnds v (c + 1)).map some ++ [none, none])) fun d e =>
      d.twf e.1.1 Reg.RT_PORT (8 * e.1.2 + 4) (8 * e.1.2) (if c = 11 then 0 else ((e.2.map fun g => spares d g.1 g.2).getD 0))
  let d := d.wf (Reg.VSEAM v) 3 0 b
  let w := 0x420 + v / 8
  (d.firnPut [(w, (put (w64 (d.firnView w)) (4 * (v % 8) + 3) (4 * (v % 8)) b).toNat)]).1

/-- A lasting fault on a link direction whose spares are all in use (R233, R234). -/
def Dev.cutPort (d : Dev) (t p : Nat) : Dev :=
  if !d.portSeam t p then d.cutLink t p
  else if p % 2 = 0 then
    (d.wf (Reg.HSEAM (hseamOf (physField t) p)) (physRow t) (physRow t) 1).cutLink t p
  else match d.logOf t with
    | none => d
    | some l =>
      let v := vseamOf (physField t) p
      let sb := d.rf (Reg.VSEAM v) 3 0
      let phys := if logCol l < sb then logCol l else logCol l + 1
      let d := d.wf (Reg.VSEAM v) (16 + phys) (16 + phys) 1
      if sb = 12 then d.setSeamBypass v phys else d.cutLink t p

/-- A failed wire is steered onto the next spare of its link direction, or the link is cut (R231, R233). -/
def Dev.steerWire (d : Dev) (t p w : Nat) : Dev × FirnEnd :=
  let used := d.trf t Reg.RT_PORT (8 * p + 4) (8 * p)
  if used ≥ d.spareCap t p then (d.cutPort t p, .done)
  else
    let d := d.twf t Reg.RT_PORT (8 * p + 4) (8 * p) (used + 1)
    d.firnList 0x1000 1024 1 [2 ^ 31 + t * 2 ^ 20 + p * 2 ^ 18 + w * 2 ^ 6 + used * 4]

/-- An ordered steering takes effect (R232, R346). -/
def Dev.wireEffect (d : Dev) (x : WireOrder) : Dev :=
  let (d, fin) := ({ d with wirePend := d.wirePend.erase x }).steerWire x.tile x.port x.wire
  d.retired (.wire x.tile x.port x.wire) fin

/-- The link direction into a tile's port, by its number in `linkUse`. -/
def Dev.inLink (d : Dev) (t p : Nat) : Nat :=
  match d.logOf t with
  | some l => match neighbour l p with
    | some (m, _) => 4 * m + oppPort p
    | none => 6144 + 4 * l + p
  | none => 8 * ringPlace
/-- Whether the tiles at both ends of a link run cadence contexts: both are in the group's tile set (R68, R232). -/
def Dev.wireCad (d : Dev) (x : WireOrder) : Bool :=
  (d.tile x.tile).inGroup && match ((d.logOf x.tile).bind (neighbour · x.port)).bind fun n => d.physOf n.1 with
    | some u => (d.tile u).inGroup
    | none => false
/-- Whether the steering's beat has come on any other link: 64 beats without a flit since it was ordered (R232). -/
def Dev.wireIdle (d : Dev) (x : WireOrder) : Bool :=
  !d.wireCad x && max x.since (d.link (d.inLink x.tile x.port)).free + 64 ≤ d.rn Reg.CLK_BEAT

/-- What TILE.RT_PORT shows of a port once the repair lists are applied (R251): neighbour, perimeter, spares in use. -/
def Dev.portByte (d : Dev) (t p : Nat) : Nat :=
  let spares := ((List.range 1024).filter fun i =>
    let e := d.firnView (0x1000 + i)
    bit e 31 && bits e 30 20 == t && bits e 19 18 == p).length
  match d.logOf t with
  | none => spares
  | some l => match neighbour l p with
    | some (n, _) => spares + (if (d.physOf n).isSome then 0x80 else 0)
    | none => spares + 0x40

/-! ## Repair maps (R492) -/

/-- The repair maps of a field are applied from the firn lists (R29 to R31, R161, R231, R234, R393, R557). The bring-up of either field of a
seam ends its cuts, at both ends (DESIGN CHOICE, log entry 93: R233 says the field's next bring-up). -/
def Dev.applyMaps (d : Dev) (f : Nat) : Dev :=
  let d := d.wr (Reg.ROWMAP f) (w64 (d.firnView (0x400 + 2 * f) + d.firnView (0x401 + 2 * f) * 2 ^ 32))
  let d := d.each (List.range 8) fun d r =>
    d.wf (Reg.ABSENT f r) (16 * (r % 4) + 12) (16 * (r % 4)) (d.firnView (0x460 + 8 * f + r))
  let seams := (if fieldX f < 3 then [vseamOf f 1] else []) ++ (if fieldX f > 0 then [vseamOf f 3] else [])
  let d := d.each seams fun d v =>
    let b := bits (d.firnView (0x420 + v / 8)) (4 * (v % 8) + 3) (4 * (v % 8))
    d.wr (Reg.VSEAM v) (w64 (b + (if b = 12 then 0 else 2 ^ (16 + b))))
  let rows := (if fieldY f < 3 then [hseamOf f 0] else []) ++ (if fieldY f > 0 then [hseamOf f 2] else [])
  let d := d.each rows fun d h => d.wr (Reg.HSEAM h) 0
  let d := d.each (d.seamPairs f) fun d e => d.twf e.2.1 Reg.RT_PORT (8 * e.2.2 + 5) (8 * e.2.2 + 5) 0
  let tiles := (List.range 104).map (104 * f + ·)
  let d := d.each tiles fun d t =>
    d.twr t Reg.RT_PORT (w64 (d.portByte t 0 + d.portByte t 1 * 2 ^ 8 + d.portByte t 2 * 2 ^ 16 + d.portByte t 3 * 2 ^ 24))
  let d := d.each ((List.range 2048).map fun i => d.firnView (0x800 + i)) fun d e =>
    let t := bits e 30 20
    if !bit e 31 || physField t != f then d
    else d.upd t fun x => { x with remap := smSet (fun _ => 0) x.remap (4 * bits e 19 14 + bits e 5 4) (bits e 13 6 + 1) }
  d.each tiles fun d t =>
    let m := (d.tile t).remap
    let full := ((List.range 64).filter fun b => (List.range 4).all fun i => smGet (fun _ => 0) m (4 * b + i) != 0).length
    d.twr t Reg.SP_REPAIR (w64 (m.length + full * 2 ^ 16))

/-- PWR.PHMAPf, and the count and limit of PWR.FIELDf, from the firn lists (R393, R418). -/
def Dev.loadPhases (d : Dev) (f : Nat) : Dev :=
  let ret := d.firnView (0x422 + 2 * f) % 2 ^ 24
  let d := d.wr (Reg.PHMAP f) (w64 (ret + d.firnView (0x423 + 2 * f) % 2 ^ 24 * 2 ^ 24))
  let n := (findAll 24 (bit ret)).length
  ((d.wf (Reg.FIELD f) 60 56 n).wf (Reg.FIELD f) 39 28 (limitOf n)).syncClamp f

/-! ## Field switches (R396 to R398) -/

def Dev.fieldState (d : Dev) (f : Nat) : Nat := d.rf (Reg.FIELD f) 63 61
def Dev.setField (d : Dev) (f st : Nat) : Dev := d.wf (Reg.FIELD f) 63 61 st
def Dev.shortMark (d : Dev) (f : Nat) : Bool := bit (d.firnView 0x45C) f
/-- Two failed oscillators keep a field down (R369). -/
def Dev.oscBar (d : Dev) (f : Nat) : Bool := (findAll 4 fun k => d.oscFailed (4 * f + k)).length ≥ 2
def Dev.phasesGone (d : Dev) (f : Nat) : Bool := d.rf (Reg.FIELD f) 60 56 ≥ 13

/-- Fields that share a seam with a field (R23). -/
def nextFields (f : Nat) : List Nat :=
  (if fieldY f < 3 then [f + 4] else []) ++ (if fieldX f < 3 then [f + 1] else [])
    ++ (if fieldY f > 0 then [f - 4] else []) ++ (if fieldX f > 0 then [f - 1] else [])

/-- The field-fed command of PWR.FIELD_CMD ends with a status when it is a field's. -/
def Dev.fieldCmdEnd (d : Dev) (f status : Nat) : Dev :=
  if d.rb Reg.FIELD_CMD 63 && d.rf Reg.FIELD_CMD 19 16 == f then (d.wf Reg.FIELD_CMD 63 63 0).wf Reg.FIELD_CMD 15 0 status else d

/-- The conditions at the start of a ramp (R398). -/
def Dev.grantOk (d : Dev) (f : Nat) : Bool :=
  (nextFields f).all (fun g => d.rf (Reg.FIELD g) 11 0 * 100 ≤ 95 * d.rf (Reg.FIELD g) 39 28)
    && d.rf Reg.EST 15 0 + 60 ≤ d.rf Reg.CAP_W 31 16
    && !(List.range 16).any fun g => d.fieldState g == 1
/-- Start the ramp of a waiting field, the lowest first. -/
def Dev.startRamp (d : Dev) (f : Nat) : Dev :=
  if d.fieldState f == 5 && (List.range f).all (fun g => d.fieldState g != 5) && d.grantOk f then d.setField f 1 else d
/-- A switch-on: the ramp at once where its conditions hold, otherwise DEFERRED (R398). -/
def Dev.requestOn (d : Dev) (f : Nat) : Dev :=
  let e := (d.setField f 5).startRamp f
  if e.fieldState f == 1 then e else ((d.setField f 5).inc Reg.DEFERS).pwrStatus 1

/-- A sweep of a field that trips or goes dark ends at once, aborted (R357). -/
def Dev.abortSweep (d : Dev) (f : Nat) : Dev :=
  if d.rf Reg.SWEEP_STATUS 47 40 ≥ 1 && d.rf Reg.SWEEP_STATUS 39 36 == f then d.endSweep 2 else d

/-- A field's class 24 entry (R534). -/
def Dev.fieldEntry (d : Dev) (f cause : Nat) : Dev := d.varveLog 24 3 1 f {} (w64 cause) (d.rd (Reg.FIELD f))

/-- A field switch opens (R396, R397). -/
def Dev.openField (d : Dev) (f st cause floe : Nat) : Dev :=
  let d := (d.setField f st).pwrStatus 5
  let d := d.abortSweep f
  let d := d.fieldEntry f cause
  let d := d.when (st == 4) fun d =>
    (d.firnPut [(0x45C, (put (w64 (d.firnView 0x45C)) f f 1).toNat)]).1.firnCount 3
  -- the status a failed switch-on ends with is not stated (log entry 3)
  let (v, d) := d.draw
  let d := d.fieldCmdEnd f (v.toNat % 65535 + 1)
  d.fieldDark f floe

/-! ## The bring-up of a field (R492, R493) -/

/-- A stack both of whose homes have failed before its first training is marked failed at once (R497). -/
def Dev.failStacks (d : Dev) : Dev :=
  d.each (findAll 36 fun s => stackState d s == 4 && !d.failedBit (readyStack s) && d.failedBit (readyField (homes s).1)
      && d.failedBit (readyField (homes s).2)) fun d s =>
    (d.setFailed (readyStack s)).varveLog 36 3 (stackKind s).1 (stackKind s).2 {} (w64 (readyStack s)) 8

/-- A field's bring-up fails: it is made dark, with its cause code shown, and bring-up carries on (R483, R492). -/
def Dev.failField (d : Dev) (f cause : Nat) : Dev :=
  let d := d.wf Reg.FIELD_CAUSE (4 * f + 3) (4 * f) cause
  let d := d.when (d.fieldState f != 4) (·.setField f (if d.shortMark f then 4 else 0))
  let d := (d.setFailed (readyField f)).fieldEntry f cause
  let d := ((d.firnCount 4).fieldDark f (if cause = 2 then 4 else 2)).failStacks
  d.checkReady

/-- A field whose switch opens before its wave has ended has failed that bring-up attempt; the cause code is shown where R492
gives one. -/
def Dev.endWave (d : Dev) (f : Nat) (cause : Option Nat) : Dev :=
  let d := match cause with
    | some c => d.wf Reg.FIELD_CAUSE (4 * f + 3) (4 * f) c
    | none => d
  (((d.setFailed (readyField f)).firnCount 4).failStacks).checkReady

/-- The steps of R492 after the ramp: the field's floes lock, its repair maps are applied, newly failed wires are steered,
and its sensors are checked. -/
def Dev.bringField (d : Dev) (f : Nat) (crossing sensor : Bool) (wires : List (Nat × Nat × Nat)) : Dev :=
  if d.oscBar f then d.failField f 2
  else
    let d := d.floesUp f
    if crossing then d.failField f 3
    else
      let d := (d.applyMaps f).loadPhases f
      let d := d.each (wires.filter fun w => physField w.1 == f) fun d w => (d.steerWire w.1 w.2.1 w.2.2).1
      if sensor then d.failField f 7 else d

/-- A field of a wave is switched on, or fails (R491 to R493); one that has failed stays dark until the steward switches it on. -/
def Dev.waveField (d : Dev) (f : Nat) : Dev :=
  if [1, 2, 3, 5].contains (d.fieldState f) || d.failedBit (readyField f) then d
  else if !isEdgeField f && (nextFields f).all (fun g => !d.ready (readyField g)) then d.failField f 4
  else if d.shortMark f then d.failField f 1
  else if d.phasesGone f then d.failField f 6
  else d.requestOn f

end Sys2Proof.Machine
end

