-- ==== Sys2Proof/Machine/Link.lean ====
section
/-! DEFINITION. Neori links: cells, replay and credits (R431 to R436), link states (R425 to R428), routing (R438), streams
(R439 to R442), and the election of the time master (R254, R443, R444). -/

namespace Sys2Proof.Machine

def lnkReset : Nat → LinkSt := fun _ => {}
def Dev.lnk (d : Dev) (k : Nat) : LinkSt := smGet lnkReset d.links k
def Dev.setLnk (d : Dev) (k : Nat) (x : LinkSt) : Dev := { d with links := smSet lnkReset d.links k x }
def Dev.updLnk (d : Dev) (k : Nat) (f : LinkSt → LinkSt) : Dev := d.setLnk k (f (d.lnk k))
def Dev.myId (d : Dev) : Nat := d.rf Reg.DEVID 16 0
def Dev.idLocked (d : Dev) : Bool := d.rb Reg.DEVID 63
def Dev.linkUp (d : Dev) (k : Nat) : Bool := d.linkState k == 3 || d.linkState k == 4
/-- Whether a link takes cells in: it is up or authenticating. -/
def Dev.receives (d : Dev) (k : Nat) : Bool := decide (2 ≤ d.linkState k) && decide (d.linkState k ≤ 4)
def Dev.scheduled (d : Dev) (k : Nat) : Bool := d.linkState k == 4
def Dev.peerId (d : Dev) (k : Nat) : Nat := d.rf (Reg.L_STATUS k) 49 33
/-- Links in the scheduled set, ascending. -/
def Dev.schedLinks (d : Dev) : List Nat := findAll 24 d.scheduled
/-- A link's class 30 entry (R534). -/
def Dev.linkEntry (d : Dev) (k sev a b : Nat) : Dev := d.varveLog 30 sev 5 k {} (w64 a) (w64 b)

/-! ## Cells (R431) -/

/-- The content of header word 1 beside META. -/
def word1 (prov : Bool) (cell stream src dst side : Nat) : Nat :=
  b2n prov * 2 ^ 60 + cell * 2 ^ 56 + stream * 2 ^ 50 + src * 2 ^ 33 + dst * 2 ^ 16 + side

/-- A payload of 256 bytes: what is not used reads zero. -/
def padTo (n : Nat) (b : List Byte) : List Byte := b.take n ++ List.replicate (n - b.length) 0

/-- The 288 bytes of a cell. -/
def cellBytes (seq ack crclass credits : Nat) (c : QCell) : List Byte :=
  let w0 := seq * 2 ^ 52 + ack * 2 ^ 40 + c.typ * 2 ^ 36 + c.cls * 2 ^ 34 + crclass * 2 ^ 32 + credits * 2 ^ 18
  let head := toBytes 8 w0 ++ toBytes 8 c.w1 ++ toBytes 8 c.w2
  let body := padTo 256 c.payload
  head ++ toBytes 8 (c.block + 2 ^ 32 * crc32c (head ++ toBytes 8 c.block ++ body)) ++ body

/-- The highest SEQ received in order. -/
def LinkSt.ackNo (x : LinkSt) : Nat := (x.rxNext + 4095) % 4096
/-- The slots owed to the peer that the next cell returns: a class and how many. -/
def LinkSt.takeOwed (x : LinkSt) : (Nat × Nat) × LinkSt :=
  match (List.range 4).find? fun c => nth x.owed c 0 > 0 with
  | some c => ((c, nth x.owed c 0), { x with owed := x.owed.set c 0 })
  | none => ((0, 0), x)

/-- Send an IDLE cell: no SEQ, an ACK and credits (R434). -/
def Dev.sendIdle (d : Dev) (k : Nat) : Dev :=
  let (cr, x) := (d.lnk k).takeOwed
  (d.setLnk k x).emit (.cell k 0 (cellBytes 0 x.ackNo cr.1 cr.2 { typ := 0, cls := 0 }))

/-- Send a cell that has its credit: it takes the next SEQ and is held for resending (R434). -/
def Dev.sendNow (d : Dev) (k : Nat) (c : QCell) : Dev :=
  let (cr, x) := (d.lnk k).takeOwed
  let o := c.out.getD (.cell k c.typ (cellBytes x.txSeq x.ackNo cr.1 cr.2 c))
  let x := { x with txSeq := (x.txSeq + 1) % 4096, sent := x.sent ++ [({ seq := x.txSeq, cell := c, out := o } : Sent)]
                    credits := x.credits.set c.cls (nth x.credits c.cls 0 - 1) }
  (d.setLnk k x).emit o

/-- Whether nothing may leave in a class: it has no credit (R436), or the replay buffer of 1 MiB is full of unacknowledged cells (R434). -/
def LinkSt.spent (x : LinkSt) (cls : Nat) : Bool := nth x.credits cls 0 == 0 || decide (3640 ≤ x.sent.length)
/-- Whether a cell of a class has to wait: nothing may leave, or cells of its class wait before it (R435). -/
def LinkSt.mustWait (x : LinkSt) (cls : Nat) : Bool := x.spent cls || x.queue.any fun q => q.cls == cls

/-- Send a cell, or keep it until its class has a credit (R435, R436). -/
def Dev.sendCell (d : Dev) (k : Nat) (c : QCell) : Dev :=
  if (d.lnk k).mustWait c.cls then d.updLnk k fun x => { x with queue := x.queue ++ [c] } else d.sendNow k c

/-- A cell leaves the buffer slot in which it waited: a guaranteed slot's credit goes back to the peer it came from (R436). -/
def Dev.freeBuffer (d : Dev) (c : QCell) : Dev :=
  match c.slot with
  | some (j, false) => if d.receives j then (d.updLnk j fun x => { x with owed := x.owed.set c.cls (nth x.owed c.cls 0 + 1) }).sendIdle j else d
  | _ => d

/-- Cells that wait are sent as credits come, in the priority of their classes (R435). -/
def Dev.drainQueue (d : Dev) (k : Nat) : Dev :=
  let q := (d.lnk k).queue
  ((List.range 4).flatMap fun c => q.filter (·.cls == c)).foldl (fun d c =>
    if (d.lnk k).spent c.cls then d
    else ((d.updLnk k fun x => { x with queue := x.queue.erase c }).freeBuffer c).sendNow k { c with slot := none }) d

/-- Slots of the shared pool that a class holds (R436). -/
def Dev.poolUse (d : Dev) (cls : Nat) : Nat :=
  (d.links.map fun e => (e.2.queue.filter fun c => c.cls == cls && c.slot.any (·.2)).length).sum
/-- The cap of a class, in slots of 256 bytes. -/
def Dev.poolCap (d : Dev) (cls : Nat) : Nat := 4 * d.rf Reg.POOLCAP (16 * cls + 15) (16 * cls)
/-- Whether the shared pool of 12 MiB has a slot for a class under its cap (R436, R437). -/
def Dev.poolRoom (d : Dev) (cls : Nat) : Bool :=
  d.poolUse cls < d.poolCap cls && ((List.range 4).map d.poolUse).sum < 49152
/-- A cell that came on link j waits for link k in a buffer slot (R436): a shared slot, so that the credit returned for the cell stands, or the
guaranteed slot it came in, whose credit goes back when the cell leaves. -/
def Dev.holdCell (d : Dev) (j k : Nat) (c : QCell) : Dev :=
  let shared := d.poolRoom c.cls
  let d := d.updLnk k fun x => { x with queue := x.queue ++ [{ c with slot := some (j, shared) }] }
  if shared then d else d.updLnk j fun x => { x with owed := x.owed.set c.cls (nth x.owed c.cls 0 - 1) }

/-- Send a class-0 message to the peer of a link. -/
def Dev.sendMsg (d : Dev) (k typ : Nat) (payload : List Byte) (frame : Option Nat := none) : Dev :=
  d.sendCell k { typ, cls := 0, w1 := word1 false 0 0 d.myId (d.peerId k) 0, payload, frame }

/-! ## Losing and training a link (R425 to R428, R434) -/

/-- The child on a link counts as having acknowledged the outcome once its link is down (R268). -/
def Dev.childGone (d : Dev) (k : Nat) : Dev :=
  if d.outAcks.contains k then d else { d with outAcks := d.outAcks ++ [k] }

/-- Guaranteed slots in which cells of link k wait are given anew at its next link-up (R436). -/
def LinkSt.orphan (x : LinkSt) (k : Nat) : LinkSt :=
  { x with queue := updIf (·.slot == some (k, false)) (fun (c : QCell) => { c with slot := none }) x.queue }

/-- Take a link out of use: its replay buffer, credits and queue are cleared (R516), what was unacknowledged is lost, and
copies with cells there end with LINK_DOWN (R434). -/
def Dev.dropLink (d : Dev) (k st : Nat) : Dev :=
  let x := d.lnk k
  let lost := ((x.sent.map (·.cell) ++ x.queue).filterMap (·.copy)).eraseDups
  let wasUp := d.linkUp k
  let d := x.queue.foldl Dev.freeBuffer (d.setLnk k {})
  let d := { d with links := d.links.map fun (e : Nat × LinkSt) => (e.1, e.2.orphan k) }
  let d := d.setLnk k {}
  let d := ((d.setLink k st).wf (Reg.L_STATUS k) 60 59 0).wf (Reg.L_LANES k) 16 0 0
  let d := d.each (d.copies.filter fun c => lost.contains c.id) fun d c => d.endCopy c St.LINK_DOWN 0
  let d := if d.parent == some k then { d with parent := none } else d
  let d := d.childGone k
  d.when (wasUp && d.rf (Reg.INPUT k) 63 32 != 0) (·.cause 10)

/-- Whether a link may train (R424, R425); link training is stage 9 of bring-up (R482, R498). -/
def Dev.mayTrain (d : Dev) (k : Nat) : Bool :=
  d.rb (Reg.L_CTL k) 63 && d.idLocked && !d.laserOff.contains k && d.rf Reg.BOOT_STATUS 59 56 == 9
/-- An attempt starts (counted in LNK.Lk_ATTEMPTS). -/
def Dev.startAttempt (d : Dev) (k : Nat) : Dev :=
  if d.mayTrain k then (d.setLink k 1).inc (Reg.ATTEMPTS k) else d

/-- A link that was up goes down: entered in the varve log, and an attempt starts at once (R428, R434). -/
def Dev.linkDown (d : Dev) (k : Nat) : Dev :=
  let peer := d.peerId k
  ((d.dropLink k 0).linkEntry k 2 0 peer).startAttempt k

/-- An attempt fails: the link waits in RETRY_WAIT (R427), and the function is marked as failed (R483, R499). -/
def Dev.linkFail (d : Dev) (k : Nat) : Dev :=
  let d := d.dropLink k 5
  let n := readyLink k
  let first := !d.failedBit n && !d.ready readyDevice
  let d := d.setFailed n
  (d.when first (·.varveLog 36 3 5 k {} (w64 n) 9)).checkReady

/-- Lanes of a link in the firn lists (R508). -/
def Dev.badLanes (d : Dev) (k : Nat) : Nat := d.firnView (0x444 + k) % 2 ^ 17
/-- Lanes are added to the firn lists and shown as FAILED. -/
def Dev.loseLanes (d : Dev) (k mask : Nat) : Dev :=
  let all := d.badLanes k ||| mask
  let d := if all = d.badLanes k then d else (d.firnPut [(0x444 + k, all)]).1
  d.wf (Reg.L_LANES k) 33 17 all
/-- The first n of a list of lanes, as a mask. -/
def laneMask (l : List Nat) : Nat := l.foldl (fun m i => m ||| 2 ^ i) 0
/-- Raw bandwidth of an attachment per direction in GB/s: a module of x16 at 32 GT/s has 64 (R37). -/
def Modules.rate (m : Modules) : Nat := 64 * (findAll 8 m.full.getLsbD).length + 32 * (findAll 8 fun i => m.half.getLsbD i && !m.full.getLsbD i).length
/-- The lanes a Neori link may train at over its attachment (R39). -/
def Modules.lanes (m : Modules) : Nat := if m.rate ≥ 448 then 16 else if m.rate ≥ 224 then 8 else if m.rate ≥ 112 then 4 else 0
def noModules : Nat → Modules := fun _ => {}
/-- An attachment trains. -/
def Dev.setUcie (d : Dev) (n : Nat) (m : Modules) : Dev := { d with ucie := smSet noModules d.ucie n m }

/-- The widest of 16, 8 and 4 lanes within n; 0 for fewer. -/
def widest (n : Nat) : Nat := if n ≥ 16 then 16 else if n ≥ 8 then 8 else if n ≥ 4 then 4 else 0
/-- WIDTH of LNK.Lk_STATUS (R452). -/
def widthCode (w : Nat) : Nat := if w = 16 then 3 else if w = 8 then 2 else if w = 4 then 1 else 0

/-! ## Authentication (R429) -/

/-- The seed of the sealed identity key (R508). -/
def Dev.idSeed (d : Dev) : BitVec 256 :=
  BitVec.ofNat 256 ((List.range 8).foldl (fun n i => n + d.firnRd (0x30 + i) * 2 ^ (32 * i)) 0)
def Dev.certificate (d : Dev) : BitVec 512 :=
  BitVec.ofNat 512 ((List.range 16).foldl (fun n i => n + d.firnRd (0x20 + i) * 2 ^ (32 * i)) 0)
/-- A nonce of 32 bytes from the random number generator (log entry 3). -/
def Dev.nonce (d : Dev) : BitVec 256 × Dev :=
  let (a, d) := d.draw
  let (b, d) := d.draw
  let (c, d) := d.draw
  let (e, d) := d.draw
  (a ++ b ++ c ++ e, d)

/-- The bytes an answer signs: the nonce of the end it answers to, its own, and the IDs and link numbers, lower ID first. -/
def authMsg (toNonce ownNonce : BitVec 256) (idA linkA idB linkB : Nat) : List Byte :=
  let (i, j) := if idA ≤ idB then ((idA, linkA), (idB, linkB)) else ((idB, linkB), (idA, linkA))
  toBytes 64 ((Config.sha512 (toBytes 32 toNonce.toNat ++ toBytes 32 ownNonce.toNat ++ toBytes 4 i.1 ++ toBytes 4 j.1
    ++ toBytes 4 i.2 ++ toBytes 4 j.2)).toNat)

/-- Send the hello of an authentication. -/
def Dev.sendHello (d : Dev) (k : Nat) : Dev :=
  let (n, d) := d.nonce
  let d := d.updLnk k fun x => { x with nonce := some n, hello := none }
  d.sendCell k { typ := 13, cls := 0,
                  out := some (.hello k d.myId (Config.ed25519Public d.idSeed) (d.rd Reg.SERIAL) d.certificate n) }

/-- A failed authentication takes the link down (R429). -/
def Dev.authFail (d : Dev) (k peer : Nat) : Dev :=
  let d := (((d.linkFail k).wf (Reg.L_STATUS k) 56 56 1).inc Reg.AUTHFAIL)
  d.linkEntry k 2 3 peer

/-- Both ends are authenticated: the link is up (R426, R427, R452). -/
def Dev.linkComesUp (d : Dev) (k : Nat) (h : Hello) : Dev :=
  let d := (d.wf (Reg.L_STATUS k) 49 33 h.id).wf (Reg.L_STATUS k) 32 28 h.link
  let d := (d.wf (Reg.L_STATUS k) 56 56 0).wf (Reg.L_STATUS k) 15 0 0
  let full := d.rf (Reg.L_STATUS k) 60 59 == 3
  let d := d.setLink k (if full && !d.rb (Reg.L_CTL k) 61 then 4 else 3)
  (d.wf (readyOff (readyLink k) + 0x10) k k 0).checkReady

/-- A hello arrives: its certificate is verified against the owner key of the device, and answered. -/
def Dev.takeHello (d : Dev) (k : Nat) (h : Hello) : Dev :=
  let ok := (Config.sha512 (toBytes 32 d.ownerPub.toNat)).toNat == d.ownerHash
    && Config.ed25519Verify d.ownerPub (toBytes 32 h.pub.toNat ++ toBytes 8 h.serial.toNat) h.cert && h.id != d.myId
  match ok, (d.lnk k).nonce with
  | true, some n =>
    let d := d.updLnk k fun x => { x with hello := some h }
    d.sendCell k { typ := 13, cls := 0,
                    out := some (.answer k (Config.ed25519Sign d.idSeed (authMsg h.nonce n d.myId k h.id h.link))) }
  | _, _ => d.authFail k h.id

/-- An answer arrives: verified under the certified key of the hello. -/
def Dev.takeAnswer (d : Dev) (k : Nat) (sig : BitVec 512) : Dev :=
  match (d.lnk k).hello, (d.lnk k).nonce with
  | some h, some n =>
    if Config.ed25519Verify h.pub (authMsg n h.nonce d.myId k h.id h.link) sig then d.linkComesUp k h else d.authFail k h.id
  | _, _ => d.authFail k 0

/-! ## Arrivals (R433, R434) -/

/-- The cells still unacknowledged after an ACK: those sent after the one it names (R434). -/
def unacked (ack : Nat) (l : List Sent) : List Sent :=
  match l.findIdx? (·.seq == ack) with
  | some i => l.drop (i + 1)
  | none => l

/-- An ACK and credits are taken in: covered cells leave the replay buffer, an OUTCOME among them is acknowledged (R268, R446). -/
def Dev.takeAck (d : Dev) (k : Nat) (h : CellHdr) : Dev :=
  let x := d.lnk k
  let rest := unacked h.ack.toNat x.sent
  let got := x.sent.take (x.sent.length - rest.length)
  let cls := h.crclass.toNat
  let d := d.setLnk k { x with sent := rest
                               credits := x.credits.set cls (nth x.credits cls 0 + h.credits.toNat) }
  let d := d.when (got.any fun c => c.cell.typ == 7 && c.cell.frame == some d.frame) (·.childGone k)
  d.drainQueue k

/-- Whether a cell of a type and class is accepted in the link's state (R426, R429, R438). -/
def Dev.accepts (d : Dev) (k typ cls : Nat) : Bool :=
  match d.linkState k with
  | 2 => typ == 13 || typ == 0
  | 3 => typ == 13 || typ == 0 || typ == 14 || typ == 15 || cls ≥ 2
  | 4 => true
  | _ => false

/-- A cell arrives on a link (R433, R434, R453): corrected symbols are counted, a damaged one is discarded and a NAK requested, and cells are taken in order. -/
def Dev.recvCell (d : Dev) (k : Nat) (h : CellHdr) (typ cls : Nat) (act : Dev → Dev) : Dev :=
  let d := d.add (Reg.FEC_CORR k) h.symbols.toNat
  if !d.receives k then d
  else match h.bad with
    | some code => (d.when code (·.inc (Reg.FEC_UNCORR k))).emit (.nak k h.seq.toNat)
    | none =>
      if !(d.accepts k typ cls) then d
      else if typ = 0 then d.takeAck k h
      else if h.seq.toNat ≠ (d.lnk k).rxNext then d
      else
        let d := d.takeAck k h
        let d := d.updLnk k fun x => { x with rxNext := (x.rxNext + 1) % 4096, owed := x.owed.set cls (nth x.owed cls 0 + 1) }
        let d := act d
        d.when (d.receives k) (·.sendIdle k)

/-- Every unacknowledged cell is sent again, in order; a cell resent 8 times declares the link down (R434). -/
def Dev.resend (d : Dev) (k : Nat) : Dev :=
  let x := d.lnk k
  if !d.receives k || x.sent = [] then d else
  let d := d.each x.sent fun d c => d.emit c.out
  let d := d.add (Reg.RESENT k) x.sent.length
  let d := d.setLnk k { x with sent := x.sent.map fun (c : Sent) => { c with resent := c.resent + 1 } }
  if x.sent.any (·.resent ≥ 7) then (if d.linkUp k then d.linkDown k else d.linkFail k) else d

/-! ## Routing (R438) -/

def Dev.usable (d : Dev) (cls k : Nat) : Bool := k < 24 && (if cls ≤ 1 then d.scheduled k else d.linkUp k)
/-- One dimension of a torus: the direction to correct, if any. -/
def torusStep (own dst lo n dim : Nat) : Option Nat :=
  let s := 2 ^ n
  let delta := ((dst >>> lo) % s + s - (own >>> lo) % s) % s
  if delta = 0 then none else some (2 * dim + (if 2 * delta ≤ s then 0 else 1))
/-- The direction a cell takes: x first, then y, then z. -/
def Dev.torusDir (d : Dev) (dst : Nat) : Option Nat :=
  let xl := d.rf Reg.ROUTE 3 0; let yl := d.rf Reg.ROUTE 7 4; let zl := d.rf Reg.ROUTE 11 8
  (torusStep d.myId dst 0 xl 0).orElse fun _ => (torusStep d.myId dst xl yl 1).orElse fun _ => torusStep d.myId dst (xl + yl) zl 2
def Dev.torusMode (d : Dev) : Bool := !d.rb Reg.ROUTE 63 && d.rf Reg.ROUTE 3 0 + d.rf Reg.ROUTE 7 4 + d.rf Reg.ROUTE 11 8 ≤ 17
def zero64 : Nat → W64 := fun _ => 0
/-- The outbound link of a cell; none when no usable link leads on. -/
def Dev.route (d : Dev) (cls dst stream : Nat) : Option Nat :=
  if d.torusMode then
    match d.torusDir dst with
    | none => none
    | some g =>
      let ks := ((List.range 4).map (4 * g + ·)).filter (d.usable cls)
      if ks = [] then none else ks[(dst ^^^ stream) % ks.length]?
  else
    let e := smGet zero64 d.rtab (dst % 4096)
    let k := if tst e 63 && fld e 16 0 == dst then fld e 21 17 else d.rf Reg.ROUTE 20 16
    if d.usable cls k then some k else none

/-- A cell for another device is forwarded without entering this one, or discarded (R438). -/
def Dev.forward (d : Dev) (j typ : Nat) (c : CellData) : Dev :=
  match d.route c.cls.toNat c.dst.toNat c.stream.toNat with
  | none => d.inc Reg.DISCARD
  | some k =>
    let q : QCell := { typ, cls := c.cls.toNat, block := c.block.toNat, payload := c.payload
                       w1 := word1 c.prov c.cell.toNat c.stream.toNat c.src.toNat c.dst.toNat c.side.toNat
                       w2 := c.cgroup.toNat * 2 ^ 48 + c.frame.toNat }
    (if (d.lnk k).mustWait q.cls then d.holdCell j k q else d.sendNow k q).inc Reg.FORWARDED

/-! ## Streams (R439 to R442, R454) -/

/-- A region register's context, first page and pages. -/
def regionCtx (v : W64) : Nat := fld v 63 58
def regionVpn (v : W64) : Nat := fld v 47 16
def regionPages (v : W64) : Nat := fld v 15 0
def lagOf (v : W64) : Nat := max 1 (fld v 56 53)

/-- Whether every page of a region is mapped with TIER 1 in its context (R454). -/
def Dev.regionOk (d : Dev) (v : W64) : Bool :=
  (List.range (regionPages v)).all fun i => match d.walk (regionCtx v) ((regionVpn v + i) * 65536) with
    | some l => bits l.val 61 60 == 1
    | none => false

/-- Conditions on an inbound cell (R440). -/
def Dev.streamAccepts (d : Dev) (c : CellData) : Bool :=
  let cfg := d.rd (Reg.ISTR_CFG c.stream.toNat)
  let dst := d.rd (Reg.ISTR_DST c.stream.toNat)
  tst cfg 63 && d.framesRun && fld cfg 16 0 == c.src.toNat && c.prov == !tst cfg 62 && decide (c.block.toNat < 16 * regionPages dst)
    && (if c.prov then c.cgroup.toNat == d.rf Reg.GRP 47 32 && c.frame.toNat == d.frame
        else decide (d.frame ≤ c.frame.toNat) && decide (c.frame.toNat ≤ d.frame + lagOf cfg))

/-- META of line j: poison, check value bit, kind (R308). -/
def metaLine (side j : Nat) : Line := { poison := bit side (4 * j), cv := bit side (4 * j + 1), kind := bits side (4 * j + 3) (4 * j + 2) }

/-- The record of an inbound block (R442). -/
def Dev.noteBlock (d : Dev) (s b frame cell : Nat) : Dev :=
  let is (x : InBlock) : Bool := x.stream == s && x.block == b
  let old := (d.inBlocks.find? is).getD { stream := s, block := b, frame := frame, cells := 0 }
  let cells := (if old.frame = frame then old.cells else 0) ||| BitVec.ofNat 16 (2 ^ cell)
  let x : InBlock := { old with frame := frame, cells := cells, complete := if cells == 0xFFFF then some frame else old.complete }
  { d with inBlocks := d.inBlocks.filter (fun y => !is y) ++ [x] }

/-- One more class-1 cell has come on a link for a frame (R441). -/
def Dev.countInput (d : Dev) (k frame : Nat) : Dev :=
  if frame = d.frame then d.wf (Reg.INPUT k) 31 0 (min 0xFFFFFFFF (d.rf (Reg.INPUT k) 31 0 + 1))
  else if d.early1.any fun (e : Nat × Nat × Nat) => e.1 == k && e.2.1 == frame then
    { d with early1 := updIf (fun (e : Nat × Nat × Nat) => e.1 == k && e.2.1 == frame) (fun (e : Nat × Nat × Nat) => (e.1, e.2.1, e.2.2 + 1)) d.early1 }
  else { d with early1 := d.early1 ++ [(k, frame, 1)] }

/-- A stream cell addressed to this device (R440): written with its side band, or discarded and counted. -/
def Dev.takeStream (d : Dev) (k : Nat) (typ : Nat) (c : CellData) : Dev :=
  let dst := d.rd (Reg.ISTR_DST c.stream.toNat)
  let va := regionVpn dst * 65536 + c.block.toNat * 4096 + c.cell.toNat * 256
  if !d.streamAccepts c then d.inc Reg.DROP
  else if typ = 10 then d
  else match d.translate (regionCtx dst) va false with
    | none => d.inc Reg.DROP
    | some pa =>
      let d := d.wrBytes pa (padTo 256 c.payload)
      let d := d.each (List.range 4) fun d j => d.setLine (pa + 64 * j) (metaLine c.side.toNat j)
      (d.noteBlock c.stream.toNat c.block.toNat c.frame.toNat c.cell.toNat).countInput k c.frame.toNat

/-- Send one block of a region as 16 cells of class 1 (R439). -/
def Dev.sendBlock (d : Dev) (s block frame : Nat) : Dev :=
  let cfg := d.rd (Reg.OSTR_CFG s)
  let src := d.rd (Reg.OSTR_SRC s)
  let k := fld cfg 61 57
  let prov := !tst cfg 62
  match d.translate (regionCtx src) (regionVpn src * 65536 + block * 4096) false with
  | none => d
  | some pa => d.each (List.range 16) fun d i =>
      if !d.usable 1 k then d.inc Reg.DISCARD else
      let side := (List.range 4).foldl (fun m j =>
        let l := d.lineAt (pa + 256 * i + 64 * j)
        m + (b2n l.poison + 2 * b2n l.cv + 4 * l.kind) * 16 ^ j) 0
      d.sendCell k { typ := 1, cls := 1, block, payload := d.rdBytes (pa + 256 * i) 256
                     w1 := word1 prov i (fld cfg 52 47) d.myId (fld cfg 16 0) side
                     w2 := d.rf Reg.GRP 47 32 * 2 ^ 48 + frame }

/-- Send the void marker of a committed stream for a frame (R273, R439). -/
def Dev.sendVoid (d : Dev) (s n : Nat) : Dev :=
  let cfg := d.rd (Reg.OSTR_CFG s)
  let k := fld cfg 61 57
  if !d.usable 1 k then d.inc Reg.DISCARD else
  d.sendCell k { typ := 10, cls := 1, payload := toBytes 8 n, w1 := word1 false 0 (fld cfg 52 47) d.myId (fld cfg 16 0) 0
                 w2 := d.rf Reg.GRP 47 32 * 2 ^ 48 + (n + lagOf cfg) }

/-- A block a PUT wrote in an export region is sent at once, or after the commit (R439). -/
def Dev.exportBlock (d : Dev) (c va : Nat) : Dev :=
  d.each (findAll 64 fun s =>
      let src := d.rd (Reg.OSTR_SRC s)
      d.rb (Reg.OSTR_CFG s) 63 && regionCtx src == c && decide (regionVpn src * 65536 ≤ va)
        && decide (va < (regionVpn src + regionPages src) * 65536)) fun d s =>
    let block := (va - regionVpn (d.rd (Reg.OSTR_SRC s)) * 65536) / 4096
    if d.rb (Reg.OSTR_CFG s) 62 then { d with commitOut := d.commitOut ++ [(s, block)] } else d.sendBlock s block d.frame

/-- What committed streams owe for the frame that ends: its blocks, or a void marker (R270 effect 5, R273, R439). -/
def Dev.settleStreams (d : Dev) (n : Nat) (commit : Bool) : Dev :=
  let l := d.commitOut
  let d := { d with commitOut := [] }
  if commit then d.each l fun d x => d.sendBlock x.1 x.2 (n + lagOf (d.rd (Reg.OSTR_CFG x.1)))
  else d.each (findAll 64 fun s => d.rb (Reg.OSTR_CFG s) 63 && d.rb (Reg.OSTR_CFG s) 62) fun d s => d.sendVoid s n

/-- Frame boundary of the links (R426, R441, R454): the scheduled set moves, stream registers take effect, and the input
ledger of frame n is formed. -/
def Dev.moveSet (d : Dev) : Dev :=
  let d := d.each (List.range 24) fun d k =>
    let hold := d.rb (Reg.L_CTL k) 61
    let d := if (d.lnk k).admitting then
        (d.when (d.linkState k == 3 && !hold) (·.setLink k 4)).updLnk k fun x => { x with admitting := false } else d
    d.when (hold && d.linkState k == 4) (·.setLink k 3)
  let l := d.streamPend
  ({ d with streamPend := [] }).each l fun d w => d.wr w.1 w.2
def Dev.formLedger (d : Dev) (n : Nat) : Dev :=
  let d := d.each (List.range 24) fun d k =>
    let cells := ((findAll 64 fun s => d.rb (Reg.ISTR_CFG s) 63 && d.rf (Reg.ISTR_CFG s) 61 57 == k).map fun s =>
      d.rf (Reg.ISTR_CFG s) 52 32).sum
    let came := ((d.early1.filter fun (e : Nat × Nat × Nat) => e.1 == k && e.2.1 == n).map fun (e : Nat × Nat × Nat) => e.2.2).sum
    d.wr (Reg.INPUT k) (w64 (cells % 2 ^ 32 * 2 ^ 32 + came % 2 ^ 32))
  { d with early1 := d.early1.filter fun (e : Nat × Nat × Nat) => e.2.1 > n }

/-- An inbound stream block that a virtual address of a context lies in (R442). -/
def Dev.inboundOf (d : Dev) (c va : Nat) : Option (Nat × Nat) :=
  ((findAll 64 fun s =>
      let dst := d.rd (Reg.ISTR_DST s)
      d.rb (Reg.ISTR_CFG s) 63 && regionCtx dst == c && decide (regionVpn dst * 65536 ≤ va)
        && decide (va < (regionVpn dst + regionPages dst) * 65536)).head?).map fun s =>
    (s, (va - regionVpn (d.rd (Reg.ISTR_DST s)) * 65536) / 4096)
/-- Whether an inbound block stands for the current frame. -/
def Dev.inboundReady (d : Dev) (x : Nat × Nat) : Bool :=
  d.inBlocks.any fun y => y.stream == x.1 && y.block == x.2 && y.complete == some d.frame

/-! ## The time master (R254, R443, R444) -/

/-- Whether a candidate outranks another: the higher PRIO, ties to the lower device ID. -/
def outranks (a b : Nat × Nat) : Bool := a.1 > b.1 || (a.1 == b.1 && a.2 < b.2)
/-- The device as a candidate: PRIO and ID. -/
def Dev.selfCand (d : Dev) : Option (Nat × Nat) :=
  if d.rf Reg.TB_CTL 3 0 > 0 && d.rb Reg.TB_CTL 8 && d.rb Reg.TB_STATUS 2 && d.idLocked then some (d.rf Reg.TB_CTL 3 0, d.myId) else none
/-- The valid candidates heard. -/
def Dev.others (d : Dev) : List (Nat × Nat) := (d.cands.filter fun c => c.refOk && c.prio > 0).map fun c => (c.prio, c.id)
/-- The election: a device that outranks every valid candidate becomes master. -/
def Dev.elect (d : Dev) : Dev :=
  match d.selfCand with
  | none => d
  | some me =>
    if d.others.all fun x => !outranks x me then (d.setTb 3 d.myId).wf Reg.TB_STATUS 31 24 0 else d
/-- The payload of a SYNC. -/
def syncBytes (ns corr master prio hops : Nat) (ok : Bool) : List Byte :=
  toBytes 8 ns ++ toBytes 8 corr ++ toBytes 8 (master + prio * 2 ^ 20 + hops * 2 ^ 24 + b2n ok * 2 ^ 32)
def announceBytes (id prio : Nat) (ok : Bool) : List Byte := toBytes 8 (id + prio * 2 ^ 20 + b2n ok * 2 ^ 32)
/-- The link whose last SYNC showed the fewest hops, ties to the lower number (R444). -/
def Dev.bestParent (d : Dev) : Option Nat :=
  d.schedLinks.foldl (fun b k => match (d.lnk k).hops, b with
    | none, _ => b
    | some _, none => some k
    | some h, some j => if h < ((d.lnk j).hops).getD 0 then some k else b) none
/-- A link's delay in units of 2^-16 ns (R452 gives it in ps). -/
def Dev.delayUnits (d : Dev) (k : Nat) : Nat := d.rf (Reg.L_DELAY k) 31 0 * 65536 / 1000

end Sys2Proof.Machine
end

