-- ==== Sys2Proof/Machine/Net.lean ====
section
/-! DEFINITION. Flits on the die network (R168, R173, R213, R219 to R233), barrier releases (R241) and limiter windows (R243). -/

namespace Sys2Proof.Machine

/-- The oldest flit of a port and channel crosses its link (R230): corrected lanes are counted and reported in class 2, a double error in
class 3, and it poisons the flit's words. A crossing is checked once. -/
def Dev.crossed (d : Dev) (t inp vc : Nat) (e : FlitErrs) : Dev :=
  match (d.logOf t).bind (d.headFlit · inp vc) with
  | none => d
  | some f =>
    if f.seen then d else
    let d := (d.tadd t Reg.RT_CORR e.corr.length).each e.corr fun d w => d.report 2 t (w64 (inp + 4 * w.val))
    let d := d.when e.double fun d => (d.tinc t Reg.RT_DOUBLE).report 3 t (w64 inp)
    d.updFlit f fun g => { g with seen := true, data := if e.double then g.data.map fun x => (x.1, true) else g.data }

/-- The banks of the coming beat that ports before MEM take (R150): landings, then the tile's own accesses. -/
def Dev.banksBefore (d : Dev) (t : Nat) : BitVec 64 :=
  let x := d.tile t
  let own := x.bankq.filter fun a => a.tileKind && a.due .arb
  (grantAccs 7 (x.bankq.filter (fun a => a.parts.any (·.port == 7)) ++ x.mvq.take 1) (portCap 7) (grantTile own x.netBanks).2).2

/-- A landing has used banks of the coming beat, and one of its two landings through NET (R149, R227). -/
def Tile.tookNet (x : Tile) (ws : List Nat) (net : Bool) : Tile :=
  { x with netBanks := x.netBanks ||| ws.foldl (fun (b : BitVec 64) w => b ||| BitVec.ofNat 64 (2 ^ (w % 64))) 0
           netWords := x.netWords ++ ws, netCount := x.netCount + b2n net }

/-- A flit at its destination, in the coming beat of the tile: a SEND that may not land is refused; another lands, as far as its rank and
the banks of the beat allow, or stays (R168, R173, R227). -/
def Dev.land (d : Dev) (t me n : Nat) (f : Flit) : Dev :=
  if f.cargo == .send && !d.landOk t f then (d.refuse t n f FC.WINDOW).tinc t Reg.SP_WINREFUSE
  else
    let mem := f.vc = 1
    let (g, _, _, _, _) := d.grantLand t (d.landers me (n + 1) (if mem then [1] else [0, 3])) (if mem then 1 else 2 - (d.tile t).netCount)
      (if mem then d.banksBefore t else (d.tile t).netBanks)
    match g.find? (·.same f) with
    | none => d
    | some f =>
      (d.landNow t n f).upd t (·.tookNet f.now (!mem))

/-- The oldest flit of an inbound port and channel reaches its destination tile. -/
def doLanding (t inp vc : Nat) (d : Dev) : Dev :=
  match d.logOf t with
  | none => d
  | some me => match d.headFlit me inp vc with
    | some f => if f.dst = me && f.beat ≤ d.now t then d.land t me (d.now t) f else d
    | none => d

/-- LANDING (R168, R227, R230). -/
def execLanding (t : TileId) (inp vc : Fin 4) (errs : FlitErrs) (s : State) : Host.Outcome State Fault Refusal :=
  s.ok (doLanding t.val inp.val vc.val (s.dev.crossed t.val inp.val vc.val errs))

/-- A flit for another tile passes on over the link it wants, if that is free and it is the next there; a SEND whose entry leads to a cut
link is refused (R213, R223, R228, R233). -/
def doFlitArrival (t inp vc : Nat) (d : Dev) : Dev :=
  match d.logOf t with
  | none => d
  | some me => match d.headFlit me inp vc with
    | none => d
    | some f =>
      let n := d.now t
      if f.dst = me || n < f.beat then d else
      match d.wants t me f n with
      | none => d
      | some p =>
        if f.cargo == .send && (d.hop me p).isNone then d.refuse t n f FC.ROUTE
        else if d.nextFlit t me p n == some f then d.startFlit t me p n f else d

/-- FLIT_ARRIVAL (R213, R223, R230). -/
def execFlitArrival (t : TileId) (inp vc : Fin 4) (errs : FlitErrs) (s : State) : Host.Outcome State Fault Refusal :=
  s.ok (doFlitArrival t.val inp.val vc.val (s.dev.crossed t.val inp.val vc.val errs))

/-- Whether a flit is a refusal that has come to its sender's tile. -/
def Dev.refusalAt (d : Dev) (t : Nat) (f : Flit) : Bool :=
  (match f.cargo with
    | .refusal _ => true
    | _ => false) && some f.dst == d.logOf t && some f.at' == d.logOf t && decide (f.beat ≤ d.now t)

/-- The oldest refusal that has come to a tile ends there, and the sending context faults (R168). -/
def doRefusalArrival (t : Nat) (d : Dev) : Dev :=
  match d.flits.find? (d.refusalAt t) with
  | none => d
  | some f => match f.cargo with
    | .refusal code =>
      let d := d.dropFlit f (d.now t)
      if d.ctxOf t f.slot = f.ctx then d.asyncFault t f.slot code f.pc else d
    | _ => d

/-- WINDOW_REFUSAL_ARRIVAL (R168). -/
def execWindowRefusalArrival (t : TileId) (s : State) : Host.Outcome State Fault Refusal := s.ok (doRefusalArrival t.val s.dev)

/-- The word is stored corrected, through MNT; a later read finds nothing to correct (R150, R157). -/
def doWriteback (t w : Nat) (d : Dev) : Dev := if smGet noTag (d.tile t).corrPend w then (d.upd t (·.setCorr w false)).mntTouch t [w] else d
/-- CORRECTED_WORD_WRITEBACK (R157). -/
def execCorrectedWordWriteback (t : TileId) (w : Fin 131072) (s : State) : Host.Outcome State Fault Refusal :=
  s.ok (doWriteback t.val w.val s.dev)

/-- A line whose every participant has arrived is released: participant t issues from Q + D(t) (R241). -/
def doBarrierRelease (c n : Nat) (d : Dev) : Dev :=
  match d.barOf c n with
  | some b => if b.rel == [] then d.setBar b.settle else d
  | none => d

/-- BARRIER_RELEASE (R241). -/
def execBarrierRelease (c : CtxId) (n : Fin 16) (s : State) : Host.Outcome State Fault Refusal :=
  s.ok (doBarrierRelease c.val n.val s.dev)

/-- A limiter window ends: the ceilings of the next are the peaks plus 12, at most the field's clamp (96 without one, R403), and the peaks start again (R243). -/
def doLimiterWindow (f : Nat) (d : Dev) : Dev :=
  let v := d.rd (Reg.AVL f)
  let v := put v 38 32 (min (d.clampK f) (fld v 22 16 + 12))
  let v := put v 30 24 (min (d.clampK f) (fld v 14 8 + 12))
  d.wr (Reg.AVL f) (put (put (put v 22 16 0) 14 8 0) 4 0 0)

/-- LIMITER_WINDOW_END (R243). -/
def execLimiterWindowEnd (f : FieldId) (s : State) : Host.Outcome State Fault Refusal := s.ok (doLimiterWindow f.val s.dev)

/-! ## Beats of the whole die (R366, R367): every tile in ascending logical ID -/

/-- Whether a tile asks for cube activity in the die's next beat (R244): one that has had that beat already asked if its cubes were active. -/
def Dev.asks (d : Dev) (n t : Nat) : Bool :=
  if (d.tile t).ahead > 0 then (d.tile t).activeAt == some n else (d.tile t).fpBeat || d.wantsCube t (d.fetch t)

/-- A tile's beat of the die: one that has had it by a command of its own has it no more (log entry 8). -/
def Dev.dieTick (d : Dev) (t : Nat) (granted : Bool) : Dev :=
  if (d.tile t).ahead > 0 then d.upd t fun x => { x with ahead := x.ahead - 1 } else d.tileTick t none granted {}

/-- One beat of the die: the routers, CLK.BEAT, every tile of a ready field (R84), and the limiter windows (R243). -/
def Dev.dieBeat (d : Dev) : Dev :=
  let n := d.rn Reg.CLK_BEAT
  let fields := (List.range 16).filter fun f => d.ready (readyField f)
  let tiles := fields.flatMap fun f => (List.range 104).map (104 * f + ·)
  let granted := fields.flatMap fun f => d.grants f (n + 1) (d.asks (n + 1))
  let places := (d.flits.filterMap fun f => d.physOf f.at').eraseDups
  let d := d.each (places.filter fun t => (d.tile t).ahead = 0) fun d t => d.router t n
  let d := d.inc Reg.CLK_BEAT
  let d := d.each tiles fun d t => d.dieTick t (granted.contains t)
  d.each fields fun d f =>
    if d.rf (Reg.AVL f) 4 0 = 31 then doLimiterWindow f d else d.wf (Reg.AVL f) 4 0 (d.rf (Reg.AVL f) 4 0 + 1)

end Sys2Proof.Machine
end

