-- ==== Sys2Proof/Machine/FamMem.lean ====
section
/-! DEFINITION. The commands of the memory tiers (chapter 10) and the landings of their data, and wire steering (R232). -/

namespace Sys2Proof.Machine

/-! ## GET and PUT data -/

/-- A transfer whose translation fails faults with PAGE (R215). -/
def Dev.pageFault (d : Dev) (t : Nat) (x : Xfer) : Dev := (d.dropXfer t x.id).asyncFault t x.slot FC.PAGE x.pc

/-- The two words of each line of a block, with the poison of its line. -/
def blockWords (bs : List Byte) (poison : Nat → Bool) : List (Word256 × Bool) :=
  (List.range 128).map fun i => (BitVec.ofNat 256 (ofBytes ((bs.drop (32 * i)).take 32)), poison (i / 2))

/-- A GET's block failing its value, or read with KIND 3: class 11, located at its frame (R315, R343). -/
def Dev.blockEvent (d : Dev) (a : Nat) : Dev :=
  let s := (stackOf a).getD 0
  (d.inc Reg.CV_FAIL).reportAt 11 (stackKind s).1 (stackKind s).2 (w64 (a / 65536))

/-- The words a block lands as, after the check of R315. -/
def Dev.checkBlock (d : Dev) (a : Nat) (errs : LineErrs) : List (Word256 × Bool) × Dev :=
  let ((ps, bad), d) := d.readLines errs ((List.range 64).map fun i => a + 64 * i)
  let bs := d.rdBytes a 4096
  let kind := d.blockKind a
  let poisoned : List (Word256 × Bool) := blockWords bs fun _ => true
  if bad then (poisoned, d)
  else if kind = 3 then (poisoned, d.blockEvent a)
  else if kind = 0 then (blockWords bs fun i => nth ps i false, d.inc Reg.CV_UNCHECKED)
  else if crc64 bs ≠ d.blockCv a then (poisoned, d.blockEvent a)
  else (blockWords bs fun i => nth ps i false, d)

/-- A block of a GET leaves its port block: 16 flits come to the perimeter port of its home from which the tile is nearest, after the port
block's latency, and go on over VC1 (R222, R228, R236 to R238). A block whose port block has no home in use does not leave. -/
def Dev.emitBlock (d : Dev) (t : Nat) (x : Xfer) (a : Nat) (ws : List (Word256 × Bool)) : Dev :=
  let n := (stackOf a).getD 0
  match d.logOf t, d.homeOf n with
  | some me, some (h, lat) => match d.entryTile h (blockSide n) me with
    | none => d
    | some l =>
      let flits := (List.range 16).map fun j =>
        ({ tid := x.id, k := 16 * x.moved + j, last := 16 * x.moved + j + 1 = 16 * x.nb, src := t, ctx := x.ctx, slot := x.slot, pc := x.pc,
           cadence := x.cadence, dst := me, win := x.win, off := 0, data := (ws.drop (8 * j)).take 8, vc := 1, at' := l,
           inp := 8 + blockSide n, cargo := .get x.id, beat := d.now t + lat } : Flit)
      { d.updXfer t x.id fun z => { z with moved := z.moved + 1 } with flits := d.flits ++ flits }
  | _, _ => d

/-- The next block of a GET is read and checked, and sets out (R215, R315, R332, R442). -/
def Dev.getBlock (d : Dev) (t : Nat) (x : Xfer) (errs : LineErrs) : Dev :=
  if !x.isGet || x.vpn.isNone || x.moved ≥ x.nb then d else
  match d.xferPage t x with
  | none => d.pageFault t x
  | some (page, d) =>
    let a := page + 4096 * (x.off + x.moved)
    let va := x.vpn.getD 0 * 65536 + 4096 * (x.off + x.moved)
    let waits : Bool := x.cadence && match d.inboundOf x.ctx va with
      | some b => !d.inboundReady b
      | none => false
    -- at the input deadline a landing still waiting lands zeros, and the device verdict fails with cause 7 (R442)
    if waits && d.pastInput then (d.emitBlock t x a (List.replicate 128 (0, false))).cause 7
    else if waits || !d.stackUp ((stackOf a).getD 0) then d
    else
      let (ws, d) := d.checkBlock a errs
      d.emitBlock t x a ws

def errsOf (l : List (BitVec 48 × Bool)) : LineErrs := l.map fun e => (e.1.toNat, e.2)
def doGetLanding (t n : Nat) (errs : LineErrs) (d : Dev) : Dev :=
  match (d.tile t).xfers[n]? with
  | some x => d.getBlock t x errs
  | none => d
/-- GET_LANDING (R315). -/
def execGetLanding (t : TileId) (n : Fin 16) (errs : List (BitVec 48 × Bool)) (s : State) : Host.Outcome State Fault Refusal :=
  s.ok (doGetLanding t.val n.val (errsOf errs) s.dev)

/-- The oldest held landing of a tile whose words have become empty lands (R173). -/
def doRelease' (t : Nat) (d : Dev) : Dev :=
  match d.logOf t with
  | none => d
  | some me => match d.flits.find? fun f => f.held > 0 && f.inp < 4 && f.dst == me && f.at' == me && !d.landHeld t f with
    | some f => d.land t me (d.now t) f
    | none => d
/-- TAGGED_LANDING_RELEASE (R173). -/
def execTaggedLandingRelease (t : TileId) (s : State) : Host.Outcome State Fault Refusal := s.ok (doRelease' t.val s.dev)

/-- The kind and poison a PUT's block is stored with, and whether that is an event (R314). -/
def putKind (x : Xfer) (block crc : Nat) : Nat × Bool × Bool :=
  if !x.cve then (1, false, false)
  else
    let (v, good) := nth x.cvs block (0, false)
    if !good then (1, true, false) else if v.toNat = crc then (2, false, false) else (1, true, true)

/-- The flits of a PUT that have come to its port block are in, in order (R217, R237). -/
def Dev.putIn (d : Dev) (t id : Nat) : Nat → Dev
  | 0 => d
  | n + 1 =>
    let have' := ((d.tile t).xfers.find? (·.id == id)).map fun x => x.buf.length / 8
    match d.flits.find? fun f => f.at' == ringPlace && f.src == t && f.cargo == .put id && some f.k == have' && f.beat ≤ d.now t with
    | some f => (({ d with flits := d.flits.filter fun g => !g.same f }).updXfer t id fun z => { z with buf := z.buf ++ f.data }).putIn t id n
    | none => d

/-- The memory tier accepts the next line of a PUT (R217, R314, R332). -/
def Dev.putLine (d : Dev) (t : Nat) (x : Xfer) : Dev :=
  let block := x.moved / 64; let i := x.moved % 64
  let ws := (x.buf.drop (128 * block)).take 128
  if x.isGet || x.vpn.isNone then d else
  match d.xferPage t x with
  | none => d.pageFault t x
  | some (page, d) =>
    let a := page + 4096 * (x.off + block)
    if ws.length < 128 || !d.stackUp ((stackOf a).getD 0) then d else
    let bs := ws.flatMap fun w => toBytes 32 w.1.toNat
    let crc := crc64 bs
    let (kind, bad, event) := putKind x block crc
    let poison := bad || (nth ws (2 * i) (0, false)).2 || (nth ws (2 * i + 1) (0, false)).2
    let d := d.wrBytes (a + 64 * i) ((bs.drop (64 * i)).take 64)
    let d := d.setLine (a + 64 * i) ⟨kind, bit crc i, poison⟩
    let d := if i = 63 then
        (d.when event fun d => (d.inc Reg.CV_FAIL).report 10 t 0).exportBlock x.ctx (x.vpn.getD 0 * 65536 + 4096 * (x.off + block)) else d
    if x.moved + 1 ≥ 64 * x.nb then d.dropXfer t x.id else d.updXfer t x.id fun z => { z with moved := z.moved + 1 }
def doPutAccepted (t n : Nat) (d : Dev) : Dev :=
  match (d.tile t).xfers[n]? with
  | some x =>
    let d := d.putIn t x.id 256
    (((d.tile t).xfers.find? (·.id == x.id)).map (d.putLine t)).getD d
  | none => d
/-- PUT_ACCEPTED (R217, R314). -/
def execPutAccepted (t : TileId) (n : Fin 16) (s : State) : Host.Outcome State Fault Refusal := s.ok (doPutAccepted t.val n.val s.dev)

/-- A translation that fails after issue faults in that beat (R215, R321). -/
def doTranslationFailure (t n : Nat) (d : Dev) : Dev :=
  match (d.tile t).xfers[n]? with
  | some x => if x.pa.isNone && x.vpn.isSome && (d.xferPage t x).isNone then d.pageFault t x else d
  | none => d
/-- TRANSLATION_FAILURE (R215). -/
def execTranslationFailure (t : TileId) (n : Fin 16) (s : State) : Host.Outcome State Fault Refusal :=
  s.ok (doTranslationFailure t.val n.val s.dev)

/-- Background scrub reads a line as any reader does (R310). -/
def doScrub (a : Nat) (err : Option Bool) (d : Dev) : Dev :=
  match stackOf a with
  | some s => if d.stackUp s then (d.readLine a (match err with
      | some e => [(a, e)]
      | none => [])).2 else d
  | none => d
/-- SCRUB_READ (R310). -/
def execScrubRead (a : BitVec 48) (err : Option Bool) (s : State) : Host.Outcome State Fault Refusal := s.ok (doScrub a.toNat err s.dev)

/-- The oldest wire whose beat has come is steered, or its link is cut (R231 to R233). -/
def doWireSteering (d : Dev) : Dev :=
  match d.wirePend.find? d.wireIdle with
  | none => d
  | some x => d.wireEffect x
/-- WIRE_STEERING (R232). -/
def execWireSteering (s : State) : Host.Outcome State Fault Refusal := s.ok (doWireSteering s.dev)

/-! ## The stages of a retraining (R331) -/

def Dev.onStack (s f : Nat) : Bool := stackOf (f * 65536) == some s
def Dev.syncBusy (d : Dev) : Dev := d.wf Reg.RETRAIN 61 61 (b2n (d.retrain != []))
/-- Moves from and to a stack are abandoned. -/
def Dev.dropMovesOn (d : Dev) (s : Nat) : Dev :=
  d.each (d.moves.filter fun m => Dev.onStack s m.src || Dev.onStack s m.dst) fun d m => d.dropMove m
/-- The pages that lie on a stack begin to move to another of its tier, while free frames last. -/
def Dev.evacuate (d : Dev) (s : Nat) : Dev :=
  d.each (d.pages.filter fun p => Dev.onStack s p.frame && !d.moves.any (·.src == p.frame)) fun d p => (d.moveTo p (frameTier p.frame) .evacuate).1
/-- The stages of the retraining under way move on: evacuation takes up what has landed on the stack since, and ends with its last move; the stack
closes at a commit point, or at once while no frames run. -/
def Dev.retrainStep (d : Dev) (commit : Bool) : Dev :=
  match d.retrain with
  | [] => d
  | (s, _) :: _ =>
    let d := d.when (d.retrainStage == 0) (·.evacuate s)
    let d := if d.retrainStage = 0 && !d.moves.any (fun m => Dev.onStack s m.src || Dev.onStack s m.dst) then { d with retrainStage := 1 } else d
    if d.retrainStage = 1 && (commit || !d.framesRun) then
      let d := ((d.closeStack s).setStack s 2).dropMovesOn s
      { d with retrainStage := 2, training := if d.training.contains s then d.training else d.training ++ [s] }
    else d
/-- Closing, as part of effect 1 of a commit (R331): the sequences with pages on a stack that is, or now becomes, unavailable are parked. -/
def Dev.closing (d : Dev) : Dev := (d.each (findAll 36 fun s => !d.stackUp s) fun d s => d.closeStack s).retrainStep true

/-! ## Page operations (R322) -/

/-- The word of MEM.OPp_CMD for an operation. -/
def memWord (op : Nat) (o : MemOp) : Nat :=
  op * 2 ^ 60 + o.tier.toNat * 2 ^ 58 + b2n o.wr * 2 ^ 57 + b2n o.large * 2 ^ 56 + o.ctx.val * 2 ^ 48 + o.vpn.toNat * 2 ^ 16 + o.srcCtx.val

def Dev.inJob (d : Dev) (c : Nat) : Bool := tst (d.int Reg.INT_JOB_CTX) c
def Dev.pageUp (d : Dev) (l : Leaf) : Bool := d.stackUp ((stackOf (l.frame * 65536)).getD 0)

/-- What refuses an operation before it starts: a status, or 0. -/
def Dev.opCheck (d : Dev) (p cmd : Nat) : Nat :=
  let op := bits cmd 62 60; let c := bits cmd 53 48; let vpn := bits cmd 47 16; let tier := bits cmd 59 58
  let large := bit cmd 56
  let src := bits cmd 5 0; let srcVpn := d.rf (Reg.OP_ARG p) 47 16
  let leaf := d.walk c (vpn * 65536)
  let from' := d.walk src (srcVpn * 65536)
  if op < 1 ∨ op > 4 ∨ d.ctxPort c ≠ some p then St.INVALID
  else if op = 4 ∧ (!(d.ctxPort src == some p || (d.inJob c && d.inJob src)) || from'.isNone) then St.INVALID
  else if tier = 3 then St.INVALID
  else if d.inArena c vpn then St.INVALID
  else if op = 1 ∧ ((large && vpn % 32 != 0) || d.vpnUsed c vpn large) then St.INVALID
  else if op = 4 ∧ (from'.any (fun l => l.large && (vpn % 32 != 0 || srcVpn % 32 != 0)) || d.vpnUsed c vpn ((from'.map (·.large)).getD false)) then St.INVALID
  else if (op = 2 ∨ op = 3) ∧ leaf.all (fun l => l.large && vpn % 32 != 0) then St.INVALID
  else if d.portFenced p || d.ctxFencing c then St.FENCED
  else if op ≠ 1 ∧ (if op = 4 then from' else leaf).any (fun l => !d.pageUp l) then St.TIER_BUSY
  else 0

/-- Change a page's tier (R322). A page pinned to the tier it lies in moves within it only; one that lies in the other tier moves, if it is not on
its way already. -/
def Dev.setTier (d : Dev) (pg : Page) (tier : Nat) : Except Nat Dev :=
  let want := if tier = 1 then 0 else 1
  let moving := d.moves.filter (·.src == pg.frame)
  let write (d : Dev) : Dev :=
    { d.reLeaf pg fun e => (put (w64 e) 61 60 tier).toNat with pages := updIf (·.frame == pg.frame) (fun q => { q with tier }) d.pages }
  let without (l : List Move) : Dev := d.each l fun d m => d.abandon m
  if tier = 0 then .ok (write d)
  else if frameTier pg.frame = want then .ok (write (without (moving.filter fun m => frameTier m.dst != want))).serveRepairs
  else if moving.any fun m => frameTier m.dst == want then .ok (write d)
  else if !(without moving).quotaRoom pg.ctx pg.cls want pg.frames then .error St.QUOTA
  else match (without moving).moveTo pg want .retier with
    | (d, true) => .ok (write d).serveRepairs
    | (_, false) => .error St.NO_MEMORY

/-- Carry an operation out: the state after it, or the status of its refusal, which changes nothing. -/
def Dev.opRun (d : Dev) (p cmd : Nat) : Except Nat Dev :=
  let c := bits cmd 53 48; let vpn := bits cmd 47 16; let tier := bits cmd 59 58; let wr := bit cmd 57
  match d.opCheck p cmd, bits cmd 62 60 with
  | 0, 1 => d.mapNew c vpn tier wr (bit cmd 56) none none
  | 0, 2 => .ok (d.unmapPage c vpn)
  | 0, 3 => match d.walk c (vpn * 65536) with
    | some l => match d.pageAt l.frame with
      | some pg => d.setTier pg tier
      | none => .error St.INVALID
    | none => .error St.INVALID
  | 0, _ => match d.walk (bits cmd 5 0) (d.rf (Reg.OP_ARG p) 47 16 * 65536) with
    | none => .error St.INVALID
    | some l => match d.mapAt c vpn l.frame (bits l.val 61 60) wr l.large (bit l.val 58) with
      | none => .error St.NO_MEMORY
      | some d => .ok { d with pages := updIf (·.holds l.frame) (fun q => { q with maps := q.maps ++ [(c, vpn)] }) d.pages }
  | e, _ => .error e

/-- An operation ends: BUSY clears and STATUS tells how. -/
def Dev.opEnd (d : Dev) (p status : Nat) : Dev := (d.wr (Reg.OP_STATUS p) (w64 status)).wf (Reg.OP_CMD p) 63 63 0
/-- Run the operation in a port's registers to its end. -/
def Dev.opNowRun (d : Dev) (p : Nat) : Dev :=
  match d.opRun p (d.rn (Reg.OP_CMD p)) with
  | .ok d => d.opEnd p 0
  | .error e => (d.when (e == St.QUOTA) (·.inc Reg.QUOTA_HIT)).opEnd p e
/-- A write of MEM.OPp_CMD with GO by its port. UNMAP and SETTIER of a cadence context wait for the commit point while
frames run. -/
def doMemOp (p cmd : Nat) (d : Dev) : Dev :=
  if d.rb (Reg.OP_STATUS p) 63 then d else
  let d := (d.wr (Reg.OP_CMD p) (w64 (cmd % 2 ^ 63 + 2 ^ 63) &&& regImpl (Reg.OP_CMD p))).wr (Reg.OP_STATUS p) (w64 (2 ^ 63))
  let op := bits cmd 62 60
  if (op = 2 ∨ op = 3) ∧ d.framesRun ∧ d.ctxIsCad (bits cmd 53 48) ∧ d.opCheck p cmd = 0 then { d with opWait := d.opWait ++ [p] }
  else (d.opNowRun p).retrainStep false
/-- Operations that waited for the commit point take effect (R322). -/
def Dev.runWaiting (d : Dev) : Dev :=
  let l := d.opWait
  (({ d with opWait := [] }).each l fun d p => d.opNowRun p).retrainStep false

/-- MAP (R322). -/
def execMap (p : Port) (o : MemOp) (s : State) : Host.Outcome State Fault Refusal := s.ok (s.dev.when s.dev.served (doMemOp p.val (memWord 1 o)))
/-- UNMAP (R322). -/
def execUnmap (p : Port) (o : MemOp) (s : State) : Host.Outcome State Fault Refusal := s.ok (s.dev.when s.dev.served (doMemOp p.val (memWord 2 o)))
/-- SETTIER (R322). -/
def execSettier (p : Port) (o : MemOp) (s : State) : Host.Outcome State Fault Refusal := s.ok (s.dev.when s.dev.served (doMemOp p.val (memWord 3 o)))
/-- ALIAS (R322). -/
def execAliasPage (p : Port) (o : MemOp) (s : State) : Host.Outcome State Fault Refusal := s.ok (s.dev.when s.dev.served (doMemOp p.val (memWord 4 o)))

/-- LOCK in MEM.CTL forms the pools (R316). -/
def doPoolLock (p : Nat) (d : Dev) : Dev :=
  if !d.isSteward p || d.locked then d
  else (d.wf Reg.MEM_CTL 63 63 1).each (List.range 36) fun d s => d.syncStack s
/-- POOL_LOCK (R316). -/
def execPoolLock (p : Port) (s : State) : Host.Outcome State Fault Refusal := s.ok (doPoolLock p.val s.dev)

/-- The report of a cut: the surplus of a tier (R330, R534 class 28). -/
def Dev.cutQuota (d : Dev) (cls : Bool) (n tier use limit : Nat) : Dev :=
  if use ≤ limit then d else
  d.varveLog 28 0 8 2 (if cls then {} else { ctx := some n, port := d.ctxPort n })
    (w64 (b2n cls + tier * 2 ^ 4 + n * 2 ^ 8)) (w64 (use - limit))
def doQuotaWrite (p : Nat) (cls : Bool) (n : Nat) (v : W64) (d : Dev) : Dev :=
  if !d.isSteward p || (cls && decide (n ≥ 8)) then d else
  let d := d.wr (if cls then Reg.QCLS n else Reg.QCTX n) v
  let use := d.rd (if cls then Reg.UCLS n else Reg.UCTX n)
  (d.cutQuota cls n 0 (fld use 63 32) (fld v 63 32)).cutQuota cls n 1 (fld use 31 0) (fld v 31 0)
/-- QUOTA_WRITE (R330). -/
def execQuotaWrite (p : Port) (cls : Bool) (n : CtxId) (v : BitVec 64) (s : State) : Host.Outcome State Fault Refusal :=
  s.ok (doQuotaWrite p.val cls n.val v s.dev)

/-! ## Migration (R326) -/

def Dev.lowPct (d : Dev) : Nat := min d.highPct (d.rf Reg.MEM_CTL 47 40)
/-- Whether a plan for the running or the next frame names a page. -/
def Dev.isNamed (d : Dev) (p : Page) : Bool := p.maps.any fun m => d.named.contains m
/-- Migratable HBM pages that may be demoted, least recently touched first, ties to the lower address. -/
def Dev.demotable (d : Dev) (ok : Page → Bool) : Option Page :=
  (d.pages.filter fun p => frameTier p.frame == 0 && p.tier == 0 && !d.isNamed p && d.idlePage p
      && d.stackUp ((stackOf (p.frame * 65536)).getD 0) && ok p).foldl (fun b p => match b with
    | none => some p
    | some q => if p.touch < q.touch ∨ (p.touch = q.touch ∧ p.frame < q.frame) then some p else some q) none
/-- HBM occupancy without the pages on their way to LPDDR is above a percentage (DEDUCED, log entry 100). -/
def Dev.above (d : Dev) (pct : Nat) : Bool :=
  let used := ((tierStacks 0).map d.usedOn).sum
  let all := used + ((tierStacks 0).map d.freeOn).sum
  let gone := ((d.moves.filter fun m => frameTier m.src == 0 && frameTier m.dst == 1).map d.moveLen).sum
  100 * (used - gone) > pct * all
/-- One page is demoted while occupancy is above the watermarks, the least recently touched first. The surplus of an owner (R330) is its least
recently touched pages, which come first among them (DEDUCED, log entry 100). -/
def doDemotion (d : Dev) : Dev :=
  if !d.rb Reg.MEM_CTL 62 then d else
  let d := if d.above d.highPct then { d with demoting := true }
    else if d.above d.lowPct then d else { d with demoting := false }
  if !d.demoting then d else
  match d.demotable (fun _ => true) with
  | some p => (d.moveTo p 1 .demote).1
  | none => d
/-- DEMOTION (R326). -/
def execDemotion (s : State) : Host.Outcome State Fault Refusal := s.ok (doDemotion s.dev)

/-- The first page handed over is promoted; where HBM occupancy or its owner's quota is met, one page of the owner is demoted first, and without
one, or where the quota is still met after it, it stays in LPDDR, as does a page whose stack is unavailable (R326, R330, R332). -/
def doPromotion (d : Dev) : Dev :=
  if !d.rb Reg.MEM_CTL 62 then d else
  match d.handed with
  | [] => d
  | (c, vpn) :: rest =>
    let gone := { d with handed := rest, promoRoom := false }
    match (d.walk c (vpn * 65536)).bind fun l => d.pageAt l.frame with
    | none => gone
    | some p =>
      let quota := d.quotaRoom p.ctx p.cls 0 p.frames
      if frameTier p.frame ≠ 1 || p.tier ≠ 0 || !d.stackUp ((stackOf (p.frame * 65536)).getD 0) || d.moves.any (·.src == p.frame) then gone
      else if d.promoRoom && d.moves.any (fun m => m.why == .demote && ((d.pageAt m.src).map (·.ctx)) == some p.ctx) then d
      else if quota && (d.promoRoom || !d.occupied d.highPct false) then (gone.moveTo p 0 .promote).1
      else if d.promoRoom then gone
      else match d.demotable fun q => q.ctx == p.ctx with
        | some q => match d.moveTo q 1 .demote with
          | (d, true) => { d with promoRoom := true }
          | (_, false) => gone
        | none => gone
/-- PROMOTION (R326). -/
def execPromotion (s : State) : Host.Outcome State Fault Refusal := s.ok (doPromotion s.dev)

/-! ## Retraining -/

/-- The first retraining asked for begins. -/
def Dev.beginRetrain (d : Dev) : Dev :=
  match d.retrain with
  | [] => d.syncBusy
  | (s, evac) :: _ =>
    let d := d.syncBusy
    if stackState d s ≥ 2 then
      let d := d.setStack s 2
      { d with retrainStage := 2, training := if d.training.contains s then d.training else d.training ++ [s] }
    else
      let d := { d.setStack s 1 with retrainStage := if evac then 0 else 1 }
      d.retrainStep false
/-- A request to retrain a stack: it runs, or waits in arrival order. -/
def Dev.askRetrain (d : Dev) (s : Nat) (evac : Bool) : Dev :=
  let first := d.retrain == []
  let d := { d with retrain := d.retrain ++ [(s, evac)] }
  if first then d.beginRetrain else d.syncBusy
def doStackRetrain (p s : Nat) (evac : Bool) (d : Dev) : Dev :=
  if !d.isSteward p then d else ((d.wf Reg.RETRAIN 62 62 (b2n evac)).wf Reg.RETRAIN 5 0 s).askRetrain s evac
/-- STACK_RETRAIN (R331). -/
def execStackRetrain (p : Port) (k : StackId) (evac : Bool) (s : State) : Host.Outcome State Fault Refusal :=
  s.ok (doStackRetrain p.val k.val evac s.dev)
/-- STACK_SELF_RETRAIN (R331). -/
def execStackSelfRetrain (k : StackId) (s : State) : Host.Outcome State Fault Refusal :=
  s.ok (s.dev.askRetrain k.val (s.dev.rb Reg.RETRAIN 62))

/-- A move whose destination is current switches; one with a stack unavailable is abandoned (R328). -/
def doMoveSwitch (n : Nat) (d : Dev) : Dev :=
  match d.moves[n]? with
  | none => d
  | some m =>
    let up (f : Nat) : Bool := d.stackUp ((stackOf (f * 65536)).getD 0)
    (if up m.src && up m.dst then d.switchMove m else d.dropMove m).retrainStep false
/-- PAGE_MOVE_SWITCH (R328). -/
def execPageMoveSwitch (n : BitVec 16) (s : State) : Host.Outcome State Fault Refusal := s.ok (doMoveSwitch n.toNat s.dev)

/-- Stacks that wait begin their first training, at most six at a time (R497). -/
def Dev.nextTraining (d : Dev) : Dev :=
  let n := 6 - d.training.length
  { d with training := d.training ++ d.trainWait.take n, trainWait := d.trainWait.drop n }
/-- A stack that goes DOWN loses its contents (R516): the bytes it held become free values. -/
def Dev.loseStack (d : Dev) (s : Nat) : Dev :=
  { d with mem := d.mem.map fun (c : Host.Cell) => if stackOf c.1 == some s then (c.1, Config.lostByte d.free c.1) else c
           free := d.free + 1 }
/-- A stack fails to train: DOWN, its readiness failed, a U-class entry (R331, R483). -/
def Dev.stackFails (d : Dev) (s : Nat) : Dev :=
  let n := readyStack s
  let first := !d.ready readyDevice && !d.failedBit n
  let d := if stackState d s = 4 then d.varveLog 29 2 (stackKind s).1 (stackKind s).2 {} 4 (w64 (d.rf (Reg.STACK s) 60 48))
    else d.setStack s 4
  let d := (d.setFailed n).when first (·.varveLog 36 3 (stackKind s).1 (stackKind s).2 {} (w64 n) 8)
  (d.loseStack s).checkReady
/-- A training ends (R331, R497, R499). -/
def doTrainingDone (s : Nat) (ok : Bool) (d : Dev) : Dev :=
  if !d.training.contains s then d else
  let d := { d with training := d.training.erase s }
  let d := if ok then
      let d := (d.setStack s 0).wf (readyOff (readyStack s) + 0x10) (readyStack s % 64) (readyStack s % 64) 0
      let d := (((d.syncStack s).checkHomes).checkReady).serveRepairs
      if d.framesRun then d else d.reopenSlots
    else d.stackFails s
  let d := match d.retrain with
    | (k, _) :: rest => if k = s && d.retrainStage = 2 then ({ d with retrain := rest, retrainStage := 0 }).beginRetrain else d
    | [] => d
  d.nextTraining
/-- STACK_TRAINING_DONE (R331). -/
def execStackTrainingDone (k : StackId) (ok : Bool) (s : State) : Host.Outcome State Fault Refusal := s.ok (doTrainingDone k.val ok s.dev)

/-- The part of the commit point that the stacks and the page operations take (R322, R331). -/
def Dev.commitMemory (d : Dev) : Dev :=
  let d := d.closing
  d.reopenSlots.runWaiting

end Sys2Proof.Machine
end

