-- ==== Sys2Proof/Machine/FamPwr.lean ====
section
/-! DEFINITION. The commands of the power controller (chapter 13), but for FLOATING_EVALUATION and SENSOR_READ. -/

namespace Sys2Proof.Machine

/-! ## Estimation (R399 to R404) -/

/-- A learned figure after a window (R400). -/
def learnStep (old : Option Nat) (x shift : Nat) : Nat :=
  match old with
  | none => x
  | some e => ((e : Int) + ((x : Int) - e).tdiv (2 ^ shift : Nat)).toNat

/-- A phase that ran for 256 tile-beats updates its figure (R400). -/
def Dev.learn (d : Dev) (a : PhaseEnergy) : Dev :=
  if a.beats.toNat < 256 then d else
  let k := figKey a.field.val d.opNow a.phase.toNat
  let x := a.pj.toNat / a.beats.toNat
  { d with learned := smSet noFig d.learned k (some (learnStep (smGet noFig d.learned k) x (d.rfIn Reg.PWR_CTL 47 44 1 8))) }

/-- Time in windows above 10,500 W within the last 10 ms (R404). -/
def Dev.hotTime (d : Dev) : Nat :=
  ((d.hot.filter fun w => d.estNs < w.1 + 10000000).map (·.2)).sum
/-- Whether the module breaks a hard limit (R404). -/
def Dev.moduleOver (d : Dev) : Bool := d.rf Reg.EST 15 0 > 13000 || d.hotTime > 1000000
/-- Whether a field draws more than its limit. -/
def Dev.fieldOver (d : Dev) (f : Nat) : Bool := d.rf (Reg.FIELD f) 11 0 > d.rf (Reg.FIELD f) 39 28

/-- An estimator window ends (R399, R400, R403, R404). -/
def doEstimator (ns inputW nontileW : Nat) (amps : List (BitVec 12)) (act : List PhaseEnergy) (d : Dev) : Dev :=
  let peak := max (d.rf Reg.EST 47 32) inputW
  let d := d.wr Reg.EST (w64 (nontileW * 2 ^ 48 + peak * 2 ^ 32 + inputW))
  let d := d.each ((List.range 16).zip amps) fun d x =>
    let a := x.2.toNat
    (d.wf (Reg.FIELD x.1) 23 12 (max (d.rf (Reg.FIELD x.1) 23 12) a)).wf (Reg.FIELD x.1) 11 0 a
  let d := d.each act fun d a => d.learn a
  let now := d.estNs + ns
  let d := { d with estNs := now, frameEnergy := d.frameEnergy + inputW * ns * 1000
                    hot := (d.hot.filter fun (w : Nat × Nat) => now < w.1 + 10000000) ++ (if inputW > 10500 then [(now, ns)] else []) }
  let d := d.each (findAll 16 fun f => d.fieldOver f && d.clampSrc f 1 == 96) fun d f => d.applyClamp f 1 48
  if d.moduleOver then d.each (findAll 16 fun f => d.clampSrc f 2 == 96) fun d f => d.applyClamp f 2 48 else d
/-- ESTIMATOR_WINDOW_END (R399). -/
def execEstimatorWindowEnd (ns : BitVec 32) (inputW nontileW : BitVec 16) (amps : List (BitVec 12)) (act : List PhaseEnergy)
    (s : State) : Host.Outcome State Fault Refusal :=
  s.ok (doEstimator ns.toNat inputW.toNat nontileW.toNat amps act s.dev)

/-- A further 1 ms in excess halves the clamp, down to 12; 1 ms within the limit releases it (R403). -/
def doClampTimer (f : Nat) (module : Bool) (d : Dev) : Dev :=
  let s := if module then 2 else 1
  let k := d.clampSrc f s
  if k = 96 then d
  else if (if module then d.moduleOver else d.fieldOver f) then
    ({ d with clamps := smSet noClamp d.clamps (4 * f + s) (max 12 (k / 2)) }).syncClamp f
  else d.releaseClamp f s
/-- CLAMP_EXCESS_TIMER (R403). -/
def execClampExcessTimer (f : FieldId) (module : Bool) (s : State) : Host.Outcome State Fault Refusal :=
  s.ok (doClampTimer f.val module s.dev)

/-! ## Phases (R392 to R394) -/

/-- Thirteen retired phases shut a field down: its switch opens, or a waiting switch-on is refused, or a wave fails with cause
code 6 (R393, R398, R492). -/
def Dev.openForPhases (d : Dev) (f : Nat) : Dev :=
  let st := d.fieldState f
  if st = 5 then (d.fieldCmdEnd f St.INVALID).failField f 6
  else if [1, 2, 3].contains st then
    let e := (d.inc Reg.SHORTS).openField f 0 6 2
    if st ≠ 3 ∧ !d.ready (readyField f) then e.endWave f (some 6) else e
  else d

/-- A regulator phase is retired (R393). -/
def Dev.retirePhase (d : Dev) (f n : Nat) (crack : Bool) : Dev :=
  if d.rb (Reg.PHMAP f) n then d else
  let d := d.wf (Reg.PHMAP f) n n 1
  let d := d.when crack (·.wf (Reg.PHMAP f) (24 + n) (24 + n) 1)
  let gone := d.rf (Reg.FIELD f) 60 56 + 1
  let d := ((d.wf (Reg.FIELD f) 60 56 gone).wf (Reg.FIELD f) 39 28 (limitOf gone)).pwrStatus 2
  let d := d.when crack (·.pwrStatus 3)
  let d := d.varveLog 27 2 10 (24 * f + n) {} (w64 (b2n crack)) (w64 (limitOf gone))
  let d := (d.firnPut [(0x422 + 2 * f, d.rf (Reg.PHMAP f) 23 0), (0x423 + 2 * f, d.rf (Reg.PHMAP f) 47 24)]).1
  if gone ≥ 13 then d.openForPhases f
  else if gone ≥ 5 then (((d.pwrStatus 4).inc Reg.CLAMPS).pwrStatus 0).syncClamp f
  else d
/-- PHASE_FAULT (R394). -/
def execPhaseFault (f : FieldId) (n : Fin 24) (s : State) : Host.Outcome State Fault Refusal :=
  s.ok (s.dev.retirePhase f.val n.val false)
/-- PHASE_RESISTANCE_TEST (R394): more than 30% above the baseline retires the phase. -/
def doResistance (f n pct : Nat) (d : Dev) : Dev := if pct > 130 then d.retirePhase f n true else d
def execPhaseResistanceTest (f : FieldId) (n : Fin 24) (pct : BitVec 16) (s : State) : Host.Outcome State Fault Refusal :=
  s.ok (doResistance f.val n.val pct.toNat s.dev)

/-! ## Field switches -/

/-- A field switch opens for overcurrent (SHORTED, or cause 1 during the ramp), undervoltage, or by R393 (R396, R397). -/
def doSwitchOpen (f : Nat) (why : SwitchWhy) (d : Dev) : Dev :=
  let st := d.fieldState f
  let wave := st ≠ 3 ∧ !d.ready (readyField f)
  if st ≠ 1 ∧ st ≠ 2 ∧ st ≠ 3 then d
  else match why with
    | .overcurrent =>
      let d := (d.inc Reg.SHORTS).openField f 4 8 2
      if wave then d.endWave f (if st = 1 then some 1 else none) else d
    | .undervoltage =>
      let d := (d.inc Reg.SHORTS).openField f 0 9 2
      if wave then d.endWave f none else d
    | .phases => if d.phasesGone f then d.openForPhases f else d
/-- FIELD_SWITCH_OPEN (R396). -/
def execFieldSwitchOpen (f : FieldId) (why : SwitchWhy) (s : State) : Host.Outcome State Fault Refusal :=
  s.ok (doSwitchOpen f.val why s.dev)

/-- A command of PWR.FIELD_CMD: the steward's, while none runs (R416). -/
def Dev.fieldCmd (d : Dev) (p op f : Nat) : Option Dev :=
  if !d.isSteward p || d.rb Reg.FIELD_CMD 63 then none
  else some (d.wr Reg.FIELD_CMD (w64 (2 ^ 63 + op * 2 ^ 60 + f * 2 ^ 16)))
/-- A switch-on: refused, at once done where the field is on, or asked for (R398). -/
def doSwitchOn (p f : Nat) (d : Dev) : Dev :=
  match d.fieldCmd p 1 f with
  | none => d
  | some d =>
    if d.shortMark f || d.fieldState f == 4 || d.phasesGone f || d.oscBar f then d.fieldCmdEnd f St.INVALID
    else if d.fieldState f == 2 || d.fieldState f == 3 then d.fieldCmdEnd f 0
    else if d.fieldState f == 1 || d.fieldState f == 5 then d
    else d.requestOn f
/-- FIELD_SWITCH_ON (R398). -/
def execFieldSwitchOn (p : Port) (f : FieldId) (s : State) : Host.Outcome State Fault Refusal := s.ok (doSwitchOn p.val f.val s.dev)

/-- A switch-off (R398). -/
def doSwitchOff (p f : Nat) (d : Dev) : Dev :=
  match d.fieldCmd p 2 f with
  | none => d
  | some d =>
    if d.fieldBusy f then d.fieldCmdEnd f St.BUSY
    else (((d.abortSweep f).setField f 0).fieldDark f 2 true).fieldCmdEnd f 0
/-- FIELD_SWITCH_OFF (R398). -/
def execFieldSwitchOff (p : Port) (f : FieldId) (s : State) : Host.Outcome State Fault Refusal := s.ok (doSwitchOff p.val f.val s.dev)

/-- FIELD_RAMP_START (R398). -/
def execFieldRampStart (f : FieldId) (s : State) : Host.Outcome State Fault Refusal := s.ok (s.dev.startRamp f.val)

/-- What a field's wave finds, as the operations take it. -/
def Dev.wave (d : Dev) (f : Nat) (w : WaveObs) : Dev :=
  d.bringField f w.crossing w.sensor (w.wires.map fun x => (x.tile.val, x.port.val, x.wire.val))
/-- The grid reaches its set voltage: the field is ON and its bring-up wave runs (R398, R492). While a switch is pending the
wave completes only after the switch beat (R383). -/
def doRampDone (f : Nat) (w : WaveObs) (d : Dev) : Dev :=
  if d.fieldState f ≠ 1 ∨ d.switchPending then d
  else ((d.setField f 2).fieldCmdEnd f 0).wave f w
/-- FIELD_RAMP_DONE (R398). -/
def execFieldRampDone (f : FieldId) (wave : WaveObs) (s : State) : Host.Outcome State Fault Refusal :=
  s.ok (doRampDone f.val wave s.dev)

/-! ## Cap, learning, ceiling, thermal control -/

def Dev.setW (d : Dev) : Nat := d.rfIn Reg.CAP_W 15 0 4000 10500
/-- The effective cap is the lesser of SET_W and the thermal cap (R405). -/
def Dev.syncCap (d : Dev) : Dev := d.wf Reg.CAP_W 31 16 (min d.setW d.thermalCap)
/-- The cut of a cap below what is drawn is reported to the steward's port (R330, R405, R534 class 28). -/
def Dev.cutPower (d : Dev) : Dev :=
  let use := d.rf Reg.EST 15 0; let cap := d.rf Reg.CAP_W 31 16
  if use > cap then
    d.varveLog 28 0 8 4 { port := if d.rb Reg.STEWARD 63 then some (d.rf Reg.STEWARD 62 62) else none } 3 (w64 (use - cap))
  else d
def doCapWrite (p w : Nat) (d : Dev) : Dev := if d.isSteward p then ((d.wf Reg.CAP_W 15 0 w).syncCap).cutPower else d
/-- CAP_WRITE (R405). -/
def execCapWrite (p : Port) (w : BitVec 16) (s : State) : Host.Outcome State Fault Refusal := s.ok (doCapWrite p.val w.toNat s.dev)

def doForget (p : Nat) (d : Dev) : Dev := if d.isSteward p then { d with learned := [] } else d
/-- FORGET (R400). -/
def execForget (p : Port) (s : State) : Host.Outcome State Fault Refusal := s.ok (doForget p.val s.dev)

/-- A second without a breach raises the ceiling; pinned mode returns to 1.6 GHz once it allows it (R408). -/
def doCeilingRise (d : Dev) : Dev :=
  if d.ceiling ≥ 3 then d else
  let d := { d with ceiling := d.ceiling + 1 }
  if !d.floatOn && d.ceiling ≥ 2 && d.opDecided < 2 then d.orderOp 2 3 else d
/-- CEILING_RISE (R408). -/
def execCeilingRise (s : State) : Host.Outcome State Fault Refusal := s.ok (doCeilingRise s.dev)

/-- The valid temperatures of the compute die (R419). -/
def Dev.dieTemps (d : Dev) : List Nat :=
  ((List.range 16).flatMap fun f => (List.range 8).map fun s => d.rf (Reg.TEMP f) (8 * s + 7) (8 * s)).filter (· != 0xFF)
def Dev.targetC (d : Dev) : Nat := d.rfIn Reg.PWR_CTL 55 48 80 104
/-- The thermal cap moves (R409). -/
def doThermalCap (d : Dev) : Dev :=
  if d.dieTemps.any (· > d.targetC) then
    let d := d.when (d.thermalCap == 10500) (·.pwrStatus 6)
    ({ d with thermalCap := max 4000 (d.thermalCap - 250) }).syncCap
  else if d.dieTemps.all (· + 5 ≤ d.targetC) then ({ d with thermalCap := min 10500 (d.thermalCap + 250) }).syncCap
  else d
/-- THERMAL_CAP_STEP (R409). -/
def execThermalCapStep (s : State) : Host.Outcome State Fault Refusal := s.ok (doThermalCap s.dev)

/-- A step-down at 105 °C (R410). -/
def Dev.thermalStep (d : Dev) : Dev :=
  match d.stepDown 2 with
  | (d, true) => d.inc Reg.THERM_STEPS
  | (d, false) => d
def doStepdownRepeat (d : Dev) : Dev := if d.dieTemps.any (· ≥ 105) then d.thermalStep.pwrStatus 7 else d
/-- THERMAL_STEPDOWN_REPEAT (R410). -/
def execThermalStepdownRepeat (s : State) : Host.Outcome State Fault Refusal := s.ok (doStepdownRepeat s.dev)

/-- A field trips at 115 °C (R411): TRIPPED, treated as dark, its supply on. -/
def doTrip (f : Nat) (d : Dev) : Dev :=
  if d.fieldState f ≠ 1 ∧ d.fieldState f ≠ 2 then d else
  let d := ((d.setField f 3).inc Reg.TRIPS).pwrStatus 8
  ((d.abortSweep f).fieldEntry f 10).fieldDark f 2
/-- FIELD_TRIP (R411). -/
def execFieldTrip (f : FieldId) (s : State) : Host.Outcome State Fault Refusal := s.ok (doTrip f.val s.dev)

/-- Once all eight sensors read 95 °C or less the field recovers: its wave runs again (R411, R527). -/
def doTripRecovery (f : Nat) (w : WaveObs) (d : Dev) : Dev :=
  let cool := (List.range 8).all fun s => d.rf (Reg.TEMP f) (8 * s + 7) (8 * s) ≤ 95
  if d.fieldState f ≠ 3 ∨ !cool then d else (d.setField f 2).wave f w
/-- TRIP_RECOVERY (R411). -/
def execTripRecovery (f : FieldId) (wave : WaveObs) (s : State) : Host.Outcome State Fault Refusal :=
  s.ok (doTripRecovery f.val wave s.dev)

/-- 125 °C (R413, R551): PWR_KILL_N, every field switch open, all memory access stopped, the lifetime counter advanced. -/
def doKill (d : Dev) : Dev :=
  let d := ({ d with killed := true }).emit (.pin 0 true)
  let d := d.firnCount 2
  d.each (List.range 16) fun d f => ((d.when (d.fieldState f != 4) (·.setField f 0)).pwrStatus 5).fieldDark f 2
/-- OVERTEMP_KILL (R413). -/
def execOvertempKill (s : State) : Host.Outcome State Fault Refusal := s.ok (doKill s.dev)

/-- OPERATING_HOURS_WRITE (R510). -/
def execOperatingHoursWrite (s : State) : Host.Outcome State Fault Refusal := s.ok (s.dev.firnCount 1)

end Sys2Proof.Machine
end

