-- ==== Sys2Proof/Machine/FamLink.lean ====
section
/-! DEFINITION. The commands of the Neori links and of the time base (chapters 8 and 14), but for votes and plans. -/

namespace Sys2Proof.Machine

/-! ## The time base -/

/-- A master that a better candidate outranks gives way: it keeps time until the new master's SYNC (R254). -/
def Dev.reElect (d : Dev) : Dev :=
  let d := d.elect
  match d.selfCand, d.others.find? fun x => d.others.all fun y => !outranks y x with
  | some me, some b => if d.tbState = 3 && outranks b me then d.setTb 2 b.2 else d
  | none, some b => if d.tbState = 3 then d.setTb 2 b.2 else d
  | none, none => if d.tbState = 3 then d.setTb 2 d.myId else d
  | _, none => d

/-- The candidate whose time messages have not come: the master, or, once that is gone, the first of those in rank (R254). -/
def Dev.silentCand (d : Dev) : Option Nat :=
  let m := d.rf Reg.TB_STATUS 48 32
  if d.tbState ≠ 0 && d.cands.any (·.id == m) then some m
  else (d.others.find? fun x => d.others.all fun y => !outranks y x).map (·.2)
/-- 1 ms without time messages: the next candidate in rank takes over (R254, R256). -/
def doMasterSilence (d : Dev) : Dev :=
  if d.tbState = 3 then d else
  let m := d.rf Reg.TB_STATUS 48 32
  let quiet := d.silentCand
  let d := { d with cands := d.cands.filter fun c => some c.id != quiet, parent := none }
  let d := d.each (List.range 24) fun d k => d.updLnk k fun x => { x with hops := none }
  let d := d.reElect
  if d.tbState = 1 then d.setTb 2 m else d
/-- TIME_MASTER_SILENCE (R254). -/
def execTimeMasterSilence (s : State) : Host.Outcome State Fault Refusal := s.ok (doMasterSilence s.dev)

def doHoldoverExpiry (d : Dev) : Dev := if d.tbState = 2 then d.setTb 0 0 else d
/-- HOLDOVER_EXPIRY (R256). -/
def execHoldoverExpiry (s : State) : Host.Outcome State Fault Refusal := s.ok (doHoldoverExpiry s.dev)

def doSyncSend (ns : Nat) (d : Dev) : Dev :=
  if d.tbState ≠ 3 then d else
  let d := d.wr Reg.TB_TIME (w64 ns)
  d.each d.schedLinks fun d k =>
    d.sendMsg k 2 (syncBytes ns 0 d.myId (d.rf Reg.TB_CTL 3 0) 0 (d.rb Reg.TB_STATUS 2))
/-- SYNC_SEND (R443). -/
def execSyncSend (ns : BitVec 64) (s : State) : Host.Outcome State Fault Refusal := s.ok (doSyncSend ns.toNat s.dev)

def doAnnounceSend (d : Dev) : Dev :=
  if d.rf Reg.TB_CTL 3 0 = 0 || !d.rb Reg.TB_CTL 8 || !d.idLocked then d else
  let d := d.each d.schedLinks fun d k => d.sendMsg k 5 (announceBytes d.myId (d.rf Reg.TB_CTL 3 0) (d.rb Reg.TB_STATUS 2))
  d.reElect
/-- ANNOUNCE_SEND (R443). -/
def execAnnounceSend (s : State) : Host.Outcome State Fault Refusal := s.ok (doAnnounceSend s.dev)

def doDelayMeasurement (k : Nat) (t1 : BitVec 64) (d : Dev) : Dev :=
  if !d.scheduled k then d
  else (d.updLnk k fun x => { x with t1 := some t1 }).sendMsg k 3 (toBytes 8 t1.toNat)
/-- DELAY_MEASUREMENT (R445). -/
def execDelayMeasurement (k : LinkId) (t1 : BitVec 64) (s : State) : Host.Outcome State Fault Refusal :=
  s.ok (doDelayMeasurement k.val t1 s.dev)

/-- A SYNC arrives (R443, R444): the device follows its parent link and passes the cell on. -/
def doSync (k ns corr master prio hops : Nat) (refOk : Bool) (residence : Nat) (d : Dev) : Dev :=
  if !d.idLocked then d else
  let d := d.updLnk k fun x => { x with hops := some hops }
  if (d.others ++ d.selfCand.toList).any fun x => outranks x (prio, master) then d else
  let at' := d.parent.orElse fun _ => d.bestParent
  let d := { d with parent := d.bestParent }
  if at' != some k then d else
  let c := sgn 64 corr + d.delayUnits k
  let d := d.wr Reg.TB_TIME (w64 ((ns : Int) + c.fdiv 65536).toNat)
  let d := (d.setTb 1 master).wf Reg.TB_STATUS 31 24 (hops + 1)
  let out := ((c + residence) % (2 ^ 64 : Nat)).toNat
  d.each (d.schedLinks.filter (· != k)) fun d j => d.sendMsg j 2 (syncBytes ns out master prio (hops + 1) refOk)
/-- SYNC (R443). -/
def execSync (k : LinkId) (h : CellHdr) (ns corr : BitVec 64) (master : BitVec 17) (prio : BitVec 4) (hops : BitVec 8)
    (refOk : Bool) (residence : BitVec 32) (s : State) : Host.Outcome State Fault Refusal :=
  s.ok (s.dev.recvCell k.val h 2 0 (doSync k.val ns.toNat corr.toNat master.toNat prio.toNat hops.toNat refOk residence.toNat))

def doDreq (k t1 t2 t3 : Nat) (d : Dev) : Dev := d.sendMsg k 4 (toBytes 8 t1 ++ toBytes 8 t2 ++ toBytes 8 t3)
/-- DREQ (R445). -/
def execDreq (k : LinkId) (h : CellHdr) (t1 t2 t3 : BitVec 64) (s : State) : Host.Outcome State Fault Refusal :=
  s.ok (s.dev.recvCell k.val h 3 0 (doDreq k.val t1.toNat t2.toNat t3.toNat))

/-- One-way delay: half of the round trip less the peer's turnaround, plus the asymmetry the driver set (R445). -/
def delayPs (t1 t2 t3 t4 : BitVec 64) (asym : Nat) : Nat :=
  ((sgn 64 ((t4 - t1) - (t3 - t2)).toNat * 1000).fdiv (2 * 65536) + sgn 16 asym).toNat
def doDresp (k : Nat) (t1 t2 t3 t4 : BitVec 64) (d : Dev) : Dev :=
  if (d.lnk k).t1 != some t1 then d else
  (d.updLnk k fun x => { x with t1 := none }).wf (Reg.L_DELAY k) 31 0 (delayPs t1 t2 t3 t4 (d.rf (Reg.L_CTL k) 15 0))
/-- DRESP (R445). -/
def execDresp (k : LinkId) (h : CellHdr) (t1 t2 t3 t4 : BitVec 64) (s : State) : Host.Outcome State Fault Refusal :=
  s.ok (s.dev.recvCell k.val h 4 0 (doDresp k.val t1 t2 t3 t4))

/-- An announcement: flooded once per device and interval, and the election decided (R443). -/
def doAnnounce (k id prio : Nat) (refOk : Bool) (d : Dev) : Dev :=
  let fresh := match d.cands.find? (·.id == id) with
    | some c => c.link == k || !d.scheduled c.link
    | none => true
  if id = d.myId || !fresh then d else
  let d := { d with cands := d.cands.filter (fun (c : Cand) => c.id != id) ++ [(⟨id, prio, refOk, k⟩ : Cand)] }
  let d := d.each (d.schedLinks.filter (· != k)) fun d j => d.sendMsg j 5 (announceBytes id prio refOk)
  d.reElect
/-- ANNOUNCE (R443). -/
def execAnnounce (k : LinkId) (h : CellHdr) (id : BitVec 17) (prio : BitVec 4) (refOk : Bool) (s : State) : Host.Outcome State Fault Refusal :=
  s.ok (s.dev.recvCell k.val h 5 0 (doAnnounce k.val id.toNat prio.toNat refOk))

/-! ## Cells -/

/-- IDLE (R434). -/
def execIdle (k : LinkId) (h : CellHdr) (s : State) : Host.Outcome State Fault Refusal := s.ok (s.dev.recvCell k.val h 0 0 id)

/-- A register write that waits for a window's copies to end takes effect (R471). -/
def Dev.windowFree (d : Dev) (w : Nat) : Dev :=
  let mine (x : Nat × W64) : Bool := x.1 == Reg.CWIN w || x.1 == Reg.CWINR w
  let l := d.cwinPend.filter mine
  ({ d with cwinBusy := d.cwinBusy.filter (· != w), cwinPend := d.cwinPend.filter (!mine ·) }).each l fun d x => d.wr x.1 x.2

/-- What the copy window that a cell of a copy names accepts (R471). Its STREAM names the window, FRAME the byte offset in it, CGROUP the
lines it carries and BLOCK the lines still to come. -/
def Dev.windowAccepts (d : Dev) (c : CellData) : Bool :=
  let w := c.stream.toNat
  let cfg := d.rd (Reg.CWIN w)
  let off := c.frame.toNat; let n := c.cgroup.toNat
  w < 8 && tst cfg 63 && fld cfg 16 0 == c.src.toNat && decide (1 ≤ n) && decide (n ≤ 4) && off % 64 == 0
    && decide (off + 64 * n ≤ d.rf (Reg.CWINR w) 63 48 * 65536) && !d.ctxFencing (fld cfg 57 52)
/-- Where the first line of a cell of a copy goes: the window's pages lie in its context's address space. -/
def Dev.windowAddr (d : Dev) (c : CellData) : Option Nat :=
  d.translate (d.rf (Reg.CWIN c.stream.toNat) 57 52) (d.rf (Reg.CWINR c.stream.toNat) 47 16 * 65536 + c.frame.toNat) true
/-- A cell of a copy arrives at a copy window (R471): its lines are written, or it is refused. -/
def Dev.takeCopy (d : Dev) (k : Nat) (c : CellData) : Dev :=
  let w := c.stream.toNat
  let n := c.cgroup.toNat
  match d.windowAccepts c, d.windowAddr c with
  | true, some pa =>
    let d := d.each (List.range n) fun d i =>
      (d.writeLine (pa + 64 * i) ((padTo 256 c.payload |>.drop (64 * i)).take 64) (bit c.side.toNat (4 * i)) []).setKind (pa + 64 * i) 0
    if c.block = 0 then d.windowFree w else { d with cwinBusy := d.cwinBusy.filter (· != w) ++ [w] }
  | _, _ => d.emit (.copyRefused k w)

/-- A DATA or VOID cell: delivered here, or forwarded (R438). -/
def doDataCell (k typ : Nat) (c : CellData) (d : Dev) : Dev :=
  if c.dst.toNat ≠ d.myId then d.forward k typ c
  else match c.cls.toNat with
    | 0 => d.inc Reg.DISCARD
    | 1 => d.takeStream k typ c
    | _ => if typ = 10 then d.inc Reg.DISCARD else d.takeCopy k c
/-- DATA (R440). -/
def execData (k : LinkId) (h : CellHdr) (c : CellData) (s : State) : Host.Outcome State Fault Refusal :=
  s.ok (s.dev.recvCell k.val h 1 c.cls.toNat (doDataCell k.val 1 c))
/-- VOID (R439, R440). -/
def execVoid (k : LinkId) (h : CellHdr) (c : CellData) (s : State) : Host.Outcome State Fault Refusal :=
  s.ok (s.dev.recvCell k.val h 10 c.cls.toNat (doDataCell k.val 10 c))

def doAuth (k : Nat) (m : AuthMsg) (d : Dev) : Dev :=
  if d.linkState k ≠ 2 then d else
  match m with
  | .hello id link pub serial cert nonce => d.takeHello k ⟨id.toNat, link.toNat, pub, serial, cert, nonce⟩
  | .answer sig => d.takeAnswer k sig
/-- AUTH (R429). -/
def execAuth (k : LinkId) (h : CellHdr) (m : AuthMsg) (s : State) : Host.Outcome State Fault Refusal :=
  s.ok (s.dev.recvCell k.val h 13 0 (doAuth k.val m))

/-- A lane is replaced among the active ones. -/
def Dev.swapLane (d : Dev) (k bad new : Nat) : Dev :=
  if d.rb (Reg.L_LANES k) bad && !d.rb (Reg.L_LANES k) new then (d.wf (Reg.L_LANES k) bad bad 0).wf (Reg.L_LANES k) new new 1 else d
/-- LANE (R428). -/
def execLane (k : LinkId) (h : CellHdr) (bad new : Fin 17) (s : State) : Host.Outcome State Fault Refusal :=
  s.ok (s.dev.recvCell k.val h 14 0 (·.swapLane k.val bad.val new.val))
/-- NAK: every unacknowledged cell is sent again (R434). -/
def execNak (k : LinkId) (s : State) : Host.Outcome State Fault Refusal := s.ok (s.dev.resend k.val)
/-- RESERVED_CELL: a cell of type 15 is discarded and counted (R432). -/
def execReservedCell (k : LinkId) (h : CellHdr) (cls : BitVec 2) (s : State) : Host.Outcome State Fault Refusal :=
  s.ok (s.dev.recvCell k.val h 15 cls.toNat (·.inc Reg.DISCARD))
/-- REPLAY_RESEND_TIMEOUT (R434). -/
def execReplayResendTimeout (k : LinkId) (s : State) : Host.Outcome State Fault Refusal := s.ok (s.dev.resend k.val)

/-- 100 µs without ACK progress while cells were outstanding (R434). -/
def doLossTimeout (k : Nat) (d : Dev) : Dev :=
  if (d.lnk k).sent = [] then d
  else if d.linkUp k then d.linkDown k
  else if d.linkState k = 2 then d.linkFail k else d
/-- LINK_LOSS_TIMEOUT (R434). -/
def execLinkLossTimeout (k : LinkId) (s : State) : Host.Outcome State Fault Refusal := s.ok (doLossTimeout k.val s.dev)

/-! ## Training and the scheduled set -/

/-- An attempt tests the lanes, trains at the widest width they and the attachment allow, and begins to authenticate
(R39, R425). At most eight links authenticate at a time (R498). -/
def doAttempt (k good : Nat) (m : Modules) (d : Dev) : Dev :=
  let d := d.when (d.linkState k == 0) (·.startAttempt k)
  if d.linkState k ≠ 1 ∨ !d.mayTrain k ∨ (findAll 24 fun j => d.linkState j == 2).length ≥ 8 then d else
  let tested := findAll 17 fun i => !bit (d.badLanes k) i
  let d := d.loseLanes k (laneMask (tested.filter fun i => !bit good i))
  let lanes := tested.filter (bit good)
  let d := d.setUcie k m
  let w := widest (min lanes.length m.lanes)
  let limited := decide (w < widest lanes.length)
  let d := (d.wf (Reg.L_STATUS k) 57 57 (b2n limited)).when limited (·.linkEntry k 0 4 (d.peerId k))
  if w = 0 then d.linkFail k
  else
    let d := (d.wf (Reg.L_LANES k) 16 0 (laneMask (lanes.take w))).wf (Reg.L_STATUS k) 60 59 (widthCode w)
    (d.setLink k 2).sendHello k
/-- LINK_TRAINING_ATTEMPT (R425). -/
def execLinkTrainingAttempt (k : LinkId) (good : BitVec 17) (m : LinkModules) (s : State) : Host.Outcome State Fault Refusal :=
  s.ok (doAttempt k.val good.toNat ⟨m.full, m.half⟩ s.dev)

/-- A background retry (R427); a link whose lasers are off waits (R424). -/
def doRetry (k : Nat) (d : Dev) : Dev :=
  if (d.linkState k = 5 ∨ d.linkState k = 0) ∧ d.mayTrain k then
    (d.wf (Reg.L_STATUS k) 15 0 (min 0xFFFF (d.rf (Reg.L_STATUS k) 15 0 + 1))).startAttempt k
  else d
/-- LINK_RETRY (R427). -/
def execLinkRetry (k : LinkId) (s : State) : Host.Outcome State Fault Refusal := s.ok (doRetry k.val s.dev)

/-- An active lane fails (R428): the spare is steered in, or the link goes down. -/
def doLaneFault (k lane : Nat) (d : Dev) : Dev :=
  if !d.linkUp k || !d.rb (Reg.L_LANES k) lane then d
  else if lane != 16 && !d.rb (Reg.L_LANES k) 16 && !bit (d.badLanes k) 16 then
    let d := (d.loseLanes k (2 ^ lane)).swapLane k lane 16
    let d := d.sendCell k { typ := 14, cls := 0, out := some (.lane k lane 16) }
    (d.inc Reg.STEERED).linkEntry k 0 2 lane
  else d.linkDown k
/-- LANE_FAULT (R428). -/
def execLaneFault (k : LinkId) (lane : Fin 17) (s : State) : Host.Outcome State Fault Refusal := s.ok (doLaneFault k.val lane.val s.dev)

/-- ADMIT moves a BEST_EFFORT link into the scheduled set at the next frame boundary, or at once while no frames run (R426). -/
def doAdmit (p k : Nat) (d : Dev) : Dev :=
  if !d.isSteward p || d.linkState k ≠ 3 then d else
  let d := d.updLnk k fun x => { x with admitting := true }
  if d.framesRun then d else d.moveSet
/-- LINK_ADMIT (R426). -/
def execLinkAdmit (p : Port) (k : LinkId) (s : State) : Host.Outcome State Fault Refusal := s.ok (doAdmit p.val k.val s.dev)
def doHold (p k : Nat) (v : Bool) (d : Dev) : Dev :=
  if !d.isSteward p then d else
  let d := d.wf (Reg.L_CTL k) 61 61 (b2n v)
  if d.framesRun then d else d.moveSet
/-- LINK_HOLD (R426). -/
def execLinkHold (p : Port) (k : LinkId) (v : Bool) (s : State) : Host.Outcome State Fault Refusal := s.ok (doHold p.val k.val v s.dev)
/-- RETRAIN starts an attempt at once (R427). -/
def doLinkRetrain (p k : Nat) (d : Dev) : Dev :=
  if !d.isSteward p || !d.mayTrain k || d.linkState k = 6 then d else (d.dropLink k 0).startAttempt k
/-- LINK_RETRAIN (R427). -/
def execLinkRetrain (p : Port) (k : LinkId) (s : State) : Host.Outcome State Fault Refusal := s.ok (doLinkRetrain p.val k.val s.dev)
/-- ENABLE 0 takes the link down and stops retries; ENABLE 1 lets it train (R427). -/
def doLinkEnable (p k : Nat) (v : Bool) (d : Dev) : Dev :=
  if !d.isSteward p then d else
  let d := d.wf (Reg.L_CTL k) 63 63 (b2n v)
  if !v then d.dropLink k 6 else if d.linkState k = 6 then (d.setLink k 0).startAttempt k else d
/-- LINK_ENABLE_WRITE (R427). -/
def execLinkEnableWrite (p : Port) (k : LinkId) (v : Bool) (s : State) : Host.Outcome State Fault Refusal :=
  s.ok (doLinkEnable p.val k.val v s.dev)
/-- The steward writes DEVID and locks it until a device reset (R430). -/
def doDevidLock (p id : Nat) (d : Dev) : Dev :=
  if !d.isSteward p || d.idLocked then d else d.wr Reg.DEVID (w64 (2 ^ 63 + id))
/-- DEVID_LOCK (R430). -/
def execDevidLock (p : Port) (id : BitVec 17) (s : State) : Host.Outcome State Fault Refusal := s.ok (doDevidLock p.val id.toNat s.dev)

/-! ## Stream registers (R454) -/

def streamReg (s reg : Nat) : Nat :=
  match reg with
  | 0 => Reg.OSTR_CFG s
  | 1 => Reg.OSTR_SRC s
  | 2 => Reg.ISTR_CFG s
  | _ => Reg.ISTR_DST s
/-- A stream register as it will stand after the writes that wait. -/
def Dev.streamView (d : Dev) (off : Nat) : W64 :=
  match d.streamPend.reverse.find? (·.1 == off) with
  | some x => x.2
  | none => d.rd off
/-- A write of a stream register: the owning port's, at the next frame boundary, or refused for an unmapped region. -/
def doStreamWrite (p s reg : Nat) (v : W64) (d : Dev) : Dev :=
  let cfgOff := streamReg s (if reg < 2 then 0 else 2)
  let dstOff := streamReg s (if reg < 2 then 1 else 3)
  let off := streamReg s reg
  let v := v &&& regImpl off
  let region := if off = dstOff then v else d.streamView dstOff
  let named := regionCtx region
  let held := regionCtx (d.streamView dstOff)
  let mine := d.ctxPort named == some p && !(tst (d.streamView cfgOff) 63 && d.ctxPort held != some p)
  if !mine then d else
  let cfg := if off = cfgOff then v else d.streamView cfgOff
  let bad := tst cfg 63 && !d.regionOk region
  let d := d.when bad (·.emit (.status p St.INVALID))
  let ws : List (Nat × W64) := if bad then [(cfgOff, put (d.streamView cfgOff) 63 63 0)] else [(off, v)]
  if d.framesRun then { d with streamPend := d.streamPend ++ ws } else d.each ws fun d w => d.wr w.1 w.2
/-- STREAM_WRITE (R454). -/
def execStreamWrite (p : Port) (s : Fin 64) (reg : Fin 4) (v : BitVec 64) (st : State) : Host.Outcome State Fault Refusal :=
  st.ok (doStreamWrite p.val s.val reg.val v st.dev)

end Sys2Proof.Machine
end

