-- ==== Sys2Proof/Machine/Hang.lean ====
section
/-! DEFINITION. The AQ5-compatible context reset (R526), and hangs of launches and plans (R523 to R525). -/

namespace Sys2Proof.Machine

/-! ## The context reset (R526) -/

/-- A free-running context is reset: launches end, what moves for it is dropped, and it reads RESIDENT. -/
def Dev.fastReset (d : Dev) (c : Nat) : Dev :=
  let d := d.abortLaunches c
  let d := { d with flits := d.flits.filter (·.ctx != c)
                    bars := updIf (·.ctx == c) (fun b => { b with arrived := [], rel := [] }) d.bars }
  d.each (d.ctxTiles c) fun d e =>
    let d := (d.dropXfers e.1 (·.ctx == c)).upd e.1 fun x =>
      let x := { x with saved := smSet noSaved x.saved e.2 none }
      if x.slot = e.2 then { x with regs := {}, fwd := [], inflight := [], bankq := [], mvq := [] } else x
    let d := d.emptyWindows e.1 c
    -- a FAULTED context stays so until it is destroyed or loaded again (R78)
    d.when (d.slotState e.1 e.2 != 0 && d.slotState e.1 e.2 != 6) fun d =>
      (d.setSlotState e.1 e.2 1).twf e.1 (Reg.CTXSTATE e.2) 15 3 0

/-! ## Isolation (R523 to R525) -/

/-- A bitmap of contexts. -/
def ctxMap (l : List Nat) : W64 := l.foldl (fun v c => put v c c 1) 0
/-- A class 34 entry: 0 suspected, 1 guilty, 2 not reproduced. -/
def Dev.hangEntry (d : Dev) (a : Nat) (l : List Nat) : Dev := d.varveLog 34 2 8 0 {} (w64 a) (ctxMap l)
def Dev.isolates (d : Dev) : Bool := d.rb Reg.RECOV_CTL 63

/-- A guilty suspect faults with HANG, or keeps the code it raised (R525). -/
def Dev.hangCtx (d : Dev) (c : Nat) : Dev :=
  let ts := d.ctxTiles c
  let d := d.each ts fun d e => d.when (d.slotState e.1 e.2 != 6) fun d =>
    (d.twf e.1 (Reg.CTXSTATE e.2) 47 40 FC.HANG).setSlotState e.1 e.2 6
  let d := d.setCtxState c 6
  if d.rf (Reg.CTX c) 47 40 ≠ 0 then d else
  let t := ((ts.map (·.1)).head?).getD 0
  let d := (d.wf (Reg.CTX c) 47 40 FC.HANG).wf (Reg.CTX c) 10 0 t
  d.varveLog 13 2 0 t { ctx := some c, port := d.ctxPort c } (w64 FC.HANG) (d.trd t Reg.BEAT)

/-- A suspect shows SUSPECT; one that is cleared shows again what it was (R523, R525). -/
def Dev.suspect (d : Dev) (c : Nat) : Dev := d.setCtxState c 5
def Dev.innocent (d : Dev) (c : Nat) : Dev :=
  if d.ctxState c = 5 then d.setCtxState c (if d.rf (Reg.CTX c) 47 40 = 0 then 3 else 6) else d

/-- The episode ends (R525). -/
def Dev.endEpisode (d : Dev) (e : Episode) : Dev :=
  let d := { d with episode := none }
  let d := d.each e.guilty fun d c => d.hangCtx c
  let d := d.each (e.all.filter fun c => !e.guilty.contains c) fun d c => d.innocent c
  d.hangEntry (if e.guilty = [] then 2 else 1) (if e.guilty = [] then e.all else e.guilty)

/-- Launch a free-running suspect again, alone on the stalled tiles; it reports nothing. -/
def Dev.isoLaunch (d : Dev) (c : Nat) (tiles : List Nat) : Dev :=
  let ts := (d.ctxTiles c).filter fun e => tiles.contains e.1 && d.slotState e.1 e.2 != 6
  let l : Launch := { id := d.nextLaunch, ctx := c, port := (d.ctxPort c).getD 0, tag := 0, left := ts.map (·.1), iso := true }
  let d := { d with launches := d.launches ++ [l], nextLaunch := d.nextLaunch + 1 }
  d.each ts fun d e => d.upd e.1 fun x => { x with launches := ⟨e.2, l.id⟩ :: x.launches }

/-- The next suspect of an episode of launches runs alone, or the episode ends. A suspect with nothing left to run on the
stalled tiles cannot reproduce. -/
def Dev.isoNext (d : Dev) (e : Episode) : (fuel : Nat) → Dev
  | 0 => d.endEpisode e
  | k + 1 => match e.left with
    | [] => d.endEpisode e
    | c :: cs =>
      if (d.ctxTiles c).any fun x => e.tiles.contains x.1 && d.slotState x.1 x.2 != 6 then
        { d with episode := some { e with left := cs, current := some c } }.isoLaunch c e.tiles
      else d.isoNext { e with left := cs, current := none } k

/-- The isolation launch that runs has ended without being suspected again. -/
def Dev.isoDone (d : Dev) : Dev := match d.episode with
  | some e => if e.free then d.isoNext { e with current := none } 64 else d
  | none => d

/-! ## Progress of launches (R523) -/

def noStall : Nat → Nat × Nat := fun _ => (0, 0)
def Dev.progressLimit (d : Dev) : Nat := max 1 (d.rf Reg.RECOV_CTL 39 32)

/-- Ticks without an issue are counted on the tile of every running launch; the tiles at the limit. -/
def Dev.countStalls (d : Dev) : List Nat × Dev :=
  let step (x : SMap (Nat × Nat)) (e : Nat × Tile) : SMap (Nat × Nat) :=
    let issued := (d.trd e.1 Reg.ISSUE).toNat
    let old := smGet noStall d.stalled e.1
    let runs := e.2.mode == .running && e.2.cur.isSome
    smSet noStall x e.1 (if runs && old.2 == issued then (old.1 + 1, issued) else (0, issued))
  let m := d.tiles.foldl step []
  ((d.tiles.map (·.1)).filter fun t => (smGet noStall m t).1 ≥ d.progressLimit, { d with stalled := m })

/-- Contexts with a launch on a tile, running or queued. -/
def Dev.launchCtxs (d : Dev) (t : Nat) : List Nat :=
  ((d.tile t).launches ++ (d.tile t).cur.toList).map fun l => d.ctxOf t l.slot

/-- A tick of MEM.TICK: contexts whose launch made no progress for PROGRESS ticks are suspected (R523, R524). -/
def Dev.progressTick (d : Dev) : Dev :=
  let (bad, d) := d.countStalls
  if bad = [] then d else
  match d.episode with
  | some e =>
    match e.free, e.current with
    | true, some c =>
      if bad.any fun t => (d.launchCtxs t).contains c then
        (d.fastReset c).isoNext { e with current := none, guilty := e.guilty ++ [c] } 64
      else d
    | _, _ => d
  | none =>
    let l := findAll 64 fun c => bad.any fun t => (d.launchCtxs t).contains c
    if !d.isolates then (if bad.any fun t => (smGet noStall d.stalled t).1 == d.progressLimit then d.hangEntry 0 l else d) else
    let d := d.hangEntry 0 l
    let d := d.each l fun d c => (d.suspect c).fastReset c
    d.isoNext { free := true, tiles := bad, left := l, all := l } 64

end Sys2Proof.Machine
end

