-- ==== Sys2Proof/Machine/FamClk.lean ====
section
/-! DEFINITION. The commands of the clock mesh (chapter 12). -/

namespace Sys2Proof.Machine

/-- Source kind 8, index 6 is clocking (R533). -/
def Dev.clkEntry (d : Dev) (kind idx a b : Nat) : Dev := d.varveLog 25 2 kind idx {} (w64 a) (w64 b)

/-- The reference is lost and the mesh runs free (R365). -/
def doReferenceLoss (d : Dev) : Dev :=
  if !d.rb Reg.CLK_STATUS 63 then d
  else ((d.wf Reg.CLK_STATUS 63 63 0).wf Reg.CLK_STATUS 62 62 0).clkEntry 8 6 0 0
/-- REFERENCE_LOSS (R365). -/
def execReferenceLoss (s : State) : Host.Outcome State Fault Refusal := s.ok (doReferenceLoss s.dev)
/-- The reference is back once the mesh has started; the mesh is being pulled to lock. -/
def doReferenceReturn (d : Dev) : Dev := if d.ready 1 then d.wf Reg.CLK_STATUS 63 63 1 else d
/-- REFERENCE_RETURN (R365). -/
def execReferenceReturn (s : State) : Host.Outcome State Fault Refusal := s.ok (doReferenceReturn s.dev)
def doMeshLockRegained (d : Dev) : Dev := if d.rb Reg.CLK_STATUS 63 then d.wf Reg.CLK_STATUS 62 62 1 else d
/-- MESH_LOCK_REGAINED (R365). -/
def execMeshLockRegained (s : State) : Host.Outcome State Fault Refusal := s.ok (doMeshLockRegained s.dev)

/-- An oscillator fails (R368, R369): recorded, and its floe injected, or the field shut down. -/
def doOscillatorFailure (k : Nat) (d : Dev) : Dev :=
  let f := k / 4
  if d.oscFailed k || d.floeState k == 2 || d.floeState k == 4 then d else
  let others := (findAll 4 fun j => 4 * f + j != k && d.oscFailed (4 * f + j)).length
  let w := 0x442 + k / 32
  let d := (d.firnPut [(w, (put (w64 (d.firnView w)) (k % 32) (k % 32) 1).toNat)]).1
  let d := (d.inc Reg.OSC_FAIL).clkEntry 2 k 1 k
  if others ≥ 1 then d.openField f 0 2 4
  else
    let d := d.wf (Reg.FLOE k) 57 52 (d.floeSrc k)
    (if d.floeState k = 3 then d else d.wf (Reg.FLOE k) 63 61 1).syncInjected
/-- OSCILLATOR_FAILURE (R368). -/
def execOscillatorFailure (k : FloeId) (s : State) : Host.Outcome State Fault Refusal := s.ok (doOscillatorFailure k.val s.dev)

/-- The newest flit of an inbound port. -/
def Dev.lastFlit (d : Dev) (me inp : Nat) : Option Flit := d.flits.reverse.find? fun f => f.at' == me && f.inp == inp

/-- The flit read from a crossing in the beat it slips is delivered poisoned (R372). -/
def Dev.slipFlit (d : Dev) (me inp : Nat) : Dev :=
  match d.lastFlit me inp with
  | some f => { d with flits := updIf (·.same f) (fun g => { g with data := g.data.map fun (w : Word256 × Bool) => (w.1, true) }) d.flits }
  | none => d

/-- A crossing slips (R372): the flit read is poisoned, and the slip counted and recorded against both floes. At the die's edge the crossing is
that from the edge-ring clock, which is no floe (R370). -/
def doCrossingSlip (t inp : Nat) (d : Dev) : Dev :=
  match d.logOf t with
  | none => d
  | some me => match neighbour me inp with
    | none => ((d.slipFlit me inp).inc Reg.SLIP).clkEntry 2 (physFloe t) 2 (physFloe t)
    | some (l, hop) => match d.physOf l with
      | none => d
      | some u =>
        if hop = 1 then d else
        (((d.slipFlit me inp).inc Reg.SLIP).clkEntry 2 (physFloe t) 2 (physFloe u)).clkEntry 2 (physFloe u) 2 (physFloe t)
/-- CROSSING_SLIP (R372). -/
def execCrossingSlip (t : TileId) (inp : Fin 4) (s : State) : Host.Outcome State Fault Refusal :=
  s.ok (doCrossingSlip t.val inp.val s.dev)

/-- The switch beat (R374): every clock changes its ratio; a change decided meanwhile is announced (R373). -/
def doSwitchBeat (d : Dev) : Dev :=
  if !d.switchPending then d else
  let old := d.opNow
  let op := d.rf Reg.CLK_SWITCH 1 0
  let d := d.wr Reg.CLK_BEAT (w64 (max (d.rn Reg.CLK_BEAT) (d.rn Reg.SWITCH_BEAT)))
  let d := (d.wf Reg.CLK_STATUS 1 0 op).wf Reg.CLK_SWITCH 63 63 0
  let d := d.when (!d.floatOn && old == 2 && op != 2) (·.pwrStatus 9)
  match d.afterSwitch with
  | some (o, c) => ({ d with afterSwitch := none }).orderOp o c
  | none => d
/-- SWITCH_BEAT (R374). -/
def execSwitchBeat (s : State) : Host.Outcome State Fault Refusal := s.ok (doSwitchBeat s.dev)

/-! ## Stretch (R376 to R381) -/

def Dev.owed (d : Dev) (k : Nat) : Nat := d.rf (Reg.FLOE k) 40 32
def Dev.owe (d : Dev) (k n : Nat) : Dev := d.wf (Reg.FLOE k) 40 32 (min 256 (d.owed k + n))
def Dev.droopMv (d : Dev) : Nat := d.rfIn Reg.CLK_CTL 47 40 10 100
def Dev.stretchLimit (d : Dev) : Nat := d.rfIn Reg.CLK_CTL 24 16 16 256
/-- Beats a detector asks for at a supply in µV; 0 at or above the threshold (R376). -/
def Dev.stretchBeats (d : Dev) (supply : Nat) : Nat :=
  let thr := (d.opMv d.opNow - d.droopMv) * 1000
  if supply ≥ thr then 0 else min 4 (1 + (thr - supply) / 10000)

/-- A floe asks for a stretch: it applies the request itself, and the broadcast carries it to the others (R376, R378).
The request of a field under a sweep stays in its field and outside the window count (R382). -/
def doStretchRequest (k supply : Nat) (d : Dev) : Dev :=
  let st := d.floeState k
  let n := d.stretchBeats supply
  if (st ≠ 0 ∧ st ≠ 1 ∧ st ≠ 3) ∨ d.owed k > 0 ∨ n = 0 then d else
  let d := (d.wf (Reg.FLOE k) 31 0 (min 0xFFFFFFFF (d.rf (Reg.FLOE k) 31 0 + 1))).owe k n
  let d := { d with stretch := d.stretch ++ [(k, n)] }
  if st = 3 then d
  else
    let d := (d.wf Reg.CLK_WINDOW 15 0 (min 65535 (d.rf Reg.CLK_WINDOW 15 0 + n))).add Reg.STRETCH_BEATS n
    { d with windowFields := if d.windowFields.contains (k / 4) then d.windowFields else d.windowFields ++ [k / 4] }
/-- STRETCH_REQUEST (R376). -/
def execStretchRequest (k : FloeId) (supply : BitVec 32) (s : State) : Host.Outcome State Fault Refusal :=
  s.ok (doStretchRequest k.val supply.toNat s.dev)

/-- The oldest request reaches the other participants (R378). -/
def doStretchArrival (d : Dev) : Dev :=
  match d.stretch with
  | [] => d
  | (k, n) :: rest =>
    let d := { d with stretch := rest }
    if d.floeState k = 3 then
      d.each (findAll 64 fun j => j != k && j / 4 == k / 4) fun d j => d.owe j n
    else
      let d := d.each (findAll 64 fun j => j != k && d.floeState j ≤ 1) fun d j => d.owe j n
      ({ d with edgeOwed := d.edgeOwed + n }).inc Reg.STRETCH_EVENTS
/-- STRETCH_BROADCAST_ARRIVAL (R378). -/
def execStretchBroadcastArrival (s : State) : Host.Outcome State Fault Refusal := s.ok (doStretchArrival s.dev)

/-- Sixteen windows under half of LIMIT release a field's stretch clamp (R403). -/
def Dev.calmWindow (d : Dev) (f n : Nat) : Dev :=
  if d.clampSrc f 3 = 96 then d else
  let c := if 2 * n < d.stretchLimit then smGet zeroNat d.calm f + 1 else 0
  if c ≥ 16 then ({ d with calm := smSet zeroNat d.calm f 0 }).releaseClamp f 3
  else { d with calm := smSet zeroNat d.calm f c }

/-- A stretch window ends (R381): an excess steps the point down, or clamps fields at code 0 (R403). -/
def doStretchWindowEnd (d : Dev) : Dev :=
  let n := d.rf Reg.CLK_WINDOW 15 0
  let fields := d.windowFields
  let d := { d.wr Reg.CLK_WINDOW (w64 (n * 2 ^ 32)) with windowFields := [] }
  let d := d.each (List.range 16) fun d f => d.calmWindow f n
  if n ≤ d.stretchLimit then d
  else match d.stepDown 1 with
    | (d, true) => (d.inc Reg.STEPDOWNS).varveLog 26 0 8 6 {} (w64 d.opDecided) (w64 n)
    | (d, false) =>
      let d := d.varveLog 26 0 8 6 {} 0 (w64 n)
      d.each fields fun d f => ({ d with calm := smSet zeroNat d.calm f 0 }).applyClamp f 3 48
/-- STRETCH_WINDOW_END (R381). -/
def execStretchWindowEnd (s : State) : Host.Outcome State Fault Refusal := s.ok (doStretchWindowEnd s.dev)

/-- The supplies stand at a higher point's voltage: the switch may be announced (R375). -/
def doSetVoltage (d : Dev) : Dev :=
  match d.raising with
  | none => d
  | some (op, c) =>
    let d := { d with raising := none }
    if d.switchPending then { d with afterSwitch := some (op, c) }
    else if op ≤ d.opNow ∨ op > d.ceiling then d else d.announce op c
/-- SET_VOLTAGE_REACHED (R375). -/
def execSetVoltageReached (s : State) : Host.Outcome State Fault Refusal := s.ok (doSetVoltage s.dev)

/-- One beat of every clock: owed beats fall by one where the beat is stretched (R378). -/
def Dev.owedBeat (d : Dev) : Dev :=
  let d := d.each (findAll 64 fun k => d.owed k > 0) fun d k => d.wf (Reg.FLOE k) 40 32 (d.owed k - 1)
  { d with edgeOwed := d.edgeOwed - 1 }

/-- What falls on the beat that CLK.BEAT has come to: the end of a stretch window (R381), and the beat of a pending switch (R374). -/
def Dev.beatEvents (d : Dev) : Dev :=
  let d := d.when (d.rn Reg.CLK_BEAT % 4096 == 0) doStretchWindowEnd
  d.when (d.switchPending && d.rn Reg.SWITCH_BEAT ≤ d.rn Reg.CLK_BEAT) doSwitchBeat

/-- What the block does on an empty queue: a beat of the die while its mesh runs, and what falls on the beat it comes to (R366, R367; log entry 8). -/
def Dev.idleBeat (d : Dev) : Dev := if d.ready 1 then d.dieBeat.owedBeat.beatEvents else d

end Sys2Proof.Machine
end

