-- ==== Sys2Proof/Machine/Intake.lean ====
section
/-! DEFINITION. The intake scheduler: commands on sequence slots (R285), the advances of a commit (R300), the planner (R286 to
R292), the plan as data (R293 to R297), and its patch (R301). -/

namespace Sys2Proof.Machine

/-! ## Frame times (R258, R259) -/

def Dev.frameL (d : Dev) : Nat := d.rf Reg.FRAME_CFG 13 0
def Dev.frameG (d : Dev) : Nat := d.rf Reg.FRAME_CFG 27 14
/-- T(n) under the parameters in force. -/
def Dev.frameT0 (d : Dev) (n : Nat) : Int :=
  (d.rn Reg.FRAME_EPOCH : Int) + ((n : Int) - d.rf Reg.FRAME_BASE 47 0) * (d.frameL * 1000 : Nat)
/-- T(n) in ns, a switch of the parameters still to come included (R260). -/
def Dev.frameT (d : Dev) (n : Nat) : Int :=
  match d.switchAt with
  | some (f, v) => if n > f then d.frameT0 f + ((n : Int) - f) * (fld v 13 0 * 1000 : Nat) else d.frameT0 n
  | none => d.frameT0 n
/-- FRAME_CFG as the frame after the running one has it. -/
def Dev.nextCfg (d : Dev) : W64 := match d.switchAt with
  | some (f, v) => if d.framesRun && f ≤ d.frame + 1 then v else d.rd Reg.FRAME_CFG
  | none => d.rd Reg.FRAME_CFG
def Dev.planL (d : Dev) : Nat := fld d.nextCfg 13 0
def Dev.planG (d : Dev) : Nat := fld d.nextCfg 27 14

/-! ## Commands on slots (R284, R285) -/

def Req.cmd (r : Req) : Nat := ofBytes (r.bytes.take 8)
def Req.op (r : Req) : Nat := bits r.cmd 3 0
def Req.cls (r : Req) : Nat := bits r.cmd 6 4
def Req.ctx (r : Req) : Nat := bits r.cmd 13 8
def Req.slot (r : Req) : Nat := bits r.cmd 31 16
def Req.gen (r : Req) : Nat := bits r.cmd 47 32
/-- A word of an admitting request, at its slot offset. -/
def Req.word (r : Req) (off : Nat) : Nat := ofBytes ((r.bytes.drop off).take 8)

/-- The bits a word of a slot holds (R281): the rest are reserved and read as zero. -/
def slotMask (off : Nat) : Nat :=
  if off = 0x18 then mk 47 0 else if off = 0x20 then mk 22 0 else if off = 0x40 then mk 59 0 else if off = 0x48 then mk 5 0
  else all64

/-- The name under which what is allocated for a slot's next admission stands until the ADMIT is applied. -/
def nextSeq (q : Nat) : Nat := 65536 + q
/-- The root of the key/value page table for a slot's next admission, allocated if it has none (R324). What was allocated for an admission to
another context that never came is returned. -/
def Dev.kvRootOf (d : Dev) (q c : Nat) : Option Nat × Dev :=
  match d.nodes.find? fun n => n.slot == some (nextSeq q) && n.size == 256 && n.ctx == c with
  | some n => (some n.addr, d)
  | none => (d.kvRelease (nextSeq q)).newNode 256 c (some (nextSeq q))
/-- What was allocated for an admission is the sequence's. -/
def Dev.adoptSeq (d : Dev) (q : Nat) : Dev :=
  { d with nodes := updIf (fun n => n.slot == some (nextSeq q)) (fun n => { n with slot := some q }) d.nodes
           pages := updIf (fun p => p.slot == some (nextSeq q)) (fun p => { p with slot := some q }) d.pages }

/-- ADMIT: the request's bytes, and the fields the device sets (R281, R285). -/
def Dev.admitReq (d : Dev) (r : Req) (root : Nat) : Dev :=
  let q := r.slot
  let a := d.sqAddr q
  let gen := (d.sq q 0 31 16 + 1) % 65536
  let w0 := Sq.WAITING + r.cls * 2 ^ 3 + r.port * 2 ^ 6 + r.ctx * 2 ^ 8 + gen * 2 ^ 16
  let copy := [0x08, 0x10, 0x18, 0x20, 0x30, 0x38, 0x40, 0x48, 0x50, 0x58, 0x60, 0x68, 0x70, 0x78]
  let d := d.storeNum a 8 w0
  let d := d.each copy fun d o => d.storeNum (a + o) 8 (r.word o &&& slotMask o)
  let d := d.storeNum (a + 0x28) 8 root
  let d := (d.setSq q 0x80 22 0 0).setSq q 0x88 31 0 0
  (d.setSq q 0x90 63 0 0).storeNum (a + 0xA0) 8 0

/-- Apply a command at the commit: the state after it, or none where it is refused. -/
def Dev.command (d : Dev) (r : Req) : Option Dev :=
  let q := r.slot
  let s := d.sqState q
  let open' := s == Sq.WAITING || s == Sq.PREFILLING || s == Sq.DECODING
  let mine := d.sqPort q == r.port
  let gen := d.sq q 0 31 16 == r.gen
  match r.op with
  | 1 =>
    let len := bits (r.word 0x20) 22 0
    if !(s == Sq.EMPTY && mine && tst (d.int Reg.INT_JOB_CTX) r.ctx && decide (1 ≤ len)) then none
    else match d.kvRootOf q r.ctx with
      | (none, _) => none
      | (some root, d) => some ((d.adoptSeq q).admitReq r root)
  | 2 => if !(mine && gen) then none
         else if open' || s == Sq.PARKED then some ((d.setSq q 0 2 0 Sq.FINISHED).setSq q 0 38 35 4)
         else if s == Sq.FINISHED then some d else none
  | 3 => if mine && gen && open' then some (d.park q 5) else none
  | 4 => if mine && gen && s == Sq.PARKED && d.sqReason q == 5 then
           some ((d.setSq q 0 2 0 (d.sq q 0 34 32)).setSq q 0 38 35 0) else none
  | 5 => if mine && gen && s == Sq.FINISHED then some ((d.kvRelease q).setSq q 0 2 0 Sq.EMPTY) else none
  | _ => none

/-! ## Advances (R300) -/

/-- A token to be delivered (R472): slot, token, whether it is the first. -/
structure Token where
  slot : Nat
  token : Nat
  first : Bool
  deriving DecidableEq, Repr

/-- Physical address in a context of an offset of plan buffer b (R294). -/
def Dev.planAddr (d : Dev) (c b off : Nat) : Option Nat :=
  d.translate c (d.intf Reg.INT_JOB 47 24 * 2 ^ 24 + b * 0x800000 + off) false
/-- The token record of an item (R297): none where it lacks VALID. -/
def Dev.tokenOf (d : Dev) (b : Nat) (i : Item) : Option Nat :=
  let off := if i.chunk then 0x500000 + 4096 * i.idx else 0x400000 + 4096 * (i.idx / 16) + 8 * (i.idx % 16)
  match d.planAddr (d.sqCtx i.slot) b off with
  | some a => let v := d.rdNum a 8
              if bit v 63 then some (v % 2 ^ 32) else none
  | none => none

/-- A token is late for its slot's class (R300). -/
def Dev.countMiss (d : Dev) (q now : Nat) (first : Bool) : Dev :=
  let k := d.sqClass q
  if first then
    (if now > d.sq q 0x08 63 0 then d.wf (Reg.MISS k) 63 32 (min 0xFFFFFFFF (d.rf (Reg.MISS k) 63 32 + 1)) else d)
  else if now > d.sq q 0x98 63 0 + d.sq q 0x10 31 0 then
    d.wf (Reg.MISS k) 31 0 (min 0xFFFFFFFF (d.rf (Reg.MISS k) 31 0 + 1))
  else d

/-- The reason a slot finishes with after a token; 0 while it runs on. -/
def Dev.finishReason (d : Dev) (q tok : Nat) : Nat :=
  let stops := [d.sq q 0x40 19 0, d.sq q 0x40 39 20, d.sq q 0x40 59 40]
  if stops.any fun s => s < 262144 && s == tok then 1
  else if d.sq q 0x88 31 0 == d.sq q 0x10 63 32 then 2
  else if d.sqLen q == 8388607 then 3 else 0

/-- One valid item of a committed plan (R300). `tok` is its token record; in a projection the token is not known. -/
def Dev.advance (d : Dev) (n now : Nat) (i : Item) (tok : Option Nat) (real : Bool) : Dev × Option Token :=
  let q := i.slot
  let flip (d : Dev) : Dev := d.setSq q 0xA0 46 46 (1 - d.sq q 0xA0 46 46)
  let seen (d : Dev) : Dev := d.setSq q 0xA8 47 0 n
  if !i.lastSeg then
    (seen (flip ((d.setSq q 0xA0 22 0 (d.sq q 0xA0 22 0 + 1)).setSq q 0xA0 45 23 i.segs)), none)
  else
    let samples := !i.chunk || i.lastChunk
    if samples && tok.isNone then (d.inc Reg.NOTOKEN, none) else
    let d := seen ((d.setSq q 0x80 22 0 (d.sqLen q + i.count)).setSq q 0xA0 45 0 0)
    let d := d.when (i.segs > 1) flip
    let d := if i.chunk then d.setSq q 0 2 0 Sq.PREFILLING else d
    match samples, tok with
    | true, some t =>
      let d := d.when real (·.countMiss q now i.chunk)
      let d := d.setSq q 0x88 31 0 (if i.chunk then 1 else d.sq q 0x88 31 0 + 1)
      let d := (d.setSq q 0x88 63 32 t).setSq q 0x98 63 0 now
      let d := if i.chunk then (d.setSq q 0x90 63 0 now).setSq q 0 2 0 Sq.DECODING else d
      let r := d.finishReason q (if real then t else 2 ^ 32)
      let d := if r = 0 then d else (d.setSq q 0 2 0 Sq.FINISHED).setSq q 0 38 35 r
      (d, some ⟨q, t, i.chunk⟩)
    | _, _ => (d, none)

/-- The advances of a plan, in the order rows then chunks, and the tokens they give. -/
def Dev.advances (d : Dev) (n now : Nat) (p : Plan) (real : Bool) : Dev × List Token :=
  let go (x : Dev × List Token) (i : Item) : Dev × List Token :=
    if !i.valid then x else
    let tok := if real then x.1.tokenOf p.buf i else some 0
    match x.1.advance n now i tok real with
    | (d, some t) => (d, x.2 ++ [t])
    | (d, none) => (d, x.2)
  let (d, toks) := p.items.foldl go (d, [])
  let d := d.each (p.items.filter fun i => !i.chunk && i.valid) fun d i => d.setSq i.slot 0xA0 54 47 0
  let d := d.each (p.passed.filter fun q => d.sqState q == Sq.DECODING) fun d q =>
    d.setSq q 0xA0 54 47 (min 255 (d.sq q 0xA0 54 47 + 1))
  (d, toks)

/-! ## Variants (R288, R289) -/

def Dev.varCap (d : Dev) (v hi lo : Nat) : Nat := d.intf (Reg.VAR_CAP v) hi lo
def Dev.varUnit (d : Dev) (v : Nat) : Nat := max 1 (d.intf (Reg.VAR_CFG v) 7 0)
/-- Valid variants, highest first. -/
def Dev.variants (d : Dev) : List Nat := ([3, 2, 1, 0] : List Nat).filter fun v => tst (d.int (Reg.VAR_CFG v)) 63
/-- Whether a variant's beats fit the compute span of a frame with the given parameters at an operating point. -/
def Dev.varFitsIn (d : Dev) (cfg : W64) (op v : Nat) : Bool := d.varCap v 63 32 ≤ (fld cfg 13 0 - fld cfg 27 14) * mhz op
/-- Whether a variant's beats fit the frame after the running one. -/
def Dev.varFits (d : Dev) (op v : Nat) : Bool := d.varFitsIn d.nextCfg op v
/-- The operating point with the lowest clock in force, or announced by a switch beat, in a frame of the given parameters that starts in
`us` µs. -/
def Dev.opIn (d : Dev) (cfg : W64) (us : Nat) : Nat :=
  if !d.switchPending then d.opNow else
  let opTo := d.rf Reg.CLK_SWITCH 1 0
  let start := d.rn Reg.CLK_BEAT + us * mhz d.opNow
  if d.rn Reg.SWITCH_BEAT ≤ start then opTo
  else if d.rn Reg.SWITCH_BEAT > start + fld cfg 13 0 * mhz d.opNow then d.opNow
  else min d.opNow opTo
def Dev.planOp (d : Dev) (us : Nat) : Nat := d.opIn d.nextCfg us

/-- The switch template of a variant: a TILE.SWITCH value for each logical tile (R288). -/
def Dev.template (d : Dev) (v : Nat) : SMap W64 :=
  let base := d.intf (Reg.VAR_TPL v) 47 12 * 4096
  ((List.range 1536).map fun l => (l, w64 (d.rdNum (base + 8 * l) 8))).filter fun e => e.2 != 0

/-! ## Energy (R292, R401) -/

/-- The energy per beat of a phase over the fields that run the job. -/
def Dev.jobPj (d : Dev) (lists : SMap W64) (op phase : Nat) : Nat :=
  (List.range 16).foldl (fun s f =>
    s + (lists.filter fun e => logField e.1 == f && fld e.2 63 61 != 0).length * d.fig f op phase) 0
/-- The fixed, lane and chunk figures of a variant, in pJ. -/
def Dev.costs (d : Dev) (v op : Nat) (lists : SMap W64) : Int × Int × Int :=
  let row (r : Nat) : Int := (List.range 64).foldl (fun (s : Int) i =>
    let c := d.int (Reg.COST i)
    if tst c 63 && fld c 62 61 == v && fld c 60 59 == r then s + (fld c 31 0 * d.jobPj lists op (fld c 39 32) : Nat) else s) 0
  (row 0, row 1, row 2)
/-- The budget of this device in pJ: CAP_W × L less RESERVE_UJ. -/
def Dev.budget (d : Dev) : Int :=
  ((d.rf Reg.CAP_W 31 16 * d.planL : Nat) - (d.intf Reg.INT_ENERGY 31 0 : Nat) : Int) * 1000000
/-- This device's figures for a variant. -/
def Dev.ownFigures (d : Dev) (frame v op : Nat) : Figures :=
  let (f, l, c) := d.costs v op (d.template v)
  ⟨d.myId, frame, f, l, c, d.budget⟩
/-- Energy a member predicts for a shape. -/
def Figures.energy (m : Figures) (lanes chunks : Nat) : Int := m.fix + lanes * m.lane + chunks * m.chunk

/-! ## Pages of an item (R293, R324) -/

def Dev.tpp (d : Dev) : Nat := d.intf Reg.INT_JOB 13 9
def Dev.pagesMax (d : Dev) : Nat := d.intf Reg.INT_JOB 19 14 + 1
/-- Whether a page-list entry's page is mapped on a stack that is available (R332). -/
def Dev.entryUp (d : Dev) (c e : Nat) : Bool :=
  bit e 63 && (match d.walk c (bits e 47 16 * 65536) with
    | some l => d.stackUp ((stackOf (l.frame * 65536)).getD 0)
    | none => false)
/-- Make one page of a sequence mapped: allocated if it lacks one. -/
def Dev.needPage (d : Dev) (q c cls root i : Nat) : Option Dev × Dev :=
  let e := d.kvEntry root i
  if bit e 63 then ((if d.entryUp c e then some d else none), d)
  else match d.kvPage c q cls root i with
    | some d => (some d, d)
    | none => (none, d.when (d.kvQuota c cls) (·.inc Reg.QUOTA_HIT))
/-- Make the pages of a range of page indices mapped: whether all are, and the state after the allocations made. -/
def Dev.needPages (d : Dev) (q c cls root : Nat) : List Nat → Bool × Dev
  | [] => (true, d)
  | i :: is => match d.needPage q c cls root i with
    | (some d, _) => d.needPages q c cls root is
    | (none, d) => (false, d)

/-- A slot of the projected table (R287): what the planner reads of it. -/
structure PSlot where
  q : Nat
  state : Nat
  cls : Nat
  ctx : Nat
  len : Nat
  plen : Nat
  seg : Nat
  segs : Nat
  carry : Nat
  held : Nat
  slack : Int
  token : Nat
  deriving DecidableEq, Repr

/-- Read a slot of a table at T(n + 2). -/
def Dev.pslot (d : Dev) (q : Nat) (t2 : Int) : PSlot :=
  { q := q, state := d.sqState q, cls := d.sqClass q, ctx := d.sqCtx q, len := d.sqLen q, plen := d.sq q 0x20 22 0
    seg := d.sq q 0xA0 22 0, segs := d.sq q 0xA0 45 23, carry := d.sq q 0xA0 46 46, held := d.sq q 0xA0 54 47
    slack := if d.sqState q = Sq.DECODING then ((d.sq q 0x98 63 0 + d.sq q 0x10 31 0 : Nat) : Int) - t2
             else ((d.sq q 0x08 63 0 : Nat) : Int) - t2
    token := d.sq q 0x88 63 32 }

/-- Class descending, slack ascending, slot ascending (R291). -/
def PSlot.before (a b : PSlot) : Bool :=
  a.cls > b.cls || (a.cls == b.cls && (decide (a.slack < b.slack) || (a.slack == b.slack && a.q < b.q)))
def insSlot (x : PSlot) : List PSlot → List PSlot
  | [] => [x]
  | y :: ys => if x.before y then x :: y :: ys else y :: insSlot x ys
def sortSlots (l : List PSlot) : List PSlot := l.foldl (fun a x => insSlot x a) []

/-- Urgent under R290; with FILL_WAIT 0 every candidate is. -/
def Dev.urgent (d : Dev) (s : PSlot) : Bool :=
  let fw := d.intf Reg.INT_CTL 15 8
  decide (s.slack < ((1000 * d.intf (Reg.CLASS s.cls) 19 0 : Nat) : Int)) || s.held ≥ fw || fw == 0

/-- Segments of an item whose last position is `last` (R293): SEGS, whether this is the last one. -/
def Dev.segments (d : Dev) (s : PSlot) (last : Nat) : Nat × Bool :=
  let p := last / 2 ^ d.tpp + 1
  let n := if s.segs ≠ 0 then s.segs else cdiv p d.pagesMax
  if n ≤ 1 then (1, true) else (n, s.seg + 1 == n)

/-! ## The plan as data (R294 to R296) -/

/-- The page-list entries of an item: those of its segment. -/
def Dev.pageList (d : Dev) (s : PSlot) (root last segs : Nat) : List Nat :=
  let p := last / 2 ^ d.tpp + 1
  let idx := if segs ≤ 1 then List.range p
    else ((List.range d.pagesMax).map (s.seg * d.pagesMax + ·)).filter (· < p)
  idx.map fun i => d.kvEntry root i

/-- The pages of the prompt tokens a chunk covers. -/
def promptPages (va start count : Nat) : List Nat :=
  let a := (va + 4 * start) / 65536
  let b := (va + 4 * (start + count) - 1) / 65536
  (List.range (b + 1 - a)).map fun i => 2 ^ 63 + (a + i) * 65536

/-- Words 0 to 3 of a descriptor (R296). -/
def Dev.descriptor (d : Dev) (s : PSlot) (i : Item) (pos npages nprompt : Nat) : List Nat :=
  let w0 := s.q + 2 ^ 16 + b2n i.lastSeg * 2 ^ 17 + s.carry * 2 ^ 18 + b2n i.lastChunk * 2 ^ 19 + s.cls * 2 ^ 20
    + pos * 2 ^ 24 + npages * 2 ^ 48 + (if i.chunk then (i.count - 1) * 2 ^ 56 else 0)
  let w1 := (if i.segs > 1 then s.seg else 0) + d.sq s.q 0x48 5 0 * 2 ^ 24 + (if i.chunk then nprompt else s.token) * 2 ^ 32
  [w0, w1, d.sq s.q 0x30 63 0, d.sq s.q 0x38 63 0]

/-- A page of the plan buffers is written line by line, its blocks NONE (R314). -/
def Dev.planStore (d : Dev) (c b off : Nat) (bs : List Byte) : Dev :=
  match d.planAddr c b off with
  | some a => d.store a bs
  | none => d
/-- A block of page lists is written whole, with its block check value (R294). -/
def Dev.listBlock (d : Dev) (c b off : Nat) (bs : List Byte) : Dev :=
  match d.planAddr c b off with
  | some a => let bs := padTo 4096 bs
              d.storeBlock a bs 1 (crc64 bs) fun _ => false
  | none => d
/-- A context of the job whose table maps the plan buffers. -/
def Dev.jobCtx (d : Dev) (b : Nat) : Nat :=
  ((findAll 64 fun c => tst (d.int Reg.INT_JOB_CTX) c && (d.planAddr c b 0).isSome).head?).getD 64

def maskBytes (l : List Nat) : List Byte := toBytes 32 (l.eraseDups.foldl (fun m i => m + 2 ^ i) 0)

/-- The lanes with a valid row, and the chunks that stand. -/
def Plan.laneSet (p : Plan) : List Nat := ((p.items.filter fun i => !i.chunk && i.valid).map (·.idx / 16)).eraseDups
def Plan.chunkSet (p : Plan) : List Nat := (p.items.filter fun i => i.chunk && i.valid).map (·.idx)
def Plan.chunks (p : Plan) : Nat := (p.items.filter (·.chunk)).length
def Plan.rows (p : Plan) : Nat := (p.items.filter fun i => !i.chunk).length

/-- The current copies once the running frame has committed (R136). -/
def Dev.nextCopies (d : Dev) : W64 := match d.planRun with
  | some p => d.copyBits ^^^ p.flip
  | none => d.copyBits

/-- The summary (R295). -/
def Dev.summary (d : Dev) (p : Plan) : List Byte :=
  let va := d.intf Reg.INT_JOB 47 24 * 2 ^ 24 + p.buf * 0x800000
  let head := toBytes 8 p.id ++ toBytes 8 (p.lanes + p.chunks * 2 ^ 16 + p.var * 2 ^ 32 + b2n p.update * 2 ^ 40)
    ++ toBytes 8 d.nextCopies.toNat ++ toBytes 8 p.flip.toNat ++ maskBytes p.laneSet ++ maskBytes p.chunkSet
    ++ toBytes 8 (d.rn Reg.PLAN_E)
  padTo 0x400 head ++ (List.range 128).flatMap fun i => toBytes 8 (2 ^ 63 + va + 65536 * i)

/-- An item with what is written of it: descriptor words and page list. -/
structure Planned where
  slot : PSlot
  item : Item
  pos : Nat
  lists : List Nat
  nprompt : Nat
  deriving DecidableEq, Repr

/-- The bytes of the descriptors of rows or of chunks, in order; absent ones zero. -/
def Dev.descBytes (d : Dev) (l : List Planned) (n : Nat) : List Byte :=
  (List.range n).flatMap fun i => match l.find? (·.item.idx == i) with
    | some x => (d.descriptor x.slot x.item x.pos x.lists.length x.nprompt).flatMap (toBytes 8)
    | none => List.replicate 32 0

/-- Write a plan into its buffer. -/
def Dev.writePlan (d : Dev) (tbl : Dev) (p : Plan) (l : List Planned) : Dev :=
  let c := d.jobCtx p.buf
  let rows := l.filter fun x => !x.item.chunk
  let chunks := l.filter fun x => x.item.chunk
  let d := d.planStore c p.buf 0 (d.summary p)
  let d := d.each (List.range 32) fun d i =>
    d.planStore c p.buf (0x10000 + 4096 * i) ((tbl.descBytes rows 4096).drop (4096 * i) |>.take 4096)
  let d := d.each (List.range 2) fun d i =>
    d.planStore c p.buf (0x30000 + 4096 * i) ((tbl.descBytes chunks 256).drop (4096 * i) |>.take 4096)
  let bytes (l : List Planned) (size i : Nat) : List Byte := match l.find? (·.item.idx == i) with
    | some x => padTo size (x.lists.flatMap (toBytes 8))
    | none => List.replicate size 0
  let d := d.each (((chunks.map (·.item.idx / 4)).eraseDups)) fun d k =>
    d.listBlock c p.buf (0x40000 + 4096 * k) ((List.range 4).flatMap fun i => bytes chunks 1024 (4 * k + i))
  d.each ((rows.map (·.item.idx / 8)).eraseDups) fun d k =>
    d.listBlock c p.buf (0x100000 + 4096 * k) ((List.range 8).flatMap fun i => bytes rows 512 (8 * k + i))

/-! ## Building a plan (R286, R287, R291) -/

/-- The table as the commit of frame n will leave it if it commits (R287); only its sequence table is read. -/
def Dev.projected (d : Dev) (n : Nat) (now : Nat) : Dev :=
  let p := match d.planRun with
    | some p => (d.advances n now p false).1
    | none => d
  p.each d.reqs fun d r => (d.command r).getD d

/-- Slots that take part: their context in the job, their port not fenced (R291). -/
def Dev.takesPart (d p : Dev) (q : Nat) : Bool :=
  tst (d.int Reg.INT_JOB_CTX) (p.sqCtx q) && !d.portFenced (d.sqPort q)

/-- Whether a projected slot holds a sequence that is still to be admitted: GEN counts its admissions. -/
def Dev.admitting (d p : Dev) (q : Nat) : Bool := d.sq q 0 31 16 != p.sq q 0 31 16
/-- The root of a projected slot's table in the real state: its own, or allocated now for a sequence about to be admitted. -/
def Dev.rootFor (d p : Dev) (q : Nat) : Option Nat × Dev :=
  if d.admitting p q then d.kvRootOf q (p.sqCtx q) else (some (p.sqRoot q), d)

/-- The pages an item needs: those that cover positions 0 to its last (R293). -/
def Dev.itemPages (d : Dev) (last : Nat) : List Nat := List.range (last / 2 ^ d.tpp + 1)
/-- Make pages of a projected slot mapped; none may lie on an unavailable stack (R332). -/
def Dev.slotPages (d p : Dev) (s : PSlot) (idx : List Nat) : Bool × Dev :=
  match d.rootFor p s.q with
  | (none, d) => (false, d)
  | (some r, d) => d.needPages (if d.admitting p s.q then nextSeq s.q else s.q) s.ctx s.cls r idx

/-- Chunks of one sequence: up to `take`, ending before the first whose pages cannot be mapped and after one that is not the
last segment of its item. -/
def Dev.takeChunks (d p : Dev) (s : PSlot) (idx : Nat) : (take j : Nat) → List Planned × Bool × Dev
  | 0, _ => ([], false, d)
  | k + 1, j =>
    let start := s.len + 256 * j
    let left := s.plen - start
    let count := min 256 left
    let last := start + count - 1
    let (segs, lastSeg) := d.segments s last
    match d.slotPages p s (d.itemPages last) with
    | (false, d) => ([], true, d)
    | (true, d) =>
      let root := ((d.rootFor p s.q).1).getD 0
      let prompt := promptPages (p.sq s.q 0x18 47 0) start count
      let item : Item := { chunk := true, idx := idx, slot := s.q, state := s.state, count := count, segs := segs,
                           lastSeg := lastSeg, lastChunk := count == left }
      let x : Planned := { slot := s, item := item, pos := start, lists := prompt ++ d.pageList s root last segs, nprompt := prompt.length }
      if !lastSeg || left ≤ 256 then ([x], false, d)
      else
        let (xs, bad, d) := d.takeChunks p s (idx + 1) k (j + 1)
        (x :: xs, bad, d)

/-- The chunks of every prefill candidate in order. -/
def Dev.planChunks (d p : Dev) (v : Nat) : List PSlot → (units n : Nat) → List Planned × Dev
  | [], _, _ => ([], d)
  | s :: ss, units, n =>
    let left := cdiv (s.plen - s.len) 256
    let lim := if s.segs > 1 then 1 else max 1 (d.intf (Reg.CLASS s.cls) 39 32)
    let take := min (min left lim) (min (d.varCap v 31 23 - n) (units / d.varUnit v))
    let (xs, bad, d) := d.takeChunks p s n take 0
    let d := d.when bad (·.inc Reg.NOPAGE)
    let (ys, d) := d.planChunks p v ss (units - xs.length * d.varUnit v) (n + xs.length)
    (xs ++ ys, d)

/-- Shed the last chunk, then the last lane, while some member's prediction exceeds its budget (R291): lanes, chunks kept, and
whether nothing was left to shed. -/
def shed (ms : List Figures) : (fuel lanes chunks : Nat) → Nat × Nat × Bool
  | 0, lanes, chunks => (lanes, chunks, false)
  | k + 1, lanes, chunks =>
    if ms.all fun m => m.energy lanes chunks ≤ m.budget then (lanes, chunks, false)
    else if chunks > 0 then shed ms k lanes (chunks - 1)
    else if lanes > 0 then shed ms k (lanes - 1) chunks
    else (0, 0, true)

/-- The candidates whose pages up to their next position are mapped and available (R291, R332), and the state after the allocations. -/
def Dev.mappable (d p : Dev) : List PSlot → List PSlot × Dev
  | [] => ([], d)
  | s :: ss =>
    let (ok, d) := d.slotPages p s (d.itemPages s.len)
    let d := d.when (!ok) (·.inc Reg.NOPAGE)
    let (r, d) := d.mappable p ss
    (if ok then s :: r else r, d)

/-- The lanes to plan for a sorted list of decode candidates (R291). A segmented item that this order or the fill rule passes over is not planned in
that frame, although R293 has it planned in each (DESIGN CHOICE, log entry 98). -/
def Dev.laneCount (d : Dev) (dec : List PSlot) (v : Nat) : Nat × Nat :=
  let nmax := min dec.length (16 * min (d.varCap v 22 14) (d.varCap v 13 0))
  let full := nmax / 16
  let rest := nmax % 16
  let lanes :=
    if full < d.intf Reg.INT_CTL 24 16 then
      (if (dec.take nmax).any d.urgent then cdiv nmax 16 else 0)
    else if rest > 0 && ((dec.take nmax).drop (16 * full)).any d.urgent then full + 1 else full
  (lanes, nmax)

/-- A decode row of a plan. -/
def Dev.planRow (d p : Dev) (s : PSlot) (idx : Nat) : Planned :=
  let (segs, lastSeg) := d.segments s s.len
  let root := ((d.rootFor p s.q).1).getD 0
  { slot := s, item := { chunk := false, idx := idx, slot := s.q, state := s.state, count := 1, segs := segs, lastSeg := lastSeg }
    pos := s.len, lists := d.pageList s root s.len segs, nprompt := 0 }

/-- Whether the plan's frame is an update frame (R295), counted on if frame n commits. -/
def Dev.updateNext (d : Dev) : Bool :=
  let every := d.intf Reg.INT_TRAIN 15 0
  let acc := match d.planRun with
    | some p => if p.update then 0 else d.rf Reg.INT_TRAIN 47 32 + 1
    | none => d.rf Reg.INT_TRAIN 47 32 + 1
  every != 0 && acc + 1 == every

/-- The figures the planner fits a shape to: this device's and the members' latest (R302). -/
def Dev.members (d : Dev) (own : Figures) : List Figures := own :: d.figures.filter (·.member != d.myId)

/-- The buffer not held by the running plan (R294). -/
def Dev.nextBuf (d : Dev) : Nat := match d.planRun with
  | some p => if p.built then 1 - p.buf else p.buf
  | none => 0

/-- PLAN_E of a plan, in µJ: the prediction rounded up, the budget rounded down (R304). -/
def Dev.showEnergy (d : Dev) (pred : Int) : Dev :=
  d.wr Reg.PLAN_E (w64 ((((pred + 999999) / 1000000).toNat % 2 ^ 32) * 2 ^ 32 + (d.budget / 1000000).toNat % 2 ^ 32))
/-- PLAN_ID, PLAN_SHAPE and the pages named, as the latest plan leaves them (R299, R304, R325). -/
def Dev.showPlan (d : Dev) (p : Plan) (l : List Planned) : Dev :=
  let d := d.wr Reg.PLAN_ID (w64 p.id)
  let d := d.wr Reg.PLAN_SHAPE (w64 (p.var * 2 ^ 56 + p.lanes * 2 ^ 47 + p.chunks * 2 ^ 38 + p.rows * 2 ^ 25))
  let pages := (l.flatMap fun x => x.lists.map fun e => (x.slot.ctx, bits e 47 16)).eraseDups
  let d := d.each pages fun d m => match d.walk m.1 (m.2 * 65536) with
    | some l => d.touch (l.frame * 65536)
    | none => d
  { d with handed := d.handed ++ pages, named := (d.named ++ pages).eraseDups }

/-- TILE.SWITCH of the group's tiles from a plan (R69, R83). -/
def Dev.writeLists (d : Dev) (p : Option Plan) : Dev :=
  d.each (d.tiles.map (·.1)) fun d t =>
    let v := match p, d.logOf t with
      | some p, some l => if p.empty || !(d.tile t).inGroup then 0 else smGet (fun _ => 0) p.lists l
      | _, _ => 0
    d.twr t Reg.SWITCH (v &&& regImpl (Reg.tile t Reg.SWITCH))

/-- The empty plan of a frame for which no plan was built: it stands in no buffer. It is an update frame as R295 counts. -/
def Dev.noPlan (d : Dev) (id : Nat) : Plan :=
  let every := d.intf Reg.INT_TRAIN 15 0
  let up := every != 0 && d.rf Reg.INT_TRAIN 47 32 + 1 == every
  { id := id, buf := d.nextBuf, update := up, flip := if up then d.int Reg.INT_FLIP_CTX else 0, built := false }

/-- The empty plan for a frame (R289). -/
def Dev.emptyPlan (d : Dev) (id : Nat) : Plan :=
  let up := d.updateNext
  { id := id, buf := d.nextBuf, update := up, flip := if up then d.int Reg.INT_FLIP_CTX else 0 }

/-- The plan for frame n + 1 (R286 to R293). -/
def Dev.buildPlan (d : Dev) (us : Nat) : Dev :=
  let n := d.frame
  let now := (d.frameT (n + 1)).toNat
  let t2 := d.frameT (n + 2)
  let op := d.planOp us
  let p := d.projected n now
  let base := d.emptyPlan (n + 1)
  let slots := (p.liveSlots.filter (d.takesPart p)).map fun q => p.pslot q t2
  let cand := slots.filter (·.state == Sq.DECODING)
  match d.variants.find? (d.varFits op) with
  | none =>
    let d := d.showEnergy 0
    let plan : Plan := { base with passed := cand.map (·.q) }
    ({ (d.writePlan p plan []).showPlan plan [] with planNext := some plan }).writeLists (some plan)
  | some v =>
    let (ok, d) := d.mappable p cand
    let dec := sortSlots ok
    let (lanes, nmax) := d.laneCount dec v
    let rows := dec.take (min nmax (16 * lanes))
    let pre := sortSlots (slots.filter fun s => s.state == Sq.WAITING || s.state == Sq.PREFILLING)
    let (chunks, d) := d.planChunks p v pre (d.varCap v 13 0 - lanes) 0
    let own := d.ownFigures n v op
    let ms := d.members own
    let (lanes', nch, none') := shed ms (lanes + chunks.length + 1) lanes chunks.length
    let d := (d.add Reg.SHED_CHUNKS (chunks.length - nch)).add Reg.SHED_LANES (lanes - lanes')
    let rows := rows.take (16 * lanes')
    let l := ((List.range rows.length).zip rows).map (fun x => d.planRow p x.2 x.1) ++ chunks.take nch
    let plan : Plan := { base with var := v, lanes := lanes', items := l.map (·.item), lists := if none' then [] else d.template v
                                   empty := none', passed := (cand.map (·.q)).filter fun q => !rows.any (·.q == q) }
    let d := d.showEnergy (own.energy lanes' nch)
    ({ (d.writePlan p plan l).showPlan plan l with planNext := some plan }).writeLists (some plan)

/-! ## The check of window PLAN_WIN (R298) -/

def Dev.planWin (d : Dev) : Nat := d.intf Reg.INT_JOB 23 20
/-- Physical tiles of the job's contexts, with context and slot. -/
def Dev.jobTiles (d : Dev) : List (Nat × Nat) :=
  (findAll 64 fun c => tst (d.int Reg.INT_JOB_CTX) c).flatMap fun c => (d.ctxTiles c).map fun e => (e.1, c)
def Dev.checkHeaders (d : Dev) : Dev :=
  let w := d.planWin
  let tiles := (d.jobTiles.map (·.1)).eraseDups
  let fits (t : Nat) : Bool := d.winTagged t w && !d.winPersist t w && d.winWRemote t w
  let good (t : Nat) : Bool := d.winValid t w && tst (d.int Reg.INT_JOB_CTX) (d.winCtx t w) && fits t
  let d := d.add Reg.NOPAGE (tiles.filter (!good ·)).length
  -- the manual names no class or detail for this entry: class 31, with free details (log entry 3)
  let d := d.each (tiles.filter fun t => d.winValid t w && !fits t) fun d t =>
    let (a, d) := d.draw
    let (b, d) := d.draw
    d.varveLog 31 2 0 t {} a b
  { d with hdrOk := tiles.filter good }

/-! ## The patch (R301) -/

/-- Rewrite one item's descriptor: VALID, and the input token a row takes (R296, R301). -/
def Dev.patchItem (d : Dev) (b c : Nat) (i : Item) : Dev :=
  let off := if i.chunk then 0x30000 + 32 * i.idx else 0x10000 + 32 * i.idx
  match d.planAddr c b off with
  | none => d
  | some a =>
    let w0 := (put (w64 (d.rdNum a 8)) 16 16 (b2n i.valid)).toNat
    let d := d.storeNum a 8 w0
    if i.chunk || !i.valid then d
    else d.storeNum (a + 8) 8 (put (w64 (d.rdNum (a + 8) 8)) 63 32 (d.sq i.slot 0x88 63 32)).toNat

/-- Patch a plan: items whose slots `drop` names lose VALID, and lanes left with no valid row their mask bit. -/
def Dev.patchPlan (d : Dev) (p : Plan) (drop : Item → Bool) : Plan × Dev :=
  let gone := p.items.filter fun i => i.valid && drop i
  let items := p.items.map fun i => if i.valid && drop i then { i with valid := false } else i
  let p' := { p with items := items }
  let c := d.jobCtx p.buf
  let d := d.add Reg.LATE gone.length
  let d := d.each items fun d i => d.patchItem p.buf c i
  let d := match d.planAddr c p.buf 0x20 with
    | some a => d.store a (maskBytes p'.laneSet)
    | none => d
  (p', d)
/-- The plan already built is patched for slots no longer in the state it assumed. -/
def Dev.patchNext (d : Dev) : Dev :=
  match d.planNext with
  | none => d
  | some p =>
    let (p, d) := d.patchPlan p fun i => d.sqState i.slot != i.state
    { d with planNext := some p }
/-- Plans already built leave out the slots of a port whose fence begins (R520). -/
def Dev.patchPort (d : Dev) (port : Nat) : Dev :=
  match d.planNext with
  | none => d
  | some p =>
    let (p, d) := d.patchPlan p fun i => d.sqPort i.slot == port
    { d with planNext := some p }

/-! ## Groups of devices (R302, R448) -/

/-- PLAN_US within its range (R303). -/
def Dev.planUs (d : Dev) : Nat := max 10 (min 1000 (d.intf Reg.INT_CTL 41 32))
def Dev.intRole (d : Dev) : Nat := d.intf Reg.INT_CTL 62 61
def Dev.intOn (d : Dev) : Bool := tst (d.int Reg.INT_CTL) 63
def Dev.children (d : Dev) : List Nat := findAll 24 fun k => d.rb Reg.VOTE_TREE k
def Dev.parentLink (d : Dev) : Option Nat :=
  let k := d.rf Reg.VOTE_TREE 36 32
  if k < 24 && !d.rb Reg.VOTE_TREE 63 then some k else none

/-- The leader's message: the summary, the row and chunk descriptors, and the commands applied with their ports and numbers. -/
def Dev.planMsg (d : Dev) (p : Plan) : List Byte :=
  let c := d.jobCtx p.buf
  let get (off n : Nat) : List Byte := match d.planAddr c p.buf off with
    | some a => d.rdBytes a n
    | none => List.replicate n 0
  get 0 4096 ++ (List.range (16 * p.lanes)).flatMap (fun i => get (0x10000 + 32 * i) 32)
    ++ (List.range p.chunks).flatMap (fun i => get (0x30000 + 32 * i) 32)
    ++ toBytes 8 d.reqs.length ++ d.reqs.flatMap fun r => toBytes 8 (r.num + r.port * 2 ^ 63) ++ padTo 128 r.bytes
/-- Send the leader's message down the tree, 240 bytes a cell. -/
def Dev.sendPlan (d : Dev) (p : Plan) : Dev :=
  let m := d.planMsg p
  d.each (List.range (cdiv m.length 240)) fun d i =>
    d.each d.children fun d k =>
      d.sendMsg k 11 (toBytes 8 p.id ++ toBytes 8 (240 * i) ++ (m.drop (240 * i)).take 240)

/-- Send a follower's figures up the tree. -/
def Dev.sendFigures (d : Dev) (k : Nat) (m : Figures) : Dev :=
  let w (x : Int) : List Byte := toBytes 8 (BitVec.ofInt 64 x).toNat
  d.sendMsg k 12 (toBytes 8 m.frame ++ w m.fix ++ w m.lane ++ w m.chunk ++ w m.budget)

/-- The leader has every member's figures of this frame. -/
def Dev.figuresIn (d : Dev) : Bool :=
  let have' := ((d.figures.filter (·.frame == d.frame)).map (·.member)).eraseDups.length
  have' + 1 ≥ d.groupSize && have' ≥ d.children.length

/-- Build the leader's plan and send it. -/
def Dev.leadPlan (d : Dev) (us : Nat) : Dev :=
  let d := { d.buildPlan us with planWait := false }
  match d.planNext with
  | some p => d.sendPlan p
  | none => d

/-- The leader's message once it is whole: its bytes in order. -/
def joinParts (l : List (Nat × List Byte)) (n : Nat) : Option (List Byte) :=
  let m := (List.range (cdiv n 240)).map fun i => (l.find? (·.1 == 240 * i)).map (·.2)
  if m.all Option.isSome then some ((m.flatMap fun x => x.getD []).take n) else none

/-- The items of a plan message. -/
def msgItem (m : List Byte) (off idx : Nat) (chunk : Bool) (segsOf : Nat → Nat → Nat) (stateOf : Nat → Nat) : Option Item :=
  let w0 := ofBytes ((m.drop off).take 8)
  if !bit w0 16 then none else
  let q := bits w0 15 0
  let count := if chunk then bits w0 63 56 + 1 else 1
  some { chunk := chunk, idx := idx, slot := q, state := stateOf q, count := count, segs := segsOf q (bits w0 46 24 + count - 1), lastSeg := bit w0 17, lastChunk := chunk && bit w0 19 }

/-- The requests of a plan message. -/
def msgReqs (m : List Byte) : Nat → List Req
  | 0 => []
  | k + 1 =>
    let w := ofBytes (m.take 8)
    ⟨b2n (bit w 63), w % 2 ^ 63, (m.drop 8).take 128⟩ :: msgReqs (m.drop 136) k

/-- The running frame, or the one it replays, has no plan, and this is the frame it lacks the plan of. -/
def Dev.lacksPlan (d : Dev) (frame : Nat) : Bool := match d.planRun with
  | some p => !p.built && p.id == frame
  | none => false

/-- The offsets of the row descriptors, the chunk descriptors and the commands in a plan message, from word 1 of its summary. -/
def msgRows : Nat := 4096
def msgChunks (m : List Byte) : Nat := msgRows + 512 * bits (ofBytes ((m.drop 8).take 8)) 8 0
def msgCmds (m : List Byte) : Nat := msgChunks m + 32 * bits (ofBytes ((m.drop 8).take 8)) 24 16

/-- The message of which these are the parts, once it is whole (R448). -/
def msgWhole (l : List (Nat × List Byte)) : Option (List Byte) :=
  match joinParts l 4096 with
  | none => none
  | some h => match joinParts l (msgCmds h + 8) with
    | none => none
    | some h => joinParts l (msgCmds h + 8 + 136 * ofBytes ((h.drop (msgCmds h)).take 8))

/-- The commands the leader applied are the follower's own. Where the plan comes after its frame has begun, they are applied, or refused and
counted, at once (R285, R302). -/
def Dev.takeCmds (d : Dev) (frame : Nat) (m : List Byte) : Dev :=
  let cmds := msgReqs (m.drop (msgCmds m + 8)) (ofBytes ((m.drop (msgCmds m)).take 8))
  if d.lacksPlan frame then d.each cmds fun d r => (d.command r).getD (d.inc Reg.REFUSED) else { d with reqs := cmds }

/-- A follower builds the leader's plan, with the page lists of its own table (R302). Without a page the plan needs it has no plan, and keeps the
message for the replay. A plan that comes after its frame has begun takes the place of the empty plan the follower runs, for the
replay. A plan of no lanes and no chunks is the empty one where no variant fits, or its fixed figure alone exceeds the budget of the leader or of
this device (DEDUCED, log entry 101: the message does not say). -/
def Dev.followPlan (d : Dev) (frame : Nat) (m : List Byte) : Dev :=
  let w := ofBytes ((m.drop 8).take 8)
  let lanes := bits w 8 0; let nch := bits w 24 16; let v := bits w 33 32
  let late := d.lacksPlan frame
  let t2 := d.frameT (frame + 1)
  let p := d.projected d.frame (d.frameT frame).toNat
  let segsOf (q last : Nat) : Nat := max 1 (d.segments (p.pslot q t2) last).1
  let items := (List.range (16 * lanes)).filterMap (fun i => msgItem m (msgRows + 32 * i) i false segsOf p.sqState)
    ++ (List.range nch).filterMap (fun i => msgItem m (msgChunks m + 32 * i) i true segsOf p.sqState)
  let base := d.emptyPlan frame
  let build (x : Option (Dev × List Planned)) (i : Item) : Option (Dev × List Planned) :=
    match x with
    | none => none
    | some (d, l) =>
      let s := p.pslot i.slot t2
      let off := if i.chunk then msgChunks m + 32 * i.idx else msgRows + 32 * i.idx
      let pos := bits (ofBytes ((m.drop off).take 8)) 46 24
      let last := pos + i.count - 1
      match d.slotPages p s (d.itemPages last) with
      | (false, _) => none
      | (true, d) =>
        let root := ((d.rootFor p s.q).1).getD 0
        let prompt := if i.chunk then promptPages (p.sq s.q 0x18 47 0) pos i.count else []
        some (d, l ++ [{ slot := s, item := i, pos := pos, lists := prompt ++ d.pageList s root last i.segs, nprompt := prompt.length }])
  match items.foldl build (some (d, [])) with
  | none => if late then d else { d with planNext := none }
  | some (d, l) =>
    let op := d.planOp d.planUs
    let own := d.ownFigures frame v op
    let e := ofBytes ((m.drop 0x60).take 8)
    let none' := lanes = 0 ∧ nch = 0 ∧ ((d.variants.find? (d.varFits op)).isNone ∨ bits e 63 32 > bits e 31 0 ∨ own.budget < own.fix)
    let dec := p.liveSlots.filter fun q => d.takesPart p q && p.sqState q == Sq.DECODING
    let plan : Plan := { base with var := v, lanes := lanes, items := items, lists := if none' then [] else d.template v, empty := none'
                                   update := bit w 40, flip := w64 (ofBytes ((m.drop 0x18).take 8))
                                   passed := dec.filter fun q => !items.any fun i => !i.chunk && i.slot == q }
    let d := d.showEnergy (if none' then 0 else own.energy lanes nch)
    let d := { (d.writePlan p plan l).showPlan plan l with planIn := [] }
    if late then { d with planRun := some plan } else ({ d with planNext := some plan }).writeLists (some plan)

/-- A cell of the leader's message arrives: forwarded down the tree, kept, and the plan taken once it is whole. While ENABLE is 0 the follower takes
no plan (R303). -/
def Dev.takePlanCell (d : Dev) (frame off : Nat) (bytes : List Byte) : Dev :=
  let d := d.each d.children fun d k => d.sendMsg k 11 (toBytes 8 frame ++ toBytes 8 off ++ bytes)
  if d.intRole ≠ 2 || !d.intOn || !d.framesRun || !(frame == d.frame + 1 || d.lacksPlan frame) then d else
  let had := d.planIn.filter fun (x : Nat × Nat × List Byte) => x.1 == frame && x.2.1 != off
  let parts := had ++ [(frame, off, bytes)]
  match msgWhole (had.map (·.2)), msgWhole (parts.map (·.2)) with
  | none, some m => (({ d with planIn := parts }).takeCmds frame m).followPlan frame m
  | _, _ => { d with planIn := parts }

/-- A replay runs the leader's plan on every member: a follower that could not map a page of it tries again (R302). -/
def Dev.retryPlan (d : Dev) : Dev := match d.replay, d.planRun with
  | true, some p =>
    match (if p.built then none else msgWhole ((d.planIn.filter fun (x : Nat × Nat × List Byte) => x.1 == p.id).map (·.2))) with
    | some m => d.followPlan p.id m
    | none => d
  | _, _ => d

end Sys2Proof.Machine
end

