-- ==== Sys2Proof/Machine/Host.lean ====
section
/-! DEFINITION. The host ports: the steward lease (R461), control entries (R465, R466), copies (R470), copy windows (R471), and
the reset of a port (R479, R480). -/

namespace Sys2Proof.Machine

/-! ## The steward lease (R461) -/

/-- Vector 2 on both ports (R475). -/
def Dev.leaseVectors (d : Dev) : Dev := (d.msix 0 2).msix 1 2
/-- The lease ends: 0 released, 1 lapsed (R534 class 32). -/
def Dev.endLease (d : Dev) (why : Nat) : Dev :=
  if !d.rb Reg.STEWARD 63 then d else
  let h := d.rf Reg.STEWARD 62 62
  let d := (d.wf Reg.STEWARD 63 63 0).wf Reg.STEWARD 31 0 0
  (d.varveLog 32 0 6 h { port := some h } (w64 why) (w64 (d.rf Reg.STEWARD 47 32))).leaseVectors
def doRenew (p : Nat) (d : Dev) : Dev := if d.isSteward p then d.wf Reg.STEWARD 31 0 3000 else d
/-- A claim takes a free lease once the port is ready, or renews the port's own. -/
def doClaim (p : Nat) (d : Dev) : Dev :=
  if d.rb Reg.STEWARD 63 then doRenew p d
  else if !d.ready (readyPort p) || !d.served then d
  else (d.wr Reg.STEWARD (w64 (2 ^ 63 + p * 2 ^ 62 + (d.rf Reg.STEWARD 47 32 + 1) % 65536 * 2 ^ 32 + 3000))).leaseVectors
def doLeaseRelease (p : Nat) (d : Dev) : Dev := if d.isSteward p then d.endLease 0 else d

/-! ## Control entries (R465, R466) -/

def entryWords (e : CtrlEntry) : List W64 := [e.w1, e.w2, e.w3, e.w4, e.w5, e.w6, e.w7]
/-- Whether reserved bits and the words from the n-th on are zero. -/
def entryClean (e : CtrlEntry) (n : Nat) : Bool := e.resv == 0 && ((entryWords e).drop n).all (· == 0)
/-- Whether a context exists and belongs to a port (R460). -/
def Dev.owns (d : Dev) (p c : Nat) : Bool := d.ctxPort c == some p
/-- The CONTROL record of an entry that ends where it was fetched. -/
def Dev.entryEnd (d : Dev) (p op : Nat) (e : CtrlEntry) (status : Nat) : Dev := d.control p e.tag.toNat op e.ctx.val status 0
/-- Whether what a port asks for is refused: a fence of the port or of the device has begun (R517). -/
def Dev.hostFenced (d : Dev) (p : Nat) : Bool := d.portFenced p || d.fences.contains .device
/-- Whether an entry of a port that names a context is refused: its context's fence has begun too; a context that reads FENCED may be loaded
again or destroyed (R517, R527). -/
def Dev.entryFenced (d : Dev) (p c : Nat) : Bool := d.hostFenced p || d.fences.contains (.context c)
/-- Whether work for a context is refused with FENCED. -/
def Dev.workFenced (d : Dev) (p c : Nat) : Bool := d.hostFenced p || d.ctxFencing c
def Dev.loadingCtx (d : Dev) (c : Nat) : Bool := d.loading.any (·.ctx == c)

/-- CREATE: the context exists with an empty page table. -/
def doCreate (p : Nat) (e : CtrlEntry) (d : Dev) : Dev :=
  let c := e.ctx.val
  if !entryClean e 0 || d.ctxState c != 0 then d.entryEnd p 1 e St.INVALID
  else if d.hostFenced p then d.entryEnd p 1 e St.FENCED else
  match (if d.locked then d.newNode 4096 c none else (none, d)) with
  | (none, _) => d.entryEnd p 1 e St.NO_MEMORY
  | (some a, d) =>
    let d := (d.setCtx c (some { port := p })).wr (Reg.CTX c) (w64 (2 ^ 61 + p * 2 ^ 60))
    (d.wr (Reg.PTROOT c) (w64 (2 ^ 63 + a))).entryEnd p 1 e 0

/-- LOAD: the descriptor is checked, and the load begins. -/
def doLoad (p : Nat) (e : CtrlEntry) (desc code : List Byte) (d : Dev) : Dev :=
  let c := e.ctx.val
  let len := e.w2.toNat
  if !entryClean e 2 || !d.owns p c then d.entryEnd p 2 e St.INVALID
  else if d.entryFenced p c then d.entryEnd p 2 e St.FENCED
  else if d.loadingCtx c then d.entryEnd p 2 e St.BUSY
  else if d.ctxTiles c != [] then d.entryEnd p 2 e St.INVALID
  else
    let status := d.checkDesc (desc.take len) len
    if status = 0 then d.beginLoad c p e.tag.toNat (desc.take len) code else d.entryEnd p 2 e status
def doLoadComplete (c : Nat) (d : Dev) : Dev :=
  match d.loading.find? (·.ctx == c) with
  | some l => d.finishLoad l
  | none => d

/-- Whether the job, an enabled stream, a copy window or a schedule names a context. -/
def Dev.ctxNamed (d : Dev) (c : Nat) : Bool :=
  d.rb Reg.INT_JOB_CTX c || tst (d.int Reg.INT_JOB_CTX) c
    || (List.range 64).any (fun s => (tst (d.streamView (Reg.OSTR_CFG s)) 63 && regionCtx (d.streamView (Reg.OSTR_SRC s)) == c)
        || (tst (d.streamView (Reg.ISTR_CFG s)) 63 && regionCtx (d.streamView (Reg.ISTR_DST s)) == c)
        || (d.rb (Reg.OSTR_CFG s) 63 && regionCtx (d.rd (Reg.OSTR_SRC s)) == c)
        || (d.rb (Reg.ISTR_CFG s) 63 && regionCtx (d.rd (Reg.ISTR_DST s)) == c))
    || (List.range 8).any (fun w => d.rb (Reg.CWIN w) 63 && d.rf (Reg.CWIN w) 57 52 == c)
    || (List.range 8).any (fun n => d.rb (Reg.SCH_CTL n) 63 && d.rf (Reg.SCH_CTL n) 53 48 == c)
def Dev.ctxBusy (d : Dev) (c : Nat) : Bool :=
  d.launches.any (·.ctx == c) || d.copies.any (·.ctx == c) || d.loadingCtx c

/-- The end of a context: its tiles, sequences, pages, nodes and root (R324, R466). -/
def Dev.destroyCtx (d : Dev) (c : Nat) : Dev :=
  let d := d.freeTiles c
  let d := d.each (d.liveSlots.filter fun q => d.sqCtx q == c && d.sqState q != Sq.EMPTY) fun d q =>
    (d.kvRelease q).setSq q 0 2 0 Sq.EMPTY
  let d := d.each (d.pages.flatMap fun x => x.maps.filter (·.1 == c)) fun d m => d.unmapPage m.1 m.2
  let d := { d with nodes := d.nodes.filter (·.ctx != c) }
  ((d.setCtx c none).wr (Reg.CTX c) 0).wr (Reg.PTROOT c) 0
def doDestroy (p : Nat) (e : CtrlEntry) (d : Dev) : Dev :=
  let c := e.ctx.val
  if !entryClean e 0 || !d.owns p c then d.entryEnd p 3 e St.INVALID
  else if d.entryFenced p c then d.entryEnd p 3 e St.FENCED
  else if d.ctxBusy c then d.entryEnd p 3 e St.BUSY
  else if d.ctxNamed c then d.entryEnd p 3 e St.INVALID
  else (d.destroyCtx c).entryEnd p 3 e 0

/-- LAUNCH: one launch on every tile of a loaded free-running context. -/
def doLaunch (p : Nat) (e : CtrlEntry) (d : Dev) : Dev :=
  let c := e.ctx.val
  let ts := d.ctxTiles c
  if !entryClean e 0 || !d.owns p c then d.entryEnd p 4 e St.INVALID
  else if d.workFenced p c then d.entryEnd p 4 e St.FENCED
  else if d.loadingCtx c then d.entryEnd p 4 e St.BUSY
  else if ts == [] || d.ctxIsCad c || (d.ctxState c != 3 && d.ctxState c != 5) then d.entryEnd p 4 e St.INVALID
  else
    let l : Launch := { id := d.nextLaunch, ctx := c, port := p, tag := e.tag.toNat, left := ts.map (·.1) }
    let d := { d with launches := d.launches ++ [l], nextLaunch := d.nextLaunch + 1 }
    d.each ts fun d x => d.upd x.1 fun y => { y with launches := y.launches ++ [⟨x.2, l.id⟩] }

/-- Fences whose domains have nothing outstanding left proceed to their reset (R517). -/
def Dev.settleFences (d : Dev) : Dev :=
  d.each d.fences fun d x => match x with
    | .context c => if d.outstanding c = 0 then d.resetContext c else d
    | _ => d
/-- A launch every tile of which has halted or faulted ends (R466, R514). -/
def doLaunchEnd (c : Nat) (d : Dev) : Dev :=
  match d.launches.find? fun l => l.ctx == c && l.left == [] with
  | some l => ((d.endLaunch l (if l.fault.isSome then St.FAULTED else 0)).when l.iso (·.isoDone)).settleFences
  | none => d

/-! ## Copies (R470) -/

/-- The physical address of a line of a copy, or the status its failure ends the copy with. -/
def Dev.copyAddr (d : Dev) (c va : Nat) (wr : Bool) : Except Nat Nat :=
  match (if va < 2 ^ 48 then d.translate c va wr else none) with
  | none => .error St.PAGE
  | some pa => if d.stackUp ((stackOf pa).getD 0) then .ok pa else .error St.TIER_BUSY
/-- One 64-byte unit of a copy moves. -/
def Dev.copyUnit (d : Dev) (k : Copy) (host : List Byte) (errs : LineErrs) (i : Nat) : Except Nat Dev :=
  match k.kind with
  | 0 => match d.copyAddr k.ctx (k.dst + 64 * i) true with
    | .ok pa => .ok ((d.writeLine pa (padTo 64 ((host.drop (64 * i)).take 64)) false []).setKind pa 0)
    | .error e => .error e
  | 1 => match d.copyAddr k.ctx (k.src + 64 * i) false with
    | .ok pa =>
      let ((bad, _), d) := d.readLine pa errs
      let bs := d.rdBytes pa 64
      .ok (d.emit (if bad then .hostPoison k.port (k.dst + 64 * i) bs else .host k.port (k.dst + 64 * i) bs))
    | .error e => .error e
  | _ => match d.copyAddr k.ctx (k.src + 64 * i) false, d.copyAddr k.ctx (k.dst + 64 * i) true with
    | .ok pa, .ok pb =>
      let ((bad, _), d) := d.readLine pa errs
      .ok ((d.writeLine pb (d.rdBytes pa 64) bad []).setKind pb 0)
    | .error e, _ => .error e
    | _, .error e => .error e
/-- The units of a copy from the i-th on: how it ends, and the units moved. -/
def Dev.copyUnits (d : Dev) (k : Copy) (host : List Byte) (errs : LineErrs) : (left i : Nat) → (Nat × Nat) × Dev
  | 0, i => ((0, i), d)
  | n + 1, i => match d.copyUnit k host errs i with
    | .ok d => d.copyUnits k host errs n (i + 1)
    | .error e => ((e, i), d)

/-- The lines of a cell of a copy, from the i-th of the copy on: bytes and the poison of each. -/
def Dev.cellLines (d : Dev) (k : Copy) (errs : LineErrs) : (n i : Nat) → Except Nat ((List Byte × Nat) × Dev)
  | 0, _ => .ok (([], 0), d)
  | n + 1, i => match d.copyAddr k.ctx (k.src + 64 * i) false with
    | .error e => .error e
    | .ok pa =>
      let ((bad, _), d) := d.readLine pa errs
      match d.cellLines k errs n (i + 1) with
      | .error e => .error e
      | .ok ((bs, side), d') => .ok ((d.rdBytes pa 64 ++ bs, b2n bad + 16 * side), d')
/-- The cells of a copy to a peer, four lines each: what R471 leaves of a cell's layout is log entry 25's. -/
def Dev.copyCells (d : Dev) (k : Copy) (errs : LineErrs) : (cells i : Nat) → Except Nat (List QCell × Dev)
  | 0, _ => .ok ([], d)
  | n + 1, i =>
    let m := min 4 (k.units - i)
    match d.cellLines k errs m i with
    | .error e => .error e
    | .ok ((bs, side), d) => match d.copyCells k errs n (i + m) with
      | .error e => .error e
      | .ok (cs, d) =>
        .ok (({ typ := 1, cls := if k.be then 3 else 2, w1 := word1 false 0 k.win d.myId k.peer side
                w2 := m * 2 ^ 48 + (k.dst + 64 * i) % 2 ^ 48, block := k.units - i - m, payload := bs, copy := some k.id } : QCell) :: cs, d)
/-- A copy to a peer starts: its cells are queued on the link that leads there. -/
def Dev.sendCopy (d : Dev) (k : Copy) (errs : LineErrs) : Dev :=
  match d.copyCells k errs (cdiv k.units 4) 0 with
  | .error e => d.endCopy k e 0
  | .ok (cs, d) => match d.route (if k.be then 3 else 2) k.peer k.win with
    | none => (d.add Reg.DISCARD cs.length).endCopy k St.LINK_DOWN 0
    | some l =>
      let d := { d with copies := updIf (·.id == k.id) (fun x => { x with sent := true }) d.copies }
      d.each cs fun d c => d.sendCell l c
/-- The copies of a port under way: up to 16, in ring order. -/
def Dev.running (d : Dev) (p : Nat) : List Copy := (d.copies.filter (·.port == p)).take 16
def Dev.startCopies (d : Dev) (p : Nat) (errs : LineErrs) : Dev :=
  d.each ((d.running p).filter fun k => k.kind == 2 && !k.sent) fun d k => d.sendCopy k errs

/-- COPY: checked and started, or kept until one of the 16 ends. -/
def doCopy (p : Nat) (e : CtrlEntry) (errs : LineErrs) (d : Dev) : Dev :=
  let c := e.ctx.val
  let kind := fld e.w3 34 32
  let len := fld e.w3 29 0
  let w4ok := if kind = 2 then fld e.w4 31 17 == 0 && fld e.w4 63 35 == 0 else e.w4 == 0
  if !entryClean e 4 || !d.owns p c || fld e.w3 31 30 != 0 || fld e.w3 63 36 != 0 || !w4ok || len = 0 || len > 2 ^ 24 || kind > 3
      || e.w1.toNat % 64 != 0 || e.w2.toNat % 64 != 0 then d.entryEnd p 5 e St.INVALID
  else if d.workFenced p c then d.entryEnd p 5 e St.FENCED
  else
    let k : Copy := { id := d.nextCopy, port := p, tag := e.tag.toNat, ctx := c, kind := kind, src := e.w1.toNat, dst := e.w2.toNat,
                      units := len, be := tst e.w3 35, peer := fld e.w4 16 0, win := fld e.w4 34 32 }
    ({ d with copies := d.copies ++ [k], nextCopy := d.nextCopy + 1 }).startCopies p errs

/-- Whether cells of a copy wait or are unacknowledged. -/
def Dev.cellsOut (d : Dev) (id : Nat) : Bool :=
  d.links.any fun l => l.2.queue.any (·.copy == some id) || l.2.sent.any (·.cell.copy == some id)
/-- A copy under way ends (R470, R471); one to a peer only once it is refused or every cell is acknowledged. -/
def doCopyEnd (p n : Nat) (host : List Byte) (refused : Bool) (errs : LineErrs) (d : Dev) : Dev :=
  match (d.running p)[n]? with
  | none => d
  | some k =>
    let d := if k.kind = 2 then
        (if refused then d.endCopy k St.WINDOW 0 else if d.cellsOut k.id then d else d.endCopy k 0 k.units)
      else
        let ((status, moved), d) := d.copyUnits k host errs k.units 0
        d.endCopy k status moved
    (d.startCopies p errs).settleFences

/-- A write of a copy window's register by the port that owns its context, at once or when the copies into it end (R471). The
context is the one the window names and, for a write of CWINw, the one the write names. -/
def doCopyWindow (p w : Nat) (range : Bool) (v : W64) (d : Dev) : Dev :=
  let held := d.rf (Reg.CWIN w) 57 52
  let open' := d.rb (Reg.CWIN w) 63
  let ok := if range then d.owns p held else d.owns p (fld v 57 52) && (!open' || d.owns p held)
  let off := if range then Reg.CWINR w else Reg.CWIN w
  if !ok then d
  else if d.cwinBusy.contains w then { d with cwinPend := d.cwinPend ++ [(off, v &&& regImpl off)] }
  else d.wr off (v &&& regImpl off)

/-! ## Port reset (R479, R480) -/

def bar2Reset : Nat → Nat := fun _ => 36
def secureReset : Nat → Secure := fun _ => {}
def Dev.sec (d : Dev) (p : Nat) : Secure := smGet secureReset d.boot.secure p
def Dev.setSec (d : Dev) (p : Nat) (x : Secure) : Dev := { d with boot := { d.boot with secure := smSet secureReset d.boot.secure p x } }
def Dev.inL0 (d : Dev) (p : Nat) : Bool := d.l0.getLsbD p
def Dev.setL0 (d : Dev) (p : Nat) (v : Bool) : Dev :=
  { d with l0 := if v then d.l0 ||| BitVec.ofNat 2 (2 ^ p) else d.l0 &&& ~~~(BitVec.ofNat 2 (2 ^ p)) }
/-- The port registers that a port reset returns to their reset values. -/
def portCleared (p : Nat) : List Nat :=
  [Reg.P_REC p, Reg.P_CTRL p, Reg.P_CQ p, Reg.P_WIN p, Reg.P_WINERR p, Reg.P_WINCOUNT p, Reg.P_CQ_WR p, Reg.P_LOST p, Reg.PUB p, Reg.RING p]

/-- A port is fenced and reset (R479, R516 to R520). -/
def Dev.fencePort (d : Dev) (p : Nat) : Dev :=
  let n := (d.copies.filter (·.port == p)).length
  let d := (d.wr (Reg.P_CTL p) (put (regReset (Reg.P_CTL p)) 62 62 1)).setReady (readyPort p) false
  let d := (d.when (d.isSteward p) (·.endLease 0)).patchPort p
  let d := d.each (d.copies.filter (·.port == p)) fun d k => d.endCopy k St.FENCED_ABORT 0
  let d := d.each (findAll 64 fun c => d.owns p c) fun d c => d.fenceContext c
  let d := { d with backlog := d.backlog.filter (·.port != p), wrote := d.wrote &&& ~~~(BitVec.ofNat 2 (2 ^ p)) }
  let d := if p = 0 then { d with cqRead0 := 0 } else { d with cqRead1 := 0 }
  let d := (d.each (portCleared p) fun d o => d.wr o (regReset o)).latch (portCleared p)
  let d := { d with msixMask := d.msixMask ||| BitVec.ofNat 8 (15 * 16 ^ p), msixPend := d.msixPend &&& ~~~(BitVec.ofNat 8 (15 * 16 ^ p))
                    boot := { d.boot with bar2 := smSet bar2Reset d.boot.bar2 p 36 } }
  fenceEntry (d.setSec p {}) 6 n { port := some p } 6 p

/-- PERST#, a hot reset, a link-down or a function level reset. The function level reset is complete, and the link still in L0,
when the fence holds; after the others the port trains again. -/
def doPortReset (p : Nat) (k : PortResetKind) (d : Dev) : Dev :=
  let d := d.fencePort p
  match k with
  | .flr => d
  | .perst => { d.setL0 p false with boot := { d.boot with perstOff := d.boot.perstOff &&& ~~~(BitVec.ofNat 2 (2 ^ p)) } }
  | _ => d.setL0 p false
/-- RESUME ends a fence once the port is in L0 (R480). -/
def doPortResume (p : Nat) (d : Dev) : Dev :=
  if d.portFenced p && d.inL0 p then (d.wf (Reg.P_CTL p) 62 62 0).setReady (readyPort p) true else d
/-- A TLP that fails its IDE check is dropped and reported, and the port is fenced (R478). -/
def doIdeCheckFail (p : Nat) (d : Dev) : Dev := if (d.sec p).ide then (d.emit (.aer p)).fencePort p else d

end Sys2Proof.Machine
end

