-- ==== Sys2Proof/Machine/Recovery.lean ====
section
/-! DEFINITION. Reset commands and fences (R516 to R519, R526, R528), heartbeats and restores (R521, R522), and the commands of
the varve log (R531, R536). -/

namespace Sys2Proof.Machine

/-! ## DEV.RSTp (R528) -/

/-- A command of DEV.RSTp begins, unless one runs. -/
def Dev.rstStart (d : Dev) (p op target : Nat) : Option Dev :=
  if d.rb (Reg.RST_CMD p) 63 then none else some (d.wr (Reg.RST_CMD p) (w64 (2 ^ 63 + op * 2 ^ 60 + target)))
/-- It ends where it was issued. -/
def Dev.rstStop (d : Dev) (p status : Nat) : Dev := (d.wf (Reg.RST_CMD p) 63 63 0).wr (Reg.RST_STATUS p) (w64 status)

/-- The context reset of a free-running context by its owner (R526). -/
def doContextReset (p c : Nat) (d : Dev) : Dev :=
  match d.rstStart p 1 c with
  | none => d
  | some d =>
    if !d.owns p c || d.ctxIsCad c || d.ctxTiles c == [] then d.rstStop p St.INVALID
    else if d.ctxFencing c then d.rstStop p St.FENCED
    else (d.fastReset c).rstStop p 0
/-- The fence of a context by its owner (R517); one already fencing is joined (R519). -/
def doContextFence (p c : Nat) (d : Dev) : Dev :=
  match d.rstStart p 2 c with
  | none => d
  | some d =>
    if !d.owns p c then d.rstStop p St.INVALID
    else if d.ctxFencing c then d.rstStop p St.FENCED
    else d.fenceContext c

/-- Requests outstanding in a tile domain, and in the device. -/
def Dev.tileOut (d : Dev) (t : Nat) : Nat :=
  (d.tile t).xfers.length + (d.tile t).launches.length + (d.tile t).cur.toList.length + (d.flits.filter (·.src == t)).length
def Dev.deviceOut (d : Dev) : Nat :=
  d.launches.length + d.copies.length + d.loading.length + d.flits.length + (d.tiles.map fun e => e.2.xfers.length).sum
/-- Steps 3 and 4 of a tile's fence, and its base image by unicast (R501, R516). -/
def Dev.finishTile (d : Dev) (t : Nat) (bad : List Nat) : Dev :=
  let n := d.tileOut t
  let d := { d with fences := d.fences.filter (· != Domain.tile t) }
  let d := ((d.resetTile t).loadImage t bad).upd t fun x => { x with fenced := false }
  fenceEntry (d.rstEnd 3 t 0) 1 n {} 0 t
def doTileReset (p t : Nat) (bad : List Nat) (d : Dev) : Dev :=
  if !d.isSteward p then d else
  match d.rstStart p 3 t with
  | none => d
  | some d =>
    if (d.tile t).fenced || d.fences.contains .device then d.rstStop p St.FENCED else
    let d := (d.when (d.tile t).inGroup (·.cause 10)).upd t fun x => { x with fenced := true }
    if d.tileOut t = 0 then d.finishTile t bad else { d with fences := d.fences ++ [.tile t] }

/-- The device as bring-up begins: nothing stands but the firn registers (R482, R516), and what the board drives. -/
def Dev.fromPower (d : Dev) : Dev :=
  { firn := d.firn, wear := d.wear, out := d.out, free := d.free, powered := true, boot := { perstOff := d.boot.perstOff } }
/-- Steps 3 and 4 of the device's fence: bring-up runs again from stage 1 (R484, R516). -/
def Dev.resetDevice (d : Dev) : Dev := fenceEntry { d.fromPower with firnQ := d.firnQ } 7 d.deviceOut {} 9 0
def doDeviceReset (p : Nat) (d : Dev) : Dev :=
  if !d.isSteward p then d else
  match d.rstStart p 4 0 with
  | none => d
  | some d =>
    if d.fences.contains .device then d.rstStop p St.FENCED
    else if d.deviceOut = 0 then d.resetDevice
    else { d.cause 10 with fences := d.fences ++ [.device] }

/-- DRAIN_US has passed for a domain: what is outstanding is aborted, and the domain is reset (R517). -/
def doDrainExpiry (x : DrainOf) (bad : List Nat) (d : Dev) : Dev :=
  match x with
  | .context c => if d.fences.contains (.context c.val) then d.resetContext c.val else d
  | .tile t => if d.fences.contains (.tile t.val) then d.finishTile t.val bad else d
  | .port p => d.each (findAll 64 fun c => d.owns p.val c && d.fences.contains (.context c)) fun d c => d.resetContext c
  | .device => if d.fences.contains .device then d.resetDevice else d

/-! ## Heartbeats (R521) -/

/-- Tiles that send heartbeats and receive the base image: serving tiles, and a row's unused spare. -/
def Dev.aliveTile (d : Dev) (t : Nat) : Bool :=
  !(d.tile t).dead && ((d.logOf t).isSome || (physCol t == 12 && d.bypass (physField t) (physRow t) == 12))
/-- A heartbeat window ends: a tile whose second heartbeat in a row did not come is dead. -/
def doHeartbeat (missed : List Nat) (d : Dev) : Dev :=
  let d := d.each (d.tiles.map (·.1)) fun d t => if missed.contains t then d else d.upd t fun x => { x with missed := 0 }
  d.each (missed.filter fun t => d.ready (readyField (physField t)) && d.aliveTile t) fun d t =>
    if (d.tile t).missed ≥ 1 then (d.upd t fun x => { x with missed := 0 }).loseTile t true
    else d.upd t fun x => { x with missed := 1 }
/-- The oldest restore under way completes (R522). -/
def doRestore (d : Dev) : Dev :=
  match d.restores.find? (!·.done) with
  | some x => d.completeRestore x
  | none => d

/-! ## The varve log (R531, R536) -/

/-- The early buffer is written to the ring, in order, under the limits of R536. -/
def Dev.flushEarly (d : Dev) : Dev :=
  let l := d.varve.early
  ({ d with varve := { d.varve with early := [] } }).each l fun d e =>
    match d.toRing e with
    | (d, some f) => { d with varve := { d.varve with latest := updIf (· == e) (fun _ => f) d.varve.latest } }
    | (d, none) => { d with varve := { d.varve with latest := d.varve.latest.filter (· != e) } }
/-- ENABLE of VRV.CTL, by the steward; setting it needs the ring in a reserved range (R537). -/
def doVarveCtl (p : Nat) (v : Bool) (d : Dev) : Dev :=
  if !d.isSteward p then d
  else if !v then d.wr Reg.VRV_CTL 0
  else if d.inResv d.vrvBase && d.inResv (d.vrvBase + 2 ^ 22 - 1) && !d.vrvOn then (d.wr Reg.VRV_CTL (w64 (2 ^ 63))).flushEarly
  else d
/-- A whole second of ITG.CLOCK ends: every class may add 1,024 entries again (R536). -/
def doRateSecond (d : Dev) : Dev :=
  { d.atMs ((d.rn Reg.ITG_CLOCK / 1000 + 1) * 1000) with varve := { d.varve with second := [] } }

end Sys2Proof.Machine
end

