-- ==== Sys2Proof/Machine/Boot.lean ====
section
/-! DEFINITION. Bring-up (R482 to R501): the boot bundle, the stages, field waves, the tile image, bundle pushes; and the commands
of the firn window (R511). -/

namespace Sys2Proof.Machine

/-! ## Stages (R482) -/

def Dev.stage (d : Dev) : Nat := d.rf Reg.BOOT_STATUS 59 56
/-- STAGE shows the latest stage begun. -/
def Dev.stageUp (d : Dev) (n : Nat) : Dev := if d.stage < n then d.wf Reg.BOOT_STATUS 59 56 n else d
def Dev.recovery (d : Dev) : Bool := d.rb Reg.BOOT_STATUS 63
/-- A function is ready; a failed bit it has is cleared (R499). -/
def Dev.nowReady (d : Dev) (n : Nat) : Dev := ((d.setReady n true).wf (readyOff n + 0x10) (n % 64) (n % 64) 0).checkReady

/-- VIN_48 is lost (R544): completed firn writes stand, and nothing else survives. -/
def doPowerLoss (d : Dev) : Dev := { firn := d.firn, wear := d.wear, out := d.out, free := d.free }
/-- Power-good (R482): stage 1 begins, and the power-on is counted (R508). -/
def doPowerGood (d : Dev) : Dev := if d.powered then d else d.fromPower.firnCount 0

/-- What the device shows of the firn registers once stage 1 has reconciled them: identity, calibration, phases, lanes,
the subsystem identifiers, retired frames and soft repairs (R318, R336, R390, R417, R418, R452, R459, R508). -/
def Dev.showFirn (d : Dev) : Dev :=
  let w (n : Nat) : Nat := d.firnRd n
  let d := (d.wr Reg.SERIAL (w64 (w 0x38 + w 0x39 * 2 ^ 32))).wr Reg.DEV_ID
    (w64 (0xA007 * 2 ^ 48 + w 0x3B % 256 * 2 ^ 40 + w 0x3B / 256 % 256 * 2 ^ 32 + w 0x3A))
  let d := d.each (List.range 4) fun d n => (d.wf (Reg.OP n) 15 0 (w (0x200 + n))).wf (Reg.OP n) 47 32 (w (0x204 + n))
  let d := { d.wf Reg.PWR_CTL 15 8 (w 0x208) with subsys := BitVec.ofNat 32 (w 0x82) }
  let d := d.each (List.range 16) fun d f => d.loadPhases f
  let d := d.each (List.range 24) fun d k => d.wf (Reg.L_LANES k) 33 17 (d.badLanes k)
  d.each ((List.range 4096).filter fun i => bit (w (0x2000 + 2 * i)) 31) fun d i =>
    let a := w (0x2000 + 2 * i); let b := w (0x2001 + 2 * i)
    let s := bits a 29 24
    if bit a 30 then
      { d.wf (Reg.STACK s) 60 48 (min 8191 (d.rf (Reg.STACK s) 60 48 + 1)) with outFrames := d.outFrames ++ [b] }
    else { d with softUsed := d.softUsed ++ [(s, bits a 23 19, bits a 18 13)] }
/-- Stage 1 ends, and stage 2 begins with what the two flash slots hold (R485). -/
def doFirstStage (a b : List Byte) (d : Dev) : Dev :=
  if !d.powered || d.stage != 1 then d
  else { d.showFirn.stageUp 2 with boot := { d.boot with slotA := a, slotB := b } }

/-! ## The boot bundle (R485 to R488) -/

/-- SVN of a bundle. -/
def bundleSvn (b : List Byte) : Nat := sliceNum b 8 4
/-- The manifest and component table are well formed (R486, R487; step 1 of R488). -/
def bundleForm (b : List Byte) : Bool :=
  let total := sliceNum b 0x10 8
  let n := bundleComps b
  let comps := (List.range n).map (compEntry b)
  let count (ty : Nat) : Nat := (comps.filter (·.1 == ty)).length
  sliceNum b 0 4 == 0x42425141 && sliceNum b 4 2 == 1 && total ≤ 2 ^ 22 && total ≤ b.length && 0x900 ≤ total
    && zeroBetween b 6 2 && zeroBetween b 0x1C 4 && zeroBetween b 0x60 32 && (n == 3 || n == 4)
    && 2 ≤ imageCount b && imageCount b ≤ 9
    && count 1 == 1 && count 2 == 1 && count 3 == 1 && comps.all (fun c => 1 ≤ c.1 && c.1 ≤ 4)
    && (List.range n).all (fun i => zeroBetween b (0x84 + 96 * i) 4 && zeroBetween b (0x98 + 96 * i) 8)
    && zeroBetween b (0x80 + 96 * n) (96 * (16 - n)) && zeroBetween b (0x680 + 8 * imageCount b) (8 * (64 - imageCount b))
    && comps.all (fun c => c.2.1 + c.2.2 ≤ total) && (component b 1).length == 4096 * imageCount b
/-- The lock word (R508). -/
def Dev.lockBit (d : Dev) (i : Nat) : Bool := bit (d.firnView 0) i
/-- Verification (R488): 0, or the status of the first failure. -/
def Dev.checkBundle (d : Dev) (b : List Byte) : Nat :=
  let msg := toBytes 64 (sha (slice b 0 0x880))
  if !bundleForm b then St.INVALID
  else if sha (slice b 0x20 32) ≠ Config.vendorKeyHash.toNat || !sigOk (slice b 0x20 32) msg (slice b 0x880 64) then St.AUTH_FAIL
  else if d.lockBit 1 && (sha (slice b 0x40 32) ≠ d.ownerHash || !sigOk (slice b 0x40 32) msg (slice b 0x8C0 64)) then St.AUTH_FAIL
  else if bundleSvn b < d.firnView 1 then St.INVALID
  else if !(List.range (bundleComps b)).all (fun i =>
      sha (slice b (compEntry b i).2.1 (compEntry b i).2.2) == sliceNum b (0xA0 + 96 * i) 64) then St.INVALID
  else if !(List.range (imageCount b)).all (fun j => crc64 (imageBlock b j) == sliceNum b (0x680 + 8 * j) 8) then St.INVALID
  else 0

/-- A verified bundle is held until the next device reset (R485). -/
def Dev.takeBundle (d : Dev) (b : List Byte) (slot : Nat) (pushed : Bool) : Dev :=
  let d := { d with ownerPub := BitVec.ofNat 256 (sliceNum b 0x40 32), boot := { d.boot with bundle := b, lastSlot := slot, scriptRan := false } }
  let d := (((d.wf Reg.BOOT_STATUS 31 0 (bundleSvn b)).wf Reg.BOOT_STATUS 62 62 slot).wf Reg.BOOT_STATUS 61 61 (b2n pushed)).wf Reg.BOOT_STATUS 63 63 0
  d.nowReady 0
/-- Stage 2 ends: the slot with the higher SVN is verified, then the other; without one the device is in recovery (R485, R489). -/
def doBundleVerified (d : Dev) : Dev :=
  if d.stage ≠ 2 then d else
  let first := if bundleSvn d.boot.slotB > bundleSvn d.boot.slotA then 1 else 0
  let at' (n : Nat) : List Byte := if n = 0 then d.boot.slotA else d.boot.slotB
  let d := if d.checkBundle (at' first) = 0 then d.takeBundle (at' first) first false
    else if d.checkBundle (at' (1 - first)) = 0 then d.takeBundle (at' (1 - first)) (1 - first) false
    else (d.wf Reg.BOOT_STATUS 63 63 1).firnCount 4
  d.stageUp 3

/-- Stage 3 ends: the edge ring and the mesh are locked (R365, R482). In recovery stage 5 does not run. -/
def doClockLock (d : Dev) : Dev :=
  if d.stage < 3 || d.ready 1 then d
  else (((d.wf Reg.CLK_STATUS 63 62 3).nowReady 1).stageUp 4).when (!d.recovery) (·.stageUp 5)
def doPerst (p : Nat) (d : Dev) : Dev := { d with boot := { d.boot with perstOff := d.boot.perstOff ||| BitVec.ofNat 2 (2 ^ p) } }
def noWidth : Nat → Nat := fun _ => 0
/-- A bridge whose attachment runs below 144 GB/s trains at no more than x8, and the limit is reported; detail B of the entry is open, there being
neither ring entry nor record (R39, R534; log entry 3). -/
def Dev.widthLimit (d : Dev) (p : Nat) (m : Modules) (w : Nat) : Dev :=
  let d := { d.setUcie (24 + p) m with boot := { d.boot with width := smSet noWidth d.boot.width p (if m.rate < 144 then min 8 w else w) } }
  if m.rate ≥ 144 then d else
  let (v, d) := d.draw
  d.varveLog 31 2 6 p { port := some p } 2 v
/-- A port is trained (R480, R482): it is in L0, and ready unless it is fenced. Over a bridge without one module in use nothing trains (DEDUCED,
log entry 102). -/
def doPortTrained (p : Nat) (m : Modules) (w : Nat) (d : Dev) : Dev :=
  if !d.ready 1 || !d.boot.perstOff.getLsbD p || m.rate = 0 then d
  else ((d.widthLimit p m w).setL0 p true).when (!d.portFenced p) (·.nowReady (readyPort p))

/-! ## Fields (R491 to R496) -/

/-- A wave begins once the bring-up script has run (R491, R504). -/
def doWave (n : Nat) (d : Dev) : Dev :=
  if !d.boot.scriptOk then d else
  (d.stageUp 6).each ((List.range 16).filter fun f => fieldX f + fieldY f == n) fun d f => d.waveField f

/-- Physical tiles of a field that receive the image. -/
def Dev.imageTiles (d : Dev) (f : Nat) : List Nat := ((List.range 104).map (104 * f + ·)).filter d.aliveTile
def Dev.incomplete (d : Dev) (f : Nat) : List Nat := (d.imageTiles f).filter fun t => d.trf t Reg.TLOAD 17 16 == 0
/-- A field is ready (R496): its stacks that await their first training are taken in order, HBM before LPDDR (R497). -/
def Dev.fieldReady (d : Dev) (f : Nat) : Dev :=
  let d := d.when (d.rn Reg.T_FIRST == 0) (·.wr Reg.T_FIRST (d.rd Reg.ITG_CLOCK))
  let d := (d.nowReady (readyField f)).checkHomes.showSeams f
  let other (s : Nat) : Nat := if (homes s).1 = f then (homes s).2 else (homes s).1
  let new := findAll 36 fun s => ((homes s).1 == f || (homes s).2 == f) && stackState d s == 4
    && (!d.failedBit (readyStack s) || !d.ready (readyField (other s))) && !d.training.contains s && !d.trainWait.contains s
  { d with trainWait := d.trainWait ++ new }
def Dev.imageDone (d : Dev) (f : Nat) : Dev := if !d.ready (readyField f) && d.incomplete f = [] then d.fieldReady f else d
/-- The image is broadcast into a field whose wave has ended (R495). -/
def doBroadcast (f : Nat) (bad : List (Nat × Nat)) (d : Dev) : Dev :=
  if d.fieldState f ≠ 2 || d.ready (readyField f) || d.boot.bundle == [] then d else
  ((d.stageUp 7).each (d.imageTiles f) fun d t => d.loadImage t ((bad.filter (·.1 == t)).map (·.2))).imageDone f

/-- A tile that stays incomplete is failed: its row's map changes, in firn too, and an entry reports it (R496). -/
def Dev.failImage (d : Dev) (t : Nat) : Dev :=
  let f := physField t; let r := physRow t
  let (b, ab) := d.rowAfter f r (physCol t)
  let d := ((d.twf t Reg.TLOAD 17 16 2).upd t fun x => { x with dead := true })
  let d := (d.setRow f r b ab).1
  let d := d.each (d.besideRow f r) (·.showPorts ·)
  d.varveLog 23 2 0 t {} 0 (w64 (d.rf (Reg.ROWMAP f) (8 * r + 7) (8 * r)))
/-- 5 ms after the broadcast or the last round (R496). -/
def doRepairRound (f : Nat) (bad : List (Nat × Nat)) (d : Dev) : Dev :=
  if d.fieldState f ≠ 2 || d.boot.bundle == [] then d else
  (d.each (d.incomplete f) fun d t =>
    let n := d.trf t Reg.TLOAD 11 10
    if n = 3 then d.failImage t
    else (d.twf t Reg.TLOAD 11 10 (n + 1)).sendBlocks t ((bad.filter (·.1 == t)).map (·.2))).imageDone f

/-! ## Stacks and links (R497, R498) -/

def doFirstTraining (d : Dev) : Dev := if d.trainWait = [] then d else (d.stageUp 8).nextTraining
/-- Link training begins once no stack awaits its first training: DEVID from the board defaults is locked, masked links are
disabled, the others attempt (R430, R498). -/
def doLinkBringup (d : Dev) : Dev :=
  if d.stage ≥ 9 || !d.boot.scriptOk || (List.range 36).any (fun s => stackState d s == 4 && !d.failedBit (readyStack s)) then d else
  let d := d.stageUp 9
  let id := d.firnView 0x80
  let d := d.when (bit id 31) (·.wr Reg.DEVID (w64 (2 ^ 63 + bits id 16 0)))
  let mask := d.firnView 0x81
  (d.each (List.range 24) fun d k =>
    if bit mask k then (d.wf (Reg.L_CTL k) 63 63 0).dropLink k 6 else if d.linkState k = 0 then d.startAttempt k else d).checkReady

/-! ## Pushes (R489, R490) -/

def Dev.setPush (d : Dev) (x : Option Push) : Dev := { d with boot := { d.boot with push := x } }
def Dev.pushStatus (d : Dev) (s : Nat) : Dev := d.wf Reg.PUSH_STATUS 15 0 s
/-- START of BOOT.PUSH_CTL. On a running device only the steward pushes, and only to store. -/
def doPushStart (p : Nat) (store : Bool) (d : Dev) : Dev :=
  if d.lockBit 2 then d.pushStatus St.INVALID
  else if d.boot.push.isSome || (!d.recovery && !d.isSteward p) then d.pushStatus St.BUSY
  else if !d.recovery && !store then d.pushStatus St.INVALID
  else ((d.setPush (some { port := p, store := store })).wr Reg.PUSH_STATUS (w64 (2 ^ 63))).wf Reg.PUSH_CTL 61 61 (b2n store)
def doPushData (p : Nat) (v : W64) (d : Dev) : Dev :=
  match d.boot.push with
  | some x => if x.port = p && !x.storing && x.bytes.length < 2 ^ 22 then d.setPush (some { x with bytes := x.bytes ++ toBytes 8 v.toNat }) else d
  | none => d
/-- END: the bundle is verified; in recovery bring-up continues from stage 5, on a running device the bundle is stored. -/
def doPushEnd (p : Nat) (d : Dev) : Dev :=
  match d.boot.push with
  | none => d
  | some x =>
    if x.port ≠ p || x.storing then d else
    let s := d.checkBundle x.bytes
    if s ≠ 0 then (d.setPush none).wr Reg.PUSH_STATUS (w64 s)
    else if d.recovery then
      -- SLOT of a pushed bundle is undefined (R500)
      let (v, d) := d.draw
      (((d.setPush none).wr Reg.PUSH_STATUS 0).takeBundle x.bytes (v.toNat % 2) true).stageUp 5
    else d.setPush (some { x with storing := true })
/-- The write to the flash slot not used at the last start completes. -/
def doBundleStored (d : Dev) : Dev :=
  match d.boot.push with
  | some x => if x.storing then ((d.setPush none).wr Reg.PUSH_STATUS 0).emit (.flash (1 - d.boot.lastSlot) x.bytes) else d
  | none => d

/-! ## The firn window (R511) -/

/-- A command of FIRN.CMD, by the steward: refused with a status, or under way until its operation is durable. -/
def Dev.firnCmd (d : Dev) (p op word : Nat) (act : Dev → Except Nat (List (Nat × Nat))) : Dev :=
  if !d.isSteward p then d
  else if d.rb Reg.FIRN_CMD 63 then d.wn Reg.FIRN_STATUS St.BUSY
  else
    let d := d.wr Reg.FIRN_CMD (w64 (2 ^ 63 + op * 2 ^ 60 + word))
    match act d with
    | .error s => (d.wf Reg.FIRN_CMD 63 63 0).wn Reg.FIRN_STATUS s
    | .ok ws => match d.firnPut ws true with
      | (d, true) => d.firnCount 5
      | (d, false) => (d.wf Reg.FIRN_CMD 63 63 0).wn Reg.FIRN_STATUS St.WORN
/-- Words the steward may write (R508). -/
def firnGranted (w : Nat) : Bool := (0x20 ≤ w && w ≤ 0x2F) || (0x80 ≤ w && w ≤ 0x1FF)
def doFirnWrite (p w : Nat) (d : Dev) : Dev :=
  d.firnCmd p 1 w fun d => if firnGranted w then .ok [(w, d.rn Reg.FIRN_DATA)] else .error St.INVALID
def doSetLock (p : Nat) (d : Dev) : Dev :=
  d.firnCmd p 2 0 fun d =>
    let x := d.rn Reg.FIRN_DATA
    if x % 4 ≠ 0 || x / 16 ≠ 0 then .error St.INVALID else .ok [(0, d.firnView 0 ||| x)]
/-- Bytes of an array of registers. -/
def Dev.regBytes (d : Dev) (f : Nat → Nat) (n : Nat) : List Byte := (List.range n).flatMap fun i => toBytes 8 (d.rn (f i))
/-- The owner key may be replaced only under the one enrolled (R511). -/
def Dev.enrollOk (d : Dev) : Bool :=
  !d.lockBit 1 || (sha (d.regBytes Reg.AUTH_PUB 4) == d.ownerHash
    && sigOk (d.regBytes Reg.AUTH_PUB 4) (toBytes 64 (sha (d.regBytes Reg.NEWHASH 8 ++ toBytes 8 (d.rn Reg.SERIAL)))) (d.regBytes Reg.AUTH_SIG 8))
def doEnroll (p : Nat) (d : Dev) : Dev :=
  d.firnCmd p 3 0 fun d =>
    if !d.enrollOk then .error St.AUTH_FAIL else
    .ok ((List.range 16).map (fun i => (0x10 + i, d.rf (Reg.NEWHASH (i / 2)) (32 * (i % 2) + 31) (32 * (i % 2))))
      ++ [(0, d.firnView 0 ||| 2)] ++ (List.range 16).map fun i => (0x20 + i, 0))
/-- CLEAR_SHORT: the fields' marks go, and with them their state SHORTED (R397). -/
def doClearShort (p : Nat) (d : Dev) : Dev :=
  let go := d.isSteward p && !d.rb Reg.FIRN_CMD 63
  let x := d.rf Reg.FIRN_DATA 15 0
  let d := d.firnCmd p 4 0 fun d => .ok [(0x45C, d.firnView 0x45C - (d.firnView 0x45C &&& x))]
  if go && d.rb Reg.FIRN_CMD 63 then d.each (findAll 16 fun f => bit x f && d.fieldState f == 4) fun d f => d.setField f 0 else d
def doRaiseSvn (p : Nat) (d : Dev) : Dev :=
  d.firnCmd p 5 0 fun d =>
    let x := d.rn Reg.FIRN_DATA
    if d.firnView 1 ≤ x && x ≤ d.rf Reg.BOOT_STATUS 31 0 then .ok [(1, x)] else .error St.INVALID

end Sys2Proof.Machine
end

