-- ==== Sys2Proof/Machine/Cadence.lean ====
section
/-! DEFINITION. Frames: their start (R257 to R263, R68 to R70), the vote (R264 to R268), the commit and the void (R269 to R275),
and isolation frames (R524). -/

namespace Sys2Proof.Machine

/-! ## Parameters (R260) -/

/-- The limits of R260 on a value laid out as FRAME_CFG. -/
def cfgOk (v : W64) : Bool :=
  let l := fld v 13 0; let g := fld v 27 14; let i := fld v 41 28; let c := fld v 55 42
  decide (40 ≤ l) && decide (l ≤ 10000) && decide (10 ≤ g) && decide (cdiv (3 * l) 100 ≤ g) && decide (g ≤ l)
    && decide (2 ≤ c) && decide (c ≤ g) && decide (i ≤ l - g)

/-- A switch of the parameters staged for frame n takes effect: EPOCH and BASE are T(n) and n (R260). -/
def Dev.takeSwitch (d : Dev) (n : Nat) : Dev := match d.switchAt with
  | some (f, v) =>
    if f ≠ n then d else
    let t := (d.frameT n).toNat
    { ((d.wr Reg.FRAME_EPOCH (w64 t)).wr Reg.FRAME_BASE (w64 n)).wr Reg.FRAME_CFG v with switchAt := none }
  | none => d

/-! ## What the host gives (R282, R283, R463, R464) -/

/-- An entry made 128 bytes long. -/
def reqOf (p num : Nat) (b : List Byte) : Req := ⟨p, num, padTo 128 b⟩

/-- The size of a port's request ring; none stops its intake (R303). -/
def Dev.ringSize (d : Dev) (p : Nat) : Option Nat :=
  let s := d.intf (Reg.RING p) 4 0
  if 6 ≤ s ∧ s ≤ 16 then some (2 ^ s) else none

/-- A run-ahead: the record is ignored and entered in the varve log against the port (R282, R463). -/
def Dev.runAhead (d : Dev) (p count : Nat) : Dev := d.varveLog 31 2 6 p { port := some p } 0 (w64 count)

/-- The publish record of a port is read, and the entries it publishes (R282, R283). -/
def Dev.readRequests (d : Dev) (p : Nat) (pub : Option (BitVec 64)) (ring : List (List Byte)) : Dev :=
  match d.ringSize p, pub with
  | some size, some n =>
    if d.int (Reg.PUB p) = 0 || d.portFenced p || d.intRole = 2 || d.awaited.isSome then d else
    let at' := d.rn (Reg.CONSUMED p)
    let ahead := n.toNat - at'
    if n.toNat < at' || ahead > size then d.runAhead p n.toNat else
    let es := ring.take (min ahead 1024)
    { d with reqs := d.reqs ++ (List.range es.length).map fun i => reqOf p (at' + i) (nth es i []) }
  | _, _ => d

/-- The port registers whose writes take effect at a port-record read (R481). -/
def portRegs (p : Nat) : List Nat := [Reg.P_REC p, Reg.P_CTRL p, Reg.P_CQ p, Reg.P_WIN p]
def Dev.ctrlSize (d : Dev) (p : Nat) : Option Nat :=
  let s := fld (d.effRd (Reg.P_CTRL p)) 3 0
  if 4 ≤ s ∧ s ≤ 12 then some (2 ^ s) else none

/-- A port record is read (R463, R464, R474): up to 256 control entries are fetched, and what CQ_CONSUMED leaves room for is
written. The entries themselves are commands of their own. -/
def Dev.readRecord (d : Dev) (p : Nat) (rec : Option (BitVec 64 × BitVec 64)) : Dev :=
  if d.portFenced p then d else
  let d := d.latch (portRegs p)
  match rec with
  | some (ctrl, cq) =>
    if d.effRd (Reg.P_REC p) = 0 then d else
    let d := if p = 0 then { d with cqRead0 := cq.toNat } else { d with cqRead1 := cq.toNat }
    let done := d.rn (Reg.P_CTRL_DONE p)
    let d := match d.ctrlSize p with
      | some size =>
        if ctrl.toNat < done || ctrl.toNat - done > size then d.runAhead p ctrl.toNat
        else d.add (Reg.P_CTRL_DONE p) (min 256 (ctrl.toNat - done))
      | none => d
    d.drainBacklog p
  | none => d

/-! ## The tile set (R68) -/

/-- Cadence contexts whose tiles belong to the group: loaded, and neither destroyed nor fenced since. -/
def Dev.groupCtxs (d : Dev) : List Nat :=
  findAll 64 fun c => d.ctxIsCad c && (d.ctxState c == 3 || d.ctxState c == 5 || d.ctxState c == 6) && !d.ctxFencing c
def Dev.groupTiles (d : Dev) : List Nat := (d.tiles.filter (·.2.inGroup)).map (·.1)

/-- A free-running launch on a tile that enters the set goes back to the front of the tile's queue. -/
def Dev.suspendLaunch (d : Dev) (t : Nat) : Dev :=
  let d := d.when ((d.tile t).cur.isSome && d.slotState t (d.tile t).slot == 2) fun d => d.setSlotState t (d.tile t).slot 1
  d.upd t fun x => { x with launches := x.cur.toList ++ x.launches, cur := none }

/-- The set is taken: loaded cadence contexts become RESIDENT, and their tiles enter it; the others leave, and their switch lists read 0
entries (R83). -/
def Dev.takeTileSet (d : Dev) : Dev :=
  let cs := d.groupCtxs
  let d := d.each (cs.filter fun c => d.ctxState c == 3) fun d c => d.resident c
  let ts := (cs.flatMap fun c => (d.ctxTiles c).map (·.1)).eraseDups
  let d := d.each (d.groupTiles.filter fun t => !ts.contains t) fun d t => (d.twf t Reg.SWITCH 63 61 0).upd t fun x => { x with inGroup := false, list := 0, verdict := 0, mode := .idle }
  d.each ts fun d t => (d.when (!(d.tile t).inGroup) (·.suspendLaunch t)).upd t fun x => { x with inGroup := true }
/-- No frames run: every tile leaves the set. -/
def Dev.dropTileSet (d : Dev) : Dev :=
  d.each d.groupTiles fun d t => (d.twf t Reg.SWITCH 63 61 0).upd t fun x => { x with inGroup := false, list := 0, verdict := 0, mode := .idle }

/-- Beat S on a tile of the set (R69, R70, R161, R163, R213): the list is latched, registers are cleared, windows emptied. Transfers go on
(R53). -/
def Dev.enterFrame (d : Dev) (t : Nat) : Dev :=
  let d := d.applyRemaps t
  let cad := (d.heldSlots t).filter (d.isCad t)
  let d := d.each cad fun d n =>
    let d := (d.emptyWindows t (d.ctxOf t n)).latchLr t n
    d.when (d.slotState t n != 0 && d.slotState t n != 6) fun d => (d.setSlotState t n 1).twf t (Reg.CTXSTATE n) 15 3 0
  let list := d.trd t Reg.SWITCH
  let d := d.upd t fun x => { x with regs := {}, saved := [], fwd := [], inflight := [], list := list, entry := 0,
                                     slot := listSlot list 0, cur := none, reached := none, waited := 0, lastFp32 := none, lastDrain := none,
                                     lastSfu := none, activeAt := none, fpBeat := false, raise := none, ahead := 0, verdict := 0
                                     mode := if x.fenced then .idle else .entry 16 }
  d.syncSeq t 4

/-- The limiter windows of every field restart at S (R243). -/
def Dev.restartWindows (d : Dev) : Dev :=
  d.each (List.range 16) fun d f =>
    let v := d.rd (Reg.AVL f)
    let v := put v 38 32 (min (d.clampK f) (fld v 22 16 + 12))
    let v := put v 30 24 (min (d.clampK f) 12)
    d.wr (Reg.AVL f) (put (put (put v 22 16 0) 14 8 0) 4 0 0)

/-! ## The plan of a frame (R274, R289, R291) -/

/-- Whether a variant's limits hold a plan. -/
def Dev.varHolds (d : Dev) (v : Nat) (p : Plan) : Bool :=
  p.lanes ≤ d.varCap v 22 14 && p.chunks ≤ d.varCap v 31 23 && p.lanes + p.chunks * d.varUnit v ≤ d.varCap v 13 0

/-- The plan as it is replayed: with the variant that fits now (R289). -/
def Dev.replayed (d : Dev) (p : Plan) : Plan × Dev :=
  if p.empty then (p, d) else
  let cfg := d.rd Reg.FRAME_CFG
  let v := (d.variants.find? fun v => d.varFitsIn cfg (d.opIn cfg 0) v && d.varHolds v p).getD p.var
  let d := match d.planAddr (d.jobCtx p.buf) p.buf 8 with
    | some a => d.storeNum a 8 (put (w64 (d.rdNum a 8)) 33 32 v).toNat
    | none => d
  ({ p with var := v, lists := d.template v }, d)

/-- The plan the starting frame runs: the replayed one, the one built for it, or none. A voided frame's plan is replayed also once ENABLE of
INT.CTL has been cleared (R274 against R303; DESIGN CHOICE, log entry 97). -/
def Dev.choosePlan (d : Dev) (n : Nat) : Dev :=
  let (p, d) := match d.replay, d.planRun with
    | true, some p => d.replayed p
    | _, _ => ((if d.intOn then d.planNext else none).getD (d.noPlan n), d)
  let d := { d with planRun := some p, planNext := if d.replay then d.planNext else none, hdrPend := if p.built then d.hdrOk else [] }
  let d := d.when p.empty (·.inc Reg.EMPTY_PLANS)
  -- a follower without the leader's plan fails its verdict (R302)
  let d := d.when (!p.built && d.intOn && d.intRole == 2) (·.cause 7)
  d.writeLists (some p)

/-- The suspect of an isolation frame (R524): on the affected tiles the other suspects are set aside. -/
def Dev.isolateFrame (d : Dev) : Dev := match d.episode with
  | some e =>
    if e.free then d else
    match e.left with
    | [] => d
    | c :: cs =>
      let d := { d with episode := some { e with current := some c, left := cs } }
      d.each e.tiles fun d t => d.upd t fun x => { x with skipCtx := e.all.filter (· != c) }
  | none => d
def Dev.isolating (d : Dev) : Bool := match d.episode with
  | some e => !e.free && e.current.isSome
  | none => false

/-! ## Frame start (R258) -/

/-- INT registers whose writes take effect at the next intake start (R303). -/
def intRegs : List Nat :=
  (List.range 8).map (fun i => 0x200000 + 8 * i) ++ (List.range 4).map (fun i => 0x200040 + 8 * i)
    ++ (List.range 8).map Reg.CLASS ++ (List.range 4).flatMap (fun v => [Reg.VAR_CAP v, Reg.VAR_CFG v, Reg.VAR_TPL v])
    ++ (List.range 64).map Reg.COST

/-- Nothing of the ended frame's vote is left. -/
def Dev.clearVote (d : Dev) : Dev :=
  { d with causes := 0, voted := false, own := none, childVotes := [], sentUp := false, outcome := none, outAcks := [], pastInput := false
           ended := false, frameEnergy := 0, reqs := if d.awaited.isSome then d.reqs else [], planWait := false }

/-- Frame n starts. -/
def Dev.startFrame (d : Dev) (n : Nat) (first : Bool) (pubs : List (Option (BitVec 64) × List (List Byte)))
    (recs : List (Option (BitVec 64 × BitVec 64))) : Dev :=
  let d := (d.takeSwitch n).clearVote
  let d := (d.wr Reg.FRAME_NOW (w64 (2 ^ 63 + n % 2 ^ 48))).inc Reg.MEM_TICK
  let d := d.wr Reg.TB_TIME (w64 (d.frameT n).toNat)
  let d := { d with frameBeat := d.rn Reg.CLK_BEAT, joining := false }
  let d := d.when first (·.latch intRegs)
  -- bypass changes whose restore is complete take effect at S (R521)
  let d := d.each (d.restores.filter (·.done)) fun d r => d.applyRestore r
  let d := (d.moveSet.formLedger n).takeTileSet
  -- wires between tiles that both run cadence contexts are steered at S (R232)
  let d := d.each (d.wirePend.filter d.wireCad) fun d x => d.wireEffect x
  let ts := d.groupTiles
  let d := d.when (d.restores.any fun r => (rowFrom r.field r.row r.col).any ts.contains) (·.cause 10)
  let d := (d.retryPlan.choosePlan n).isolateFrame
  let d := { d with bars := updIf (fun b => d.ctxIsCad b.ctx) (fun b => { b with arrived := [], rel := [] }) d.bars }
  let d := d.each d.groupCtxs fun d c => d.latchSched c
  let d := d.each ts fun d t => d.enterFrame t
  let d := d.restartWindows
  let d := d.each [0, 1] fun d p => d.readRequests p (nth pubs p (none, [])).1 (nth pubs p (none, [])).2
  let d := d.each [0, 1] fun d p => d.readRecord p (nth recs p none)
  d.progressTick

/-- The voids of a plan that no longer runs count for none (R275). -/
def Dev.clearVoids (d : Dev) : Dev := { d.wf Reg.COMMITTED 55 48 0 with voidCauses := 0, voidTiles := [], hadEpisode := false }
/-- Frames stop (R473): waiting CONTROL records are written, and the group's tiles are free again. A switch of the frame parameters that is
still to come is discarded (DESIGN CHOICE, log entry 96). -/
def Dev.stopFrames (d : Dev) : Dev :=
  let d := d.clearVoids
  let d := d.dropTileSet
  let d := { d.clearVote with planRun := none, planNext := none, replay := false, joining := false, hdrPend := [], switchAt := none, planIn := [] }
  let d := (d.wf Reg.FRAME_NOW 63 63 0).flushControl.moveSet
  d.each [0, 1] fun d p => d.signalRecs p

/-! ## The vote (R264 to R268) -/

/-- The root names no parent (R266). -/
def Dev.isRoot (d : Dev) : Bool := d.parentLink.isNone

/-- The outcome of a frame is kept for 64 frames (R269). -/
def Dev.keepOutcome (d : Dev) (n : Nat) (o : Bool) : Dev :=
  let l := (d.outcomes.filter fun (x : Nat × Bool) => x.1 != n) ++ [(n, o)]
  { d with outcomes := l.drop (l.length - 64) }

/-- The outcome of the running frame is known: it goes to every child, and a child whose link is down needs no answer (R267,
R268). `rtt` is the time since the vote cutoff in ns. -/
def Dev.setOutcome (d : Dev) (o : Bool) (rtt : Nat) : Dev :=
  if d.outcome.isSome then d else
  let d := { d.keepOutcome d.frame o with outcome := some o, outAcks := d.children.filter (!d.linkUp ·) }
  let d := d.wr Reg.VOTE_RTT (w64 (max (d.rf Reg.VOTE_RTT 63 32) (rtt % 2 ^ 32) * 2 ^ 32 + rtt % 2 ^ 32))
  d.each (d.children.filter d.linkUp) fun d k => d.sendMsg k 7 (toBytes 8 d.frame ++ toBytes 8 (b2n o)) (some d.frame)

/-- The lowest cause of a bit set; 8 for none. -/
def lowCause (c : BitVec 16) : Nat := ((List.range 16).find? c.getLsbD).getD 8

/-- Once the own verdict and every child's are in, the AND goes up the tree, or is the outcome at the root (R267). -/
def Dev.voteUp (d : Dev) (rtt : Nat) : Dev :=
  match d.own with
  | none => d
  | some own =>
    if d.sentUp || !(d.children.all fun k => d.childVotes.any (·.link == k)) then d else
    let votes := d.childVotes.filter fun v => d.children.contains v.link
    let pass := own && votes.all (·.pass)
    let low := (votes.filter (!·.pass)).foldl (fun m v => min m v.cause) (if own then 15 else lowCause d.causes)
    let members := votes.foldl (fun s v => s + v.members) 1
    let d := { d with sentUp := true }
    match d.parentLink with
    | none => { d with groupSize := members }.setOutcome pass rtt
    | some k =>
      d.sendMsg k 6 (toBytes 8 d.frame ++ toBytes 8 (b2n pass + (if pass then 0 else low * 2 ^ 8) + members % 512 * 2 ^ 16))

/-- The tree does not match what a neighbour does (R266). -/
def Dev.treeMismatch (d : Dev) (k : Nat) : Dev :=
  { d with treeBad := some k }.varveLog 20 2 8 0 {} (w64 k) (w64 (d.peerId k))

/-- Tiles of the group at which a landing, or a transfer for forwarding, of a cadence context is held (R173, R213). -/
def Dev.heldTiles (d : Dev) : List Nat :=
  ((d.flits.filter fun f => f.cadence && f.held > 0).filterMap fun f => d.physOf f.at').eraseDups.filter fun t => (d.tile t).inGroup

/-- The device verdict at the vote cutoff (R264, R265). -/
def Dev.deviceVerdict (d : Dev) : Dev :=
  let ts := d.groupTiles
  let d := d.each (ts.filter fun t => (d.tile t).mode != .idle) fun d t => d.failVerdict t 5
  let d := d.each d.heldTiles fun d t => d.failVerdict t 6
  let failed := ts.filter fun t => (d.tile t).verdict != 0
  let d := { d with causes := failed.foldl (fun c t => c ||| (d.tile t).verdict) d.causes }
  let d := d.when (d.tbState == 0) (·.cause 9)
  let d := d.when d.isolating (·.cause 11)
  -- a forced void verdict while pending (R269), and a tree that does not match (R266), have no code of their own
  let d := d.when (d.awaited.isSome || d.treeBad.isSome) (·.cause 8)
  let d := d.each (findAll 16 fun c => d.causes.getLsbD c) fun d c => d.varveLog 16 0 8 0 {} (w64 c) (w64 failed.length)
  { d with voted := true, own := some (d.causes == 0) }

/-! ## The commit (R270) -/

/-- The transfers of cadence contexts that are held, or wait behind a held one, at the commit point are discarded whole: their flits, what
is still to be read, and a GET itself (R173, R213; DESIGN CHOICE, log entry 95: the spec names what is held, not the rest of its transfer). -/
def Dev.dropHeld (d : Dev) : Dev :=
  let stuck (f : Flit) : Bool := d.flits.any fun g => g.held > 0 && g.at' == f.at' && g.inp == f.inp && g.vc == f.vc
  let gone := d.flits.filter fun f => f.cadence && stuck f
  d.each gone fun d f => match f.cargo with
    | .get id => d.dropXfer f.src id
    | .send =>
      let mine (g : Flit) : Bool := g.cargo == .send && g.src == f.src && g.tid == f.tid
      let d := { d with flits := d.flits.filter (!mine ·) }
      d.upd f.src fun x => { x with mvq := x.mvq.filter fun a => match a.kind with
        | .flit g => g.tid != f.tid
        | _ => true }
    | _ => d

/-- A cadence context that has not parked is stopped (R73), and what is still held of the frame is discarded (R173, R213). The bank accesses of
bundles it has issued are made at once, and its transfers go on (R53; DESIGN CHOICE, log entry 95: the rule names register writes only). -/
def Dev.stopTiles (d : Dev) : Dev :=
  let d := d.each d.groupTiles fun d t =>
    let d := (d.takeRaise t).flushBank t {}
    let d := d.when ((d.tile t).mode == .running && d.slotState t (d.tile t).slot == 2) fun d =>
      (d.setSlotState t (d.tile t).slot 4).twf t (Reg.CTXSTATE (d.tile t).slot) 15 3 (d.tile t).regs.pc
    d.upd t fun x => { x with mode := .idle, inflight := [], reached := none, waited := 0, skipCtx := [] }
  d.dropHeld

/-- A record for a port at a commit point: a fenced port's is discarded and counted (R272). -/
def Dev.outRec (d : Dev) (r : Rec) : Dev := if d.portFenced r.port then d.inc Reg.DROP else d.giveRec r
/-- The CONTROL records that wait (R473). -/
def Dev.outControl (d : Dev) : Dev :=
  let l := d.ctrlWait
  ({ d with ctrlWait := [] }).each l fun d r => d.outRec r

/-- The TOKEN record of a token just applied (R472). -/
def Dev.tokenRec (d : Dev) (n : Nat) (t : Token) : Rec :=
  let q := t.slot
  let fin := d.sqState q == Sq.FINISHED
  ⟨d.sqPort q, [1, w64 n, w64 (q + d.sq q 0 31 16 * 2 ^ 16 + t.token * 2 ^ 32),
    w64 (d.sqLen q + (if fin then d.sqReason q * 2 ^ 24 else 0) + b2n t.first * 2 ^ 27), w64 (d.sq q 0x88 31 0), 0, 0]⟩
/-- The INTAKE record of a refused request. -/
def intakeRec (n : Nat) (r : Req) : Rec := ⟨r.port, [w64 (3 + St.INVALID * 2 ^ 16), w64 n, w64 r.num, w64 r.cmd, 0, 0, 0]⟩
def voidRec (p n : Nat) : Rec := ⟨p, [2, w64 n, 0, 0, 0, 0, 0]⟩

/-- The commands read in the frame take effect, in ring order, P0's before P1's; the refused ones (R285). -/
def Dev.applyCommands (d : Dev) : List Req × Dev :=
  let go (x : List Req × Dev) (r : Req) : List Req × Dev :=
    let own := x.2.intRole != 2
    let d := x.2.when own (·.inc (Reg.CONSUMED r.port))
    match d.command r with
    | some d => (x.1, d)
    | none => (x.1 ++ [r], d.inc Reg.REFUSED)
  let (bad, d) := d.reqs.foldl go ([], d)
  (bad, { d with reqs := [] })

/-- Cadence contexts of the job, whose schedules step at an update frame (R138). -/
def Dev.jobCadence (d : Dev) : List Nat := findAll 64 fun c => tst (d.int Reg.INT_JOB_CTX) c && d.ctxIsCad c

/-- Commit the journal for frame n: the effects of R270 in their order. -/
def Dev.commitPlan (d : Dev) (n : Nat) : Dev :=
  let p := d.planRun.getD (d.noPlan n)
  let now := (d.frameT (n + 1)).toNat
  let (d, toks) := d.advances n now p true
  let recs := toks.map (d.tokenRec n)
  let (bad, d) := d.applyCommands
  let d := d.closing.patchNext
  let d := { d with copyBits := d.copyBits ^^^ p.flip }
  let d := d.wf Reg.INT_TRAIN 47 32 (if p.update then 0 else d.rf Reg.INT_TRAIN 47 32 + 1)
  let d := d.when p.update fun d => d.each d.jobCadence fun d c => d.stepSchedules c
  let d := d.each (if tst (d.int Reg.INT_CTL) 60 then recs else []) fun d r => d.outRec r
  let d := d.each (if d.intRole = 2 then [] else bad) fun d r => d.outRec (intakeRec n r)
  let d := d.wf Reg.COMMITTED 47 0 n
  { d.clearVoids with replay := false }

/-- The third void in a row: the plan is reported, and replayed in isolation frames (R275, R523). -/
def Dev.escalate (d : Dev) (voids : Nat) : Dev :=
  let d := (d.itgStatus 8).raiseEvent 6
  let d := d.varveLog 17 2 8 0 {} (w64 d.voidCauses.toNat) (w64 voids)
  let hang := d.voidCauses &&& 0b1110000#16 != 0
  if !hang || !d.isolates || d.hadEpisode || d.episode.isSome then d else
  let named (t : Nat) : List Nat := (List.range (listCount (d.tile t).list)).map fun i => d.ctxOf t (listSlot (d.tile t).list i)
  let all := findAll 64 fun c => d.voidTiles.any fun t => (named t).contains c
  let d := d.hangEntry 0 all
  let d := d.each all fun d c => d.suspect c
  { d with episode := some { tiles := d.voidTiles, left := all, all := all }, hadEpisode := true }

/-- An isolation frame is over: the suspect reproduced if its own tiles failed with cause 4, 5 or 6 (R524, R525). -/
def Dev.isoFrameDone (d : Dev) : Dev := match d.episode with
  | some e =>
    match e.free, e.current with
    | false, some c =>
      let bad := (d.ctxTiles c).any fun x => (d.tile x.1).verdict &&& 0b1110000#16 != 0
      let e := { e with current := none, guilty := if bad then e.guilty ++ [c] else e.guilty }
      if e.left = [] then d.endEpisode e else { d with episode := some e }
    | _, _ => d
  | none => d

/-- A frame is void only by others' verdicts: the member records cause 8 (R265). -/
def Dev.memberVoid (d : Dev) : Dev := d.when (d.causes == 0) fun d => d.varveLog 16 0 8 0 {} (w64 8) 0

/-- A frame is void (R270 to R275). `keep` says that its plan is not replayed, the next one standing built. -/
def Dev.voidFrame (d : Dev) (n : Nat) (keep : Bool) : Dev :=
  let c := if d.causes = 0 then 256#16 else d.causes
  let d := d.memberVoid
  let voids := min 255 (d.rf Reg.COMMITTED 55 48 + 1)
  let d := d.wr Reg.VOID_LAST (w64 (lowCause c * 2 ^ 48 + n))
  let d := (d.inc Reg.VOID_COUNT).wf Reg.COMMITTED 55 48 voids
  let hung := d.groupTiles.filter fun t => (d.tile t).verdict &&& 0b1110000#16 != 0
  let d := { d with voidCauses := d.voidCauses ||| c, voidTiles := (d.voidTiles ++ hung).eraseDups }
  let d := d.each [0, 1] fun d p => d.outRec (voidRec p n)
  let d := d.isoFrameDone
  let d := d.when (voids == 3) (·.escalate voids)
  if keep then d else { d with planNext := none, replay := true }

/-- Ask the parent and the neighbours for the outcome awaited (R269). -/
def Dev.askOutcome (d : Dev) (n : Nat) : Dev :=
  d.each d.schedLinks fun d k => d.sendMsg k 8 (toBytes 8 n ++ toBytes 8 0)

/-- A member without the outcome becomes pending (R269); one it holds but may not apply yet (R268) it applies next time. -/
def Dev.goPending (d : Dev) (n : Nat) : Dev :=
  let d := d.wf Reg.COMMITTED 63 63 1
  let d := { d with awaited := some n, awaitedFor := 0, learnt := d.outcome, replay := true }
  let d := d.varveLog 18 2 8 0 {} (w64 n) 0
  if d.outcome.isSome then d else d.askOutcome n

/-- A pending member's commit point: the outcome it has learnt is applied for the frame awaited; the frame that ends is void. -/
def Dev.pendingPoint (d : Dev) (a n : Nat) : Dev := match d.learnt with
  | none =>
    let owed := d.commitOut
    let d := ({ d with awaitedFor := d.awaitedFor + 1 }.voidFrame n true).settleStreams n false
    { d with replay := true, commitOut := owed }.askOutcome a
  | some o =>
    let d := { d.wf Reg.COMMITTED 63 63 0 with awaited := none, learnt := none, awaitedFor := 0, commitOut := d.commitOut.eraseDups }
    let d := (if o then d.commitPlan a else d.voidFrame a false).settleStreams a o
    -- the void frame after a plan that has committed is none of the next plan's
    ((d.voidFrame n o).when o (·.clearVoids)).settleStreams n false

/-- Energy above CAP_W × L (R405). -/
def Dev.overCap (d : Dev) : Dev :=
  d.when (d.frameEnergy > d.rf Reg.CAP_W 31 16 * d.frameL * 1000000) fun d => (d.inc Reg.OVERCAP).pwrStatus 10

/-- The commit point of the running frame. -/
def Dev.commitPoint (d : Dev) : Dev :=
  let n := d.frame
  let d := d.stopTiles.overCap
  let held := if d.children.all d.outAcks.contains then d.outcome else none
  let d := match d.awaited, held with
    | some a, _ => d.pendingPoint a n
    | none, some true => (d.commitPlan n).settleStreams n true
    | none, some false => (d.voidFrame n false).settleStreams n false
    | none, none => d.goPending n
  let d := d.outControl.commitMemory
  let d := d.each [0, 1] fun d p => d.signalRecs p
  let d := { d with ended := true }
  if d.rb Reg.GRP 63 then d else d.stopFrames

end Sys2Proof.Machine
end

