-- ==== Sys2Proof/Machine/FamCad.lean ====
section
/-! DEFINITION. The commands of frames, votes, plans and group time (chapters 8 and 9), and the periodic readings of the power
controller (chapter 13). -/

namespace Sys2Proof.Machine

/-! ## Frames -/

/-- FRAME_START: the next frame, once the last has had its commit point; the first is the one that starts at this group time
(R257, R258). -/
def doFrameStart (ns : Nat) (reads : List PortRead) (d : Dev) : Dev :=
  let pubs := reads.map fun r => (r.pub, r.ring)
  let recs := reads.map (·.port)
  if d.framesRun then
    if !d.ended then d else if !d.rb Reg.GRP 63 then d.stopFrames
    else d.startFrame (d.frame + 1) false pubs recs
  else
    let epoch := d.rn Reg.FRAME_EPOCH
    let n : Int := d.rf Reg.FRAME_BASE 47 0 + ((ns : Int) - epoch) / ((d.frameL * 1000 : Nat) : Int)
    if !d.joining || !d.rb Reg.GRP 63 || d.frameL < 40 || n < 0 then d
    else d.startFrame n.toNat true pubs recs
/-- FRAME_START (R258). -/
def execFrameStart (ns : BitVec 64) (r0 r1 : PortRead) (s : State) : Host.Outcome State Fault Refusal :=
  s.ok (doFrameStart ns.toNat [r0, r1] s.dev)

/-- The beats left of frame entry pass on every tile (R70). -/
def doFrameEntryEnd (d : Dev) : Dev :=
  d.each (d.tiles.map (·.1)) fun d t => match (d.tile t).mode with
    | .entry n => (((d.tadd t Reg.BEAT n).tadd t Reg.WAIT_FRAME n).finishEntry t).syncSeq t 4
    | _ => d
/-- FRAME_ENTRY_END (R70). -/
def execFrameEntryEnd (s : State) : Host.Outcome State Fault Refusal := s.ok (doFrameEntryEnd s.dev)

def doIdleRead (p : Nat) (rec : Option (BitVec 64 × BitVec 64)) (d : Dev) : Dev :=
  if d.framesRun then d else (d.readRecord p rec).signalRecs p
/-- PORT_RECORD_IDLE_READ (R464). -/
def execPortRecordIdleRead (p : Port) (rec : Option (BitVec 64 × BitVec 64)) (s : State) : Host.Outcome State Fault Refusal :=
  s.ok (doIdleRead p.val rec s.dev)

/-- The two words of a plan header (R298). -/
def Dev.headerWords (d : Dev) (p : Plan) : List (Word256 × Bool) :=
  let va := d.intf Reg.INT_JOB 47 24 * 2 ^ 24 + p.buf * 0x800000
  let w0 := (List.range 4).foldl (fun v i => v + (2 ^ 63 + va + 65536 * i) * 2 ^ (64 * i)) 0
  let w1 := d.frame + p.id * 2 ^ 64 + (p.buf + b2n p.update * 2 + p.var * 4) * 2 ^ 128
  [(BitVec.ofNat 256 w0, false), (BitVec.ofNat 256 w1, false)]
/-- A plan header can land on a tile in its coming beat: the words are empty, no switch saves or restores, and a landing and their banks are
to be had (R152, R173, R227, R298). The headers come to their tiles by no route that the model follows (log entry 93). -/
def Dev.headerFree (d : Dev) (t w : Nat) : Bool :=
  let x := d.tile t
  let a := d.winBase t w
  !x.fenced && !x.swBusy && d.winValid t w && !x.full a && !x.full (a + 1) && decide (x.netCount < 2)
    && !x.netBanks.getLsbD (a % 64) && !x.netBanks.getLsbD ((a + 1) % 64)
/-- The header lands on every tile that waits for it and can take it. -/
def doHeaders (d : Dev) : Dev := match d.planRun with
  | none => d
  | some p =>
    if !d.framesRun || d.ended then d else
    let w := d.planWin
    let words := d.headerWords p
    d.each (d.hdrPend.filter (d.headerFree · w)) fun d t =>
      let a := d.winBase t w
      let d := d.each ([a, a + 1].zip words) fun d e => d.landWord t e
      { d with hdrPend := d.hdrPend.erase t }.upd t (·.tookNet [a, a + 1] true)
/-- PLAN_HEADER_DELIVERY (R298). -/
def execPlanHeaderDelivery (s : State) : Host.Outcome State Fault Refusal := s.ok (doHeaders s.dev)

/-- The input ledger is checked (R263, R265): a count in its own beat is on time. -/
def doInputDeadline (d : Dev) : Dev :=
  if !d.framesRun || d.ended then d else
  let short := (List.range 24).any fun k => d.rf (Reg.INPUT k) 31 0 < d.rf (Reg.INPUT k) 63 32
  { d.when short (·.cause 7) with pastInput := true }
/-- INPUT_DEADLINE (R263). -/
def execInputDeadline (s : State) : Host.Outcome State Fault Refusal := s.ok (doInputDeadline s.dev)

def doVoteCutoff (d : Dev) : Dev :=
  if !d.framesRun || d.ended || d.voted then d else d.deviceVerdict.voteUp 0
/-- VOTE_CUTOFF (R267). -/
def execVoteCutoff (s : State) : Host.Outcome State Fault Refusal := s.ok (doVoteCutoff s.dev)

/-- 1 µs before the commit point a silent child counts as failed with cause 8 (R446). -/
def doChildCutoff (d : Dev) : Dev :=
  if !d.framesRun || d.ended || !d.voted then d else
  let silent := d.children.filter fun k => !d.childVotes.any (·.link == k)
  let d := { d with childVotes := d.childVotes ++ silent.map fun k => (⟨k, false, 8, 0⟩ : ChildVote) }
  d.voteUp (d.rf Reg.FRAME_CFG 55 42 * 1000 - 1000)
/-- CHILD_VERDICT_CUTOFF (R446). -/
def execChildVerdictCutoff (s : State) : Host.Outcome State Fault Refusal := s.ok (doChildCutoff s.dev)

def doCommitPoint (d : Dev) : Dev := if !d.framesRun || d.ended then d else d.commitPoint
/-- COMMIT_POINT (R270). -/
def execCommitPoint (s : State) : Host.Outcome State Fault Refusal := s.ok (doCommitPoint s.dev)

/-- After 64 frames without the outcome the member leaves the group and its cadence contexts are fenced (R269). -/
def doPendingExpiry (d : Dev) : Dev :=
  if d.awaited.isNone || d.learnt.isSome || d.awaitedFor < 64 then d else
  let d := { d.wf Reg.GRP 63 63 0 with awaited := none, awaitedFor := 0 }
  let d := d.each (findAll 64 fun c => d.ctxIsCad c) fun d c => d.fenceContext c
  if d.ended then d.stopFrames else d
/-- PENDING_EXPIRY (R269). -/
def execPendingExpiry (s : State) : Host.Outcome State Fault Refusal := s.ok (doPendingExpiry s.dev)

/-- RECORD_BACKLOG_WRITE (R474). -/
def execRecordBacklogWrite (p : Port) (s : State) : Host.Outcome State Fault Refusal :=
  s.ok (if s.dev.portFenced p.val then s.dev else s.dev.drainBacklog p.val)

/-! ## Intake -/

/-- The intake start (R286, R298, R302, R303): writes to INT take effect, headers are checked, and the plan is built, or its
figures are sent for. A pending member keeps the plan it has. -/
def doIntakeStart (d : Dev) : Dev :=
  if !d.framesRun || d.ended then d else
  let d := (d.latch intRegs).checkHeaders
  if d.awaited.isSome then d
  else if !d.intOn then ({ d with planNext := none }).writeLists none
  else match d.intRole, d.parentLink with
    | 2, some k =>
      let v := (d.variants.find? (d.varFits (d.planOp d.planUs))).getD 0
      d.sendFigures k (d.ownFigures d.frame v (d.planOp d.planUs))
    | 2, none => d
    | 1, _ =>
      let d := { d with planWait := true }
      if d.figuresIn then d.leadPlan d.planUs else d
    | _, _ => d.buildPlan d.planUs
/-- INTAKE_START (R286). -/
def execIntakeStart (s : State) : Host.Outcome State Fault Refusal := s.ok (doIntakeStart s.dev)

/-- Half of PLAN_US has passed: the leader plans with the figures it has (R302). -/
def doFiguresTimeout (d : Dev) : Dev := if d.planWait && !d.ended then d.leadPlan (d.planUs / 2) else d
/-- FIGURES_TIMEOUT (R302). -/
def execFiguresTimeout (s : State) : Host.Outcome State Fault Refusal := s.ok (doFiguresTimeout s.dev)

/-- A member's figures arrive: kept by the leader, sent on up the tree by the others (R302, R448). -/
def doFigures (src frame : Nat) (fix lane chunk budget : W64) (d : Dev) : Dev :=
  if d.intRole = 1 then
    let m : Figures := ⟨src, frame, fix.toInt, lane.toInt, chunk.toInt, budget.toInt⟩
    let d := { d with figures := d.figures.filter (·.member != src) ++ [m] }
    if d.planWait && d.figuresIn then d.leadPlan d.planUs else d
  else match d.parentLink with
    | some k => d.sendCell k { typ := 12, cls := 0, w1 := word1 false 0 0 src (d.peerId k) 0
                               payload := toBytes 8 frame ++ ([fix, lane, chunk, budget].flatMap fun v => toBytes 8 v.toNat) }
    | none => d
/-- FIGURES (R448). -/
def execFigures (k : LinkId) (h : CellHdr) (src : BitVec 17) (frame : BitVec 48) (fix lane chunk budget : BitVec 64) (s : State) :
    Host.Outcome State Fault Refusal :=
  s.ok (s.dev.recvCell k.val h 12 0 (doFigures src.toNat frame.toNat fix lane chunk budget))

/-- PLAN (R448). -/
def execPlan (k : LinkId) (h : CellHdr) (frame : BitVec 48) (off : BitVec 64) (bytes : List Byte) (s : State) : Host.Outcome State Fault Refusal :=
  s.ok (s.dev.recvCell k.val h 11 0 fun d =>
    if d.parentLink == some k.val then d.takePlanCell frame.toNat off.toNat (padTo 240 bytes) else d)

/-! ## Votes (R266 to R269, R446) -/

/-- A child's verdict, or a cell from a link that is no child's (R266). -/
def doVerdict (k frame : Nat) (pass : Bool) (cause members since : Nat) (d : Dev) : Dev :=
  if !d.rb Reg.VOTE_TREE k then d.treeMismatch k
  else if !d.framesRun || d.ended || frame ≠ d.frame || d.childVotes.any (·.link == k) then d
  else ({ d with childVotes := d.childVotes ++ [(⟨k, pass, cause, members⟩ : ChildVote)] }).voteUp since
/-- VERDICT (R446). -/
def execVerdict (k : LinkId) (h : CellHdr) (frame : BitVec 48) (pass : Bool) (cause : BitVec 4) (members : BitVec 9) (since : BitVec 32)
    (s : State) : Host.Outcome State Fault Refusal :=
  s.ok (s.dev.recvCell k.val h 6 0 (doVerdict k.val frame.toNat pass cause.toNat members.toNat since.toNat))

/-- The outcome of a frame becomes known to a pending member (R269). -/
def Dev.learnOutcome (d : Dev) (frame : Nat) (o : Bool) : Dev :=
  if d.awaited == some frame && d.learnt.isNone then { d.keepOutcome frame o with learnt := some o } else d
/-- An outcome comes down the tree; one from another link is a mismatch (R266 to R268). -/
def doOutcome (k frame : Nat) (commit : Bool) (since : Nat) (d : Dev) : Dev :=
  if d.parentLink != some k then d.treeMismatch k
  else if d.framesRun && !d.ended && frame == d.frame then d.setOutcome commit since
  else d.learnOutcome frame commit
/-- OUTCOME (R268). -/
def execOutcome (k : LinkId) (h : CellHdr) (frame : BitVec 48) (commit : Bool) (since : BitVec 32) (s : State) : Host.Outcome State Fault Refusal :=
  s.ok (s.dev.recvCell k.val h 7 0 (doOutcome k.val frame.toNat commit since.toNat))

/-- A request for an outcome is answered from the last 64 (R269). -/
def doOreq (k frame : Nat) (d : Dev) : Dev :=
  let code := match d.outcomes.find? fun (x : Nat × Bool) => x.1 == frame with
    | some x => if x.2 then 1 else 2
    | none => 0
  d.sendMsg k 9 (toBytes 8 frame ++ toBytes 8 code)
/-- OREQ (R269). -/
def execOreq (k : LinkId) (h : CellHdr) (frame : BitVec 48) (s : State) : Host.Outcome State Fault Refusal :=
  s.ok (s.dev.recvCell k.val h 8 0 (doOreq k.val frame.toNat))
def doOresp (frame code : Nat) (d : Dev) : Dev :=
  if code = 1 then d.learnOutcome frame true else if code = 2 then d.learnOutcome frame false else d
/-- ORESP (R269). -/
def execOresp (k : LinkId) (h : CellHdr) (frame : BitVec 48) (code : BitVec 2) (s : State) : Host.Outcome State Fault Refusal :=
  s.ok (s.dev.recvCell k.val h 9 0 (doOresp frame.toNat code.toNat))

/-! ## Group registers -/

/-- The steward writes GRP (R257): a device that joins waits for its first frame, and one that leaves stops at the next frame
boundary. PENDING ends when ENABLE is set again (R269). -/
def doGroupEnable (p : Nat) (v : W64) (d : Dev) : Dev :=
  if !d.isSteward p then d else
  let was := d.rb Reg.GRP 63
  let d := d.wr Reg.GRP (v &&& regImpl Reg.GRP)
  if tst v 63 && !was then
    { d.wf Reg.COMMITTED 63 63 0 with joining := !d.framesRun, awaited := none, awaitedFor := 0, learnt := none }
  else if tst v 63 then d
  else if d.framesRun && d.ended then d.stopFrames else { d with joining := false }
/-- GROUP_ENABLE (R257). -/
def execGroupEnable (p : Port) (v : BitVec 64) (s : State) : Host.Outcome State Fault Refusal := s.ok (doGroupEnable p.val v s.dev)

/-- A switch of the frame parameters is refused with INVALID and recorded against the port; the manual names no class or
details for the entry (R260; log entry 3). -/
def Dev.refuseSwitch (d : Dev) (p : Nat) : Dev :=
  let (a, d) := d.draw
  let (b, d) := d.draw
  (d.varveLog 31 2 6 p { port := some p } a b).emit (.status p St.INVALID)
def doFrameSwitch (p frame ns : Nat) (same : Bool) (d : Dev) : Dev :=
  if !d.isSteward p then d else
  let v := d.rd Reg.FRAME_NEXT
  let d := d.wr Reg.FRAME_SWITCH (w64 frame)
  if !cfgOk v then d.refuseSwitch p
  else if !d.framesRun then d.wr Reg.FRAME_CFG v
  else if !same || d.frameT frame < (ns : Int) + 2000000 || frame ≤ d.frame then d.refuseSwitch p
  else { d with switchAt := some (frame, v) }
/-- FRAME_SWITCH_WRITE (R260). -/
def execFrameSwitchWrite (p : Port) (frame : BitVec 48) (ns : BitVec 64) (same : Bool) (s : State) : Host.Outcome State Fault Refusal :=
  s.ok (doFrameSwitch p.val frame.toNat ns.toNat same s.dev)

/-- The offset of a schedule's register. -/
def schedReg (n r : Nat) : Nat := if r = 0 then Reg.SCH_CTL n else if r = 1 then Reg.SCH_RATE n else if r = 2 then Reg.SCH_LEN n else Reg.SCH_STEP n
/-- Whether a port may write a schedule's register (R139). -/
def Dev.mayWriteSched (d : Dev) (p n r : Nat) (v : W64) : Bool :=
  let c := d.rf (Reg.SCH_CTL n) 53 48
  let bound := d.rb (Reg.SCH_CTL n) 63 && d.ctxState c != 0
  (!bound || d.ctxPort c == some p) && (r != 0 || !tst v 63 || d.ctxPort (fld v 53 48) == some p)
def doScheduleWrite (p n r : Nat) (v : W64) (d : Dev) : Dev :=
  if !d.mayWriteSched p n r v then d else
  let d := d.wr (schedReg n r) (v &&& regImpl (schedReg n r))
  if r = 3 then { d with schWrote := n :: d.schWrote.erase n } else d
/-- SCHEDULE_WRITE (R139). -/
def execScheduleWrite (p : Port) (n : Fin 8) (r : Fin 4) (v : BitVec 64) (s : State) : Host.Outcome State Fault Refusal :=
  s.ok (s.dev.when s.dev.served (doScheduleWrite p.val n.val r.val v))

/-! ## The reference inputs (R277, R547) -/

/-- TB_SET takes effect on the master, from the steward, while no frames run (R277). -/
def doTbSet (p : Nat) (v : W64) (d : Dev) : Dev :=
  if !d.isSteward p || d.tbState ≠ 3 || d.framesRun then d else d.wr Reg.TB_SET (w64 (2 ^ 63 + fld v 33 0))
/-- TB_SET_WRITE (R277). -/
def execTbSetWrite (p : Port) (v : BitVec 64) (s : State) : Host.Outcome State Fault Refusal := s.ok (doTbSet p.val v s.dev)

/-- The reference inputs are not valid, or no longer: the election proceeds without them (R254, R547). -/
def Dev.refLost (d : Dev) : Dev :=
  let was := d.rb Reg.TB_STATUS 2
  let d := { d.wf Reg.TB_STATUS 2 2 0 with ppsGood := 0 }
  if was then d.reElect else d
/-- An edge of PPS; `good` says that the second it ends met both conditions of R547. The master aligns the group time to it, to the whole
second nearest (R254), or to the seconds the steward has set (R277). -/
def doPpsEdge (good : Bool) (d : Dev) : Dev :=
  if !d.rb Reg.TB_CTL 8 then d else
  let d := if !good then d.refLost else
    let d := { d with ppsGood := min 3 (d.ppsGood + 1) }
    if d.ppsGood ≥ 3 && !d.rb Reg.TB_STATUS 2 then (d.wf Reg.TB_STATUS 2 2 1).elect else d
  if d.rb Reg.TB_SET 63 then (d.wr Reg.TB_TIME (w64 (d.rf Reg.TB_SET 33 0 * 1000000000))).wf Reg.TB_SET 63 63 0
  else if good && d.tbState = 3 then d.wr Reg.TB_TIME (w64 ((d.rn Reg.TB_TIME + 500000000) / 1000000000 * 1000000000))
  else d
/-- PPS_EDGE (R547). -/
def execPpsEdge (good : Bool) (s : State) : Host.Outcome State Fault Refusal := s.ok (doPpsEdge good s.dev)
/-- PPS_TIMEOUT (R547). -/
def execPpsTimeout (s : State) : Host.Outcome State Fault Refusal := s.ok s.dev.refLost

/-! ## Ticks and readings -/

/-- MEM_TICK (R325): 1 ms while no frames run. -/
def execMemTick (s : State) : Host.Outcome State Fault Refusal :=
  s.ok (if s.dev.framesRun then s.dev else (s.dev.inc Reg.MEM_TICK).progressTick)

/-- Whether a variant at an operating point meets the budget with all it may hold (R407). -/
def Dev.opFits (d : Dev) (op : Nat) : Bool := match d.variants.find? (d.varFits op) with
  | none => false
  | some v =>
    let units := d.varCap v 13 0
    let lanes := min (d.varCap v 22 14) units
    let chunks := min (d.varCap v 31 23) ((units - lanes) / d.varUnit v)
    let m := d.ownFigures 0 v op
    m.energy lanes chunks ≤ m.budget
/-- The floating evaluation (R407): a change of MODE takes effect; in floating mode the best point is announced. -/
def doFloating (d : Dev) : Dev :=
  if d.switchPending || d.raising.isSome then d else
  let mode := d.rb Reg.PWR_CTL 63
  let toPinned := d.floatOn && !mode
  let d := { d with floatOn := mode }
  if toPinned then (if d.ceiling ≥ 2 then d.orderOp 2 3 else d)
  else if !mode || !d.intOn then d else
  let best := (List.range (min 3 d.ceiling + 1)).foldl (fun b op => if d.opFits op then op else b) 0
  d.orderOp best 0
/-- FLOATING_EVALUATION (R407). -/
def execFloatingEvaluation (s : State) : Host.Outcome State Fault Refusal := s.ok (doFloating s.dev)

/-- Byte i of a list of readings; 0xFF for none (R419). -/
def tempAt (l : List (BitVec 8)) (i : Nat) : Nat := (l.getD i 0xFF).toNat
/-- A stack's reading (R412): MEM_HOT, a trip at 105 °C, and the retraining once it has cooled. -/
def Dev.stackTemp (d : Dev) (s t : Nat) : Dev :=
  if t = 0xFF then d else
  let d := d.when (t ≥ 95) (·.pwrStatus 11)
  if t ≥ 105 && stackState d s ≤ 1 then
    let d := { d.setStack s 3 with tripped := d.tripped ++ [s] }
    if d.framesRun then d else d.closeStack s
  else if t ≤ 90 && d.tripped.contains s then ({ d with tripped := d.tripped.filter (· != s) }).askRetrain s false
  else d
/-- A link engine's reading (R424): HOT, and the lasers off from 95 °C until 80 °C. -/
def Dev.linkTemp (d : Dev) (k t : Nat) : Dev :=
  if t = 0xFF then d else
  let d := d.when (t ≥ 85 && !d.rb (Reg.L_STATUS k) 58) (·.linkEntry k 2 1 (d.peerId k))
  let d := d.wf (Reg.L_STATUS k) 58 58 (b2n (decide (t ≥ 85)))
  if t ≥ 95 && !d.laserOff.contains k then
    let d := { d with laserOff := d.laserOff ++ [k] }
    if d.linkState k ≥ 1 && d.linkState k ≤ 4 then (d.dropLink k 0).linkEntry k 2 0 (d.peerId k) else d
  else if t ≤ 80 then { d with laserOff := d.laserOff.filter (· != k) } else d
/-- The power controller reads every temperature (R409, R410, R412, R424). -/
def doSensors (die mem links : List (BitVec 8)) (d : Dev) : Dev :=
  let was := d.dieTemps.any (· ≥ 105)
  let bytes (l : List (BitVec 8)) (i n : Nat) : W64 := w64 ((List.range n).foldl (fun v j => v + tempAt l (n * i + j) * 2 ^ (8 * j)) 0)
  let d := d.each (List.range 16) fun d f => d.wr (Reg.TEMP f) (bytes die f 8)
  let d := d.each (List.range 5) fun d g => d.wr (Reg.MTEMP g) (bytes (mem.take 36) g 8)
  let d := d.when (!was && d.dieTemps.any (· ≥ 105)) (·.thermalStep.pwrStatus 7)
  let d := d.each (List.range 36) fun d s => d.stackTemp s (tempAt mem s)
  d.each (List.range 24) fun d k => d.linkTemp k (tempAt links k)
/-- SENSOR_READ (R409). -/
def execSensorRead (die mem links : List (BitVec 8)) (s : State) : Host.Outcome State Fault Refusal :=
  s.ok (doSensors die mem links s.dev)

end Sys2Proof.Machine
end

