-- ==== Sys2Proof/Machine/FamItg.lean ====
section
/-! DEFINITION. The commands of the integrity block. -/

namespace Sys2Proof.Machine

/-- A line in error that the device met in a read of its own, a walk, a move or the read of a read-modify-write, is told by its location: it is
counted, and an uncorrectable one leaves a line of that row poisoned (R309); which line of the row, the location does not say (log entry 3). -/
def Dev.toldLine (d : Dev) (e : Event) : Dev :=
  if e.cls < 6 || e.cls > 9 then d else
  match d.retireeOf e with
  | some (.memory r) =>
    if e.cls % 2 = 0 then d.inc Reg.MEM_CORR else
    let lines := ((List.range 1024).map fun i => 65536 * r.frame + 64 * i).filter fun a => lineLoc a == (e.loc &&& w64 (2 ^ 29 - 1)) && !(d.lineAt a).poison
    let (v, d) := d.draw
    match lines[v.toNat % lines.length]? with
    | some a => (d.inc Reg.MEM_UNCORR).setLine a { d.lineAt a with poison := true }
    | none => d
  | _ => d
/-- Take the event the sender tells, or the oldest on its way to the block. -/
def doIntegrityEvent (ms : Nat) (e : Option ExtEvent) (d : Dev) : Dev :=
  let d := d.atMs ms
  match e, d.events with
  | some e, _ =>
    let x : Event := { cls := e.cls.val, kind := e.kind.toNat, idx := e.idx.toNat, loc := e.loc, syn := e.syn }
    (d.toldLine x).takeEvent x
  | none, x :: xs => ({ d with events := xs }).takeEvent x
  | none, [] => d

/-- INTEGRITY_EVENT (R342). -/
def execIntegrityEvent (ms : BitVec 64) (e : Option ExtEvent) (s : State) : Host.Outcome State Fault Refusal :=
  s.ok (doIntegrityEvent ms.toNat e s.dev)
/-- RETIREMENT_ORDER (R346). -/
def execRetirementOrder (s : State) : Host.Outcome State Fault Refusal := s.ok s.dev.nextOrder
/-- RETIRE_TILE: ITG.RETIRE_CMD with KIND 1 (R348). -/
def execRetireTile (p : Port) (w : BitVec 48) (s : State) : Host.Outcome State Fault Refusal :=
  s.ok (s.dev.writeRetire p.val (w64 (2 ^ 63 + 1 * 2 ^ 60 + w.toNat)))
/-- RETIRE_SCRATCHPAD_ROW: KIND 2. -/
def execRetireScratchpadRow (p : Port) (w : BitVec 48) (s : State) : Host.Outcome State Fault Refusal :=
  s.ok (s.dev.writeRetire p.val (w64 (2 ^ 63 + 2 * 2 ^ 60 + w.toNat)))
/-- RETIRE_MEMORY_FRAME: KIND 3. -/
def execRetireMemoryFrame (p : Port) (w : BitVec 48) (s : State) : Host.Outcome State Fault Refusal :=
  s.ok (s.dev.writeRetire p.val (w64 (2 ^ 63 + 3 * 2 ^ 60 + w.toNat)))
/-- RETIRE_EN_WRITE (R348). -/
def execRetireEnWrite (p : Port) (v : BitVec 64) (s : State) : Host.Outcome State Fault Refusal := s.ok (s.dev.writeItgCtl p.val v)
/-- CAPTURE_COPY (R350, R351). -/
def execCaptureCopy (t : TileId) (laneCap : Bool) (ms : BitVec 64) (s : State) : Host.Outcome State Fault Refusal :=
  s.ok ((s.dev.atMs ms.toNat).copyCapture t.val laneCap)

/-- A write of ITG.CAP_RD by the steward; values above CAP_WR have no effect (R361). -/
def doCapRd (p : Nat) (v : W64) (d : Dev) : Dev :=
  if d.isSteward p && v.toNat ≤ d.rn Reg.CAP_WR then d.wr Reg.CAP_RD v else d
/-- CAP_RD_WRITE (R350). -/
def execCapRdWrite (p : Port) (v : BitVec 64) (s : State) : Host.Outcome State Fault Refusal := s.ok (doCapRd p.val v s.dev)

/-- Writing 1 to VALID releases a capture buffer, from either port; MISSED returns to 0 (R112, R119, R146). -/
def doRelease (off t : Nat) (d : Dev) : Dev := d.twr t off 0
/-- CAPTURE_RELEASE (R112). -/
def execCaptureRelease (_p : Port) (t : TileId) (s : State) : Host.Outcome State Fault Refusal := s.ok (s.dev.when s.dev.served (doRelease Reg.CAP_STATUS t.val))
/-- LANE_CAPTURE_RELEASE (R146). -/
def execLaneCaptureRelease (_p : Port) (t : TileId) (s : State) : Host.Outcome State Fault Refusal := s.ok (s.dev.when s.dev.served (doRelease Reg.LCAP_STATUS t.val))
/-- Writing 1 to VALID of TILE.SHADOW_REC releases the record (R184). -/
def doShadowRelease (t : Nat) (d : Dev) : Dev := d.twf t Reg.SHADOW_REC 63 63 0
/-- SHADOW_RECORD_RELEASE (R184). -/
def execShadowRecordRelease (_p : Port) (t : TileId) (s : State) : Host.Outcome State Fault Refusal := s.ok (s.dev.when s.dev.served (doShadowRelease t.val))

/-- PKG_CMD holds the operation of a command; GO has no effect while one runs. -/
def Dev.pkgStart (d : Dev) (p op field slot : Nat) : Option Dev :=
  if !d.isSteward p || d.rb Reg.PKG_CMD 63 then none
  else some (d.wr Reg.PKG_CMD (w64 (2 ^ 63 + op * 2 ^ 60 + field * 2 ^ 4 + slot)))
def doPkgLoad (p n : Nat) (d : Dev) : Dev :=
  match d.pkgStart p 1 0 n with
  | some d => d.pkgLoad n
  | none => d
/-- PKG_LOAD (R354). -/
def execPkgLoad (p : Port) (n : Fin 16) (s : State) : Host.Outcome State Fault Refusal := s.ok (doPkgLoad p.val n.val s.dev)
def doPkgUnload (p n : Nat) (d : Dev) : Dev :=
  match d.pkgStart p 2 0 n with
  | some d => (d.setPkg n none).pkgEnd 0
  | none => d
/-- PKG_UNLOAD (R354). -/
def execPkgUnload (p : Port) (n : Fin 16) (s : State) : Host.Outcome State Fault Refusal := s.ok (doPkgUnload p.val n.val s.dev)

/-- A mismatch in a kernel run on a tile (R355): counted and reported as in any other run, and captured; the integrity block copies the capture
within the run (R350, R351). -/
def Dev.kernelCapture (d : Dev) (t : Nat) (cap : Option KernelCap) : Dev :=
  match cap with
  | none => d
  | some (.cube ws) =>
    let d := (d.tinc t Reg.CUBE_MISMATCH).report 4 t 0
    let d := if d.rb (Reg.tile t Reg.CAP_STATUS) 63 then d.missed t Reg.CAP_STATUS else d.holdCube t ((ws ++ List.replicate 256 0).take 256) true
    d.copyCapture t false
  | some (.lane ws) =>
    let d := (d.tinc t Reg.VEC_MISMATCH).report 5 t 0
    let d := if d.rb (Reg.tile t Reg.LCAP_STATUS) 63 then d.missed t Reg.LCAP_STATUS else
      d.holdLane t (((List.range 6).zip (ws ++ List.replicate 6 0)).map fun e => e.2 &&& regImpl (Reg.tile t (0x338 + 8 * e.1))) true
    d.copyCapture t true
/-- A failed kernel run at nominal conditions is counted and reported, and its tile classed lasting at once (R342, R343, R355,
R356). -/
def Dev.kernelFailed (d : Dev) (k : KernelFail) : Dev :=
  let d := d.kernelCapture k.tile.val k.cap
  (((d.inc Reg.TEST_FAIL).itgStatus 6).report 12 k.tile.val 0).lasting (some (.tile k.tile.val)) { cls := 12, kind := 0, idx := k.tile.val, loc := 0, syn := 0 }
def doPkgRun (p f : Nat) (fails : List KernelFail) (d : Dev) : Dev :=
  match d.pkgStart p 3 f 0 with
  | none => d
  | some d =>
    if d.fieldBusy f || d.rf Reg.SWEEP_STATUS 47 40 ≥ 2 then d.pkgEnd St.BUSY else
    let d := d.add Reg.TEST_RUNS (d.kernelCount * (d.testedTiles f).length)
    let d := d.each (fails.filter fun k => physField k.tile.val == f && (d.pkg k.slot.val).isSome) fun d k => d.kernelFailed k
    (d.restoreField f).pkgEnd 0
/-- PKG_RUN (R356). -/
def execPkgRun (p : Port) (f : FieldId) (fails : List KernelFail) (s : State) : Host.Outcome State Fault Refusal :=
  s.ok (doPkgRun p.val f.val fails s.dev)

/-! ## Margin sweeps (R357) -/

def Dev.sweepStage (d : Dev) : Nat := d.rf Reg.SWEEP_STATUS 47 40
def Dev.sweepField (d : Dev) : Nat := d.rf Reg.SWEEP_STATUS 39 36
def Dev.setStage (d : Dev) (n : Nat) : Dev := d.wf Reg.SWEEP_STATUS 47 40 n
/-- The next field in rotation that is not dark. -/
def Dev.sweepPick (d : Dev) : Option Nat :=
  ((List.range 16).map fun i => (d.sweepNext + i) % 16).find? fun f => d.ready (readyField f)

/-- A sweep falls due; one that has waited a full period is counted as late (R357). -/
def doSweepDue (d : Dev) : Dev :=
  if !d.rb Reg.SWEEP_CTL 63 then d
  else match d.sweepStage, d.sweepPick with
    | 0, some f => ((d.wf Reg.SWEEP_STATUS 39 36 f).setStage 1).itgStatus 4
    | 1, _ => d.inc Reg.SWEEP_LATE
    | _, _ => d
/-- SWEEP_DUE (R357). -/
def execSweepDue (s : State) : Host.Outcome State Fault Refusal := s.ok (doSweepDue s.dev)

/-- The sweep begins once its field is drained and 500 W are granted (R357, R382, R398): the field is isolated. -/
def doSweepBegin (d : Dev) : Dev :=
  let f := d.sweepField
  if d.sweepStage ≠ 1 || d.fieldBusy f || d.rf Reg.EST 15 0 + 500 > d.rf Reg.CAP_W 31 16 then d else
  let d := (d.setStage 2).setReady (readyField f) false
  let d := d.setFloes f 3
  d.checkHomes.showSeams f
/-- SWEEP_BEGIN (R357). -/
def execSweepBegin (s : State) : Host.Outcome State Fault Refusal := s.ok (doSweepBegin s.dev)

/-- A stage ends and the next begins. -/
def doStage (a b : Nat) (d : Dev) : Dev := if d.sweepStage = a then d.setStage b else d
/-- SWEEP_ISOLATE_DONE. -/
def execSweepIsolateDone (s : State) : Host.Outcome State Fault Refusal := s.ok (doStage 2 3 s.dev)
/-- SWEEP_STRESS_DONE. -/
def execSweepStressDone (s : State) : Host.Outcome State Fault Refusal := s.ok (doStage 3 4 s.dev)
/-- SWEEP_HEAT_DONE: the field's hottest sensor has reached HEAT_TJ. -/
def execSweepHeatDone (s : State) : Host.Outcome State Fault Refusal := s.ok (doStage 4 5 s.dev)

/-- What a told failure retires. -/
def failRetiree : SweepFail → Retiree
  | .tile t _ => .tile t.val
  | .wire t p w => .wire t.val p.val w.val
  | .row t b r => .row t.val b.val r.val
def Retiree.field : Retiree → Option Nat
  | .tile t => some (physField t)
  | .row t _ _ => some (physField t)
  | .wire t _ _ => some (physField t)
  | .memory _ => none
/-- What of the told failures lies in the swept field. -/
def Dev.ofSweep (d : Dev) (l : List SweepFail) : List Retiree := (l.map failRetiree).filter fun r => r.field == some d.sweepField

def Retiree.isTile : Retiree → Bool
  | .tile _ => true
  | _ => false
/-- The captures of the failed kernel runs of a sweep. -/
def Dev.sweepCaptures (d : Dev) (l : List SweepFail) : Dev := d.each l fun d x => match x with
  | .tile t cap => d.when (physField t.val == d.sweepField) (·.kernelCapture t.val cap)
  | _ => d
/-- Failed kernel runs among what failed: they are counted, and set TEST_FAIL (R359, R363). -/
def Dev.countFails (d : Dev) (l : List Retiree) : Dev :=
  let n := (l.filter (·.isTile)).length
  (d.add Reg.TEST_FAIL n).when (n != 0) (·.itgStatus 6)

/-- The test stage ends: runs and failures are counted, and the failing ones wait for the re-check (R357, R358). -/
def doTestDone (runs : Nat) (fails : List SweepFail) (d : Dev) : Dev :=
  if d.sweepStage ≠ 5 then d else
  let d := d.sweepCaptures fails
  let fs := d.ofSweep fails
  let d := (d.add Reg.TEST_RUNS runs).countFails fs
  ({ d with sweepFails := fs, sweepFailed := fs != [] }).setStage 6
/-- SWEEP_TEST_DONE. -/
def execSweepTestDone (runs : BitVec 32) (fails : List SweepFail) (s : State) : Host.Outcome State Fault Refusal :=
  s.ok (doTestDone runs.toNat fails s.dev)

/-- The re-check ends: every failed kernel has run once more; a tile that failed under stress only is a class 12 event, one that fails again is lasting at once;
wires and rows found failing are steered and remapped at the restore stage (R358). -/
def doRecheck (fails : List SweepFail) (d : Dev) : Dev :=
  if d.sweepStage ≠ 6 then d else
  let d := d.sweepCaptures fails
  let again := d.ofSweep fails
  let d := (d.add Reg.TEST_RUNS (d.sweepFails.filter (·.isTile)).length).countFails (again.filter d.sweepFails.contains)
  let d := d.each d.sweepFails.eraseDups fun d r => match r with
    | .tile t => let d := d.report 12 t 0
                 if again.contains r then d.failNow r else d
    | _ => d
  d.setStage 7
/-- SWEEP_RECHECK_DONE. -/
def execSweepRecheckDone (fails : List SweepFail) (s : State) : Host.Outcome State Fault Refusal := s.ok (doRecheck fails s.dev)

/-- A row or wire found failing is remapped or steered at the restore stage (R358); while RETIRE_EN is 0 it is a decision that waits (R348). -/
def Dev.repairNow (d : Dev) (r : Retiree) : Dev :=
  if !d.rb Reg.ITG_CTL 62 then { d with held := d.held ++ [(⟨r, false⟩ : Order)] } else
  let d := d.doOrder ⟨r, false⟩
  match r with
  | .row t .. => d.applyRemaps t
  | .wire .. => d.each (d.wirePend.filter fun x => Retiree.wire x.tile x.port x.wire == r) fun d x => d.wireEffect x
  | _ => d

/-- The restore stage ends the sweep (R357, R358). -/
def doRestoreDone (d : Dev) : Dev :=
  if d.sweepStage ≠ 7 then d else
  let f := d.sweepField
  let d := d.restoreField f
  let d := d.each d.sweepFails fun d r => d.when (!r.isTile && !d.deciding r) (·.repairNow r)
  let d := { d with retest := d.retest.filter fun x => physField x.1 != f }
  let failed := d.sweepFailed
  let d := (d.inc Reg.SWEEPS).when failed (·.inc Reg.SWEEP_FAIL)
  d.endSweep (b2n failed)
/-- SWEEP_RESTORE_DONE. -/
def execSweepRestoreDone (s : State) : Host.Outcome State Fault Refusal := s.ok (doRestoreDone s.dev)

end Sys2Proof.Machine
end

