-- ==== Sys2Proof/Machine/RegIo.lean ====
section
/-! DEFINITION. Reads and writes of BAR0 by a port, or by the bring-up script for no port (R17 to R20, R46, R457): what a read
returns and ends, and what a write of each register does. -/

namespace Sys2Proof.Machine

/-- The index of an offset in an array of registers. -/
def idxOf (base stride n off : Nat) : Option Nat :=
  if base ≤ off && (off - base) % stride == 0 && (off - base) / stride < n then some ((off - base) / stride) else none

/-! ## Reads -/

/-- Whether an offset is served: in recovery only DEV.ID, SERIAL, CAP and the BOOT block are (R489). -/
def Dev.offServed (d : Dev) (off : Nat) : Bool := !d.recovery || off == Reg.DEV_ID || off == Reg.SERIAL || off == Reg.CAP || off / 0x100000 == 9

/-- ETAB_DATA (R420). -/
def Dev.etabData (d : Dev) : W64 :=
  let op := d.rf Reg.ETAB_IDX 17 16; let f := d.rf Reg.ETAB_IDX 15 12; let p := d.rf Reg.ETAB_IDX 7 0
  if d.rb Reg.ETAB_IDX 63 then w64 (2 ^ 63 + smGet zeroNat d.pinned (op * 256 + p))
  else match smGet noFig d.learned (figKey f op p) with
    | some e => w64 (2 ^ 63 + e % 2 ^ 32)
    | none => 0

/-- Words of the firn map that hold anything; the others are reserved and read as zero (R508). -/
def firnMapped (w : Nat) : Bool :=
  w ≤ 1 || (0x10 ≤ w && w ≤ 0x3B) || (0x40 ≤ w && w ≤ 0x45) || (0x80 ≤ w && w ≤ 0x208) || (0x400 ≤ w && w ≤ 0x45C)
    || (0x460 ≤ w && w ≤ 0x4DF) || (0x800 ≤ w && w ≤ 0x13FF) || (0x2000 ≤ w && w ≤ 0x3FFF)
def firnSealed (w : Nat) : Bool := 0x30 ≤ w && w ≤ 0x37
/-- FIRN.WORDw and FIRN.WEARw (R512). -/
def Dev.firnWord (d : Dev) (w : Nat) : W64 := if firnMapped w && !firnSealed w then w64 (d.firnRd w) else 0
def Dev.firnWear (d : Dev) (w : Nat) : W64 := w64 (b2n (d.firnWorn w) * 2 ^ 63 + d.wearOf w)

/-- TILE.CUBE_STATE of the running context, or the last to run (R116). -/
def Dev.cubeState (d : Dev) (t : Nat) : W64 :=
  let x := d.tile t
  let r := x.regs
  let set (f : AccSet → Bool) : Nat := (List.range 8).foldl (fun n i => n + b2n (f (r.rAcc i)) * 2 ^ i) 0
  w64 (set (·.bad) * 2 ^ 56 + set (fun s => s.pair.isSome && s.count % 32 != 0) * 2 ^ 48 + r.cvGood.toNat * 2 ^ 40 + r.fa * 2 ^ 36
    + r.fb * 2 ^ 32 + x.rotCube * 2 ^ 29 + b2n (x.bankq.any (·.isDrain)) * 2 ^ 28)
/-- TILE.VEC_STATE (R144). -/
def Dev.vecState (d : Dev) (t : Nat) : W64 := w64 ((d.tile t).rotB * 2 ^ 8 + (d.tile t).rotA)
/-- TILE.RT_FWD (R252). -/
def Dev.fwdState (d : Dev) (t : Nat) : W64 := w64 ((d.tile t).fwd.foldl (fun n e => n ||| 2 ^ e.entry) 0)
/-- The registers of a TILE block that show what the tile holds. -/
def Dev.tileValue (d : Dev) (off : Nat) : Option W64 :=
  if off < 0x1000000 || 0x1000000 + 1664 * 0x1000 ≤ off then none else
  let t := (off - 0x1000000) / 0x1000
  if off % 0x1000 = Reg.CUBE_STATE then some (d.cubeState t)
  else if off % 0x1000 = Reg.VEC_STATE then some (d.vecState t)
  else if off % 0x1000 = Reg.RT_FWD then some (d.fwdState t)
  else none

/-- What the register at an offset reads as, for a port. -/
def Dev.regValue (d : Dev) (p off : Nat) : W64 :=
  if !d.offServed off then 0
  else if off = Reg.CAP then put (d.rd off) 48 48 p
  else if countsFromReady off && !d.ready readyDevice then 0
  else if off = Reg.ETAB_DATA then d.etabData
  else if off = Reg.POOLUSE then w64 ((List.range 4).foldl (fun v c => v + cdiv (d.poolUse c) 4 * 2 ^ (16 * c)) 0)
  else if off = Reg.RTAB_DATA then smGet zero64 d.rtab (d.rf Reg.RTAB_IDX 11 0)
  else match idxOf 0x810000 8 16384 off, idxOf 0x840000 8 16384 off with
    | some w, _ => d.firnWord w
    | _, some w => d.firnWear w
    | _, _ => (d.tileValue off).getD (d.rd off)

/-- A read ends the figures "since the last read" (R279, R414, R418). -/
def Dev.readEnds (d : Dev) (off : Nat) : Dev :=
  if !d.offServed off then d
  else if off = Reg.EST then d.wf off 47 32 0
  else if off = Reg.VOTE_RTT then d.wf off 63 32 0
  else match idxOf (Reg.FIELD 0) 8 16 off with
    | some _ => d.wf off 23 12 0
    | none => d
def Dev.regRead (d : Dev) (p off : Nat) : W64 × Dev := (d.regValue p off, d.readEnds off)

/-- An access of another width or alignment, recorded against the port (R17, R534 class 15). -/
def Dev.widthError (d : Dev) (p off be : Nat) : Dev := d.varveLog 15 0 6 p { port := some p } (w64 off) (w64 be)

/-! ## Writes -/

/-- Whether a port may write a register's fields. -/
def Dev.mayWrite (d : Dev) (p off : Nat) (r : RegDef) : Bool :=
  match r.guard with
  | .device => false
  | .any => true
  | .steward => d.isSteward p
  | .port => (off % 0x100000 - r.base) / r.stride == p
  | .own => false
/-- The fields of a register take a written value by their access codes (R19). -/
def Dev.plainFields (d : Dev) (off : Nat) (r : RegDef) (v : W64) : Dev :=
  let old := d.rd off
  d.wr off (((old &&& ~~~(w64 r.rw)) ||| (v &&& w64 r.rw)) &&& ~~~(v &&& w64 r.w1c))
/-- A command register is written without GO: its fields stand while the command they hold runs (DESIGN CHOICE, log entry 26). -/
def Dev.idleWrite (d : Dev) (p off : Nat) (busy : Bool) (v : W64) : Dev :=
  match regRow off with
  | some r => if !busy && d.mayWrite p off r then d.plainFields off r v else d
  | none => d
/-- A write without an effect beside the register itself. -/
def Dev.plainWrite (d : Dev) (p off : Nat) (v : W64) : Dev := d.idleWrite p off false v

/-- DEV.RSTp_CMD of the port's own (R528). -/
def Dev.writeRst (d : Dev) (p : Nat) (v : W64) : Dev :=
  let t := fld v 10 0
  if !tst v 63 then d.idleWrite p (Reg.RST_CMD p) (d.rb (Reg.RST_CMD p) 63) v else
  match fld v 62 60 with
  | 1 => if t < 64 then doContextReset p t d else (d.rstStart p 1 t).elim d (·.rstStop p St.INVALID)
  | 2 => if t < 64 then doContextFence p t d else (d.rstStart p 2 t).elim d (·.rstStop p St.INVALID)
  | 3 => if t < 1664 then doTileReset p t [] d else if d.isSteward p then (d.rstStart p 3 t).elim d (·.rstStop p St.INVALID) else d
  | 4 => doDeviceReset p d
  | op => (d.rstStart p op t).elim d (·.rstStop p St.INVALID)

/-- Writes to the DEV block; none where the register has no effect beside its own fields. -/
def Dev.writeDev (d : Dev) (p off : Nat) (v : W64) : Option Dev :=
  if off = Reg.STEWARD then
    some ((((d.when (tst v 61) (doClaim p)).when (tst v 60) (doRenew p)).when (tst v 59) (doLeaseRelease p)))
  else if off = Reg.EVENT then
    let d := d.wr off (d.rd off &&& ~~~(v &&& maskOf 6 0))
    some (if d.isSteward p then d.wf off 38 32 (fld v 38 32) else d)
  else if p < 2 && off = Reg.P_CTL p then some ((d.plainWrite p off v).when (tst v 61) (doPortResume p))
  else if p < 2 && off = Reg.RST_CMD p then some (d.writeRst p v)
  else match idxOf (Reg.CWIN 0) 0x10 8 off, idxOf (Reg.CWINR 0) 0x10 8 off with
    | some w, _ => some (doCopyWindow p w false v d)
    | _, some w => some (doCopyWindow p w true v d)
    | _, _ => none

/-- The CAD block. -/
def Dev.writeCad (d : Dev) (p off : Nat) (v : W64) : Option Dev :=
  if off = Reg.TB_CTL then
    let d := d.plainWrite p off v
    some (if d.rb Reg.TB_STATUS 2 && !d.rb off 8 then d.refLost else d.reElect)
  else if off = Reg.TB_SET then some (doTbSet p v d)
  else if off = Reg.GRP then some (doGroupEnable p v d)
  else if off = Reg.FRAME_SWITCH then some (doFrameSwitch p (fld v 47 0) (d.rn Reg.TB_TIME) true d)
  else if off = Reg.FRAME_EPOCH || off = Reg.FRAME_BASE then
    some (if d.isSteward p && !d.framesRun then d.wr off (v &&& regImpl off) else d)
  else if off = Reg.VOTE_TREE then
    some (if d.isSteward p then { d.plainWrite p off v with treeBad := none } else d)
  else match idxOf (Reg.SCH_CTL 0) 8 64 off with
    | some i => if i % 8 < 4 then some (doScheduleWrite p (i / 8) (i % 8) v d) else none
    | none => none

/-- The PWR block. -/
def Dev.writePwr (d : Dev) (p off : Nat) (v : W64) : Option Dev :=
  if off = Reg.PWR_CTL then some ((d.plainWrite p off v).when (tst v 62) (doForget p))
  else if off = Reg.CAP_W then some (doCapWrite p (fld v 15 0) d)
  else if off = Reg.FIELD_CMD then
    let f := fld v 19 16
    some (if !tst v 63 then d.idleWrite p off (d.rb off 63) v
      else if fld v 62 60 = 1 then doSwitchOn p f d
      else if fld v 62 60 = 2 then doSwitchOff p f d
      else (d.fieldCmd p (fld v 62 60) f).elim d (·.fieldCmdEnd f St.INVALID))
  else if off = Reg.ETAB_DATA then
    let k := d.rf Reg.ETAB_IDX 17 16 * 256 + d.rf Reg.ETAB_IDX 7 0
    some (if d.isSteward p && d.rb Reg.ETAB_IDX 63 then { d with pinned := smSet zeroNat d.pinned k (fld v 31 0) } else d)
  else none

/-- The MEM block. -/
def Dev.writeMemReg (d : Dev) (p off : Nat) (v : W64) : Option Dev :=
  if off = Reg.MEM_CTL then some ((d.plainWrite p off v).when (tst v 63) (doPoolLock p))
  else if off = Reg.PT_POOL then some (if d.locked then d else d.plainWrite p off v)
  else if off = Reg.RETRAIN then
    some ((d.plainWrite p off v).when (tst v 63 && fld v 5 0 < 36) (doStackRetrain p (fld v 5 0) (tst v 62)))
  else if p < 2 && off = Reg.OP_CMD p then
    some (if tst v 63 then doMemOp p (v &&& (maskOf 62 56 ||| maskOf 53 16 ||| maskOf 5 0)).toNat d else d.idleWrite p off (d.rb (Reg.OP_STATUS p) 63) v)
  else match idxOf (Reg.RESV 0) 8 8 off, idxOf (Reg.QCTX 0) 8 64 off, idxOf (Reg.QCLS 0) 8 8 off, idxOf (Reg.KVAR 0) 8 64 off with
    | some _, _, _, _ => some (if d.locked then d else d.plainWrite p off v)
    | _, some c, _, _ => some (doQuotaWrite p false c v d)
    | _, _, some c, _ => some (doQuotaWrite p true c v d)
    | _, _, _, some c =>
      some (if d.owns p c && !d.pages.any (fun x => x.ctx == c && x.cls.isSome) then d.wr off (v &&& regImpl off) else d)
    | _, _, _, _ => none

/-- A pool cap below what a class holds is reported to the steward's port (R330, R437, R534 class 28). -/
def Dev.cutPool (d : Dev) (cls : Nat) : Dev :=
  let use := d.poolUse cls; let cap := d.poolCap cls
  if use > cap then
    d.varveLog 28 0 8 5 { port := if d.rb Reg.STEWARD 63 then some (d.rf Reg.STEWARD 62 62) else none }
      (w64 (2 + cls * 2 ^ 8)) (w64 (cdiv (use - cap) 4))
  else d
/-- LNK.Lk_CTL (R451). -/
def Dev.writeLink (d : Dev) (p k : Nat) (v : W64) : Dev :=
  let off := Reg.L_CTL k
  if !d.isSteward p then d else
  let d := d.wf off 15 0 (fld v 15 0)
  let d := d.when (tst v 61 != d.rb off 61) (doHold p k (tst v 61))
  let d := d.when (tst v 63 != d.rb off 63) (doLinkEnable p k (tst v 63))
  (d.when (tst v 62) (doAdmit p k)).when (tst v 60) (doLinkRetrain p k)
/-- The LNK block. -/
def Dev.writeLnk (d : Dev) (p off : Nat) (v : W64) : Option Dev :=
  if off = Reg.DEVID then
    some (if tst v 63 then doDevidLock p (fld v 16 0) d else if d.idLocked then d else d.plainWrite p off v)
  else if off = Reg.RTAB_DATA then
    some (if d.isSteward p then
        { d with rtab := smSet zero64 d.rtab (d.rf Reg.RTAB_IDX 11 0) (v &&& regImpl off) }
      else d)
  else if off = Reg.POOLCAP then
    some (if d.isSteward p then (d.plainWrite p off v).each (List.range 4) fun d c => d.cutPool c else d)
  else match idxOf (Reg.L_CTL 0) 0x40 24 off, idxOf (Reg.OSTR_CFG 0) 8 128 off, idxOf (Reg.ISTR_CFG 0) 8 128 off with
    | some k, _, _ => some (d.writeLink p k v)
    | _, some i, _ => some (doStreamWrite p (i / 2) (i % 2) v d)
    | _, _, some i => some (doStreamWrite p (i / 2) (2 + i % 2) v d)
    | _, _, _ => none

/-- The ITG block. What a test run of a package finds is told by PKG_RUN alone. -/
def Dev.writeItg (d : Dev) (p off : Nat) (v : W64) : Option Dev :=
  if off = Reg.ITG_CTL then some (d.writeItgCtl p v)
  else if off = Reg.RETIRE_CMD then some (d.writeRetire p v)
  else if off = Reg.CAP_RD then some (doCapRd p v d)
  else if off = Reg.PKG_CMD then
    some (if !tst v 63 then d.plainWrite p off v
      else match fld v 62 60 with
        | 1 => doPkgLoad p (fld v 3 0) d
        | 2 => doPkgUnload p (fld v 3 0) d
        | 3 => doPkgRun p (fld v 7 4) [] d
        | op => (d.pkgStart p op (fld v 7 4) (fld v 3 0)).elim d (·.pkgEnd St.INVALID))
  else none

/-- FIRN.CMD (R511). -/
def Dev.writeFirnCmd (d : Dev) (p : Nat) (v : W64) : Dev :=
  let w := fld v 13 0
  if !tst v 63 then d.idleWrite p Reg.FIRN_CMD (d.rb Reg.FIRN_CMD 63) v else
  match fld v 62 60 with
  | 1 => doFirnWrite p w d
  | 2 => doSetLock p d
  | 3 => doEnroll p d
  | 4 => doClearShort p d
  | 5 => doRaiseSvn p d
  | op => d.firnCmd p op w fun _ => .error St.INVALID
/-- BOOT.PUSH_CTL (R489, R490, R500). -/
def Dev.writePush (d : Dev) (p : Nat) (v : W64) : Dev :=
  let d := if tst v 63 then doPushStart p (tst v 61) d
    else if d.recovery || d.isSteward p then d.wf Reg.PUSH_CTL 61 61 (b2n (tst v 61)) else d
  d.when (tst v 62) (doPushEnd p)
/-- The VRV, FIRN and BOOT blocks. The script a GO of SCRIPT_CMD starts is told by DEBUG_SCRIPT_GO alone. -/
def Dev.writeBoot (d : Dev) (p off : Nat) (v : W64) : Option Dev :=
  if off = Reg.VRV_CTL then some (doVarveCtl p (tst v 63) d)
  else if off = Reg.VRV_RD then some (if d.isSteward p && v.toNat ≤ d.rn Reg.VRV_WR then d.wr off v else d)
  else if off = Reg.FIRN_CMD then some (d.writeFirnCmd p v)
  else if off = Reg.PUSH_CTL then some (d.writePush p v)
  else if off = Reg.PUSH_DATA then some (doPushData p v d)
  else none

/-- The capture and shadow records of a tile: writing 1 to VALID releases, from either port. -/
def Dev.writeTile (d : Dev) (off : Nat) (v : W64) : Option Dev :=
  let t := (off - 0x1000000) / 0x1000; let r := off % 0x1000
  if off < 0x1000000 || t ≥ 1664 then none
  else if r = Reg.CAP_STATUS || r = Reg.LCAP_STATUS then some (if tst v 63 then doRelease r t d else d)
  else if r = Reg.SHADOW_REC then some (if tst v 63 then doShadowRelease t d else d)
  else none

/-- An aligned 64-bit write of a register. -/
def Dev.regWrite (d : Dev) (p off : Nat) (v : W64) : Dev :=
  if !d.offServed off then d else
  let act := match off / 0x100000 with
    | 0 => d.writeDev p off v
    | 1 => d.writeCad p off v
    | 3 => d.writePwr p off v
    | 4 => d.writeMemReg p off v
    | 5 => d.writeLnk p off v
    | 6 => d.writeItg p off v
    | 7 => d.writeBoot p off v
    | 8 => d.writeBoot p off v
    | 9 => d.writeBoot p off v
    | _ => d.writeTile off v
  act.getD (d.plainWrite p off v)

end Sys2Proof.Machine
end

