-- ==== Sys2Proof/Machine/Script.lean ====
section
/-! DEFINITION. Tololoth scripts (R502 to R506): the bring-up script, debug scripts, their commands and lockstep. -/

namespace Sys2Proof.Machine

/-! ## The form of a script -/

namespace Op
def WRITE : Nat := 1
def MASK : Nat := 2
def MODIFY : Nat := 3
def POLL : Nat := 4
def TIMEOUT : Nat := 5
def DELAY : Nat := 6
def EXPECT : Nat := 7
def READ : Nat := 8
end Op

/-- The BAR0 offset of an address in the register space (R40). -/
def regOffset (a : Nat) : Option Nat :=
  if 0xC0000000000 ≤ a && a < 0xC0000000000 + 2 ^ 27 then some (a - 0xC0000000000) else none
def cmdOp (c : W64 × W64) : Nat := fld c.1 63 56
def cmdAddr (c : W64 × W64) : Nat := fld c.1 47 0
/-- A register a script may name. -/
def scriptReg (a : Nat) : Bool :=
  a % 8 == 0 && (regOffset a).any fun o => o != Reg.FIRN_CMD && !(Reg.SCRIPT_ADDR ≤ o && o ≤ Reg.SCRIPT_STATUS)
/-- Whether a command is valid (R503). -/
def cmdOk (debug : Bool) (c : W64 × W64) : Bool :=
  let op := cmdOp c; let n := c.2.toNat
  fld c.1 55 48 == 0 && op ≤ (if debug then 8 else 7)
    && (if op = 0 then true
      else if op = Op.MASK then cmdAddr c == 0
      else if op = Op.TIMEOUT then cmdAddr c == 0 && 1 ≤ n && n ≤ 10000000
      else if op = Op.DELAY then cmdAddr c == 0 && n ≤ 10000000
      else scriptReg (cmdAddr c))
/-- The commands a script reaches are valid: all of them up to its first END. -/
def cmdsOk (debug : Bool) : List (W64 × W64) → Bool
  | [] => true
  | c :: cs => cmdOk debug c && (cmdOp c == 0 || cmdsOk debug cs)

def scriptCount (b : List Byte) : Nat := sliceNum b 8 4
/-- The header of a script (R502). -/
def scriptForm (b : List Byte) (debug : Bool) : Bool :=
  let n := scriptCount b
  sliceNum b 0 4 == 0x53545141 && sliceNum b 4 2 == 1 && sliceNum b 6 2 == b2n debug && 1 ≤ n && n ≤ 65536
    && zeroBetween b 0xC 4 && zeroBetween b 0x18 40 && 192 + 16 * n ≤ b.length
    && (debug || (zeroBetween b 0x10 8 && zeroBetween b 0x40 128))
def scriptCmds (b : List Byte) : List (W64 × W64) :=
  (List.range (scriptCount b)).map fun i => (w64 (sliceNum b (192 + 16 * i) 8), w64 (sliceNum b (200 + 16 * i) 8))

/-! ## Start and end -/

def Dev.setScript (d : Dev) (x : Option Script) : Dev := { d with boot := { d.boot with script := x } }
def Dev.scriptStatus (d : Dev) (s : Nat) : Dev := d.wf Reg.SCRIPT_STATUS 63 48 s
/-- The bring-up script has failed: bring-up stops after stages 3 and 4 (R504). -/
def Dev.scriptFailed (d : Dev) (i status : Nat) : Dev :=
  ((d.wf Reg.BOOT_STATUS 60 60 1).firnCount 4).varveLog 35 3 9 0 {} (w64 i) (w64 status)
/-- A script ends at a command with a status. -/
def Dev.scriptEnd (d : Dev) (x : Script) (status : Nat) : Dev :=
  let d := ((d.setScript none).wf Reg.SCRIPT_CMD 63 63 0).scriptStatus status
  if x.debug then d
  else if status = 0 then { d with boot := { d.boot with scriptOk := true } }
  else d.scriptFailed x.idx status
/-- A script starts, unless it fails at once. -/
def Dev.scriptStart (d : Dev) (b : List Byte) (debug : Bool) (port : Nat) : Dev :=
  let x : Script := { cmds := scriptCmds b, debug := debug, port := port }
  let d := (d.wr Reg.SCRIPT_STATUS 0).wf Reg.SCRIPT_CMD 63 63 1
  if scriptForm b debug && cmdsOk debug x.cmds then d.setScript (some x) else d.scriptEnd x St.INVALID
/-- The bring-up script runs once, in stage 5. -/
def doBringupScript (d : Dev) : Dev :=
  if d.stage < 5 || d.boot.bundle == [] || d.boot.scriptRan || d.boot.script.isSome then d
  else ({ d with boot := { d.boot with scriptRan := true } }).scriptStart (component d.boot.bundle 2) false 2

/-- The signatures and the binding of a debug script on a -P device (R505). -/
def Dev.debugOk (d : Dev) (b : List Byte) : Bool :=
  let h := toBytes 64 (sha (slice b 0 0x40 ++ slice b 192 (16 * scriptCount b)))
  sigOk (slice d.boot.bundle 0x20 32) h (slice b 0x40 64) && d.lockBit 1 && sha (d.regBytes Reg.AUTH_PUB 4) == d.ownerHash
    && sigOk (d.regBytes Reg.AUTH_PUB 4) h (slice b 0x80 64) && sliceNum b 0x10 8 == d.rn Reg.SERIAL && !d.lockBit 3
/-- GO of BOOT.SCRIPT_CMD by the steward. -/
def doDebugScript (p : Nat) (b : List Byte) (d : Dev) : Dev :=
  if !d.isSteward p || !d.served then d
  else if d.boot.script.isSome then d.scriptStatus St.BUSY
  else if scriptForm b true && d.rf Reg.DEV_ID 39 32 != 1 && !d.debugOk b then (d.wr Reg.SCRIPT_STATUS 0).scriptStatus St.AUTH_FAIL
  else d.scriptStart b true p

/-! ## Commands (R503) -/

/-- The sequencers go on after a command; a script without a further command has ended (DESIGN CHOICE, log entry 26). -/
def Dev.scriptNext (d : Dev) : Dev :=
  match d.boot.script with
  | none => d
  | some x =>
    let d := (d.setScript (some { x with idx := x.idx + 1, wait := .none })).wf Reg.SCRIPT_STATUS 31 0 (x.idx + 1)
    if x.idx + 1 < x.cmds.length then d else d.scriptEnd x 0
/-- The next command of the running script is carried out, if its opcode is the one given. -/
def Dev.scriptStep (d : Dev) (op : Nat) (act : Script → Nat → W64 → Dev → Dev) : Dev :=
  match d.boot.script with
  | none => d
  | some x => match x.cmds[x.idx]? with
    | none => d
    | some c =>
      if cmdOp c ≠ op || x.wait == .delay then d
      else if x.debug && !d.isSteward x.port then d.scriptEnd x St.FENCED
      else act x (cmdAddr c - 0xC0000000000) c.2 d

def doScriptEnd (d : Dev) : Dev := d.scriptStep 0 fun x _ _ d => (d.wf Reg.SCRIPT_STATUS 31 0 (x.idx + 1)).scriptEnd x 0
def doScriptWrite (d : Dev) : Dev := d.scriptStep Op.WRITE fun x o v d => (d.regWrite x.port o v).scriptNext
def doScriptMask (d : Dev) : Dev := d.scriptStep Op.MASK fun x _ v d => (d.setScript (some { x with mask := v })).scriptNext
def doScriptModify (d : Dev) : Dev := d.scriptStep Op.MODIFY fun x o v d =>
  let (old, d) := d.regRead x.port o
  (d.regWrite x.port o ((old &&& ~~~x.mask) ||| (v &&& x.mask))).scriptNext
/-- POLL reads again until it matches or its timeout expires. -/
def doScriptPoll (d : Dev) : Dev := d.scriptStep Op.POLL fun x o v d =>
  let (r, d) := d.regRead x.port o
  if r &&& x.mask = v &&& x.mask then d.scriptNext else d.setScript (some { x with wait := .poll })
def doScriptTimeout (d : Dev) : Dev := d.scriptStep Op.TIMEOUT fun x _ v d => (d.setScript (some { x with timeout := v.toNat })).scriptNext
def doScriptDelay (d : Dev) : Dev := d.scriptStep Op.DELAY fun x _ _ d => d.setScript (some { x with wait := .delay })
def doScriptExpect (d : Dev) : Dev := d.scriptStep Op.EXPECT fun x o v d =>
  let (r, d) := d.regRead x.port o
  if r &&& x.mask = v &&& x.mask then d.scriptNext else d.scriptEnd x St.MISMATCH
/-- READ appends to the output buffer in host memory; records past its 4 KiB are dropped (R506). -/
def doScriptRead (d : Dev) : Dev := d.scriptStep Op.READ fun x o _ d =>
  let (r, d) := d.regRead x.port o
  let d := if x.output < 256 then
      ((d.emit (.host x.port (d.rn Reg.SCRIPT_OUT + 16 * x.output) (toBytes 8 (0xC0000000000 + o) ++ toBytes 8 r.toNat))).wf Reg.SCRIPT_STATUS 47 32
        (x.output + 1)).setScript (some { x with output := x.output + 1 })
    else d
  d.scriptNext
def doPollExpiry (d : Dev) : Dev :=
  match d.boot.script with
  | some x => if x.wait == .poll then d.scriptEnd x St.TIMEOUT else d
  | none => d
def doDelayExpiry (d : Dev) : Dev :=
  match d.boot.script with
  | some x => if x.wait == .delay then d.scriptNext else d
  | none => d

/-! ## Lockstep (R506) -/

/-- Bring-up starts again from stage 1; after two such restarts it does so once more and stays in recovery with SCRIPT_FAIL set. -/
def Dev.restartBringup (d : Dev) (i : Nat) : Dev :=
  let log (d : Dev) : Dev := d.varveLog 35 3 9 0 {} (w64 i) (w64 St.LOCKSTEP)
  if d.boot.restarts < 2 then
    log { d.fromPower with firnQ := d.firnQ, boot := { d.fromPower.boot with restarts := d.boot.restarts + 1 } }
  else
    let d := ({ d.fromPower with firnQ := d.firnQ, boot := { d.fromPower.boot with restarts := d.boot.restarts } }).showFirn
    log (((d.wf Reg.BOOT_STATUS 63 63 1).wf Reg.BOOT_STATUS 60 60 1).stageUp 3 |>.firnCount 4)
def doDivergence (stage : Bool) (d : Dev) : Dev :=
  match d.boot.script with
  | some x =>
    let stop := ((d.setScript none).wf Reg.SCRIPT_CMD 63 63 0).scriptStatus St.LOCKSTEP
    if x.debug && !stage then stop.varveLog 35 3 9 0 {} (w64 x.idx) (w64 St.LOCKSTEP) else stop.restartBringup x.idx
  | none => if stage then d.restartBringup 0 else d

end Sys2Proof.Machine
end

