-- ==== Sys2Proof/Machine/FamBoot.lean ====
section
/-! DEFINITION. The commands of bring-up, scripts and firn writes (chapter 16). -/

namespace Sys2Proof.Machine

/-- Blocks that do not arrive good, as the operations take them. -/
def badBlocks (l : List (TileId × Fin 9)) : List (Nat × Nat) := l.map fun x => (x.1.val, x.2.val)

/-- POWER_LOSS (R544). -/
def execPowerLoss (s : State) : Host.Outcome State Fault Refusal := s.ok (doPowerLoss s.dev)
/-- POWER_GOOD (R482). -/
def execPowerGood (s : State) : Host.Outcome State Fault Refusal := s.ok (doPowerGood s.dev)
/-- FIRST_STAGE_DONE (R482, R485). -/
def execFirstStageDone (a b : List Byte) (s : State) : Host.Outcome State Fault Refusal := s.ok (doFirstStage a b s.dev)
/-- BUNDLE_VERIFIED (R488). -/
def execBundleVerified (s : State) : Host.Outcome State Fault Refusal := s.ok (doBundleVerified s.dev)
/-- CLOCK_MESH_LOCK (R365, R482). -/
def execClockMeshLock (s : State) : Host.Outcome State Fault Refusal := s.ok (doClockLock s.dev)
/-- HOST_PORT_TRAINED (R482). -/
def execHostPortTrained (p : PortTraining) (s : State) : Host.Outcome State Fault Refusal :=
  s.ok (doPortTrained p.port.val ⟨p.full.setWidth 8, p.half.setWidth 8⟩ (2 ^ p.lanes.val) s.dev)
/-- PERST_DEASSERT (R480). -/
def execPerstDeassert (p : Port) (s : State) : Host.Outcome State Fault Refusal := s.ok (doPerst p.val s.dev)
/-- BRINGUP_SCRIPT_RUN (R504). -/
def execBringupScriptRun (s : State) : Host.Outcome State Fault Refusal := s.ok (doBringupScript s.dev)
/-- FIELD_WAVE_START (R491). -/
def execFieldWaveStart (d : Fin 7) (s : State) : Host.Outcome State Fault Refusal := s.ok (doWave d.val s.dev)
/-- IMAGE_BROADCAST (R495). -/
def execImageBroadcast (f : FieldId) (bad : List (TileId × Fin 9)) (s : State) : Host.Outcome State Fault Refusal :=
  s.ok (doBroadcast f.val (badBlocks bad) s.dev)
/-- IMAGE_REPAIR_ROUND (R496). -/
def execImageRepairRound (f : FieldId) (bad : List (TileId × Fin 9)) (s : State) : Host.Outcome State Fault Refusal :=
  s.ok (doRepairRound f.val (badBlocks bad) s.dev)
/-- STACK_FIRST_TRAINING (R497). -/
def execStackFirstTraining (s : State) : Host.Outcome State Fault Refusal := s.ok (doFirstTraining s.dev)
/-- LINK_BRINGUP_START (R498). -/
def execLinkBringupStart (s : State) : Host.Outcome State Fault Refusal := s.ok (doLinkBringup s.dev)
/-- PUSH_START (R489). -/
def execPushStart (p : Port) (store : Bool) (s : State) : Host.Outcome State Fault Refusal := s.ok (doPushStart p.val store s.dev)
/-- PUSH_DATA_WRITE (R489). -/
def execPushDataWrite (p : Port) (v : BitVec 64) (s : State) : Host.Outcome State Fault Refusal := s.ok (doPushData p.val v s.dev)
/-- PUSH_END (R489, R490). -/
def execPushEnd (p : Port) (s : State) : Host.Outcome State Fault Refusal := s.ok (doPushEnd p.val s.dev)
/-- DEBUG_SCRIPT_GO (R505). -/
def execDebugScriptGo (p : Port) (bytes : List Byte) (s : State) : Host.Outcome State Fault Refusal :=
  s.ok (doDebugScript p.val bytes s.dev)
/-- SCRIPT_END (R503). -/
def execScriptEnd (s : State) : Host.Outcome State Fault Refusal := s.ok (doScriptEnd s.dev)
/-- SCRIPT_WRITE (R503). -/
def execScriptWrite (s : State) : Host.Outcome State Fault Refusal := s.ok (doScriptWrite s.dev)
/-- SCRIPT_MASK (R503). -/
def execScriptMask (s : State) : Host.Outcome State Fault Refusal := s.ok (doScriptMask s.dev)
/-- SCRIPT_MODIFY (R503). -/
def execScriptModify (s : State) : Host.Outcome State Fault Refusal := s.ok (doScriptModify s.dev)
/-- SCRIPT_POLL (R503). -/
def execScriptPoll (s : State) : Host.Outcome State Fault Refusal := s.ok (doScriptPoll s.dev)
/-- SCRIPT_TIMEOUT (R503). -/
def execScriptTimeout (s : State) : Host.Outcome State Fault Refusal := s.ok (doScriptTimeout s.dev)
/-- SCRIPT_DELAY (R503). -/
def execScriptDelay (s : State) : Host.Outcome State Fault Refusal := s.ok (doScriptDelay s.dev)
/-- SCRIPT_EXPECT (R503). -/
def execScriptExpect (s : State) : Host.Outcome State Fault Refusal := s.ok (doScriptExpect s.dev)
/-- SCRIPT_READ (R503). -/
def execScriptRead (s : State) : Host.Outcome State Fault Refusal := s.ok (doScriptRead s.dev)
/-- POLL_EXPIRY (R503). -/
def execPollExpiry (s : State) : Host.Outcome State Fault Refusal := s.ok (doPollExpiry s.dev)
/-- DELAY_EXPIRY (R503). -/
def execDelayExpiry (s : State) : Host.Outcome State Fault Refusal := s.ok (doDelayExpiry s.dev)
/-- LOCKSTEP_DIVERGENCE (R506). -/
def execLockstepDivergence (stage : Bool) (s : State) : Host.Outcome State Fault Refusal := s.ok (doDivergence stage s.dev)
/-- FIRN_WRITE (R511). -/
def execFirnWrite (p : Port) (w : BitVec 14) (s : State) : Host.Outcome State Fault Refusal :=
  s.ok (doFirnWrite p.val w.toNat s.dev)
/-- SET_LOCK (R511). -/
def execSetLock (p : Port) (s : State) : Host.Outcome State Fault Refusal := s.ok (doSetLock p.val s.dev)
/-- ENROLL (R511). -/
def execEnroll (p : Port) (s : State) : Host.Outcome State Fault Refusal := s.ok (doEnroll p.val s.dev)
/-- CLEAR_SHORT (R397, R511). -/
def execClearShort (p : Port) (s : State) : Host.Outcome State Fault Refusal := s.ok (doClearShort p.val s.dev)
/-- RAISE_SVN (R511). -/
def execRaiseSvn (p : Port) (s : State) : Host.Outcome State Fault Refusal := s.ok (doRaiseSvn p.val s.dev)
/-- BUNDLE_STORED (R490). -/
def execBundleStored (s : State) : Host.Outcome State Fault Refusal := s.ok (doBundleStored s.dev)
/-- FIRN_OPERATION_COMPLETE (R507). -/
def execFirnOperationComplete (s : State) : Host.Outcome State Fault Refusal := s.ok s.dev.firnDone

end Sys2Proof.Machine
end

