-- ==== Sys2Proof/Machine/FamCtrl.lean ====
section
/-! DEFINITION. The commands of the CTRL slot (R196 to R200): each issues one bundle. -/

namespace Sys2Proof.Machine

/-- A bundle whose CTRL slot is the given word is reached on a tile. -/
def doCtrl (t : TileId) (op e args : Nat) (rest : Word256) (o : Obs) (d : Dev) : Dev :=
  d.tileBeat t.val (some (putCtrl rest (encCtrl op e args))) o

/-- CTRL NOP, or ENDL n (R57, R196, R198). -/
def execNop (t : TileId) (e : BitVec 4) (rest : Word256) (o : Obs) (s : State) : Host.Outcome State Fault Refusal :=
  s.ok (doCtrl t 0 e.toNat 0 rest o s.dev)
/-- LOOP (R56, R58, R59). -/
def execLoop (t : TileId) (e : BitVec 4) (a : LoopArg) (rest : Word256) (o : Obs) (s : State) : Host.Outcome State Fault Refusal :=
  s.ok (doCtrl t 1 e.toNat (encLoop a) rest o s.dev)
/-- SKIP (R60, R61). -/
def execSkip (t : TileId) (e : BitVec 4) (test : BitVec 2) (p : BitVec 4) (m1 : BitVec 10) (rest : Word256) (o : Obs) (s : State) : Host.Outcome State Fault Refusal :=
  s.ok (doCtrl t 2 e.toNat (test.toNat * 2 ^ 21 + p.toNat * 2 ^ 17 + m1.toNat) rest o s.dev)
/-- WAITF (R172, R199). -/
def execWaitf (t : TileId) (e : BitVec 4) (a : SlotArg) (rest : Word256) (o : Obs) (s : State) : Host.Outcome State Fault Refusal :=
  s.ok (doCtrl t 3 e.toNat (encSlot a) rest o s.dev)
/-- WAITE (R172, R199). -/
def execWaite (t : TileId) (e : BitVec 4) (a : SlotArg) (rest : Word256) (o : Obs) (s : State) : Host.Outcome State Fault Refusal :=
  s.ok (doCtrl t 4 e.toNat (encSlot a) rest o s.dev)
/-- BAR (R200, R241). -/
def execBar (t : TileId) (e : BitVec 4) (n : BitVec 4) (rest : Word256) (o : Obs) (s : State) : Host.Outcome State Fault Refusal :=
  s.ok (doCtrl t 5 e.toNat n.toNat rest o s.dev)
/-- PHASE (R71, R76). -/
def execPhase (t : TileId) (e : BitVec 4) (id : BitVec 8) (rest : Word256) (o : Obs) (s : State) : Host.Outcome State Fault Refusal :=
  s.ok (doCtrl t 6 e.toNat id.toNat rest o s.dev)
/-- FSYNC (R74). -/
def execFsync (t : TileId) (e : BitVec 4) (kind : BitVec 1) (rest : Word256) (o : Obs) (s : State) : Host.Outcome State Fault Refusal :=
  s.ok (doCtrl t 7 e.toNat kind.toNat rest o s.dev)
/-- CALL (R62 to R64). -/
def execCall (t : TileId) (e : BitVec 4) (rt : BitVec 6) (rest : Word256) (o : Obs) (s : State) : Host.Outcome State Fault Refusal :=
  s.ok (doCtrl t 8 e.toNat rt.toNat rest o s.dev)
/-- RET (R62, R64). -/
def execRet (t : TileId) (e : BitVec 4) (rest : Word256) (o : Obs) (s : State) : Host.Outcome State Fault Refusal :=
  s.ok (doCtrl t 9 e.toNat 0 rest o s.dev)
/-- HALT (R71, R75). -/
def execHalt (t : TileId) (e : BitVec 4) (rest : Word256) (o : Obs) (s : State) : Host.Outcome State Fault Refusal :=
  s.ok (doCtrl t 10 e.toNat 0 rest o s.dev)

end Sys2Proof.Machine
end

