-- ==== Sys2Proof/Machine/FamCube.lean ====
section
/-! DEFINITION. The commands of the CUBE slot (R201 to R204): each issues one bundle. -/

namespace Sys2Proof.Machine

/-- A bundle whose CUBE slot is the given word is reached on a tile. -/
def doCube (t : TileId) (w : Nat) (rest : Word256) (o : Obs) (d : Dev) : Dev := d.tileBeat t.val (some (putCube rest w)) o

/-- CNOP (R202). -/
def execCnop (t : TileId) (rest : Word256) (o : Obs) (s : State) : Host.Outcome State Fault Refusal := s.ok (doCube t 0 rest o s.dev)
/-- CMAC (R86, R93 to R97, R203). -/
def execCmac (t : TileId) (acc aga agb : BitVec 3) (rest : Word256) (o : Obs) (s : State) : Host.Outcome State Fault Refusal :=
  s.ok (doCube t (1 * 2 ^ 59 + acc.toNat * 2 ^ 56 + aga.toNat * 2 ^ 53 + agb.toNat * 2 ^ 50) rest o s.dev)
/-- CMUL (R97). -/
def execCmul (t : TileId) (acc aga agb : BitVec 3) (rest : Word256) (o : Obs) (s : State) : Host.Outcome State Fault Refusal :=
  s.ok (doCube t (2 * 2 ^ 59 + acc.toNat * 2 ^ 56 + aga.toNat * 2 ^ 53 + agb.toNat * 2 ^ 50) rest o s.dev)
/-- CZERO (R97, R109). -/
def execCzero (t : TileId) (acc : BitVec 3) (rest : Word256) (o : Obs) (s : State) : Host.Outcome State Fault Refusal :=
  s.ok (doCube t (3 * 2 ^ 59 + acc.toNat * 2 ^ 56) rest o s.dev)
/-- CDRAIN (R100 to R104, R109, R204). -/
def execCdrain (t : TileId) (acc : BitVec 3) (fmt : BitVec 4) (agd ags : BitVec 3) (sr : BitVec 1) (vr : BitVec 6) (cve : BitVec 1) (cv : BitVec 3) (cvs : BitVec 1) (rest : Word256) (o : Obs) (s : State) : Host.Outcome State Fault Refusal :=
  s.ok (doCube t (4 * 2 ^ 59 + acc.toNat * 2 ^ 56 + fmt.toNat * 2 ^ 52 + agd.toNat * 2 ^ 49 + ags.toNat * 2 ^ 46 + sr.toNat * 2 ^ 45
    + vr.toNat * 2 ^ 39 + cve.toNat * 2 ^ 38 + cv.toNat * 2 ^ 35 + cvs.toNat * 2 ^ 34) rest o s.dev)
/-- CFMT (R87, R89). -/
def execCfmt (t : TileId) (fa fb : BitVec 4) (saga sagb : BitVec 3) (rest : Word256) (o : Obs) (s : State) : Host.Outcome State Fault Refusal :=
  s.ok (doCube t (5 * 2 ^ 59 + fa.toNat * 2 ^ 55 + fb.toNat * 2 ^ 51 + saga.toNat * 2 ^ 48 + sagb.toNat * 2 ^ 45) rest o s.dev)

end Sys2Proof.Machine
end

