-- ==== Sys2Proof/Machine/Bar2.lean ====
section
/-! DEFINITION. BAR2, a port's window over the device physical map (R40 to R46, R170, R457, R458). -/

namespace Sys2Proof.Machine

/-- What a device physical address reaches (R40). -/
inductive Reach where
  | regs (off : Nat)
  | aperture (t off : Nat)
  | tier (s : Nat)
  | unmapped
  deriving DecidableEq, Repr

def reach (a : Nat) : Reach :=
  match stackOf a with
  | some s => .tier s
  | none =>
    if 0x80000000000 ≤ a && a < 0x80000000000 + 1664 * 0x800000 then
      .aperture ((a - 0x80000000000) / 0x800000) ((a - 0x80000000000) % 0x800000)
    else if 0xC0000000000 ≤ a && a < 0xC0000000000 + 2 ^ 27 then .regs (a - 0xC0000000000)
    else .unmapped

/-- The size of a port's BAR2, and the device physical address its offset o reaches. -/
def Dev.bar2Size (d : Dev) (p : Nat) : Nat := 2 ^ smGet bar2Reset d.boot.bar2 p
def Dev.bar2Addr (d : Dev) (p o : Nat) : Nat := (fld (d.effRd (Reg.P_WIN p)) 47 30 * 2 ^ 30 + o % d.bar2Size p) % 2 ^ 48

/-- A failure is counted, and the first is latched until the driver releases it (R458, R481). -/
def Dev.winFail (d : Dev) (p status a : Nat) : Dev :=
  let d := d.inc (Reg.P_WINCOUNT p)
  if d.rb (Reg.P_WINERR p) 63 then d else d.wr (Reg.P_WINERR p) (w64 (2 ^ 63 + status * 2 ^ 48 + a))
/-- An unmapped access is recorded against the port (R44, R534 class 15). -/
def Dev.unmappedEntry (d : Dev) (p a : Nat) : Dev := d.varveLog 15 0 6 p { port := some p } (w64 a) (w64 (2 ^ 63))
def ones (n : Nat) : List Byte := List.replicate n 0xFF

/-! ## The scratchpad aperture (R42, R43, R170) -/

/-- What refuses an access to words of a tile's scratchpad: a status, or 0. -/
def Dev.apertureCheck (d : Dev) (t : Nat) (ws : List Nat) (wr : Bool) : Nat :=
  if (d.logOf t).isNone || (d.tile t).dead then St.NO_TILE
  else if d.tileDark t || ws.any (fun w => w < 131072 && (d.winOfWord t w).any (d.winFenced t)) then St.FENCED
  else if !ws.all (fun w => w ≥ 131072 || (d.winOfWord t w).any fun k => if wr then d.winWRemote t k else d.winRRemote t k) then St.WINDOW
  else if wr && ws.any (fun w => w < 131072 && (d.tile t).full w && (d.winOfWord t w).any (d.winTagged t)) then St.TAG_FULL
  else 0
/-- Errors that a read finds in the words of a tile's scratchpad. -/
def apertureObs (t : Nat) (errs : LineErrs) : Obs :=
  { ecc := (errs.filter fun e => reach e.1 == .aperture t (e.1 - apertureBase t) && e.1 - apertureBase t < 0x400000).map fun e =>
      (BitVec.ofNat 17 ((e.1 - apertureBase t) / 32), e.2) }
/-- Read n bytes: the upper half of an aperture reads as zero. -/
def Dev.apertureRead (d : Dev) (t off n : Nat) (o : Obs) : (List Byte × Bool) × Dev :=
  let ws := touched off n
  let d := (d.apertureShadow t ws false).mntTouch t (ws.filter (· < 131072))
  let (vs, d) := d.spReads t o (ws.filter (· < 131072))
  let all := vs.flatMap fun x => (List.range 32).map (byteOf x.1)
  ((((all.drop (off % 32)) ++ List.replicate n 0).take n, vs.any (·.2)), d)
/-- An aperture write: it waits while a switch of the tile saves or restores (R152), and its words take their banks through MNT (R150). -/
def Dev.apertureStore (d : Dev) (t off : Nat) (bs : List Byte) (o : Obs) : Dev :=
  if (d.tile t).swBusy then d.upd t fun x => { x with heldWrites := x.heldWrites ++ [(⟨off, bs, o.ecc⟩ : HeldWrite)] }
  else d.apertureWrite t off bs o

/-! ## The tiers -/

/-- Whether a host write has no effect there: outside the reserved ranges, or in the sequence table, the page-table pool or
the varve ring. -/
def Dev.writeBarred (d : Dev) (a : Nat) : Bool :=
  !d.inResv a || d.inPool a || (d.sqBase ≤ a && a < d.sqBase + 2 ^ 24) || (d.vrvBase ≤ a && a < d.vrvBase + 2 ^ 22)
/-- First addresses of the lines of a range. -/
def linesOf (a n : Nat) : List Nat := (List.range ((a + n + 63) / 64 - a / 64)).map fun i => (a / 64 + i) * 64

/-! ## Reads and writes -/

/-- A read that fails with a status returns all ones. -/
def Dev.readFails (d : Dev) (p n status a : Nat) : Dev := (d.winFail p status a).emit (.readBytes p (ones n))
/-- Data read, in a completion with the EP bit set where it is poisoned. -/
def Dev.readGives (d : Dev) (p a : Nat) (bs : List Byte) (bad : Bool) : Dev :=
  if bad then (d.winFail p St.POISONED a).emit (.readPoison p bs) else d.emit (.readBytes p bs)

def doBar2Read (p o n : Nat) (errs : LineErrs) (d : Dev) : Dev :=
  let a := d.bar2Addr p o
  match reach a with
  | .regs off =>
    if n = 8 && off % 8 = 0 then
      let (v, d) := d.regRead p off
      d.emit (.readBytes p (toBytes 8 v.toNat))
    else (d.widthError p off ((2 ^ n - 1) * 2 ^ (off % 8) % 256)).emit (.readBytes p (ones n))
  | .unmapped => (d.readFails p n St.UNMAPPED a).unmappedEntry p a
  | .aperture t off =>
    let status := if d.hostFenced p then St.FENCED else d.apertureCheck t (touched off n) false
    if status ≠ 0 then d.readFails p n status a
    else
      let ((bs, bad), d) := d.apertureRead t off n (apertureObs t errs)
      d.readGives p a bs bad
  | .tier s =>
    if d.hostFenced p then d.readFails p n St.FENCED a
    else if !d.stackUp s then d.readFails p n St.TIER_BUSY a
    else
      let ((bad, _), d) := d.readLines errs (linesOf a n)
      d.readGives p a (d.rdBytes a n) (bad.any id)

def doBar2Write (p o : Nat) (bs : List Byte) (errs : LineErrs) (d : Dev) : Dev :=
  let a := d.bar2Addr p o
  let n := bs.length
  match reach a with
  | .regs off =>
    if n = 8 && off % 8 = 0 then d.regWrite p off (w64 (ofBytes bs))
    else d.widthError p off ((2 ^ n - 1) * 2 ^ (off % 8) % 256)
  | .unmapped => (d.winFail p St.UNMAPPED a).unmappedEntry p a
  | .aperture t off =>
    let status := if d.hostFenced p then St.FENCED else d.apertureCheck t (touched off n) true
    if status ≠ 0 then d.winFail p status a else d.apertureStore t off bs (apertureObs t errs)
  | .tier s =>
    if d.hostFenced p then d.winFail p St.FENCED a
    else if !d.stackUp s then d.winFail p St.TIER_BUSY a
    else if d.writeBarred a then d
    else (d.store a bs errs).pkgTouched a n

end Sys2Proof.Machine
end

