-- ==== Sys2Proof/Machine/Secure.lean ====
section
/-! DEFINITION. What reaches a port beside its BARs (R475, R484): MSI-X masks, configuration requests, the SPDM responder and
IDE_KM (R477, R478); and the I3C target (R548, R549). -/

namespace Sys2Proof.Machine

/-! ## MSI-X and configuration (R457, R475, R484) -/

/-- The mask bit of a vector is written; a vector pending while masked is sent once. -/
def doMsixMask (p v : Nat) (masked : Bool) (d : Dev) : Dev :=
  let b : BitVec 8 := BitVec.ofNat 8 (2 ^ (4 * p + v))
  if masked then { d with msixMask := d.msixMask ||| b }
  else
    let d := { d with msixMask := d.msixMask &&& ~~~b }
    if d.msixPend.getLsbD (4 * p + v) then ({ d with msixPend := d.msixPend &&& ~~~b }).emit (.msix p v) else d

/-- The configuration identifiers: DEV.ID's, and firn word 0x0082 as bring-up read it, with its defaults where it is zero (R455, R456). -/
def Dev.configId (d : Dev) (i : ConfigId) : Nat :=
  match i with
  | .vendor => 0x1F7C
  | .device => d.rf Reg.DEV_ID 63 48
  | .classCode => 0x120000
  | .revision => d.rf Reg.DEV_ID 47 40
  | .subVendor => if d.subsys = 0 then 0x1F7C else (d.subsys.extractLsb' 0 16).toNat
  | .subDevice => if d.subsys = 0 then 0x70 + d.rf Reg.DEV_ID 39 32 else (d.subsys.extractLsb' 16 16).toNat

/-- A configuration request: retried until stage 4 has ended for the port, then served. -/
def doConfig (p : Nat) (r : ConfigReq) (d : Dev) : Dev :=
  if !d.inL0 p then d.emit (.config p false)
  else
    let d := match r with
      | .resizeBar2 n => { d with boot := { d.boot with bar2 := smSet bar2Reset d.boot.bar2 p (30 + n.val) } }
      | .identifier i => d.emit (.configId p (d.configId i))
      | .other => d
    d.emit (.config p true)

/-! ## SPDM (R477) -/

/-! Codes of the answers (PRESUMED: SPDM 1.3; log entry 5). -/
namespace Spdm
def VERSION : Nat := 0x04
def CAPABILITIES : Nat := 0x61
def ALGORITHMS : Nat := 0x63
def DIGESTS : Nat := 0x01
def CERTIFICATE : Nat := 0x02
def CHALLENGE_AUTH : Nat := 0x03
def MEASUREMENTS : Nat := 0x60
def KEY_EXCHANGE_RSP : Nat := 0x64
def FINISH_RSP : Nat := 0x65
def KEY_UPDATE_ACK : Nat := 0x69
def HEARTBEAT_ACK : Nat := 0x68
def END_SESSION_ACK : Nat := 0x6C
def VENDOR : Nat := 0x7E
def ERROR : Nat := 0x7F
end Spdm

/-- An answer: the content the manual states, then what it leaves open (log entry 5). -/
def Dev.spdm (d : Dev) (p code : Nat) (req content : List Byte) : Dev :=
  { d.emit (.spdm p code (content ++ Config.spdmBytes code req d.free)) with free := d.free + 1 }
/-- The certificate chain of a slot: the bundle's component, or the firn words of the owner certificate (R487, R508). -/
def Dev.certChain (d : Dev) (slot : Nat) : List Byte :=
  if slot = 0 then component d.boot.bundle 3
  else ((List.range 255).flatMap fun i => toBytes 4 (d.firnRd (0x101 + i))).take (d.firnRd 0x100)
/-- What measurement block i measures. -/
def Dev.measured (d : Dev) (i : Nat) : List Byte :=
  match i with
  | 2 => slice d.boot.bundle 0 0x880
  | 3 => slice d.boot.bundle 0 0x880
  | 4 => toBytes 64 d.ownerHash ++ toBytes 4 (d.firnRd 0)
  | 5 => toBytes 8 (d.rn Reg.DEV_ID) ++ toBytes 8 (d.rn Reg.TMAN_ID)
  | 6 => (List.range 16).flatMap fun n => match d.pkg n with
    | some x => toBytes 8 x.id.toNat ++ toBytes 4 x.rev
    | none => []
  | _ => []
/-- Measurement block i: the digest of the manifest, or one whose layout the manual does not give. -/
def Dev.measurement (d : Dev) (i : Nat) : List Byte :=
  toBytes 64 (if i = 2 then sha (d.measured 2) else (Config.measure i (d.measured i)).toNat)

def doSpdm (p code : Nat) (req : List Byte) (d : Dev) : Dev := d.spdm p code req []
def doDigests (p : Nat) (req : List Byte) (d : Dev) : Dev :=
  d.spdm p Spdm.DIGESTS req (toBytes 64 (sha (d.certChain 0)) ++ toBytes 64 (sha (d.certChain 1)))
def doCertificate (p slot off len : Nat) (d : Dev) : Dev := d.spdm p Spdm.CERTIFICATE [] (slice (d.certChain slot) off len)
/-- One block, all of them for 0xFF, or their number for 0. -/
def doMeasurements (p i : Nat) (req : List Byte) (d : Dev) : Dev :=
  if i = 0 then d.spdm p Spdm.MEASUREMENTS req [6]
  else if i = 0xFF then d.spdm p Spdm.MEASUREMENTS req ((List.range 6).flatMap fun j => d.measurement (j + 1))
  else if i ≤ 6 then d.spdm p Spdm.MEASUREMENTS req (d.measurement i)
  else d.spdm p Spdm.ERROR req []
/-- KEY_EXCHANGE begins the handshake of a secured session. -/
def doKeyExchange (p : Nat) (req : List Byte) (d : Dev) : Dev :=
  (d.spdm p Spdm.KEY_EXCHANGE_RSP req []).setSec p { d.sec p with session := 1 }
def doFinish (p : Nat) (req : List Byte) (d : Dev) : Dev :=
  if (d.sec p).session = 1 then (d.spdm p Spdm.FINISH_RSP req []).setSec p { d.sec p with session := 2 }
  else d.spdm p Spdm.ERROR req []
/-- A message that stands only inside a secured session. -/
def doInSession (p code : Nat) (req : List Byte) (d : Dev) : Dev :=
  d.spdm p (if (d.sec p).session = 2 then code else Spdm.ERROR) req []
def doEndSession (p : Nat) (req : List Byte) (d : Dev) : Dev :=
  if (d.sec p).session = 2 then (d.spdm p Spdm.END_SESSION_ACK req []).setSec p { d.sec p with session := 0 }
  else d.spdm p Spdm.ERROR req []

/-- IDE_KM inside a secured session of the port (R478). -/
def doIdeKm (p : Nat) (m : IdeKm) (d : Dev) : Dev :=
  if (d.sec p).session ≠ 2 then d.spdm p Spdm.ERROR [] []
  else
    let x := d.sec p
    let y : Secure := match m with
      | .query => x
      | .program => { x with keyed := true }
      | .go => { x with ide := x.ide || x.keyed }
      | .stop => { x with ide := false }
    (d.spdm p Spdm.VENDOR [] []).setSec p y

/-! ## The I3C target (R548, R549) -/

/-- Served from the end of stage 1. -/
def Dev.i3cUp (d : Dev) : Bool := d.powered && d.stage ≥ 2
def Dev.i3c (d : Dev) (ack : Bool) (bs : List Byte) : Dev := d.emit (.i3c ack bs)
/-- SETDASA and ENTDAA give a target without a dynamic address one. -/
def doAssign (addr : Nat) (d : Dev) : Dev :=
  if !d.i3cUp || d.i3cAddr.isSome then d.i3c false [] else ({ d with i3cAddr := some addr }).i3c true []
def doDisec (d : Dev) : Dev :=
  if !d.i3cUp then d.i3c false [] else ({ d with ibiOn := false }).i3c true []
def doI3cWrite (bs : List Byte) (d : Dev) : Dev :=
  if !d.i3cUp || d.i3cAddr.isNone then d.i3c false []
  else (if bs.length = 4 then { d with i3cSel := ofBytes bs } else d).i3c true []
/-- Registers readable over I3C. -/
def i3cReadable (off : Nat) : Bool :=
  [Reg.DEV_ID, Reg.SERIAL, Reg.STEWARD, Reg.READY0, Reg.READY1, Reg.BOOT_STATUS, Reg.T_DONE, Reg.PWR_STATUS, Reg.CAP_W, Reg.EST,
    Reg.CLK_STATUS].contains off
    || (idxOf (Reg.FIELD 0) 8 16 off).isSome || (idxOf (Reg.TEMP 0) 8 16 off).isSome || (idxOf (Reg.MTEMP 0) 8 5 off).isSome
/-- A private read returns the selected register, without a side effect. -/
def doI3cRead (d : Dev) : Dev :=
  if !d.i3cUp || d.i3cAddr.isNone then d.i3c false []
  else d.i3c true (toBytes 8 (if i3cReadable d.i3cSel then d.rn d.i3cSel else 0))
/-- The bus master acknowledges the pending in-band interrupt, whose payload it reads. -/
def doIbiAck (d : Dev) : Dev :=
  match d.ibiPend with
  | some x => (({ d with ibiPend := none }).emit (.pin 1 false)).i3c true [BitVec.ofNat 8 x]
  | none => d

end Sys2Proof.Machine
end

