-- ==== Sys2Proof/Machine/FamHost.lean ====
section
/-! DEFINITION. The commands of the host ports, of resets and fences, of the varve log and of the I3C target (chapters 15, 17, 18). -/

namespace Sys2Proof.Machine

/-- A write of a register with the bytes enabled: only all eight together have an effect (R17). -/
def doRegisterWrite (p off : Nat) (be : BitVec 8) (v : W64) (d : Dev) : Dev :=
  if be = 0xFF then d.regWrite p off v else d.widthError p off be.toNat
/-- A read of a register: with any other bytes enabled those read all ones (R17). -/
def doRegisterRead (p off : Nat) (be : BitVec 8) (d : Dev) : Dev :=
  if be = 0xFF then
    let (v, d) := d.regRead p off
    d.emit (.readData p v)
  else (d.widthError p off be.toNat).emit (.readBytes p (ones (findAll 8 be.getLsbD).length))

/-- CLAIM (R461). -/
def execClaim (p : Port) (s : State) : Host.Outcome State Fault Refusal := s.ok (doClaim p.val s.dev)
/-- RENEW (R461). -/
def execRenew (p : Port) (s : State) : Host.Outcome State Fault Refusal := s.ok (doRenew p.val s.dev)
/-- STEWARD_RELEASE: RELEASE of DEV.STEWARD (R461). -/
def execStewardRelease (p : Port) (s : State) : Host.Outcome State Fault Refusal := s.ok (doLeaseRelease p.val s.dev)
/-- LEASE_LAPSE (R461). -/
def execLeaseLapse (s : State) : Host.Outcome State Fault Refusal := s.ok (s.dev.endLease 1)
/-- CREATE (R466). -/
def execCreate (p : Port) (e : CtrlEntry) (s : State) : Host.Outcome State Fault Refusal := s.ok (doCreate p.val e s.dev)
/-- LOAD (R466 to R469). -/
def execLoad (p : Port) (e : CtrlEntry) (desc code : List Byte) (s : State) : Host.Outcome State Fault Refusal :=
  s.ok (doLoad p.val e desc code s.dev)
/-- LOAD_COMPLETE (R469). -/
def execLoadComplete (c : CtxId) (s : State) : Host.Outcome State Fault Refusal := s.ok (doLoadComplete c.val s.dev)
/-- DESTROY (R466). -/
def execDestroy (p : Port) (e : CtrlEntry) (s : State) : Host.Outcome State Fault Refusal := s.ok (doDestroy p.val e s.dev)
/-- LAUNCH (R466). -/
def execLaunch (p : Port) (e : CtrlEntry) (s : State) : Host.Outcome State Fault Refusal := s.ok (doLaunch p.val e s.dev)
/-- LAUNCH_END (R466). -/
def execLaunchEnd (c : CtxId) (s : State) : Host.Outcome State Fault Refusal := s.ok (doLaunchEnd c.val s.dev)
/-- COPY (R470). -/
def execCopy (p : Port) (e : CtrlEntry) (errs : List (BitVec 48 × Bool)) (s : State) : Host.Outcome State Fault Refusal :=
  s.ok (doCopy p.val e (errsOf errs) s.dev)
/-- COPY_END (R470). -/
def execCopyEnd (p : Port) (n : Fin 16) (host : List Byte) (refused : Bool) (errs : List (BitVec 48 × Bool)) (s : State) : Host.Outcome State Fault Refusal :=
  s.ok (doCopyEnd p.val n.val host refused (errsOf errs) s.dev)
/-- COPY_WINDOW_WRITE (R471). -/
def execCopyWindowWrite (p : Port) (w : Fin 8) (range : Bool) (v : BitVec 64) (s : State) : Host.Outcome State Fault Refusal :=
  s.ok (doCopyWindow p.val w.val range v s.dev)
/-- BAR2_READ (R458). -/
def execBar2Read (p : Port) (o : BitVec 42) (n : BitVec 13) (errs : List (BitVec 48 × Bool)) (s : State) : Host.Outcome State Fault Refusal :=
  s.ok (doBar2Read p.val o.toNat n.toNat (errsOf errs) s.dev)
/-- BAR2_WRITE (R458). -/
def execBar2Write (p : Port) (o : BitVec 42) (bytes : List Byte) (errs : List (BitVec 48 × Bool)) (s : State) : Host.Outcome State Fault Refusal :=
  s.ok (doBar2Write p.val o.toNat bytes (errsOf errs) s.dev)
/-- PORT_RESET (R479). -/
def execPortReset (p : Port) (k : PortResetKind) (s : State) : Host.Outcome State Fault Refusal :=
  s.ok (doPortReset p.val k s.dev)
/-- PORT_RESUME (R480). -/
def execPortResume (p : Port) (s : State) : Host.Outcome State Fault Refusal :=
  s.ok (s.dev.when s.dev.served (doPortResume p.val))
/-- IDE_CHECK_FAIL (R478). -/
def execIdeCheckFail (p : Port) (s : State) : Host.Outcome State Fault Refusal := s.ok (doIdeCheckFail p.val s.dev)
/-- GET_VERSION (R477). -/
def execSpdmGetVersion (p : Port) (req : List Byte) (s : State) : Host.Outcome State Fault Refusal :=
  s.ok (doSpdm p.val Spdm.VERSION req s.dev)
/-- GET_CAPABILITIES (R477). -/
def execSpdmGetCapabilities (p : Port) (req : List Byte) (s : State) : Host.Outcome State Fault Refusal :=
  s.ok (doSpdm p.val Spdm.CAPABILITIES req s.dev)
/-- NEGOTIATE_ALGORITHMS (R477). -/
def execSpdmNegotiateAlgorithms (p : Port) (req : List Byte) (s : State) : Host.Outcome State Fault Refusal :=
  s.ok (doSpdm p.val Spdm.ALGORITHMS req s.dev)
/-- GET_DIGESTS (R477). -/
def execSpdmGetDigests (p : Port) (req : List Byte) (s : State) : Host.Outcome State Fault Refusal :=
  s.ok (doDigests p.val req s.dev)
/-- GET_CERTIFICATE (R477). -/
def execSpdmGetCertificate (p : Port) (slot : Fin 2) (off len : BitVec 16) (s : State) : Host.Outcome State Fault Refusal :=
  s.ok (doCertificate p.val slot.val off.toNat len.toNat s.dev)
/-- CHALLENGE (R477). -/
def execSpdmChallenge (p : Port) (req : List Byte) (s : State) : Host.Outcome State Fault Refusal :=
  s.ok (doSpdm p.val Spdm.CHALLENGE_AUTH req s.dev)
/-- GET_MEASUREMENTS (R477). -/
def execSpdmGetMeasurements (p : Port) (index : BitVec 8) (req : List Byte) (s : State) : Host.Outcome State Fault Refusal :=
  s.ok (doMeasurements p.val index.toNat req s.dev)
/-- KEY_EXCHANGE (R477). -/
def execSpdmKeyExchange (p : Port) (req : List Byte) (s : State) : Host.Outcome State Fault Refusal :=
  s.ok (doKeyExchange p.val req s.dev)
/-- FINISH (R477). -/
def execSpdmFinish (p : Port) (req : List Byte) (s : State) : Host.Outcome State Fault Refusal := s.ok (doFinish p.val req s.dev)
/-- KEY_UPDATE (R477). -/
def execSpdmKeyUpdate (p : Port) (req : List Byte) (s : State) : Host.Outcome State Fault Refusal :=
  s.ok (doInSession p.val Spdm.KEY_UPDATE_ACK req s.dev)
/-- HEARTBEAT (R477). -/
def execSpdmHeartbeat (p : Port) (req : List Byte) (s : State) : Host.Outcome State Fault Refusal :=
  s.ok (doInSession p.val Spdm.HEARTBEAT_ACK req s.dev)
/-- END_SESSION (R477). -/
def execSpdmEndSession (p : Port) (req : List Byte) (s : State) : Host.Outcome State Fault Refusal :=
  s.ok (doEndSession p.val req s.dev)
/-- CONTEXT_RESET (R526). -/
def execContextReset (p : Port) (c : CtxId) (s : State) : Host.Outcome State Fault Refusal :=
  s.ok (s.dev.when s.dev.served (doContextReset p.val c.val))
/-- CONTEXT_FENCE (R517). -/
def execContextFence (p : Port) (c : CtxId) (s : State) : Host.Outcome State Fault Refusal :=
  s.ok (s.dev.when s.dev.served (doContextFence p.val c.val))
/-- TILE_RESET (R516). -/
def execTileReset (p : Port) (t : TileId) (bad : List (Fin 9)) (s : State) : Host.Outcome State Fault Refusal :=
  s.ok (doTileReset p.val t.val (bad.map (·.val)) s.dev)
/-- DEVICE_RESET (R516). -/
def execDeviceReset (p : Port) (s : State) : Host.Outcome State Fault Refusal := s.ok (doDeviceReset p.val s.dev)
/-- DRAIN_EXPIRY (R517). -/
def execDrainExpiry (x : DrainOf) (bad : List (Fin 9)) (s : State) : Host.Outcome State Fault Refusal :=
  s.ok (doDrainExpiry x (bad.map (·.val)) s.dev)
/-- HEARTBEAT_WINDOW (R521). -/
def execHeartbeatWindow (missed : List TileId) (s : State) : Host.Outcome State Fault Refusal :=
  s.ok (doHeartbeat (missed.map (·.val)) s.dev)
/-- RESTORE_COMPLETE (R522). -/
def execRestoreComplete (s : State) : Host.Outcome State Fault Refusal := s.ok (doRestore s.dev)
/-- VARVE_ENABLE (R531). -/
def execVarveEnable (p : Port) (s : State) : Host.Outcome State Fault Refusal := s.ok (doVarveCtl p.val true s.dev)
/-- VARVE_RATE_SECOND (R536). -/
def execVarveRateSecond (s : State) : Host.Outcome State Fault Refusal := s.ok (doRateSecond s.dev)
/-- SETDASA (R548). -/
def execSetdasa (addr : BitVec 7) (s : State) : Host.Outcome State Fault Refusal := s.ok (doAssign addr.toNat s.dev)
/-- ENTDAA (R548). -/
def execEntdaa (addr : BitVec 7) (s : State) : Host.Outcome State Fault Refusal := s.ok (doAssign addr.toNat s.dev)
/-- DISEC (R549). -/
def execDisec (s : State) : Host.Outcome State Fault Refusal := s.ok (doDisec s.dev)
/-- I3C_PRIVATE_WRITE (R548). -/
def execI3cPrivateWrite (bytes : List Byte) (s : State) : Host.Outcome State Fault Refusal := s.ok (doI3cWrite bytes s.dev)
/-- I3C_PRIVATE_READ (R548). -/
def execI3cPrivateRead (s : State) : Host.Outcome State Fault Refusal := s.ok (doI3cRead s.dev)
/-- REGISTER_WRITE (R17 to R20). -/
def execRegisterWrite (p : Port) (w : BitVec 24) (be : BitVec 8) (v : BitVec 64) (s : State) : Host.Outcome State Fault Refusal :=
  s.ok (doRegisterWrite p.val (8 * w.toNat) be v s.dev)
/-- REGISTER_READ (R17, R18). -/
def execRegisterRead (p : Port) (w : BitVec 24) (be : BitVec 8) (s : State) : Host.Outcome State Fault Refusal :=
  s.ok (doRegisterRead p.val (8 * w.toNat) be s.dev)
/-- MSI_X_UNMASK (R475). -/
def execMsiXUnmask (p : Port) (v : Fin 4) (masked : Bool) (s : State) : Host.Outcome State Fault Refusal :=
  s.ok (doMsixMask p.val v.val masked s.dev)
/-- CONFIGURATION_REQUEST (R484). -/
def execConfigurationRequest (p : Port) (r : ConfigReq) (s : State) : Host.Outcome State Fault Refusal :=
  s.ok (doConfig p.val r s.dev)
/-- IDE_KM (R478). -/
def execIdeKm (p : Port) (m : IdeKm) (s : State) : Host.Outcome State Fault Refusal := s.ok (doIdeKm p.val m s.dev)
/-- IN_BAND_INTERRUPT_ACK (R549). -/
def execInBandInterruptAck (s : State) : Host.Outcome State Fault Refusal := s.ok (doIbiAck s.dev)

end Sys2Proof.Machine
end

