-- ==== Sys2Proof/Machine/FamMove.lean ====
section
/-! DEFINITION. The commands of the MOVE slot (R210 to R217): each issues one bundle. -/

namespace Sys2Proof.Machine

/-- A bundle whose MOVE slot is the given word is reached on a tile. -/
def doMove (t : TileId) (w : Nat) (rest : Word256) (o : Obs) (d : Dev) : Dev := d.tileBeat t.val (some (putMove rest w)) o

/-- MNOP (R211). -/
def execMnop (t : TileId) (rest : Word256) (o : Obs) (s : State) : Host.Outcome State Fault Refusal := s.ok (doMove t 0 rest o s.dev)
/-- SEND (R212). -/
def execSend (t : TileId) (hdl : BitVec 6) (ag : BitVec 3) (len1 : BitVec 12) (port : BitVec 2) (vc : BitVec 1) (dlvl : BitVec 4) (dstr : BitVec 17) (rest : Word256) (o : Obs) (s : State) : Host.Outcome State Fault Refusal :=
  s.ok (doMove t (1 * 2 ^ 59 + hdl.toNat * 2 ^ 53 + ag.toNat * 2 ^ 50 + len1.toNat * 2 ^ 38 + port.toNat * 2 ^ 36 + vc.toNat * 2 ^ 35
    + dlvl.toNat * 2 ^ 31 + dstr.toNat * 2 ^ 14) rest o s.dev)
/-- RECV (R213). -/
def execRecv (t : TileId) (inp outp : BitVec 2) (n1 : BitVec 6) (rest : Word256) (o : Obs) (s : State) : Host.Outcome State Fault Refusal :=
  s.ok (doMove t (2 * 2 ^ 59 + inp.toNat * 2 ^ 57 + outp.toNat * 2 ^ 55 + n1.toNat * 2 ^ 49) rest o s.dev)
/-- GET (R169, R214, R215). -/
def execGet (t : TileId) (f : XferF) (rest : Word256) (o : Obs) (s : State) : Host.Outcome State Fault Refusal := s.ok (doMove t (encXfer 3 f) rest o s.dev)
/-- PUT (R215 to R217). -/
def execPut (t : TileId) (f : XferF) (rest : Word256) (o : Obs) (s : State) : Host.Outcome State Fault Refusal := s.ok (doMove t (encXfer 4 f) rest o s.dev)
/-- TAGSET (R163, R211). -/
def execTagset (t : TileId) (a : SlotArg) (rest : Word256) (o : Obs) (s : State) : Host.Outcome State Fault Refusal := s.ok (doMove t (encTag 5 a) rest o s.dev)
/-- TAGCLR (R163, R211). -/
def execTagclr (t : TileId) (a : SlotArg) (rest : Word256) (o : Obs) (s : State) : Host.Outcome State Fault Refusal := s.ok (doMove t (encTag 6 a) rest o s.dev)

end Sys2Proof.Machine
end

