-- ==== Sys2Proof/Machine/FamTile.lean ====
section
/-! DEFINITION. The events of a tile: results readable (R49), watchdogs (R174), the end of a switch (R72). -/

namespace Sys2Proof.Machine

/-- In-flight writes whose latency has elapsed are readable (R49). -/
def doResultReadable (t : Nat) (d : Dev) : Dev := d.deliverDue t (d.issueNo t)

/-- RESULT_READABLE (R49 to R53). -/
def execResultReadable (t : TileId) (s : State) : Host.Outcome State Fault Refusal := s.ok (doResultReadable t.val s.dev)

/-- A wait's expiry beat: the beats up to it pass, and in that beat an event wins (R174, R175). -/
def doWaitExpiry (t : Nat) (o : Obs) (d : Dev) : Dev :=
  let x := d.tile t
  match x.mode, x.waited with
  | .running, n + 1 =>
    let skip := d.wdog t - (n + 1)
    let bar := d.trf t Reg.SEQ 31 29 == 3
    let d := (d.tadd t Reg.BEAT skip).tadd t (if bar then Reg.WAIT_BAR else Reg.WAIT_TAG) skip
    (d.upd t fun x => { x with waited := x.waited + skip, ahead := x.ahead + skip }).tileBeat t none o
  | _, _ => d

/-- The landing of a tile whose watchdog has run: it has been held for N beats and its words are not yet as it needs them. One whose
condition has come true lands instead (R173 to R175). -/
def Dev.overdue (d : Dev) (t : Nat) (f : Flit) : Bool :=
  some f.dst == d.logOf t && some f.at' == d.logOf t && f.inp < 4 && decide (f.held ≥ d.wdog t) && d.landHeld t f
/-- A landing held at the tile reaches its watchdog's end: it is refused, and its sender, or the issuer of the GET, faults with
TAG_DEADLOCK (R173). -/
def doLandingExpiry (t : Nat) (d : Dev) : Dev :=
  match d.flits.find? (d.overdue t) with
  | some f => d.expireLanding t (d.now t) f
  | none => d

/-- TAG_WATCHDOG_EXPIRY (R173 to R175, R200). -/
def execTagWatchdogExpiry (t : TileId) (landing : Bool) (o : Obs) (s : State) : Host.Outcome State Fault Refusal :=
  s.ok (if landing then doLandingExpiry t.val s.dev else doWaitExpiry t.val o s.dev)

/-- The rest of a switch's 80 beats pass and the incoming context is ready to issue (R72, R75). -/
def doSwitchEnd (t : Nat) (d : Dev) : Dev :=
  match (d.tile t).mode with
  | .switch n dst => (((d.tadd t Reg.BEAT n).tadd t Reg.WAIT_FRAME n).finishSwitch t dst).syncSeq t 4
  | _ => d

/-- CONTEXT_SWITCH_END (R72). -/
def execContextSwitchEnd (t : TileId) (s : State) : Host.Outcome State Fault Refusal := s.ok (doSwitchEnd t.val s.dev)

end Sys2Proof.Machine
end

