-- ==== Sys2Proof/Machine/FamVec.lean ====
section
/-! DEFINITION. The commands of the VEC slots (R205 to R209): each issues one bundle. -/

namespace Sys2Proof.Machine

/-- A bundle whose VEC slot of the unit is the given word is reached on a tile. -/
def doVec (t : TileId) (u : VUnit) (w : Nat) (rest : Word256) (o : Obs) (d : Dev) : Dev :=
  d.tileBeat t.val (some (putVec u rest w)) o

/-- VNOP (R207). -/
def execVnop (t : TileId) (u : VUnit) (rest : Word256) (o : Obs) (s : State) : Host.Outcome State Fault Refusal := s.ok (doVec t u 0 rest o s.dev)
/-- VIMM: an immediate in all 64 lanes (R207). -/
def execVimm (t : TileId) (u : VUnit) (dst : BitVec 6) (imm : BitVec 32) (rest : Word256) (o : Obs) (s : State) : Host.Outcome State Fault Refusal :=
  s.ok (doVec t u (0x0B * 2 ^ 42 + dst.toNat * 2 ^ 36 + imm.toNat) rest o s.dev)
/-- VADD: Addition (R121). -/
def execVadd (t : TileId) (u : VUnit) (f : VecF) (rest : Word256) (o : Obs) (s : State) : Host.Outcome State Fault Refusal :=
  s.ok (doVec t u (encVec 0x01 f) rest o s.dev)
/-- VSUB: Subtraction (R121). -/
def execVsub (t : TileId) (u : VUnit) (f : VecF) (rest : Word256) (o : Obs) (s : State) : Host.Outcome State Fault Refusal :=
  s.ok (doVec t u (encVec 0x02 f) rest o s.dev)
/-- VMUL: Multiplication (R121). -/
def execVmul (t : TileId) (u : VUnit) (f : VecF) (rest : Word256) (o : Obs) (s : State) : Host.Outcome State Fault Refusal :=
  s.ok (doVec t u (encVec 0x03 f) rest o s.dev)
/-- VFMA: Fused multiply-add (R121). -/
def execVfma (t : TileId) (u : VUnit) (f : VecF) (rest : Word256) (o : Obs) (s : State) : Host.Outcome State Fault Refusal :=
  s.ok (doVec t u (encVec 0x04 f) rest o s.dev)
/-- VMAX: Maximum (R121). -/
def execVmax (t : TileId) (u : VUnit) (f : VecF) (rest : Word256) (o : Obs) (s : State) : Host.Outcome State Fault Refusal :=
  s.ok (doVec t u (encVec 0x05 f) rest o s.dev)
/-- VMIN: Minimum (R121). -/
def execVmin (t : TileId) (u : VUnit) (f : VecF) (rest : Word256) (o : Obs) (s : State) : Host.Outcome State Fault Refusal :=
  s.ok (doVec t u (encVec 0x06 f) rest o s.dev)
/-- VABS: Magnitude (R207). -/
def execVabs (t : TileId) (u : VUnit) (f : VecF) (rest : Word256) (o : Obs) (s : State) : Host.Outcome State Fault Refusal :=
  s.ok (doVec t u (encVec 0x07 f) rest o s.dev)
/-- VNEG: Sign inversion (R207). -/
def execVneg (t : TileId) (u : VUnit) (f : VecF) (rest : Word256) (o : Obs) (s : State) : Host.Outcome State Fault Refusal :=
  s.ok (doVec t u (encVec 0x08 f) rest o s.dev)
/-- VSIGN: Sign value (R121). -/
def execVsign (t : TileId) (u : VUnit) (f : VecF) (rest : Word256) (o : Obs) (s : State) : Host.Outcome State Fault Refusal :=
  s.ok (doVec t u (encVec 0x09 f) rest o s.dev)
/-- VSEL: Selection under a predicate (R207). -/
def execVsel (t : TileId) (u : VUnit) (f : VecF) (rest : Word256) (o : Obs) (s : State) : Host.Outcome State Fault Refusal :=
  s.ok (doVec t u (encVec 0x0A f) rest o s.dev)
/-- IADD: Integer addition (R122). -/
def execIadd (t : TileId) (u : VUnit) (f : VecF) (rest : Word256) (o : Obs) (s : State) : Host.Outcome State Fault Refusal :=
  s.ok (doVec t u (encVec 0x10 f) rest o s.dev)
/-- ISUB: Integer subtraction (R122). -/
def execIsub (t : TileId) (u : VUnit) (f : VecF) (rest : Word256) (o : Obs) (s : State) : Host.Outcome State Fault Refusal :=
  s.ok (doVec t u (encVec 0x11 f) rest o s.dev)
/-- IMUL: Low-half multiply (R122). -/
def execImul (t : TileId) (u : VUnit) (f : VecF) (rest : Word256) (o : Obs) (s : State) : Host.Outcome State Fault Refusal :=
  s.ok (doVec t u (encVec 0x12 f) rest o s.dev)
/-- IAND: AND (R207). -/
def execIand (t : TileId) (u : VUnit) (f : VecF) (rest : Word256) (o : Obs) (s : State) : Host.Outcome State Fault Refusal :=
  s.ok (doVec t u (encVec 0x13 f) rest o s.dev)
/-- IOR: OR (R207). -/
def execIor (t : TileId) (u : VUnit) (f : VecF) (rest : Word256) (o : Obs) (s : State) : Host.Outcome State Fault Refusal :=
  s.ok (doVec t u (encVec 0x14 f) rest o s.dev)
/-- IXOR: XOR (R207). -/
def execIxor (t : TileId) (u : VUnit) (f : VecF) (rest : Word256) (o : Obs) (s : State) : Host.Outcome State Fault Refusal :=
  s.ok (doVec t u (encVec 0x15 f) rest o s.dev)
/-- ISHL: Shift left (R208). -/
def execIshl (t : TileId) (u : VUnit) (f : VecF) (rest : Word256) (o : Obs) (s : State) : Host.Outcome State Fault Refusal :=
  s.ok (doVec t u (encVec 0x16 f) rest o s.dev)
/-- ISHR: Logical shift right (R208). -/
def execIshr (t : TileId) (u : VUnit) (f : VecF) (rest : Word256) (o : Obs) (s : State) : Host.Outcome State Fault Refusal :=
  s.ok (doVec t u (encVec 0x17 f) rest o s.dev)
/-- ISRA: Arithmetic shift right (R208). -/
def execIsra (t : TileId) (u : VUnit) (f : VecF) (rest : Word256) (o : Obs) (s : State) : Host.Outcome State Fault Refusal :=
  s.ok (doVec t u (encVec 0x18 f) rest o s.dev)
/-- IMAX: Integer maximum (R207). -/
def execImax (t : TileId) (u : VUnit) (f : VecF) (rest : Word256) (o : Obs) (s : State) : Host.Outcome State Fault Refusal :=
  s.ok (doVec t u (encVec 0x19 f) rest o s.dev)
/-- IMIN: Integer minimum (R207). -/
def execImin (t : TileId) (u : VUnit) (f : VecF) (rest : Word256) (o : Obs) (s : State) : Host.Outcome State Fault Refusal :=
  s.ok (doVec t u (encVec 0x1A f) rest o s.dev)
/-- VCVT: Conversion (R122, R208). -/
def execVcvt (t : TileId) (u : VUnit) (f : VecF) (rest : Word256) (o : Obs) (s : State) : Host.Outcome State Fault Refusal :=
  s.ok (doVec t u (encVec 0x1C f) rest o s.dev)
/-- FCMP: FP32 compare (R123). -/
def execFcmp (t : TileId) (u : VUnit) (f : VecF) (rest : Word256) (o : Obs) (s : State) : Host.Outcome State Fault Refusal :=
  s.ok (doVec t u (encVec 0x1D f) rest o s.dev)
/-- ICMP: Integer compare (R123). -/
def execIcmp (t : TileId) (u : VUnit) (f : VecF) (rest : Word256) (o : Obs) (s : State) : Host.Outcome State Fault Refusal :=
  s.ok (doVec t u (encVec 0x1E f) rest o s.dev)
/-- PAND: Predicate AND (R207). -/
def execPand (t : TileId) (u : VUnit) (f : VecF) (rest : Word256) (o : Obs) (s : State) : Host.Outcome State Fault Refusal :=
  s.ok (doVec t u (encVec 0x20 f) rest o s.dev)
/-- POR: Predicate OR (R207). -/
def execPor (t : TileId) (u : VUnit) (f : VecF) (rest : Word256) (o : Obs) (s : State) : Host.Outcome State Fault Refusal :=
  s.ok (doVec t u (encVec 0x21 f) rest o s.dev)
/-- PXOR: Predicate XOR (R207). -/
def execPxor (t : TileId) (u : VUnit) (f : VecF) (rest : Word256) (o : Obs) (s : State) : Host.Outcome State Fault Refusal :=
  s.ok (doVec t u (encVec 0x22 f) rest o s.dev)
/-- PNOT: Predicate NOT (R207). -/
def execPnot (t : TileId) (u : VUnit) (f : VecF) (rest : Word256) (o : Obs) (s : State) : Host.Outcome State Fault Refusal :=
  s.ok (doVec t u (encVec 0x23 f) rest o s.dev)
/-- P2V: Predicate to lanes 0 and 1 (R207). -/
def execP2v (t : TileId) (u : VUnit) (f : VecF) (rest : Word256) (o : Obs) (s : State) : Host.Outcome State Fault Refusal :=
  s.ok (doVec t u (encVec 0x24 f) rest o s.dev)
/-- V2P: Lanes 0 and 1 to a predicate (R207). -/
def execV2p (t : TileId) (u : VUnit) (f : VecF) (rest : Word256) (o : Obs) (s : State) : Host.Outcome State Fault Refusal :=
  s.ok (doVec t u (encVec 0x25 f) rest o s.dev)
/-- VREDSUM: Sum tree (R125). -/
def execVredsum (t : TileId) (u : VUnit) (f : VecF) (rest : Word256) (o : Obs) (s : State) : Host.Outcome State Fault Refusal :=
  s.ok (doVec t u (encVec 0x28 f) rest o s.dev)
/-- VREDMAX: Maximum tree (R125). -/
def execVredmax (t : TileId) (u : VUnit) (f : VecF) (rest : Word256) (o : Obs) (s : State) : Host.Outcome State Fault Refusal :=
  s.ok (doVec t u (encVec 0x29 f) rest o s.dev)
/-- VREDMIN: Minimum tree (R125). -/
def execVredmin (t : TileId) (u : VUnit) (f : VecF) (rest : Word256) (o : Obs) (s : State) : Host.Outcome State Fault Refusal :=
  s.ok (doVec t u (encVec 0x2A f) rest o s.dev)
/-- VREDOR: OR tree (R125). -/
def execVredor (t : TileId) (u : VUnit) (f : VecF) (rest : Word256) (o : Obs) (s : State) : Host.Outcome State Fault Refusal :=
  s.ok (doVec t u (encVec 0x2B f) rest o s.dev)
/-- VREDAND: AND tree (R125). -/
def execVredand (t : TileId) (u : VUnit) (f : VecF) (rest : Word256) (o : Obs) (s : State) : Host.Outcome State Fault Refusal :=
  s.ok (doVec t u (encVec 0x2C f) rest o s.dev)
/-- VPERM: Permutation by an index register (R126). -/
def execVperm (t : TileId) (u : VUnit) (f : VecF) (rest : Word256) (o : Obs) (s : State) : Host.Outcome State Fault Refusal :=
  s.ok (doVec t u (encVec 0x2D f) rest o s.dev)
/-- VROT: Rotation (R126). -/
def execVrot (t : TileId) (u : VUnit) (f : VecF) (rest : Word256) (o : Obs) (s : State) : Host.Outcome State Fault Refusal :=
  s.ok (doVec t u (encVec 0x2E f) rest o s.dev)
/-- VBCAST: Broadcast of a lane (R126). -/
def execVbcast (t : TileId) (u : VUnit) (f : VecF) (rest : Word256) (o : Obs) (s : State) : Host.Outcome State Fault Refusal :=
  s.ok (doVec t u (encVec 0x2F f) rest o s.dev)
/-- BSTEP: One bitonic stage (R131). -/
def execBstep (t : TileId) (u : VUnit) (f : VecF) (rest : Word256) (o : Obs) (s : State) : Host.Outcome State Fault Refusal :=
  s.ok (doVec t u (encVec 0x30 f) rest o s.dev)
/-- TOPK: Top-k merge (R132). -/
def execTopk (t : TileId) (u : VUnit) (f : VecF) (rest : Word256) (o : Obs) (s : State) : Host.Outcome State Fault Refusal :=
  s.ok (doVec t u (encVec 0x31 f) rest o s.dev)
/-- EXP2: Base-2 exponential (R127). -/
def execExp2 (t : TileId) (u : VUnit) (f : VecF) (rest : Word256) (o : Obs) (s : State) : Host.Outcome State Fault Refusal :=
  s.ok (doVec t u (encVec 0x34 f) rest o s.dev)
/-- LOG2: Base-2 logarithm (R127). -/
def execLog2 (t : TileId) (u : VUnit) (f : VecF) (rest : Word256) (o : Obs) (s : State) : Host.Outcome State Fault Refusal :=
  s.ok (doVec t u (encVec 0x35 f) rest o s.dev)
/-- RCP: Reciprocal (R127). -/
def execRcp (t : TileId) (u : VUnit) (f : VecF) (rest : Word256) (o : Obs) (s : State) : Host.Outcome State Fault Refusal :=
  s.ok (doVec t u (encVec 0x36 f) rest o s.dev)
/-- RSQ: Reciprocal square root (R127). -/
def execRsq (t : TileId) (u : VUnit) (f : VecF) (rest : Word256) (o : Obs) (s : State) : Host.Outcome State Fault Refusal :=
  s.ok (doVec t u (encVec 0x37 f) rest o s.dev)
/-- TANH: Hyperbolic tangent (R127). -/
def execTanh (t : TileId) (u : VUnit) (f : VecF) (rest : Word256) (o : Obs) (s : State) : Host.Outcome State Fault Refusal :=
  s.ok (doVec t u (encVec 0x38 f) rest o s.dev)
/-- VRAND: Random lanes (R129). -/
def execVrand (t : TileId) (u : VUnit) (f : VecF) (rest : Word256) (o : Obs) (s : State) : Host.Outcome State Fault Refusal :=
  s.ok (doVec t u (encVec 0x39 f) rest o s.dev)
/-- VLD (R154, R159, R208). -/
def execVld (t : TileId) (u : VUnit) (dst : BitVec 6) (ag : BitVec 3) (msk : BitVec 1) (pm : BitVec 4) (rest : Word256) (o : Obs) (s : State) : Host.Outcome State Fault Refusal :=
  s.ok (doVec t u (encVecMem 0x3C dst ag msk pm) rest o s.dev)
/-- VST (R154, R155, R208). -/
def execVst (t : TileId) (u : VUnit) (src : BitVec 6) (ag : BitVec 3) (msk : BitVec 1) (pm : BitVec 4) (rest : Word256) (o : Obs) (s : State) : Host.Outcome State Fault Refusal :=
  s.ok (doVec t u (encVecMem 0x3D src ag msk pm) rest o s.dev)
/-- VAGLD (R191, R195, R208). -/
def execVagld (t : TileId) (u : VUnit) (ag : BitVec 3) (word : BitVec 17) (rest : Word256) (o : Obs) (s : State) : Host.Outcome State Fault Refusal :=
  s.ok (doVec t u (0x3E * 2 ^ 42 + ag.toNat * 2 ^ 39 + word.toNat) rest o s.dev)

end Sys2Proof.Machine
end

