-- ==== Sys2Proof/Machine/Dispatch.lean ====
section
/-! DEFINITION. The meaning of each command. -/

namespace Sys2Proof.Machine

def exec (i : Instr) (s : State) : Host.Outcome State Fault Refusal :=
  match i with
  | .nop t e rest o => Sys2Proof.Machine.execNop t e rest o s
  | .loop t e a rest o => Sys2Proof.Machine.execLoop t e a rest o s
  | .skip t e test p m1 rest o => Sys2Proof.Machine.execSkip t e test p m1 rest o s
  | .waitf t e a rest o => Sys2Proof.Machine.execWaitf t e a rest o s
  | .waite t e a rest o => Sys2Proof.Machine.execWaite t e a rest o s
  | .bar t e n rest o => Sys2Proof.Machine.execBar t e n rest o s
  | .phase t e id rest o => Sys2Proof.Machine.execPhase t e id rest o s
  | .fsync t e kind rest o => Sys2Proof.Machine.execFsync t e kind rest o s
  | .call t e rt rest o => Sys2Proof.Machine.execCall t e rt rest o s
  | .ret t e rest o => Sys2Proof.Machine.execRet t e rest o s
  | .halt t e rest o => Sys2Proof.Machine.execHalt t e rest o s
  | .cnop t rest o => Sys2Proof.Machine.execCnop t rest o s
  | .cmac t acc aga agb rest o => Sys2Proof.Machine.execCmac t acc aga agb rest o s
  | .cmul t acc aga agb rest o => Sys2Proof.Machine.execCmul t acc aga agb rest o s
  | .czero t acc rest o => Sys2Proof.Machine.execCzero t acc rest o s
  | .cdrain t acc fmt agd ags sr vr cve cv cvs rest o => Sys2Proof.Machine.execCdrain t acc fmt agd ags sr vr cve cv cvs rest o s
  | .cfmt t fa fb saga sagb rest o => Sys2Proof.Machine.execCfmt t fa fb saga sagb rest o s
  | .vnop t u rest o => Sys2Proof.Machine.execVnop t u rest o s
  | .vadd t u f rest o => Sys2Proof.Machine.execVadd t u f rest o s
  | .vsub t u f rest o => Sys2Proof.Machine.execVsub t u f rest o s
  | .vmul t u f rest o => Sys2Proof.Machine.execVmul t u f rest o s
  | .vfma t u f rest o => Sys2Proof.Machine.execVfma t u f rest o s
  | .vmax t u f rest o => Sys2Proof.Machine.execVmax t u f rest o s
  | .vmin t u f rest o => Sys2Proof.Machine.execVmin t u f rest o s
  | .vabs t u f rest o => Sys2Proof.Machine.execVabs t u f rest o s
  | .vneg t u f rest o => Sys2Proof.Machine.execVneg t u f rest o s
  | .vsign t u f rest o => Sys2Proof.Machine.execVsign t u f rest o s
  | .vsel t u f rest o => Sys2Proof.Machine.execVsel t u f rest o s
  | .vimm t u d imm rest o => Sys2Proof.Machine.execVimm t u d imm rest o s
  | .iadd t u f rest o => Sys2Proof.Machine.execIadd t u f rest o s
  | .isub t u f rest o => Sys2Proof.Machine.execIsub t u f rest o s
  | .imul t u f rest o => Sys2Proof.Machine.execImul t u f rest o s
  | .iand t u f rest o => Sys2Proof.Machine.execIand t u f rest o s
  | .ior t u f rest o => Sys2Proof.Machine.execIor t u f rest o s
  | .ixor t u f rest o => Sys2Proof.Machine.execIxor t u f rest o s
  | .ishl t u f rest o => Sys2Proof.Machine.execIshl t u f rest o s
  | .ishr t u f rest o => Sys2Proof.Machine.execIshr t u f rest o s
  | .isra t u f rest o => Sys2Proof.Machine.execIsra t u f rest o s
  | .imax t u f rest o => Sys2Proof.Machine.execImax t u f rest o s
  | .imin t u f rest o => Sys2Proof.Machine.execImin t u f rest o s
  | .vcvt t u f rest o => Sys2Proof.Machine.execVcvt t u f rest o s
  | .fcmp t u f rest o => Sys2Proof.Machine.execFcmp t u f rest o s
  | .icmp t u f rest o => Sys2Proof.Machine.execIcmp t u f rest o s
  | .pand t u f rest o => Sys2Proof.Machine.execPand t u f rest o s
  | .por t u f rest o => Sys2Proof.Machine.execPor t u f rest o s
  | .pxor t u f rest o => Sys2Proof.Machine.execPxor t u f rest o s
  | .pnot t u f rest o => Sys2Proof.Machine.execPnot t u f rest o s
  | .p2v t u f rest o => Sys2Proof.Machine.execP2v t u f rest o s
  | .v2p t u f rest o => Sys2Proof.Machine.execV2p t u f rest o s
  | .vredsum t u f rest o => Sys2Proof.Machine.execVredsum t u f rest o s
  | .vredmax t u f rest o => Sys2Proof.Machine.execVredmax t u f rest o s
  | .vredmin t u f rest o => Sys2Proof.Machine.execVredmin t u f rest o s
  | .vredor t u f rest o => Sys2Proof.Machine.execVredor t u f rest o s
  | .vredand t u f rest o => Sys2Proof.Machine.execVredand t u f rest o s
  | .vperm t u f rest o => Sys2Proof.Machine.execVperm t u f rest o s
  | .vrot t u f rest o => Sys2Proof.Machine.execVrot t u f rest o s
  | .vbcast t u f rest o => Sys2Proof.Machine.execVbcast t u f rest o s
  | .bstep t u f rest o => Sys2Proof.Machine.execBstep t u f rest o s
  | .topk t u f rest o => Sys2Proof.Machine.execTopk t u f rest o s
  | .exp2 t u f rest o => Sys2Proof.Machine.execExp2 t u f rest o s
  | .log2 t u f rest o => Sys2Proof.Machine.execLog2 t u f rest o s
  | .rcp t u f rest o => Sys2Proof.Machine.execRcp t u f rest o s
  | .rsq t u f rest o => Sys2Proof.Machine.execRsq t u f rest o s
  | .tanh t u f rest o => Sys2Proof.Machine.execTanh t u f rest o s
  | .vrand t u f rest o => Sys2Proof.Machine.execVrand t u f rest o s
  | .vld t u d ag mk pm rest o => Sys2Proof.Machine.execVld t u d ag mk pm rest o s
  | .vst t u d ag mk pm rest o => Sys2Proof.Machine.execVst t u d ag mk pm rest o s
  | .vagld t u ag word rest o => Sys2Proof.Machine.execVagld t u ag word rest o s
  | .mnop t rest o => Sys2Proof.Machine.execMnop t rest o s
  | .send t hdl ag len1 port vc dlvl dstr rest o => Sys2Proof.Machine.execSend t hdl ag len1 port vc dlvl dstr rest o s
  | .recv t inp outp n1 rest o => Sys2Proof.Machine.execRecv t inp outp n1 rest o s
  | .get t f rest o => Sys2Proof.Machine.execGet t f rest o s
  | .put t f rest o => Sys2Proof.Machine.execPut t f rest o s
  | .tagset t a rest o => Sys2Proof.Machine.execTagset t a rest o s
  | .tagclr t a rest o => Sys2Proof.Machine.execTagclr t a rest o s
  | .resultReadable t => Sys2Proof.Machine.execResultReadable t s
  | .tagWatchdogExpiry t landing o => Sys2Proof.Machine.execTagWatchdogExpiry t landing o s
  | .contextSwitchEnd t => Sys2Proof.Machine.execContextSwitchEnd t s
  | .landing t inp vc errs => Sys2Proof.Machine.execLanding t inp vc errs s
  | .windowRefusalArrival t => Sys2Proof.Machine.execWindowRefusalArrival t s
  | .flitArrival t inp vc errs => Sys2Proof.Machine.execFlitArrival t inp vc errs s
  | .correctedWordWriteback t w => Sys2Proof.Machine.execCorrectedWordWriteback t w s
  | .barrierRelease c n => Sys2Proof.Machine.execBarrierRelease c n s
  | .limiterWindowEnd f => Sys2Proof.Machine.execLimiterWindowEnd f s
  | .timeMasterSilence => Sys2Proof.Machine.execTimeMasterSilence s
  | .holdoverExpiry => Sys2Proof.Machine.execHoldoverExpiry s
  | .syncSend ns => Sys2Proof.Machine.execSyncSend ns s
  | .announceSend => Sys2Proof.Machine.execAnnounceSend s
  | .delayMeasurement k t1 => Sys2Proof.Machine.execDelayMeasurement k t1 s
  | .idle k h => Sys2Proof.Machine.execIdle k h s
  | .data k h c => Sys2Proof.Machine.execData k h c s
  | .sync k h ns corr master prio hops refOk residence => Sys2Proof.Machine.execSync k h ns corr master prio hops refOk residence s
  | .dreq k h t1 t2 t3 => Sys2Proof.Machine.execDreq k h t1 t2 t3 s
  | .dresp k h t1 t2 t3 t4 => Sys2Proof.Machine.execDresp k h t1 t2 t3 t4 s
  | .announce k h id prio refOk => Sys2Proof.Machine.execAnnounce k h id prio refOk s
  | .void k h c => Sys2Proof.Machine.execVoid k h c s
  | .auth k h m => Sys2Proof.Machine.execAuth k h m s
  | .lane k h bad new => Sys2Proof.Machine.execLane k h bad new s
  | .replayResendTimeout k => Sys2Proof.Machine.execReplayResendTimeout k s
  | .linkLossTimeout k => Sys2Proof.Machine.execLinkLossTimeout k s
  | .linkTrainingAttempt k good m => Sys2Proof.Machine.execLinkTrainingAttempt k good m s
  | .linkRetry k => Sys2Proof.Machine.execLinkRetry k s
  | .laneFault k lane => Sys2Proof.Machine.execLaneFault k lane s
  | .linkAdmit p k => Sys2Proof.Machine.execLinkAdmit p k s
  | .linkHold p k v => Sys2Proof.Machine.execLinkHold p k v s
  | .linkRetrain p k => Sys2Proof.Machine.execLinkRetrain p k s
  | .linkEnableWrite p k v => Sys2Proof.Machine.execLinkEnableWrite p k v s
  | .devidLock p id => Sys2Proof.Machine.execDevidLock p id s
  | .streamWrite p n reg v => Sys2Proof.Machine.execStreamWrite p n reg v s
  | .nak k => Sys2Proof.Machine.execNak k s
  | .reservedCell k h cls => Sys2Proof.Machine.execReservedCell k h cls s
  | .taggedLandingRelease t => Sys2Proof.Machine.execTaggedLandingRelease t s
  | .wireSteering => Sys2Proof.Machine.execWireSteering s
  | .getLanding t n errs => Sys2Proof.Machine.execGetLanding t n errs s
  | .putAccepted t n => Sys2Proof.Machine.execPutAccepted t n s
  | .scrubRead a err => Sys2Proof.Machine.execScrubRead a err s
  | .map p o => Sys2Proof.Machine.execMap p o s
  | .unmap p o => Sys2Proof.Machine.execUnmap p o s
  | .settier p o => Sys2Proof.Machine.execSettier p o s
  | .aliasPage p o => Sys2Proof.Machine.execAliasPage p o s
  | .poolLock p => Sys2Proof.Machine.execPoolLock p s
  | .quotaWrite p cls n v => Sys2Proof.Machine.execQuotaWrite p cls n v s
  | .demotion => Sys2Proof.Machine.execDemotion s
  | .promotion => Sys2Proof.Machine.execPromotion s
  | .pageMoveSwitch n => Sys2Proof.Machine.execPageMoveSwitch n s
  | .stackRetrain p k evac => Sys2Proof.Machine.execStackRetrain p k evac s
  | .stackSelfRetrain k => Sys2Proof.Machine.execStackSelfRetrain k s
  | .stackTrainingDone k ok => Sys2Proof.Machine.execStackTrainingDone k ok s
  | .translationFailure t n => Sys2Proof.Machine.execTranslationFailure t n s
  | .integrityEvent ms e => Sys2Proof.Machine.execIntegrityEvent ms e s
  | .retirementOrder => Sys2Proof.Machine.execRetirementOrder s
  | .retireTile p w => Sys2Proof.Machine.execRetireTile p w s
  | .retireScratchpadRow p w => Sys2Proof.Machine.execRetireScratchpadRow p w s
  | .retireMemoryFrame p w => Sys2Proof.Machine.execRetireMemoryFrame p w s
  | .retireEnWrite p v => Sys2Proof.Machine.execRetireEnWrite p v s
  | .captureCopy t laneCap ms => Sys2Proof.Machine.execCaptureCopy t laneCap ms s
  | .capRdWrite p v => Sys2Proof.Machine.execCapRdWrite p v s
  | .captureRelease p t => Sys2Proof.Machine.execCaptureRelease p t s
  | .laneCaptureRelease p t => Sys2Proof.Machine.execLaneCaptureRelease p t s
  | .shadowRecordRelease p t => Sys2Proof.Machine.execShadowRecordRelease p t s
  | .pkgLoad p n => Sys2Proof.Machine.execPkgLoad p n s
  | .pkgUnload p n => Sys2Proof.Machine.execPkgUnload p n s
  | .pkgRun p f fails => Sys2Proof.Machine.execPkgRun p f fails s
  | .sweepDue => Sys2Proof.Machine.execSweepDue s
  | .sweepBegin => Sys2Proof.Machine.execSweepBegin s
  | .sweepIsolateDone => Sys2Proof.Machine.execSweepIsolateDone s
  | .sweepStressDone => Sys2Proof.Machine.execSweepStressDone s
  | .sweepHeatDone => Sys2Proof.Machine.execSweepHeatDone s
  | .sweepTestDone runs fails => Sys2Proof.Machine.execSweepTestDone runs fails s
  | .sweepRecheckDone fails => Sys2Proof.Machine.execSweepRecheckDone fails s
  | .sweepRestoreDone => Sys2Proof.Machine.execSweepRestoreDone s
  | .referenceLoss => Sys2Proof.Machine.execReferenceLoss s
  | .referenceReturn => Sys2Proof.Machine.execReferenceReturn s
  | .meshLockRegained => Sys2Proof.Machine.execMeshLockRegained s
  | .oscillatorFailure k => Sys2Proof.Machine.execOscillatorFailure k s
  | .crossingSlip t inp => Sys2Proof.Machine.execCrossingSlip t inp s
  | .switchBeat => Sys2Proof.Machine.execSwitchBeat s
  | .stretchRequest k supply => Sys2Proof.Machine.execStretchRequest k supply s
  | .stretchBroadcastArrival => Sys2Proof.Machine.execStretchBroadcastArrival s
  | .stretchWindowEnd => Sys2Proof.Machine.execStretchWindowEnd s
  | .setVoltageReached => Sys2Proof.Machine.execSetVoltageReached s
  | .estimatorWindowEnd ns inputW nontileW amps act => Sys2Proof.Machine.execEstimatorWindowEnd ns inputW nontileW amps act s
  | .clampExcessTimer f module => Sys2Proof.Machine.execClampExcessTimer f module s
  | .phaseFault f n => Sys2Proof.Machine.execPhaseFault f n s
  | .phaseResistanceTest f n pct => Sys2Proof.Machine.execPhaseResistanceTest f n pct s
  | .fieldSwitchOpen f why => Sys2Proof.Machine.execFieldSwitchOpen f why s
  | .fieldSwitchOn p f => Sys2Proof.Machine.execFieldSwitchOn p f s
  | .fieldSwitchOff p f => Sys2Proof.Machine.execFieldSwitchOff p f s
  | .fieldRampStart f => Sys2Proof.Machine.execFieldRampStart f s
  | .fieldRampDone f wave => Sys2Proof.Machine.execFieldRampDone f wave s
  | .capWrite p w => Sys2Proof.Machine.execCapWrite p w s
  | .forget p => Sys2Proof.Machine.execForget p s
  | .ceilingRise => Sys2Proof.Machine.execCeilingRise s
  | .thermalCapStep => Sys2Proof.Machine.execThermalCapStep s
  | .thermalStepdownRepeat => Sys2Proof.Machine.execThermalStepdownRepeat s
  | .fieldTrip f => Sys2Proof.Machine.execFieldTrip f s
  | .tripRecovery f wave => Sys2Proof.Machine.execTripRecovery f wave s
  | .overtempKill => Sys2Proof.Machine.execOvertempKill s
  | .operatingHoursWrite => Sys2Proof.Machine.execOperatingHoursWrite s
  | .frameStart ns r0 r1 => Sys2Proof.Machine.execFrameStart ns r0 r1 s
  | .frameEntryEnd => Sys2Proof.Machine.execFrameEntryEnd s
  | .portRecordIdleRead p rec => Sys2Proof.Machine.execPortRecordIdleRead p rec s
  | .planHeaderDelivery => Sys2Proof.Machine.execPlanHeaderDelivery s
  | .inputDeadline => Sys2Proof.Machine.execInputDeadline s
  | .voteCutoff => Sys2Proof.Machine.execVoteCutoff s
  | .childVerdictCutoff => Sys2Proof.Machine.execChildVerdictCutoff s
  | .commitPoint => Sys2Proof.Machine.execCommitPoint s
  | .pendingExpiry => Sys2Proof.Machine.execPendingExpiry s
  | .recordBacklogWrite p => Sys2Proof.Machine.execRecordBacklogWrite p s
  | .intakeStart => Sys2Proof.Machine.execIntakeStart s
  | .figuresTimeout => Sys2Proof.Machine.execFiguresTimeout s
  | .ppsEdge good => Sys2Proof.Machine.execPpsEdge good s
  | .ppsTimeout => Sys2Proof.Machine.execPpsTimeout s
  | .tbSetWrite p v => Sys2Proof.Machine.execTbSetWrite p v s
  | .groupEnable p v => Sys2Proof.Machine.execGroupEnable p v s
  | .frameSwitchWrite p frame ns same => Sys2Proof.Machine.execFrameSwitchWrite p frame ns same s
  | .scheduleWrite p n r v => Sys2Proof.Machine.execScheduleWrite p n r v s
  | .verdict k h frame pass cause members since => Sys2Proof.Machine.execVerdict k h frame pass cause members since s
  | .outcome k h frame commit since => Sys2Proof.Machine.execOutcome k h frame commit since s
  | .oreq k h frame => Sys2Proof.Machine.execOreq k h frame s
  | .oresp k h frame code => Sys2Proof.Machine.execOresp k h frame code s
  | .plan k h frame off bytes => Sys2Proof.Machine.execPlan k h frame off bytes s
  | .figures k h src frame fix lane chunk budget => Sys2Proof.Machine.execFigures k h src frame fix lane chunk budget s
  | .memTick => Sys2Proof.Machine.execMemTick s
  | .floatingEvaluation => Sys2Proof.Machine.execFloatingEvaluation s
  | .sensorRead die mem links => Sys2Proof.Machine.execSensorRead die mem links s
  | .powerLoss => Sys2Proof.Machine.execPowerLoss s
  | .powerGood => Sys2Proof.Machine.execPowerGood s
  | .firstStageDone a b => Sys2Proof.Machine.execFirstStageDone a b s
  | .bundleVerified => Sys2Proof.Machine.execBundleVerified s
  | .clockMeshLock => Sys2Proof.Machine.execClockMeshLock s
  | .hostPortTrained p => Sys2Proof.Machine.execHostPortTrained p s
  | .perstDeassert p => Sys2Proof.Machine.execPerstDeassert p s
  | .bringupScriptRun => Sys2Proof.Machine.execBringupScriptRun s
  | .fieldWaveStart d => Sys2Proof.Machine.execFieldWaveStart d s
  | .imageBroadcast f bad => Sys2Proof.Machine.execImageBroadcast f bad s
  | .imageRepairRound f bad => Sys2Proof.Machine.execImageRepairRound f bad s
  | .stackFirstTraining => Sys2Proof.Machine.execStackFirstTraining s
  | .linkBringupStart => Sys2Proof.Machine.execLinkBringupStart s
  | .pushStart p store => Sys2Proof.Machine.execPushStart p store s
  | .pushDataWrite p v => Sys2Proof.Machine.execPushDataWrite p v s
  | .pushEnd p => Sys2Proof.Machine.execPushEnd p s
  | .debugScriptGo p bytes => Sys2Proof.Machine.execDebugScriptGo p bytes s
  | .scriptEnd => Sys2Proof.Machine.execScriptEnd s
  | .scriptWrite => Sys2Proof.Machine.execScriptWrite s
  | .scriptMask => Sys2Proof.Machine.execScriptMask s
  | .scriptModify => Sys2Proof.Machine.execScriptModify s
  | .scriptPoll => Sys2Proof.Machine.execScriptPoll s
  | .scriptTimeout => Sys2Proof.Machine.execScriptTimeout s
  | .scriptDelay => Sys2Proof.Machine.execScriptDelay s
  | .scriptExpect => Sys2Proof.Machine.execScriptExpect s
  | .scriptRead => Sys2Proof.Machine.execScriptRead s
  | .pollExpiry => Sys2Proof.Machine.execPollExpiry s
  | .delayExpiry => Sys2Proof.Machine.execDelayExpiry s
  | .lockstepDivergence stage => Sys2Proof.Machine.execLockstepDivergence stage s
  | .firnWrite p w => Sys2Proof.Machine.execFirnWrite p w s
  | .setLock p => Sys2Proof.Machine.execSetLock p s
  | .enroll p => Sys2Proof.Machine.execEnroll p s
  | .clearShort p => Sys2Proof.Machine.execClearShort p s
  | .raiseSvn p => Sys2Proof.Machine.execRaiseSvn p s
  | .bundleStored => Sys2Proof.Machine.execBundleStored s
  | .firnOperationComplete => Sys2Proof.Machine.execFirnOperationComplete s
  | .claim p => Sys2Proof.Machine.execClaim p s
  | .renew p => Sys2Proof.Machine.execRenew p s
  | .stewardRelease p => Sys2Proof.Machine.execStewardRelease p s
  | .leaseLapse => Sys2Proof.Machine.execLeaseLapse s
  | .create p e => Sys2Proof.Machine.execCreate p e s
  | .load p e desc code => Sys2Proof.Machine.execLoad p e desc code s
  | .loadComplete c => Sys2Proof.Machine.execLoadComplete c s
  | .destroy p e => Sys2Proof.Machine.execDestroy p e s
  | .launch p e => Sys2Proof.Machine.execLaunch p e s
  | .launchEnd c => Sys2Proof.Machine.execLaunchEnd c s
  | .copy p e errs => Sys2Proof.Machine.execCopy p e errs s
  | .copyEnd p n host refused errs => Sys2Proof.Machine.execCopyEnd p n host refused errs s
  | .copyWindowWrite p w range v => Sys2Proof.Machine.execCopyWindowWrite p w range v s
  | .bar2Read p o n errs => Sys2Proof.Machine.execBar2Read p o n errs s
  | .bar2Write p o bytes errs => Sys2Proof.Machine.execBar2Write p o bytes errs s
  | .portReset p k => Sys2Proof.Machine.execPortReset p k s
  | .portResume p => Sys2Proof.Machine.execPortResume p s
  | .ideCheckFail p => Sys2Proof.Machine.execIdeCheckFail p s
  | .spdmGetVersion p req => Sys2Proof.Machine.execSpdmGetVersion p req s
  | .spdmGetCapabilities p req => Sys2Proof.Machine.execSpdmGetCapabilities p req s
  | .spdmNegotiateAlgorithms p req => Sys2Proof.Machine.execSpdmNegotiateAlgorithms p req s
  | .spdmGetDigests p req => Sys2Proof.Machine.execSpdmGetDigests p req s
  | .spdmGetCertificate p slot off len => Sys2Proof.Machine.execSpdmGetCertificate p slot off len s
  | .spdmChallenge p req => Sys2Proof.Machine.execSpdmChallenge p req s
  | .spdmGetMeasurements p index req => Sys2Proof.Machine.execSpdmGetMeasurements p index req s
  | .spdmKeyExchange p req => Sys2Proof.Machine.execSpdmKeyExchange p req s
  | .spdmFinish p req => Sys2Proof.Machine.execSpdmFinish p req s
  | .spdmKeyUpdate p req => Sys2Proof.Machine.execSpdmKeyUpdate p req s
  | .spdmHeartbeat p req => Sys2Proof.Machine.execSpdmHeartbeat p req s
  | .spdmEndSession p req => Sys2Proof.Machine.execSpdmEndSession p req s
  | .contextReset p c => Sys2Proof.Machine.execContextReset p c s
  | .contextFence p c => Sys2Proof.Machine.execContextFence p c s
  | .tileReset p t bad => Sys2Proof.Machine.execTileReset p t bad s
  | .deviceReset p => Sys2Proof.Machine.execDeviceReset p s
  | .drainExpiry x bad => Sys2Proof.Machine.execDrainExpiry x bad s
  | .heartbeatWindow missed => Sys2Proof.Machine.execHeartbeatWindow missed s
  | .restoreComplete => Sys2Proof.Machine.execRestoreComplete s
  | .varveEnable p => Sys2Proof.Machine.execVarveEnable p s
  | .varveRateSecond => Sys2Proof.Machine.execVarveRateSecond s
  | .setdasa addr => Sys2Proof.Machine.execSetdasa addr s
  | .entdaa addr => Sys2Proof.Machine.execEntdaa addr s
  | .disec => Sys2Proof.Machine.execDisec s
  | .i3cPrivateWrite bytes => Sys2Proof.Machine.execI3cPrivateWrite bytes s
  | .i3cPrivateRead => Sys2Proof.Machine.execI3cPrivateRead s
  | .registerWrite p w be v => Sys2Proof.Machine.execRegisterWrite p w be v s
  | .registerRead p w be => Sys2Proof.Machine.execRegisterRead p w be s
  | .msiXUnmask p v masked => Sys2Proof.Machine.execMsiXUnmask p v masked s
  | .configurationRequest p r => Sys2Proof.Machine.execConfigurationRequest p r s
  | .ideKm p m => Sys2Proof.Machine.execIdeKm p m s
  | .inBandInterruptAck => Sys2Proof.Machine.execInBandInterruptAck s

end Sys2Proof.Machine
end

