-- ==== Sys2Proof/Machine/Step.lean ====
section
/-! DEFINITION. A step of the block: the command at the front of the queue is carried out; with none waiting, a beat of the
die clock passes. -/

namespace Sys2Proof.Machine

/-- With nothing waiting, a beat of the clock mesh passes (DESIGN CHOICE, log entry 8). -/
def State.beat (s : State) : State := { s with dev := s.dev.idleBeat.seal }

/-- One step. -/
def step (s : State) : Host.Outcome State Fault Refusal :=
  match s.pending with
  | [] => .next s.beat
  | i :: r => exec i { s with pending := r }

/-- A state with the command a table word spells put at the front of its queue: no row of the table gives bits, so none. -/
def State.withFetchWord (s : State) (nbits w : Nat) : State :=
  match Sys2Proof.decodeTableWord nbits w with
  | some i => { s with pending := i :: s.pending }
  | none => s

end Sys2Proof.Machine
end

