-- ==== Sys2Proof/Safety.lean ====
section
/-! DEFINITION. What counts as a sound state, and the terms the statements use: a command that completes, what it leaves
alone, and a bundle that issues. -/

namespace Sys2Proof.Machine

/-- Every register reads as zero in the bits that no field of it holds, and so does every offset that no register occupies
(R18). -/
def Dev.reservedZero (d : Dev) : Prop := ∀ off, d.rd off &&& ~~~(regImpl off) = 0

/-- The canonical form of what the state keeps by key: registers, memory, tiles. -/
def Dev.canonical (d : Dev) : Bool := smWf regReset d.regs && Memory.wf d.mem && smWf tileReset d.tiles

/-- What every step keeps. -/
def State.Inv (s : State) : Prop := s.dev.canonical = true ∧ s.dev.reservedZero

/-! ## Completion and frames -/

/-- The command is carried out: `exec` answers a next state, the waiting commands stay as they were, and P holds of the device
it leaves. -/
def Completes (i : Instr) (s : State) (P : Dev → Prop) : Prop :=
  ∃ t : State, exec i s = .next t ∧ t.pending = s.pending ∧ P t.dev

/-- Every register but those named reads as before, in the bits it has (R18). -/
def RegsBut (offs : List Nat) (d e : Dev) : Prop := ∀ o, o ∉ offs → e.rd o = d.rd o &&& regImpl o

/-- As RegsBut, where an entry is written to the varve log: its own registers aside (R531). -/
def RegsLog (offs : List Nat) (d e : Dev) : Prop :=
  ∀ o, o ∉ offs → ¬(0x700000 ≤ o ∧ o < 0x800000) → e.rd o = d.rd o &&& regImpl o

/-- Every byte of memory and of the scratchpads reads as before. -/
def SameBytes (d e : Dev) : Prop := ∀ a, e.rdByte a = d.rdByte a

/-- Every tile is as before. -/
def SameTiles (d e : Dev) : Prop := ∀ t, e.tile t = d.tile t

/-- What the device holds beside its registers, memory and tiles. -/
def Dev.rest (d : Dev) : Dev := { d with regs := [], mem := [], tiles := [] }

/-- Nothing but the registers named has changed. -/
def OnlyRegs (offs : List Nat) (d e : Dev) : Prop := RegsBut offs d e ∧ SameBytes d e ∧ SameTiles d e ∧ e.rest = d.rest

/-! ## A bundle that issues (R48, R49, R54) -/

/-- The device as a beat of a tile begins: its router has had the beat before, and the beat is counted. -/
def Dev.atBeat (d : Dev) (t : Nat) : Dev := (d.ownBeat t).beginBeat t

/-- The device as a tile's beat comes to its bundle: the bank accesses of an issue beat have been made, results whose latency has elapsed are
readable, and the fetch is checked. -/
def Dev.atBundle (d : Dev) (t : Nat) (o : Obs) : Dev := ((d.atBeat t).bankBeat t o .arb).2.atReach t o

/-- The tile reaches bundle w in this beat with nothing before it: it runs, no access of the beat loses its bank, no fault of its context is waiting
or falls due, the bundle lies within the context's bound, decodes, and is not squashed (R48, R54, R61, R77). -/
structure Dev.Reaches (d : Dev) (t : Nat) (w : Word256) (o : Obs) (b : Bundle) : Prop where
  awake : ((d.atBeat t).tile t).fenced = false
  running : ((d.atBeat t).tile t).mode = .running
  banks : ((d.atBeat t).bankBeat t o .arb).1 = false
  unraised : ((d.atBundle t o).tile t).raise = none
  quiet : ((d.atBundle t o).dueActs t).2 = none
  inBound : ((d.atBundle t o).tile t).regs.pc < (d.atBundle t o).pcBound t
  fetched : (d.atBundle t o).fetchBad t o = false
  decodes : decBundle w = some b
  unsquashed : ((d.atBundle t o).tile t).regs.squashed = false

/-- The bundle issues in this beat: it is reached, no slot faults, what it waits for has come, and nothing stalls it; a step of the cubes is
granted them (R244). -/
structure Dev.Issues (d : Dev) (t : Nat) (w : Word256) (o : Obs) (b : Bundle) (p : SlotPlan) : Prop
    extends Dev.Reaches d t w o b where
  unparked : (b.ctrl == .fsync && (d.atBundle t o).isCad t ((d.atBundle t o).tile t).slot) = false
  planned : (d.atBundle t o).planBundle t w b o = .ok p
  ready : p.ready = true
  slotOpen : (d.atBundle t o).slotReady t b = true
  barrier : (d.atBundle t o).barOpen t b = true
  unstalled : (d.atBundle t o).moveStall t b.move = none
  cubes : ∀ m n x y, b.cube = .mac m n x y → d.granted t w = true

/-! ## The bundle a Selku command issues (R186, R196 to R211) -/

/-- Opcode of a register-form VEC operation with its unit and fields (R207). -/
def vecForm : Instr → Option (TileId × VUnit × Nat × VecF × Word256 × Obs)
  | .vadd t u f r o => some (t, u, 0x01, f, r, o)
  | .vsub t u f r o => some (t, u, 0x02, f, r, o)
  | .vmul t u f r o => some (t, u, 0x03, f, r, o)
  | .vfma t u f r o => some (t, u, 0x04, f, r, o)
  | .vmax t u f r o => some (t, u, 0x05, f, r, o)
  | .vmin t u f r o => some (t, u, 0x06, f, r, o)
  | .vabs t u f r o => some (t, u, 0x07, f, r, o)
  | .vneg t u f r o => some (t, u, 0x08, f, r, o)
  | .vsign t u f r o => some (t, u, 0x09, f, r, o)
  | .vsel t u f r o => some (t, u, 0x0A, f, r, o)
  | .iadd t u f r o => some (t, u, 0x10, f, r, o)
  | .isub t u f r o => some (t, u, 0x11, f, r, o)
  | .imul t u f r o => some (t, u, 0x12, f, r, o)
  | .iand t u f r o => some (t, u, 0x13, f, r, o)
  | .ior t u f r o => some (t, u, 0x14, f, r, o)
  | .ixor t u f r o => some (t, u, 0x15, f, r, o)
  | .ishl t u f r o => some (t, u, 0x16, f, r, o)
  | .ishr t u f r o => some (t, u, 0x17, f, r, o)
  | .isra t u f r o => some (t, u, 0x18, f, r, o)
  | .imax t u f r o => some (t, u, 0x19, f, r, o)
  | .imin t u f r o => some (t, u, 0x1A, f, r, o)
  | .vcvt t u f r o => some (t, u, 0x1C, f, r, o)
  | .fcmp t u f r o => some (t, u, 0x1D, f, r, o)
  | .icmp t u f r o => some (t, u, 0x1E, f, r, o)
  | .pand t u f r o => some (t, u, 0x20, f, r, o)
  | .por t u f r o => some (t, u, 0x21, f, r, o)
  | .pxor t u f r o => some (t, u, 0x22, f, r, o)
  | .pnot t u f r o => some (t, u, 0x23, f, r, o)
  | .p2v t u f r o => some (t, u, 0x24, f, r, o)
  | .v2p t u f r o => some (t, u, 0x25, f, r, o)
  | .vredsum t u f r o => some (t, u, 0x28, f, r, o)
  | .vredmax t u f r o => some (t, u, 0x29, f, r, o)
  | .vredmin t u f r o => some (t, u, 0x2A, f, r, o)
  | .vredor t u f r o => some (t, u, 0x2B, f, r, o)
  | .vredand t u f r o => some (t, u, 0x2C, f, r, o)
  | .vperm t u f r o => some (t, u, 0x2D, f, r, o)
  | .vrot t u f r o => some (t, u, 0x2E, f, r, o)
  | .vbcast t u f r o => some (t, u, 0x2F, f, r, o)
  | .bstep t u f r o => some (t, u, 0x30, f, r, o)
  | .topk t u f r o => some (t, u, 0x31, f, r, o)
  | .exp2 t u f r o => some (t, u, 0x34, f, r, o)
  | .log2 t u f r o => some (t, u, 0x35, f, r, o)
  | .rcp t u f r o => some (t, u, 0x36, f, r, o)
  | .rsq t u f r o => some (t, u, 0x37, f, r, o)
  | .tanh t u f r o => some (t, u, 0x38, f, r, o)
  | .vrand t u f r o => some (t, u, 0x39, f, r, o)
  | _ => none

/-- The bundle of a command that is an operation of a Selku slot: its tile, the 256-bit word that holds the operation in its slot
and the slots of `rest` beside it, and what the beat observes. -/
def bundleOf (i : Instr) : Option (TileId × Word256 × Obs) :=
  match i with
  | .nop t e r o => some (t, putCtrl r (encCtrl 0 e.toNat 0), o)
  | .loop t e a r o => some (t, putCtrl r (encCtrl 1 e.toNat (encLoop a)), o)
  | .skip t e x p m r o => some (t, putCtrl r (encCtrl 2 e.toNat (x.toNat * 2 ^ 21 + p.toNat * 2 ^ 17 + m.toNat)), o)
  | .waitf t e a r o => some (t, putCtrl r (encCtrl 3 e.toNat (encSlot a)), o)
  | .waite t e a r o => some (t, putCtrl r (encCtrl 4 e.toNat (encSlot a)), o)
  | .bar t e n r o => some (t, putCtrl r (encCtrl 5 e.toNat n.toNat), o)
  | .phase t e x r o => some (t, putCtrl r (encCtrl 6 e.toNat x.toNat), o)
  | .fsync t e k r o => some (t, putCtrl r (encCtrl 7 e.toNat k.toNat), o)
  | .call t e k r o => some (t, putCtrl r (encCtrl 8 e.toNat k.toNat), o)
  | .ret t e r o => some (t, putCtrl r (encCtrl 9 e.toNat 0), o)
  | .halt t e r o => some (t, putCtrl r (encCtrl 10 e.toNat 0), o)
  | .cnop t r o => some (t, putCube r 0, o)
  | .cmac t n a b r o => some (t, putCube r (1 * 2 ^ 59 + n.toNat * 2 ^ 56 + a.toNat * 2 ^ 53 + b.toNat * 2 ^ 50), o)
  | .cmul t n a b r o => some (t, putCube r (2 * 2 ^ 59 + n.toNat * 2 ^ 56 + a.toNat * 2 ^ 53 + b.toNat * 2 ^ 50), o)
  | .czero t n r o => some (t, putCube r (3 * 2 ^ 59 + n.toNat * 2 ^ 56), o)
  | .cdrain t n f gd gs sr vr cve cv cvs r o =>
    some (t, putCube r (4 * 2 ^ 59 + n.toNat * 2 ^ 56 + f.toNat * 2 ^ 52 + gd.toNat * 2 ^ 49 + gs.toNat * 2 ^ 46 + sr.toNat * 2 ^ 45
      + vr.toNat * 2 ^ 39 + cve.toNat * 2 ^ 38 + cv.toNat * 2 ^ 35 + cvs.toNat * 2 ^ 34), o)
  | .cfmt t fa fb sa sb r o =>
    some (t, putCube r (5 * 2 ^ 59 + fa.toNat * 2 ^ 55 + fb.toNat * 2 ^ 51 + sa.toNat * 2 ^ 48 + sb.toNat * 2 ^ 45), o)
  | .vnop t u r o => some (t, putVec u r 0, o)
  | .vimm t u d v r o => some (t, putVec u r (0x0B * 2 ^ 42 + d.toNat * 2 ^ 36 + v.toNat), o)
  | .vld t u d g m p r o => some (t, putVec u r (encVecMem 0x3C d g m p), o)
  | .vst t u d g m p r o => some (t, putVec u r (encVecMem 0x3D d g m p), o)
  | .vagld t u g w r o => some (t, putVec u r (0x3E * 2 ^ 42 + g.toNat * 2 ^ 39 + w.toNat), o)
  | .mnop t r o => some (t, putMove r 0, o)
  | .send t h g l p v lv st r o =>
    some (t, putMove r (1 * 2 ^ 59 + h.toNat * 2 ^ 53 + g.toNat * 2 ^ 50 + l.toNat * 2 ^ 38 + p.toNat * 2 ^ 36 + v.toNat * 2 ^ 35
      + lv.toNat * 2 ^ 31 + st.toNat * 2 ^ 14), o)
  | .recv t a b n r o => some (t, putMove r (2 * 2 ^ 59 + a.toNat * 2 ^ 57 + b.toNat * 2 ^ 55 + n.toNat * 2 ^ 49), o)
  | .get t f r o => some (t, putMove r (encXfer 3 f), o)
  | .put t f r o => some (t, putMove r (encXfer 4 f), o)
  | .tagset t a r o => some (t, putMove r (encTag 5 a), o)
  | .tagclr t a r o => some (t, putMove r (encTag 6 a), o)
  | i => (vecForm i).map fun x => (x.1, putVec x.2.1 x.2.2.2.2.1 (encVec x.2.2.1 x.2.2.2.1), x.2.2.2.2.2)

/-- What the lane of a unit that its shadow lane recomputes really gave in this beat. -/
def obsLane (o : Obs) : VUnit → Option LaneObs
  | .a => o.laneA
  | .b => o.laneB

/-- The operation issued at device d is under way at device e: it delivers z when `lat` more bundles have issued (R49). -/
def Dev.Delivers (d e : Dev) (t lat : Nat) (z : Deliver) : Prop :=
  (⟨d.issueNo t + lat, (d.tile t).regs.pc, z⟩ : Inflight) ∈ (e.tile t).inflight

/-- A refusal is on its way over VC2 to the sender of a flit, with the fault it brings (R168). -/
structure Flit.Refuses (r f : Flit) (code home : Nat) : Prop where
  cargo : r.cargo = .refusal code
  channel : r.vc = 2
  goes : r.dst = home
  context : r.ctx = f.ctx ∧ r.slot = f.slot ∧ r.pc = f.pc

/-! ## Cells of a link (R431 to R436) -/

/-- The device takes the cell that arrives: its class is accepted in the link's state, it is undamaged, and it is the next in order
(R426, R433, R434). -/
structure Dev.CellTaken (d : Dev) (k : Nat) (h : CellHdr) (typ cls : Nat) : Prop where
  accepted : d.accepts k typ cls = true
  undamaged : h.bad = none
  inOrder : h.seq.toNat = (d.lnk k).rxNext

/-- The device as a cell taken acts: corrected symbols are counted, its ACK and credits are in, and the link expects the next SEQ. -/
def Dev.atCell (d : Dev) (k : Nat) (h : CellHdr) (cls : Nat) : Dev :=
  ((d.add (Reg.FEC_CORR k) h.symbols.toNat).takeAck k h).updLnk k fun x => { x with rxNext := (x.rxNext + 1) % 4096, owed := x.owed.set cls (nth x.owed cls 0 + 1) }

/-- A cell of a class can be sent on a link at once: the class has a credit, the replay buffer has room, and nothing of the class waits
(R434 to R436). -/
def Dev.canSend (d : Dev) (k cls : Nat) : Bool :=
  !(d.lnk k).mustWait cls

/-- What leaves on a link when a cell is sent on it now. -/
def Dev.cellOf (d : Dev) (k : Nat) (c : QCell) : Out :=
  let x := (d.lnk k).takeOwed
  c.out.getD (.cell k c.typ (cellBytes x.2.txSeq x.2.ackNo x.1.1 x.1.2 c))

/-- A class-0 message to the peer of a link. -/
def Dev.msgOf (d : Dev) (k typ : Nat) (payload : List Byte) (frame : Option Nat := none) : QCell :=
  { typ, cls := 0, w1 := word1 false 0 0 d.myId (d.peerId k) 0, payload, frame }

/-- The cell is sent on the link: it leaves, and it is held for resending under the SEQ it took (R434). -/
def Dev.Sends (d e : Dev) (k : Nat) (c : QCell) : Prop :=
  d.cellOf k c ∈ e.out ∧ (⟨(d.lnk k).txSeq, c, d.cellOf k c, 0⟩ : Sent) ∈ (e.lnk k).sent

/-! ## Completion records (R472 to R474) -/

/-- The CONTROL record of an operation. -/
def Dev.ctrlRec (d : Dev) (port tag op ctx status w3 : Nat) : Rec :=
  ⟨port, [w64 (4 + status * 2 ^ 16), w64 (if d.framesRun then d.frame else 0), w64 (tag + op * 2 ^ 16 + ctx * 2 ^ 24), w64 w3, 0, 0, 0]⟩

/-- A record given to a port is not lost: it waits for the commit point, or the backlog takes it (R474). -/
def Dev.RecRoom (d : Dev) (port : Nat) : Prop :=
  d.framesRun = true ∨ d.portFenced port = true ∨ (d.backlog.filter (·.port == port)).length < 16384

/-- The operation has ended with its CONTROL record: it waits for the commit point while frames run; otherwise it is written at
the ring position its number gives, or kept while the ring has no room. A fenced port's is not written. -/
structure Dev.Reports (d e : Dev) (port tag op ctx status w3 : Nat) : Prop where
  waits : d.framesRun = true → d.ctrlRec port tag op ctx status w3 ∈ e.ctrlWait
  written : d.framesRun = false → d.portFenced port = false → (∀ x ∈ d.backlog, x.port ≠ port) → d.cqRoom port = true →
    Out.host port (fld (d.effRd (Reg.P_CQ port)) 63 12 * 4096 + 64 * (d.rn (Reg.P_CQ_WR port) % 2 ^ fld (d.effRd (Reg.P_CQ port)) 4 0))
      (((d.ctrlRec port tag op ctx status w3).words ++ [d.rd (Reg.P_CQ_WR port)]).flatMap fun w => toBytes 8 w.toNat) ∈ e.out
  kept : d.framesRun = false → d.portFenced port = false → d.cqRoom port = false →
    (d.backlog.filter (·.port == port)).length < 16384 → d.ctrlRec port tag op ctx status w3 ∈ e.backlog

/-! ## Scripts (R503) -/

/-- A script that runs has come to a command (R503): the command, and the offset in BAR0 of the register it names. -/
structure Dev.AtCommand (d : Dev) (x : Script) (op : Nat) (c : W64 × W64) (off : Nat) : Prop where
  running : d.boot.script = some x
  here : x.cmds[x.idx]? = some c
  opcode : cmdOp c = op
  ready : x.wait ≠ .delay
  allowed : x.debug = true → d.isSteward x.port = true
  address : off = cmdAddr c - 0xC0000000000

end Sys2Proof.Machine
end

