-- ==== Sys2Proof/Certificates/Slice0/Obligations.lean ====
section
/-! DEFINITION. The statements for the provers. -/

open Sys2Proof Sys2Proof.Machine

/-! ## The step, the queue, the invariant -/

/-- A step carries out the command at the front of the queue, on the device with the rest of the queue waiting; on an empty queue a
beat of the die passes, which is the model's choice (log entry 8). -/
def Obligations.StepRunsFrontCommand : Prop :=
  (∀ (c : Instr) (s : State), step { s with pending := c :: s.pending } = exec c s)
  ∧ ∀ s : State, s.pending = [] → step s = .next { s with dev := s.dev.idleBeat.seal }

/-- No command is refused or stops the device, and none touches the commands that wait behind it. -/
def Obligations.EveryCommandCompletesAndKeepsTheQueue : Prop :=
  ∀ (c : Instr) (s : State), ∃ t : State, exec c s = .next t ∧ t.pending = s.pending

/-- The invariant holds at reset: registers, memory and tiles are in canonical form and no reserved bit reads as one (R18). -/
def Obligations.ResetMeetsInvariant : Prop := State.reset.Inv

/-- Every step, of a waiting command or of the idle block, leaves registers, memory and tiles in canonical form and every bit
that no field of a register holds reading as zero (R18). -/
def Obligations.StepKeepsInvariant : Prop :=
  ∀ s t : State, s.Inv → step s = .next t → t.Inv

/-! ## Selku: encoding and issue -/

/-- Every operation of a Selku slot reads back from the bundle it is put into, with every operand at every value the manual
allows it (R186, R187, R196 to R211), and leaves the other slots of the bundle as they were. -/
def Obligations.SelkuSlotsDecode : Prop :=
  ∀ w : Word256,
    (∀ e : BitVec 4, e.toNat ≤ 8 →
      decCtrl (slotCtrl (putCtrl w (encCtrl 0 e.toNat 0))) = some (.nop, e.toNat)
      ∧ (∀ (x : BitVec 2) (p : BitVec 4) (m : BitVec 10),
          decCtrl (slotCtrl (putCtrl w (encCtrl 2 e.toNat (x.toNat * 2 ^ 21 + p.toNat * 2 ^ 17 + m.toNat))))
            = some (.skip x.toNat p.toNat (m.toNat + 1), e.toNat))
      ∧ (∀ a : SlotArg, decCtrl (slotCtrl (putCtrl w (encCtrl 3 e.toNat (encSlot a)))) = some (.wait true a, e.toNat)
          ∧ decCtrl (slotCtrl (putCtrl w (encCtrl 4 e.toNat (encSlot a)))) = some (.wait false a, e.toNat))
      ∧ (∀ n : BitVec 4, decCtrl (slotCtrl (putCtrl w (encCtrl 5 e.toNat n.toNat))) = some (.bar n.toNat, e.toNat))
      ∧ (∀ x : BitVec 8, decCtrl (slotCtrl (putCtrl w (encCtrl 6 e.toNat x.toNat))) = some (.phase x.toNat, e.toNat))
      ∧ (∀ k : BitVec 1, decCtrl (slotCtrl (putCtrl w (encCtrl 7 e.toNat k.toNat))) = some (.fsync, e.toNat)))
    ∧ (∀ a : LoopArg, decCtrl (slotCtrl (putCtrl w (encCtrl 1 0 (encLoop a)))) = some (.loop a, 0))
    ∧ (∀ k : BitVec 6, decCtrl (slotCtrl (putCtrl w (encCtrl 8 0 k.toNat))) = some (.call k.toNat, 0))
    ∧ decCtrl (slotCtrl (putCtrl w (encCtrl 9 0 0))) = some (.ret, 0)
    ∧ decCtrl (slotCtrl (putCtrl w (encCtrl 10 0 0))) = some (.halt, 0)
    ∧ (∀ x : Nat, x < 2 ^ 32 → slotCube (putCtrl w x) = slotCube w ∧ slotVec .a (putCtrl w x) = slotVec .a w
        ∧ slotVec .b (putCtrl w x) = slotVec .b w ∧ slotMove (putCtrl w x) = slotMove w)
    ∧ decCube (slotCube (putCube w 0)) = some .nop
    ∧ (∀ n a b : BitVec 3,
        decCube (slotCube (putCube w (1 * 2 ^ 59 + n.toNat * 2 ^ 56 + a.toNat * 2 ^ 53 + b.toNat * 2 ^ 50)))
          = some (.mac false n.toNat a.toNat b.toNat)
        ∧ decCube (slotCube (putCube w (2 * 2 ^ 59 + n.toNat * 2 ^ 56 + a.toNat * 2 ^ 53 + b.toNat * 2 ^ 50)))
          = some (.mac true n.toNat a.toNat b.toNat)
        ∧ decCube (slotCube (putCube w (3 * 2 ^ 59 + n.toNat * 2 ^ 56))) = some (.zero n.toNat))
    ∧ (∀ (fa fb : BitVec 4) (sa sb : BitVec 3),
        decCube (slotCube (putCube w (5 * 2 ^ 59 + fa.toNat * 2 ^ 55 + fb.toNat * 2 ^ 51 + sa.toNat * 2 ^ 48 + sb.toNat * 2 ^ 45)))
          = some (.fmt fa.toNat fb.toNat sa.toNat sb.toNat))
    ∧ (∀ x : Nat, x < 2 ^ 64 → slotCtrl (putCube w x) = slotCtrl w ∧ slotVec .a (putCube w x) = slotVec .a w
        ∧ slotVec .b (putCube w x) = slotVec .b w ∧ slotMove (putCube w x) = slotMove w)
    ∧ (∀ u : VUnit,
        decVec (slotVec u (putVec u w 0)) = some .nop
        ∧ (∀ (d : BitVec 6) (v : BitVec 32),
            decVec (slotVec u (putVec u w (0x0B * 2 ^ 42 + d.toNat * 2 ^ 36 + v.toNat))) = some (.imm d.toNat v))
        ∧ (∀ (op : Nat) (f : VecF), op < 64 → vecRegOk op f = true → op ∉ [0x00, 0x0B, 0x3C, 0x3D, 0x3E] →
            decVec (slotVec u (putVec u w (encVec op f))) = some (.reg op f))
        ∧ (∀ (d : BitVec 6) (g : BitVec 3) (m : BitVec 1) (p : BitVec 4), m = 1 ∨ p = 0 →
            decVec (slotVec u (putVec u w (encVecMem 0x3C d g m p))) = some (.mem false d.toNat g.toNat (m == 1) p.toNat)
            ∧ decVec (slotVec u (putVec u w (encVecMem 0x3D d g m p))) = some (.mem true d.toNat g.toNat (m == 1) p.toNat))
        ∧ (∀ (g : BitVec 3) (a : BitVec 17),
            decVec (slotVec u (putVec u w (0x3E * 2 ^ 42 + g.toNat * 2 ^ 39 + a.toNat))) = some (.agld g.toNat a.toNat))
        ∧ (∀ x : Nat, x < 2 ^ 48 → slotCtrl (putVec u w x) = slotCtrl w ∧ slotCube (putVec u w x) = slotCube w
            ∧ slotMove (putVec u w x) = slotMove w))
    ∧ decMove (slotMove (putMove w 0)) = some .nop
    ∧ (∀ (h : BitVec 6) (g : BitVec 3) (l : BitVec 12) (p : BitVec 2) (v : BitVec 1) (lv : BitVec 4) (st : BitVec 17),
        lv.toNat ≤ 8 → (lv = 0 → st = 0) →
        decMove (slotMove (putMove w (1 * 2 ^ 59 + h.toNat * 2 ^ 53 + g.toNat * 2 ^ 50 + l.toNat * 2 ^ 38 + p.toNat * 2 ^ 36
            + v.toNat * 2 ^ 35 + lv.toNat * 2 ^ 31 + st.toNat * 2 ^ 14)))
          = some (.send h.toNat g.toNat (l.toNat + 1) p.toNat v.toNat lv.toNat st.toNat))
    ∧ (∀ (a b : BitVec 2) (n : BitVec 6), a ≠ b →
        decMove (slotMove (putMove w (2 * 2 ^ 59 + a.toNat * 2 ^ 57 + b.toNat * 2 ^ 55 + n.toNat * 2 ^ 49)))
          = some (.recv a.toNat b.toNat (n.toNat + 1)))
    ∧ (∀ f : XferF,
        (xferOk true f = true → decMove (slotMove (putMove w (encXfer 3 f))) = some (.xfer true f))
        ∧ (xferOk false f = true → decMove (slotMove (putMove w (encXfer 4 f))) = some (.xfer false f)))
    ∧ (∀ a : SlotArg, decMove (slotMove (putMove w (encTag 5 a))) = some (.tag true a)
        ∧ decMove (slotMove (putMove w (encTag 6 a))) = some (.tag false a))
    ∧ (∀ x : Nat, x < 2 ^ 64 → slotCtrl (putMove w x) = slotCtrl w ∧ slotCube (putMove w x) = slotCube w
        ∧ slotVec .a (putMove w x) = slotVec .a w ∧ slotVec .b (putMove w x) = slotVec .b w)

/-- A command that is an operation of a Selku slot is one beat of its tile with that bundle. When the bundle issues, the beat
counts as an issue beat, every slot's operation is under way, the sequencer moves on as the CTRL slot says, and a bank access
waits for each access that a slot starts (R48, R49, R54, R188, R190). -/
def Obligations.SelkuBundleIssues : Prop :=
  ∀ (i : Instr) (s : State) (t : TileId) (w : Word256) (o : Obs) (b : Bundle) (p : SlotPlan),
    bundleOf i = some (t, w, o) → s.dev.Issues t w o b p →
    Completes i s fun e =>
      let a := s.dev.atBundle t o
      let r := (a.tile t).regs
      let x := e.tile t
      e.trd t Reg.ISSUE = a.trd t Reg.ISSUE + 1
      ∧ (∃ q : Regs, r.pc = q.pc ∧ r.loops = q.loops ∧ r.lc = q.lc ∧ r.calls = q.calls ∧ r.rtn = q.rtn
          ∧ q.squash = r.squash - 1 ∧ x.regs = ctrlNext b.ctrl b.fin false r q)
      ∧ (∀ z ∈ p.infl, z ∈ x.inflight)
      ∧ x.bankq = (a.tile t).bankq ++ p.accs
      ∧ x.mvq = (a.tile t).mvq ++ p.mv

/-- The CTRL slot moves the sequencer (R56 to R62, R71, R74 to R76, R196): from where the tile's bundle stands (state `a`), an
operation that issues leads to the next bundle, opens or closes a loop, marks bundles squashed, enters or leaves a routine, marks
the phase, or ends what the tile runs; an FSYNC of a cadence context parks it instead, without issuing. -/
def Obligations.CtrlOperationsSequence : Prop :=
  ∀ (t : TileId) (rest : Word256) (o : Obs) (s : State) (b : Bundle) (p : SlotPlan) (w : Word256),
    let a := s.dev.atBundle t o
    let r := (a.tile t).regs
    let depth := r.loops.length
    let issues (i : Instr) : Prop := bundleOf i = some (t, w, o) ∧ s.dev.Issues t w o b p
    (∀ (m : SlotArg) (n : BitVec 4), ∀ i ∈ [Instr.nop t 0 rest o, .waitf t 0 m rest o, .waite t 0 m rest o, .bar t 0 n rest o],
      issues i →
      Completes i s fun e => let x := (e.tile t).regs
        x.pc = r.pc + 1 ∧ x.loops = r.loops ∧ x.calls = r.calls ∧ x.rtn = r.rtn ∧ x.squash = r.squash - 1)
    ∧ (∀ l : LoopLevel, r.loops.getLast? = some l → issues (.nop t 1 rest o) →
      Completes (.nop t 1 rest o) s fun e => let x := (e.tile t).regs
        (r.rlc (depth - 1) > 1 →
          x.pc = l.body ∧ x.rtn = l.rtn ∧ x.loops = r.loops ∧ x.rlc (depth - 1) = r.rlc (depth - 1) - 1)
        ∧ (r.rlc (depth - 1) ≤ 1 →
          x.pc = r.pc + 1 ∧ x.rtn = r.rtn ∧ x.loops = r.loops.dropLast ∧ x.rlc (depth - 1) = 0))
    ∧ (∀ m : BitVec 16, issues (.loop t 0 (.imm m) rest o) →
      Completes (.loop t 0 (.imm m) rest o) s fun e => let x := (e.tile t).regs
        x.pc = r.pc + 1 ∧ x.loops = r.loops ++ [⟨r.rtn, r.pc + 1, m.toNat + 1, false⟩] ∧ x.rlc depth = m.toNat + 1)
    ∧ (∀ v : BitVec 6, issues (.loop t 0 (.reg v) rest o) →
      let n := (lane (r.rv v.toNat) 0).toNat
      Completes (.loop t 0 (.reg v) rest o) s fun e => let x := (e.tile t).regs
        x.pc = r.pc + 1 ∧ x.loops = r.loops ++ [⟨r.rtn, r.pc + 1, max n 1, n == 0⟩] ∧ x.rlc depth = max n 1)
    ∧ (∀ (x : BitVec 2) (q : BitVec 4) (m : BitVec 10), issues (.skip t 0 x q m rest o) →
      Completes (.skip t 0 x q m rest o) s fun e =>
        (e.tile t).regs.pc = r.pc + 1
        ∧ (e.tile t).regs.squash = if testHolds x.toNat (r.rp q.toNat) then m.toNat + 1 else r.squash - 1)
    ∧ (∀ x : BitVec 8, issues (.phase t 0 x rest o) →
      Completes (.phase t 0 x rest o) s fun e =>
        (e.tile t).regs.pc = r.pc + 1 ∧ e.trf t (Reg.CTXSTATE (a.tile t).slot) 23 16 = x.toNat)
    ∧ (∀ k : BitVec 6, issues (.call t 0 k rest o) →
      Completes (.call t 0 k rest o) s fun e => let x := (e.tile t).regs
        x.pc = 0 ∧ x.rtn = some k.toNat ∧ x.calls = r.calls ++ [⟨r.rtn, r.pc + 1, depth⟩] ∧ x.loops = r.loops)
    ∧ (∀ c : RetPoint, r.calls.getLast? = some c → issues (.ret t 0 rest o) →
      Completes (.ret t 0 rest o) s fun e => let x := (e.tile t).regs
        x.pc = c.pc ∧ x.rtn = c.rtn ∧ x.calls = r.calls.dropLast ∧ x.loops = r.loops)
    ∧ (issues (.halt t 0 rest o) →
      Completes (.halt t 0 rest o) s fun e => (e.tile t).mode ≠ .running)
    ∧ (∀ (x : BitVec 4) (k : BitVec 1), bundleOf (.fsync t x k rest o) = some (t, w, o) → s.dev.Reaches t w o b →
      a.isCad t (a.tile t).slot = true →
      Completes (.fsync t x k rest o) s fun e =>
        (e.tile t).mode ≠ .running ∧ e.trd t Reg.ISSUE = a.trd t Reg.ISSUE
        ∧ e.trd t Reg.WAIT_FRAME = a.trd t Reg.WAIT_FRAME + 1 ∧ (e.tile t).regs = r)

/-- The lane-wise vector operations (R121, R122, R127, R129, R207, R208): from the sources at the start of the issue beat, each
delivers to its destination, under its mask and after its latency, the value the manual gives it in every lane. -/
def Obligations.VectorLanesDeliver : Prop :=
  ∀ (t : TileId) (u : VUnit) (f : VecF) (rest : Word256) (o : Obs) (s : State),
    let a := s.dev.atBundle t o
    let v := a.vsrc t f
    let fn := f.fn.toNat
    let A (j : Nat) : W32 := lane v.a j
    let B (j : Nat) : W32 := lane v.b j
    let sh (j : Nat) : Nat := if bit fn 5 then fn % 32 else (B j).toNat % 32
    ∀ x ∈ ([(.vadd t u f rest o, 3, fun j => addF (A j) (B j)),
            (.vsub t u f rest o, 3, fun j => subF (A j) (B j)),
            (.vmul t u f rest o, 3, fun j => mulF (A j) (B j)),
            (.vfma t u f rest o, 3, fun j => fmaF (A j) (B j) (lane v.c j)),
            (.vmax t u f rest o, 3, fun j => maxF (A j) (B j)),
            (.vmin t u f rest o, 3, fun j => minF (A j) (B j)),
            (.vabs t u f rest o, 3, fun j => absF (A j)),
            (.vneg t u f rest o, 3, fun j => negF (A j)),
            (.vsign t u f rest o, 3, fun j => signF (A j)),
            (.vsel t u f rest o, 3, fun j => if v.sel.getLsbD j then A j else B j),
            (.iadd t u f rest o, 3, fun j => A j + B j),
            (.isub t u f rest o, 3, fun j => A j - B j),
            (.imul t u f rest o, 3, fun j => A j * B j),
            (.iand t u f rest o, 3, fun j => A j &&& B j),
            (.ior t u f rest o, 3, fun j => A j ||| B j),
            (.ixor t u f rest o, 3, fun j => A j ^^^ B j),
            (.ishl t u f rest o, 3, fun j => A j <<< sh j),
            (.ishr t u f rest o, 3, fun j => A j >>> sh j),
            (.isra t u f rest o, 3, fun j => (A j).sshiftRight (sh j)),
            (.imax t u f rest o, 3, fun j => if (if bit fn 3 then (A j).ult (B j) else (A j).slt (B j)) then B j else A j),
            (.imin t u f rest o, 3, fun j => if (if bit fn 3 then (B j).ult (A j) else (B j).slt (A j)) then B j else A j),
            (.vcvt t u f rest o, 3, fun j => cvtLane fn (A j) (B j)),
            (.exp2 t u f rest o, 8, fun j => exp2F (A j)),
            (.log2 t u f rest o, 8, fun j => log2F (A j)),
            (.rcp t u f rest o, 8, fun j => rcpF (A j)),
            (.rsq t u f rest o, 8, fun j => rsqF (A j)),
            (.tanh t u f rest o, 8, fun j => tanhF (A j)),
            (.vrand t u f rest o, 8, fun j => BitVec.ofNat 32 (philox (A 0).toNat (A 1).toNat
                (((A 2).toNat + j) % 2 ^ 32) (A 3).toNat 0 0).1)] : List (Instr × Nat × (Nat → W32))),
      ∀ (w : Word256) (b : Bundle) (p : SlotPlan), bundleOf x.1 = some (t, w, o) → s.dev.Issues t w o b p → obsLane o u = none →
        Completes x.1 s fun e => ∃ y, a.Delivers e t x.2.1 (.v f.d.toNat y v.msk) ∧ ∀ j < 64, lane y j = x.2.2 j

/-- The comparisons and predicate operations (R123, R207, R208): each delivers to its predicate register after 3 issues the bit
the manual gives every lane; comparisons write under their mask, the others whole. -/
def Obligations.VectorPredicatesDeliver : Prop :=
  ∀ (t : TileId) (u : VUnit) (f : VecF) (rest : Word256) (o : Obs) (s : State),
    let a := s.dev.atBundle t o
    let v := a.vsrc t f
    let full := BitVec.allOnes 64
    ∀ x ∈ ([(.fcmp t u f rest o, v.msk, fun j => cmpLane 0x1D f.fn.toNat (lane v.a j) (lane v.b j)),
            (.icmp t u f rest o, v.msk, fun j => cmpLane 0x1E f.fn.toNat (lane v.a j) (lane v.b j)),
            (.pand t u f rest o, full, fun j => v.pa.getLsbD j && v.pb.getLsbD j),
            (.por t u f rest o, full, fun j => v.pa.getLsbD j || v.pb.getLsbD j),
            (.pxor t u f rest o, full, fun j => v.pa.getLsbD j != v.pb.getLsbD j),
            (.pnot t u f rest o, full, fun j => !v.pa.getLsbD j),
            (.v2p t u f rest o, full, fun j => (lane v.a (j / 32)).getLsbD (j % 32))] : List (Instr × BitVec 64 × (Nat → Bool))),
      ∀ (w : Word256) (b : Bundle) (p : SlotPlan), bundleOf x.1 = some (t, w, o) → s.dev.Issues t w o b p → obsLane o u = none →
        Completes x.1 s fun e => ∃ y, a.Delivers e t 3 (.p f.d.toNat y x.2.1) ∧ ∀ j < 64, y.getLsbD j = x.2.2 j

/-- The operations across lanes (R125, R126, R130 to R132, R207): reductions by a tree of six levels over the lanes the mask
selects, permutation, rotation, broadcast, a predicate into lanes 0 and 1, a stage of a bitonic sort, and the top-k merge. -/
def Obligations.VectorCrossLaneDeliver : Prop :=
  ∀ (t : TileId) (u : VUnit) (f : VecF) (rest : Word256) (o : Obs) (s : State),
    let a := s.dev.atBundle t o
    let v := a.vsrc t f
    let fn := f.fn.toNat
    let full := BitVec.allOnes 64
    let masked (z : W32) : List W32 := (List.range 64).map fun j => if v.msk.getLsbD j then lane v.a j else z
    (∀ x ∈ ([(.vredsum t u f rest o, 6, fun _ => reduce64 addF (masked 0)),
             (.vredmax t u f rest o, 6, fun _ => reduce64 maxF (masked 0xFF800000#32)),
             (.vredmin t u f rest o, 6, fun _ => reduce64 minF (masked 0x7F800000#32)),
             (.vredor t u f rest o, 6, fun _ => reduce64 (· ||| ·) (masked 0)),
             (.vredand t u f rest o, 6, fun _ => reduce64 (· &&& ·) (masked 0xFFFFFFFF#32)),
             (.vperm t u f rest o, 3, fun j => lane v.a ((lane v.b j).toNat % 64)),
             (.vrot t u f rest o, 3, fun j => lane v.a ((j + fn) % 64)),
             (.vbcast t u f rest o, 3, fun _ => lane v.a fn),
             (.p2v t u f rest o, 3, fun j => if j = 0 then v.pa.truncate 32 else if j = 1 then (v.pa >>> 32).truncate 32 else 0)] :
             List (Instr × Nat × (Nat → W32))),
      ∀ (w : Word256) (b : Bundle) (p : SlotPlan), bundleOf x.1 = some (t, w, o) → s.dev.Issues t w o b p → obsLane o u = none →
        Completes x.1 s fun e => ∃ y, a.Delivers e t x.2.1 (.v f.d.toNat y full) ∧ ∀ j < 64, lane y j = x.2.2 j)
    ∧ (∀ (w : Word256) (b : Bundle) (p : SlotPlan), bundleOf (.bstep t u f rest o) = some (t, w, o) → s.dev.Issues t w o b p →
        obsLane o u = none →
        Completes (.bstep t u f rest o) s fun e =>
          a.Delivers e t 6 (.v f.d.toNat (bitonic (2 ^ (fn % 8)) (2 ^ (fn / 8)) v).1 full)
          ∧ a.Delivers e t 6 (.v (f.d.toNat + 1) (bitonic (2 ^ (fn % 8)) (2 ^ (fn / 8)) v).2 full))
    ∧ (∀ (w : Word256) (b : Bundle) (p : SlotPlan), bundleOf (.topk t u f rest o) = some (t, w, o) → s.dev.Issues t w o b p →
        obsLane o u = none →
        Completes (.topk t u f rest o) s fun e =>
          a.Delivers e t 10 (.v f.d.toNat (topk (fn + 1) v).1 full)
          ∧ a.Delivers e t 10 (.v (f.d.toNat + 1) (topk (fn + 1) v).2 full))

/-- NOP leaves the registers; VIMM delivers its immediate to every lane; VLD and VST start a bank access of the 8 words their generator names, a store with
the lanes its mask selects; VAGLD starts the read of a descriptor (R154, R155, R191, R194, R207, R208). -/
def Obligations.VectorMemoryStarts : Prop :=
  ∀ (t : TileId) (u : VUnit) (rest : Word256) (o : Obs) (s : State) (w : Word256) (b : Bundle) (p : SlotPlan),
    let a := s.dev.atBundle t o
    let r := (a.tile t).regs
    let issues (i : Instr) : Prop := bundleOf i = some (t, w, o) ∧ s.dev.Issues t w o b p
    let mask (m : BitVec 1) (q : BitVec 4) : BitVec 64 := if m = 1 then r.rp q.toNat else BitVec.allOnes 64
    (issues (.vnop t u rest o) →
      Completes (.vnop t u rest o) s fun e => (∀ n, (e.tile t).regs.rv n = r.rv n) ∧ ∀ n, (e.tile t).regs.rp n = r.rp n)
    ∧ (∀ (d : BitVec 6) (v : BitVec 32), issues (.vimm t u d v rest o) → obsLane o u = none →
      Completes (.vimm t u d v rest o) s fun e =>
        ∃ y, a.Delivers e t 3 (.v d.toNat y (BitVec.allOnes 64)) ∧ ∀ j < 64, lane y j = v)
    ∧ (∀ (d : BitVec 6) (g : BitVec 3) (m : BitVec 1) (q : BitVec 4), issues (.vld t u d g m q rest o) →
      Completes (.vld t u d g m q rest o) s fun e => ∃ x z y, a.agAccess t g.toNat 8 false = .ok x ∧ z ∈ (e.tile t).bankq
        ∧ z.parts = [y] ∧ y.words = x.words ∧ y.win = x.win ∧ y.take = a.agTakes t g.toNat ∧ z.wr = false ∧ z.delay = 1
        ∧ z.kind = .load d.toNat (mask m q) (a.issueNo t + 8))
    ∧ (∀ (d : BitVec 6) (g : BitVec 3) (m : BitVec 1) (q : BitVec 4), issues (.vst t u d g m q rest o) →
      Completes (.vst t u d g m q rest o) s fun e => ∃ x z y, a.agAccess t g.toNat 8 true = .ok x ∧ z ∈ (e.tile t).bankq
        ∧ z.parts = [y] ∧ y.words = x.words ∧ y.win = x.win ∧ z.wr = true ∧ z.delay = 1 ∧ z.kind = .store
        ∧ y.data = (List.range 8).map fun i => ((r.rv d.toNat).extractLsb' (256 * i) 256, (mask m q).extractLsb' (8 * i) 8))
    ∧ (∀ (g : BitVec 3) (k : BitVec 17), issues (.vagld t u g k rest o) →
      Completes (.vagld t u g k rest o) s fun e => ∃ x z y, a.privAccess t (a.tile t).slot k.toNat 1 = .ok x ∧ z ∈ (e.tile t).bankq
        ∧ z.parts = [y] ∧ y.words = x.words ∧ y.take = false ∧ z.wr = false ∧ z.kind = .agload g.toNat (a.issueNo t + 8))

/-- The cube engine's operations at issue (R86, R87, R89, R95 to R97, R100, R104, R154, R201 to R204): NOP starts nothing; CFMT sets the formats; CZERO
clears a set; CMAC adds its elements to a set's count and CMUL begins the set anew, each reading its operands in the next beat;
CDRAIN stores the 16 rows in 8 beats. -/
def Obligations.CubeOperationsStart : Prop :=
  ∀ (t : TileId) (rest : Word256) (o : Obs) (s : State) (w : Word256) (b : Bundle) (p : SlotPlan),
    let a := s.dev.atBundle t o
    let r := (a.tile t).regs
    let issues (i : Instr) : Prop := bundleOf i = some (t, w, o) ∧ s.dev.Issues t w o b p
    (issues (.cnop t rest o) →
      Completes (.cnop t rest o) s fun e => let x := (e.tile t).regs
        x.fa = r.fa ∧ x.fb = r.fb ∧ x.saga = r.saga ∧ x.sagb = r.sagb ∧ ∀ n, x.rAcc n = r.rAcc n)
    ∧ (∀ (fa fb : BitVec 4) (sa sb : BitVec 3), issues (.cfmt t fa fb sa sb rest o) →
      Completes (.cfmt t fa fb sa sb rest o) s fun e => let x := (e.tile t).regs
        x.fa = fa.toNat ∧ x.fb = fb.toNat ∧ x.saga = sa.toNat ∧ x.sagb = sb.toNat ∧ ∀ n, x.rAcc n = r.rAcc n)
    ∧ (∀ n : BitVec 3, issues (.czero t n rest o) →
      Completes (.czero t n rest o) s fun e => (e.tile t).regs.rAcc n.toNat = a.freshSet t n.toNat ∧ a.Delivers e t 12 (.acc n.toNat 0)
        ∧ ∀ k, k ≠ n.toNat → (e.tile t).regs.rAcc k = r.rAcc k)
    ∧ (∀ n ga gb : BitVec 3, issues (.cmac t n ga gb rest o) →
      Completes (.cmac t n ga gb rest o) s fun e =>
        ((e.tile t).regs.rAcc n.toNat).count = (r.rAcc n.toNat).count + kPerStep r.fa r.fb
        ∧ ((e.tile t).regs.rAcc n.toNat).vals = (r.rAcc n.toNat).vals
        ∧ (∃ x y z, a.agAccess t ga.toNat (aWords r.fa r.fb) false = .ok x ∧ a.agAccess t gb.toNat (bWords r.fa r.fb) false = .ok y
            ∧ z ∈ (e.tile t).bankq ∧ z.delay = 1 ∧ z.wr = false
            ∧ (∃ q ∈ z.parts, q.words = x.words ∧ q.win = x.win ∧ q.take = a.agTakes t ga.toNat)
            ∧ (∃ q ∈ z.parts, q.words = y.words ∧ q.win = y.win ∧ q.take = a.agTakes t gb.toNat)
            ∧ ∃ opens closes, z.kind = .cube n.toNat r.fa r.fb (kPerStep r.fa r.fb) opens closes (a.issueNo t + 12)))
    ∧ (∀ n ga gb : BitVec 3, issues (.cmul t n ga gb rest o) →
      Completes (.cmul t n ga gb rest o) s fun e =>
        ((e.tile t).regs.rAcc n.toNat).count = kPerStep r.fa r.fb ∧ ((e.tile t).regs.rAcc n.toNat).vals = 0
        ∧ (∃ z ∈ (e.tile t).bankq, ∃ opens closes,
            z.kind = .cube n.toNat r.fa r.fb (kPerStep r.fa r.fb) opens closes (a.issueNo t + 12)))
    ∧ (∀ (n : BitVec 3) (f : BitVec 4) (gd gs : BitVec 3) (vr : BitVec 6) (cve : BitVec 1) (cv : BitVec 3) (cvs : BitVec 1),
      issues (.cdrain t n f gd gs 0 vr cve cv cvs rest o) → o.cube = [] →
      Completes (.cdrain t n f gd gs 0 vr cve cv cvs rest o) s fun e => ∃ x, a.agAccess t gd.toNat (16 * rowWords f.toNat) true = .ok x
        ∧ ∀ k < 8, ∃ z ∈ (e.tile t).bankq, z.delay = k + 1 ∧ z.wr = true
          ∧ (∃ q ∈ z.parts, q.words = (List.range (2 * rowWords f.toNat)).map (fun i => x.first + 2 * rowWords f.toNat * k + i)
            ∧ q.data = (rowToWords f.toNat (drainRow (smGet zeroAcc r.accOut n.toNat) f.toNat (2 * k) none).1
              ++ rowToWords f.toNat (drainRow (smGet zeroAcc r.accOut n.toNat) f.toNat (2 * k + 1) none).1).map fun v => (v, 0xFF))
          ∧ ∃ inp want sc, z.kind = .drain k f.toNat inp want sc (if cve = 1 then some cv.toNat else none))

/-- The movement operations at issue (R163, R169, R199, R210 to R217): NOP starts nothing; SEND queues its words as flits of 8 for the handle's window;
RECV arms the lowest free forwarding entry; GET and PUT open a transfer of their blocks; TAGSET and TAGCLR reach a slot's tags. -/
def Obligations.MoveOperationsStart : Prop :=
  ∀ (t : TileId) (rest : Word256) (o : Obs) (s : State) (w : Word256) (b : Bundle) (p : SlotPlan),
    let a := s.dev.atBundle t o
    let x := a.tile t
    let issues (i : Instr) : Prop := bundleOf i = some (t, w, o) ∧ s.dev.Issues t w o b p
    (issues (.mnop t rest o) →
      Completes (.mnop t rest o) s fun e => (e.tile t).fwd = x.fwd ∧ (e.tile t).xfers = x.xfers ∧ (e.tile t).nextId = x.nextId)
    ∧ (∀ (h : BitVec 6) (g : BitVec 3) (l : BitVec 12) (q : BitVec 2) (v : BitVec 1) (lv : BitVec 4) (st : BitVec 17),
      issues (.send t h g l q v lv st rest o) →
      Completes (.send t h g l q v lv st rest o) s fun e => ∃ y, a.agAccess t g.toNat (l.toNat + 1) false = .ok y
        ∧ ∀ k < (l.toNat + 8) / 8, ∃ z ∈ (e.tile t).mvq, (∃ q, z.parts = [q] ∧ q.words = (y.words.drop (8 * k)).take 8 ∧ q.win = y.win
            ∧ q.take = a.agTakes t g.toNat)
          ∧ ∃ m, z.kind = .flit m ∧ m.dst = a.hdlTile t h.toNat ∧ m.win = a.hdlWin t h.toNat ∧ m.k = k
          ∧ m.off = a.hdlOff t h.toNat + strideOff x.regs lv.toNat st.toNat + 8 * k ∧ m.vc = (if v = 0 then 0 else 3))
    ∧ (∀ (i j : BitVec 2) (n : BitVec 6), issues (.recv t i j n rest o) →
      Completes (.recv t i j n rest o) s fun e =>
        (e.tile t).fwd = x.fwd ++ [⟨freeEntry x.fwd, i.toNat, j.toNat, n.toNat + 1, [], a.now t⟩] ∧ x.fwd.length < 8)
    ∧ (∀ (f : XferF) (g : Bool), issues (if g then .get t f rest o else .put t f rest o) →
      Completes (if g then .get t f rest o else .put t f rest o) s fun e => ∃ z, (e.tile t).xfers = x.xfers ++ [z]
        ∧ z.id = x.nextId ∧ z.isGet = g ∧ z.nb = f.nb1.toNat + 1 ∧ z.ent = f.ent.toNat ∧ z.off = f.off.toNat
        ∧ z.win = a.hdlWin t f.hdl.toNat ∧ z.slot = x.slot ∧ z.vpn = none ∧ z.moved = 0 ∧ (e.tile t).nextId = x.nextId + 1)
    ∧ (∀ (m : SlotArg) (g : Bool), issues (if g then .tagset t m rest o else .tagclr t m rest o) →
      Completes (if g then .tagset t m rest o else .tagclr t m rest o) s fun e => ∃ k ws, a.slotWords t m = .ok (k, ws)
        ∧ ∃ z ∈ (e.tile t).bankq, z.tagFoot = ws ∧ z.kind = if g then .tagSet else .tagClr)

/-! ## The operations, moves and events of tiles and network -/

/-- The events of a tile: results become readable (R49 to R53), a switch ends with the outgoing context saved and the incoming one
ready to issue, or a launch's registers cleared (R72, R75), and a watchdog ends a wait or a held landing with TAG_DEADLOCK (R173 to
R175). -/
def Obligations.TileEventsAct : Prop :=
  ∀ (t : TileId) (s : State),
    let d := s.dev
    let x := d.tile t
    (Completes (.resultReadable t) s fun e => let y := e.tile t
      y.regs = (x.inflight.filter fun i => i.due ≤ d.issueNo t).foldl (fun r i => deliverReg r i.what) x.regs
      ∧ (∀ i, i ∈ y.inflight ↔ i ∈ x.inflight ∧ (i.acts = true ∨ d.issueNo t < i.due))
      ∧ RegsBut [] d e ∧ SameBytes d e ∧ ∀ u, u ≠ t.val → e.tile u = d.tile u)
    ∧ (∀ n i : Nat, x.mode = .switch n (.entry i) → x.bankq = [] → x.inflight = [] → d.slotRuns t (listSlot x.list i) = true →
      Completes (.contextSwitchEnd t) s fun e => let y := e.tile t
        y.mode = .running ∧ y.entry = i ∧ y.slot = listSlot x.list i
        ∧ y.saved = smSet noSaved x.saved x.slot (some (discardOpen x.regs))
        ∧ y.regs = (smGet noSaved y.saved y.slot).getD {}
        ∧ e.trd t Reg.BEAT = d.trd t Reg.BEAT + w64 n ∧ e.trd t Reg.WAIT_FRAME = d.trd t Reg.WAIT_FRAME + w64 n)
    ∧ (∀ (n : Nat) (l : TileLaunch), x.mode = .switch n (.launch l) → x.bankq = [] → x.inflight = [] → x.remapPend = [] →
      Completes (.contextSwitchEnd t) s fun e => let y := e.tile t
        y.mode = .running ∧ y.slot = l.slot ∧ y.cur = some l ∧ y.regs = {} ∧ y.fwd = [] ∧ e.slotState t l.slot = 2)
    ∧ (∀ (f : Flit) (o : Obs) (home : Nat), d.flits.find? (d.overdue t) = some f → f.cargo = .send → d.logOf f.src = some home →
      Completes (.tagWatchdogExpiry t true o) s fun e =>
        (∃ g, e.flits = d.flits.filter (fun g => !(g.cargo == .send && g.src == f.src && g.tid == f.tid)) ++ [g]
          ∧ g.Refuses f FC.TAG_DEADLOCK home)
        ∧ e.trd t Reg.SP_WINREFUSE = d.trd t Reg.SP_WINREFUSE + 1)
    ∧ (∀ (o : Obs) (n : Nat) (b : Bundle) (p : SlotPlan), x.mode = .running → x.waited = n + 1 →
      let k := d.wdog t - (n + 1)
      let c := ((d.tadd t Reg.BEAT k).tadd t (if d.trf t Reg.SEQ 31 29 == 3 then Reg.WAIT_BAR else Reg.WAIT_TAG) k).upd t
        fun x => { x with waited := x.waited + k, ahead := x.ahead + k }
      let a := c.atBundle t o
      let w := a.fetch t
      -- the beat as it is made when the bundle is held
      let h := (c.atBeat t).bankBeat t o .wait
      c.Reaches t w o b → (b.ctrl == .fsync && a.isCad t (a.tile t).slot) = false → a.planBundle t w b o = .ok p →
      (p.ready && a.slotReady t b) = false ∨ a.barOpen t b = false → (a.tile t).waited ≥ a.wdog t →
      h.1 = false → (h.2.tile t).raise = none → (h.2.tile t).mode = .running →
      h.2.slotState t (h.2.tile t).slot = 2 →
      Completes (.tagWatchdogExpiry t false o) s fun e =>
        e.slotState t (h.2.tile t).slot = 6 ∧ e.trf t (Reg.CTXSTATE (h.2.tile t).slot) 47 40 = FC.TAG_DEADLOCK)

/-- A flit at its destination tile, checked as it crossed its link (R230): a SEND's lands in the beat that its rank and the banks
allow, stays while its words are full or a switch is under way, or is refused (R152, R168, R171, R173, R227). -/
def Obligations.FlitsLandWaitOrBounce : Prop :=
  ∀ (t : TileId) (inp vc : Fin 4) (errs : FlitErrs) (me home : Nat) (f g : Flit) (s : State),
    let d := s.dev.crossed t inp vc errs
    let first := d.winBase t f.win + f.off
    let isFull (k : Nat) : Bool := (d.tile t).full (first + k)
    let granted := d.grantLand t (d.landers me (d.now t + 1) (if vc = 1 then [1] else [0, 3]))
      (if vc = 1 then 1 else 2 - (d.tile t).netCount) (if vc = 1 then d.banksBefore t else (d.tile t).netBanks)
    d.logOf t = some me → d.headFlit me inp vc = some f → f.dst = me → f.beat ≤ d.now t → f.cargo = .send →
    (d.landOk t f = false → d.logOf f.src = some home →
      Completes (.landing t inp vc errs) s fun e =>
        (∃ r, e.flits = d.flits.filter (fun g => !g.same f) ++ [r] ∧ r.Refuses f FC.WINDOW home)
        ∧ e.trd t Reg.SP_WINREFUSE = d.trd t Reg.SP_WINREFUSE + 1 ∧ SameBytes d e)
    ∧ (d.landOk t f = true → f.landed = [] → (∀ k < f.data.length, isFull k = false) →
        granted.1.find? (·.same f) = some g → g = { f with now := (List.range f.data.length).map (first + ·) } →
      Completes (.landing t inp vc errs) s fun e =>
        e.flits = d.flits.filter (fun g => !g.same f)
        ∧ (∀ (k : Nat) (h : k < f.data.length), e.spRd t (first + k) = f.data[k].1
          ∧ (e.tile t).full (first + k) = true ∧ (e.tile t).poisoned (first + k) = f.data[k].2)
        ∧ (∀ a, a < spAddr t first ∨ spAddr t (first + f.data.length) ≤ a → e.rdByte a = d.rdByte a)
        ∧ RegsBut [] d e)
    ∧ (d.landOk t f = true → d.landHeld t f = true → (∀ g ∈ d.flits, g.same f = true → g = f) →
      Completes (.landing t inp vc errs) s fun e => e.flits = d.flits ∧ OnlyRegs [] d e)
    ∧ (d.landOk t f = true → f.landed = [] → f.shadowed = false → d.winTagged t f.win = false → (∃ k < f.data.length, isFull k = true) →
        granted.1.find? (·.same f) = some g → g = { f with now := (List.range f.data.length).map (first + ·) } →
      Completes (.landing t inp vc errs) s fun e =>
        e.flits = d.flits.filter (fun g => !g.same f) ∧ e.trd t Reg.SP_SHADOW = d.trd t Reg.SP_SHADOW + 1
        ∧ ∀ k < f.data.length, (e.tile t).full (first + k) = true)

/-- A SEND for another tile passes over the link its armed entry names when that is its turn, stays without an entry, or is refused at
a cut link (R213, R219 to R223, R226, R233); what the correction of its crossing finds is counted, reported and passed on as poison
(R230, R343); a corrected word is stored (R157); a line whose participants have all arrived is released to each at its own beat (R241);
a refusal faults its sender (R168); a limiter window sets the ceilings of the next (R243). -/
def Obligations.NetworkEventsAct : Prop :=
  ∀ (t : TileId) (s : State),
    let d := s.dev
    (∀ (inp vc : Fin 4) (errs : FlitErrs) (me : Nat) (f : Flit), d.logOf t = some me → d.headFlit me inp vc = some f → f.seen = false →
      let c := d.crossed t inp vc errs
      let told (cls : Nat) (loc : W64) : Prop := ∃ e ∈ c.events, e.cls = cls ∧ e.kind = 0 ∧ e.idx = t.val ∧ e.loc = loc
      let counted (e : Dev) : Prop := e.trd t Reg.RT_CORR = d.trd t Reg.RT_CORR + w64 errs.corr.length
        ∧ e.trd t Reg.RT_DOUBLE = d.trd t Reg.RT_DOUBLE + w64 (b2n errs.double)
      Completes (.landing t inp vc errs) s counted ∧ Completes (.flitArrival t inp vc errs) s counted
      ∧ (∀ w ∈ errs.corr, told 2 (w64 (inp + 4 * w.val))) ∧ (errs.double = true → told 3 (w64 inp))
      ∧ (∀ e ∈ d.events, e ∈ c.events) ∧ c.events.length = d.events.length + errs.corr.length + b2n errs.double
      ∧ (∀ g, c.headFlit me inp vc = some g → g.data.map (·.1) = f.data.map (·.1)
          ∧ g.data.map (·.2) = f.data.map (fun x => x.2 || errs.double)))
    ∧ (∀ (inp vc : Fin 4) (errs : FlitErrs) (me : Nat) (f : Flit),
      let d := s.dev.crossed t inp vc errs
      let n := d.now t
      d.logOf t = some me → d.headFlit me inp vc = some f → f.dst ≠ me → f.beat ≤ n → f.cargo = .send →
      ((d.tile t).entryFor f n = none →
        Completes (.flitArrival t inp vc errs) s fun e => e.flits = d.flits ∧ OnlyRegs [] d e)
      ∧ (∀ w, (d.tile t).entryFor f n = some w →
        (∀ home, d.hop me w.outp = none → d.logOf f.src = some home →
          Completes (.flitArrival t inp vc errs) s fun e =>
            ∃ r, e.flits = d.flits.filter (fun g => !g.same f) ++ [r] ∧ r.Refuses f FC.ROUTE home)
        ∧ (∀ nx h, d.hop me w.outp = some nx → neighbour me w.outp = some (nx, h) → d.nextFlit t me w.outp n = some f →
          Completes (.flitArrival t inp vc errs) s fun e =>
            e.flits = d.flits.filter (fun g => !g.same f)
              ++ [{ f with at' := nx, inp := oppPort w.outp, beat := n + h, held := 0, seen := false }]
            ∧ (e.link (4 * me + w.outp)).free = n + slotLen me w.outp
            ∧ (e.tile t).fwd = ((d.tile t).useEntry f n).fwd)))
    ∧ (∀ (f : Flit) (code : Nat), d.flits.find? (d.refusalAt t) = some f → f.cargo = .refusal code → d.ctxOf t f.slot = f.ctx → ¬ ((d.tile t).slot = f.slot ∧ (d.tile t).mode = .running) → d.slotState t f.slot ≠ 6 →
        d.slotState t f.slot ≠ 0 → code < 256 →
      Completes (.windowRefusalArrival t) s fun e =>
        e.flits = d.flits.filter (fun g => !g.same f) ∧ e.slotState t f.slot = 6 ∧ e.trf t (Reg.CTXSTATE f.slot) 47 40 = code)
    ∧ (∀ w : Fin 131072, Completes (.correctedWordWriteback t w) s fun e =>
        smGet noTag (e.tile t).corrPend w.val = false ∧ (e.tile t).tags = (d.tile t).tags ∧ SameBytes d e ∧ RegsBut [] d e)
    ∧ (∀ (c : CtxId) (n : Fin 16) (b : BarLine), d.barOf c.val n.val = some b → b.rel = [] →
        (∀ p ∈ b.parts, ∃ a ∈ b.arrived, a.1 = p) →
      let q := b.arrived.foldl (fun m a => max m (a.2 + tileDist b.root a.1)) 0
      Completes (.barrierRelease c n) s fun e =>
        e.barOf c.val n.val = some { b with arrived := [], rel := b.parts.map fun p => (p, q + tileDist b.root p) } ∧ RegsBut [] d e)
    ∧ (∀ f : FieldId, Completes (.limiterWindowEnd f) s fun e =>
        e.rf (Reg.AVL f) 38 32 = min (d.clampK f) (d.rf (Reg.AVL f) 22 16 + 12)
        ∧ e.rf (Reg.AVL f) 30 24 = min (d.clampK f) (d.rf (Reg.AVL f) 14 8 + 12)
        ∧ e.rf (Reg.AVL f) 22 16 = 0 ∧ e.rf (Reg.AVL f) 14 8 = 0 ∧ OnlyRegs [Reg.AVL f] d e)

/-! ## Time base and links -/

/-- The time base (R254, R256, R443): silence makes a follower hold over or take over as master, holdover runs out, and a master sends
its SYNC and every candidate its announcement on each link of the scheduled set. -/
def Obligations.TimeBaseKeepsTime : Prop :=
  ∀ s : State,
    let d := s.dev
    let m := d.rf Reg.TB_STATUS 48 32
    (d.tbState = 1 → d.selfCand = none →
      Completes .timeMasterSilence s fun e => e.tbState = 2 ∧ e.rf Reg.TB_STATUS 48 32 = m ∧ e.parent = none)
    ∧ (∀ me, d.tbState = 1 ∨ d.tbState = 2 → d.selfCand = some me →
        (∀ c ∈ d.cands, some c.id ≠ d.silentCand → c.refOk = true → c.prio > 0 → outranks (c.prio, c.id) me = false) →
      Completes .timeMasterSilence s fun e => e.tbState = 3 ∧ e.rf Reg.TB_STATUS 48 32 = d.myId ∧ e.parent = none)
    ∧ (d.tbState = 3 → Completes .timeMasterSilence s fun e => OnlyRegs [] d e)
    ∧ (d.tbState = 2 → Completes .holdoverExpiry s fun e => e.tbState = 0 ∧ e.rf Reg.TB_STATUS 48 32 = 0)
    ∧ (d.tbState ≠ 2 → Completes .holdoverExpiry s fun e => OnlyRegs [] d e)
    ∧ (∀ ns : BitVec 64, d.tbState = 3 →
      Completes (.syncSend ns) s fun e => e.rd Reg.TB_TIME = ns ∧ RegsBut [Reg.TB_TIME] d e
        ∧ ∀ k ∈ d.schedLinks, d.canSend k 0 = true →
          d.Sends e k (d.msgOf k 2 (syncBytes ns.toNat 0 d.myId (d.rf Reg.TB_CTL 3 0) 0 (d.rb Reg.TB_STATUS 2))))
    ∧ (∀ ns : BitVec 64, d.tbState ≠ 3 → Completes (.syncSend ns) s fun e => OnlyRegs [] d e)
    ∧ (d.rf Reg.TB_CTL 3 0 ≠ 0 → d.rb Reg.TB_CTL 8 = true → d.idLocked = true →
      Completes .announceSend s fun e => ∀ k ∈ d.schedLinks, d.canSend k 0 = true →
        d.Sends e k (d.msgOf k 5 (announceBytes d.myId (d.rf Reg.TB_CTL 3 0) (d.rb Reg.TB_STATUS 2))))
    ∧ (∀ (k : LinkId) (t1 : BitVec 64), d.scheduled k = true →
      Completes (.delayMeasurement k t1) s fun e => (e.lnk k).t1 = some t1 ∧ RegsBut [] d e
        ∧ (d.canSend k 0 = true → d.Sends e k (d.msgOf k 3 (toBytes 8 t1.toNat))))

/-- Time messages that arrive (R443 to R445): a SYNC on the parent link sets the group time corrected for residence and delay and
makes the device a follower; DREQ is answered; DRESP sets the link's delay; an announcement is kept as a candidate. -/
def Obligations.TimeMessagesAct : Prop :=
  ∀ (k : LinkId) (h : CellHdr) (s : State),
    let d := s.dev
    let a := d.atCell k h 0
    (∀ (ns corr : BitVec 64) (master : BitVec 17) (prio : BitVec 4) (hops : BitVec 8) (ok : Bool) (res : BitVec 32),
      let b := a.updLnk k fun x => { x with hops := some hops.toNat }
      d.CellTaken k h 2 0 → d.idLocked = true →
      (∀ x ∈ b.others ++ b.selfCand.toList, outranks x (prio.toNat, master.toNat) = false) →
      (b.parent = some k.val ∨ (b.parent = none ∧ b.bestParent = some k.val)) →
      Completes (.sync k h ns corr master prio hops ok res) s fun e =>
        e.tbState = 1 ∧ e.rf Reg.TB_STATUS 48 32 = master.toNat ∧ e.rf Reg.TB_STATUS 31 24 = (hops.toNat + 1) % 256
        ∧ e.rd Reg.TB_TIME = w64 ((ns.toNat : Int) + (sgn 64 corr.toNat + d.delayUnits k).fdiv 65536).toNat)
    ∧ (∀ t1 t2 t3 : BitVec 64, d.CellTaken k h 3 0 →
      Completes (.dreq k h t1 t2 t3) s fun e => (e.lnk k).rxNext = (h.seq.toNat + 1) % 4096
        ∧ (a.canSend k 0 = true → a.Sends e k (a.msgOf k 4 (toBytes 8 t1.toNat ++ toBytes 8 t2.toNat ++ toBytes 8 t3.toNat))))
    ∧ (∀ t1 t2 t3 t4 : BitVec 64, d.CellTaken k h 4 0 → (d.lnk k).t1 = some t1 →
      Completes (.dresp k h t1 t2 t3 t4) s fun e => (e.lnk k).t1 = none
        ∧ e.rf (Reg.L_DELAY k) 31 0 = delayPs t1 t2 t3 t4 (d.rf (Reg.L_CTL k) 15 0) % 2 ^ 32 ∧ RegsBut [Reg.L_DELAY k, Reg.FEC_CORR k] d e)
    ∧ (∀ (id : BitVec 17) (prio : BitVec 4) (ok : Bool), d.CellTaken k h 5 0 → id.toNat ≠ d.myId → (∀ c ∈ d.cands, c.id ≠ id.toNat) →
      Completes (.announce k h id prio ok) s fun e => e.cands = d.cands ++ [⟨id.toNat, prio.toNat, ok, k⟩])

/-- Cells that arrive on a link (R426, R433, R434): one that is damaged is discarded and a NAK requested, one out of order or not
accepted in the link's state changes nothing more than the count of corrected symbols; one in order advances the SEQ expected next and is
acknowledged by an IDLE cell, at once (log entry 47); an IDLE cell brings only its ACK and credits, a reserved type is discarded and counted,
and LANE swaps an active lane. -/
def Obligations.CellsArriveInOrder : Prop :=
  ∀ (k : LinkId) (h : CellHdr) (c : CellData) (m : AuthMsg) (bad new : Fin 17) (cls : BitVec 2) (t1 t2 t3 t4 : BitVec 64)
    (id : BitVec 17) (prio code : BitVec 4) (hops : BitVec 8) (ok : Bool) (ns : BitVec 32) (n : BitVec 48) (members : BitVec 9)
    (bytes : List Byte) (s : State),
    let d := s.dev
    let corrected (e : Dev) : Prop := e.rd (Reg.FEC_CORR k) = d.rd (Reg.FEC_CORR k) + w64 h.symbols.toNat
    (∀ x ∈ ([(.idle k h, 0, 0), (.data k h c, 1, c.cls.toNat), (.dreq k h t1 t2 t3, 3, 0), (.void k h c, 10, c.cls.toNat),
             (.auth k h m, 13, 0), (.lane k h bad new, 14, 0), (.reservedCell k h cls, 15, cls.toNat),
             (.sync k h t1 t2 id prio hops ok ns, 2, 0), (.dresp k h t1 t2 t3 t4, 4, 0), (.announce k h id prio ok, 5, 0),
             (.verdict k h n ok code members ns, 6, 0), (.outcome k h n ok ns, 7, 0), (.oreq k h n, 8, 0), (.oresp k h n cls, 9, 0),
             (.plan k h n t1 bytes, 11, 0), (.figures k h id n t1 t2 t3 t4, 12, 0)] : List (Instr × Nat × Nat)),
      (d.receives k = false ∨ (h.bad = none ∧ d.accepts k x.2.1 x.2.2 = false) →
        Completes x.1 s fun e => corrected e ∧ OnlyRegs [Reg.FEC_CORR k] d e)
      ∧ (∀ fec, d.receives k = true → h.bad = some fec →
        Completes x.1 s fun e => e.out = d.out ++ [.nak k h.seq.toNat] ∧ e.links = d.links
          ∧ e.rd (Reg.FEC_UNCORR k) = d.rd (Reg.FEC_UNCORR k) + (if fec then 1 else 0) ∧ RegsBut [Reg.FEC_UNCORR k, Reg.FEC_CORR k] d e ∧ corrected e)
      ∧ (x.2.1 ≠ 0 → d.accepts k x.2.1 x.2.2 = true → h.bad = none → h.seq.toNat ≠ (d.lnk k).rxNext →
        Completes x.1 s fun e => corrected e ∧ OnlyRegs [Reg.FEC_CORR k] d e))
    ∧ (d.accepts k 0 0 = true → h.bad = none → (d.lnk k).queue = [] →
      Completes (.idle k h) s fun e =>
        (e.lnk k).sent = unacked h.ack.toNat (d.lnk k).sent
        ∧ (e.lnk k).credits = (d.lnk k).credits.set h.crclass.toNat (nth (d.lnk k).credits h.crclass.toNat 0 + h.credits.toNat)
        ∧ (e.lnk k).rxNext = (d.lnk k).rxNext ∧ RegsBut [Reg.FEC_CORR k] d e ∧ SameBytes d e ∧ corrected e)
    ∧ (∀ x ∈ ([(.data k h c, 1, c.cls.toNat), (.dreq k h t1 t2 t3, 3, 0), (.void k h c, 10, c.cls.toNat), (.lane k h bad new, 14, 0),
               (.reservedCell k h cls, 15, cls.toNat)] : List (Instr × Nat × Nat)),
      d.CellTaken k h x.2.1 x.2.2 →
      Completes x.1 s fun e => (e.lnk k).rxNext = (h.seq.toNat + 1) % 4096 ∧ ∃ b, Out.cell k 0 b ∈ e.out)
    ∧ (d.CellTaken k h 15 cls.toNat →
      Completes (.reservedCell k h cls) s fun e => e.rd Reg.DISCARD = d.rd Reg.DISCARD + 1
        ∧ (e.lnk k).rxNext = (h.seq.toNat + 1) % 4096 ∧ RegsBut [Reg.DISCARD, Reg.FEC_CORR k] d e ∧ SameBytes d e)
    ∧ (d.CellTaken k h 14 0 → d.rb (Reg.L_LANES k) bad.val = true → d.rb (Reg.L_LANES k) new.val = false →
      Completes (.lane k h bad new) s fun e => e.rb (Reg.L_LANES k) bad.val = false ∧ e.rb (Reg.L_LANES k) new.val = true
        ∧ RegsBut [Reg.L_LANES k, Reg.FEC_CORR k] d e)

/-- DATA and VOID cells (R438 to R440, R471): a cell for another device is forwarded, at once or after it has waited in a buffer slot (R436, log
entry 106), or discarded and counted; a stream cell that meets the
conditions is written with its side band, any other is dropped and counted; a void marker writes nothing; a cell of a copy is written
through the window it names, or refused. -/
def Obligations.DataCellsAreRoutedOrWritten : Prop :=
  ∀ (k : LinkId) (h : CellHdr) (c : CellData) (s : State),
    let d := s.dev
    let a := d.atCell k h c.cls.toNat
    let dst := d.rd (Reg.ISTR_DST c.stream.toNat)
    let va := regionVpn dst * 65536 + c.block.toNat * 4096 + c.cell.toNat * 256
    (∀ x ∈ ([(.data k h c, 1), (.void k h c, 10)] : List (Instr × Nat)), d.CellTaken k h x.2 c.cls.toNat →
      (c.dst.toNat ≠ d.myId → a.route c.cls.toNat c.dst.toNat c.stream.toNat = none →
        Completes x.1 s fun e => e.rd Reg.DISCARD = d.rd Reg.DISCARD + 1 ∧ RegsBut [Reg.DISCARD, Reg.FEC_CORR k] d e ∧ SameBytes d e)
      ∧ (∀ j, c.dst.toNat ≠ d.myId → a.route c.cls.toNat c.dst.toNat c.stream.toNat = some j → a.canSend j c.cls.toNat = true →
        Completes x.1 s fun e => e.rd Reg.FORWARDED = d.rd Reg.FORWARDED + 1 ∧ RegsBut [Reg.FORWARDED, Reg.FEC_CORR k] d e ∧ SameBytes d e
          ∧ a.Sends e j { typ := x.2, cls := c.cls.toNat, block := c.block.toNat, payload := c.payload
                          w1 := word1 c.prov c.cell.toNat c.stream.toNat c.src.toNat c.dst.toNat c.side.toNat
                          w2 := c.cgroup.toNat * 2 ^ 48 + c.frame.toNat })
      ∧ (∀ j, c.dst.toNat ≠ d.myId → a.route c.cls.toNat c.dst.toNat c.stream.toNat = some j → a.canSend j c.cls.toNat = false →
        Completes x.1 s fun e => e.rd Reg.FORWARDED = d.rd Reg.FORWARDED + 1 ∧ RegsBut [Reg.FORWARDED, Reg.FEC_CORR k] d e ∧ SameBytes d e
          ∧ ∃ q ∈ (e.lnk j).queue, q.slot = some (k.val, a.poolRoom c.cls.toNat) ∧ q.payload = c.payload)
      ∧ (c.dst.toNat = d.myId → c.cls = 0 →
        Completes x.1 s fun e => e.rd Reg.DISCARD = d.rd Reg.DISCARD + 1 ∧ RegsBut [Reg.DISCARD, Reg.FEC_CORR k] d e ∧ SameBytes d e)
      ∧ (c.dst.toNat = d.myId → c.cls = 1 → a.streamAccepts c = false →
        Completes x.1 s fun e => e.rd Reg.DROP = d.rd Reg.DROP + 1 ∧ RegsBut [Reg.DROP, Reg.FEC_CORR k] d e ∧ SameBytes d e))
    ∧ (d.CellTaken k h 10 1 → c.dst.toNat = d.myId → c.cls = 1 → a.streamAccepts c = true →
      Completes (.void k h c) s fun e => RegsBut [Reg.FEC_CORR k] d e ∧ SameBytes d e ∧ e.inBlocks = d.inBlocks)
    ∧ (∀ pa, d.CellTaken k h 1 1 → c.dst.toNat = d.myId → c.cls = 1 → a.streamAccepts c = true →
        a.translate (regionCtx dst) va false = some pa →
      Completes (.data k h c) s fun e => e.rdBytes pa 256 = padTo 256 c.payload
        ∧ (∀ j < 4, e.lineAt (pa + 64 * j) = metaLine c.side.toNat j)
        ∧ (∀ b, b < pa ∨ pa + 256 ≤ b → e.rdByte b = d.rdByte b)
        ∧ (∃ x ∈ e.inBlocks, x.stream = c.stream.toNat ∧ x.block = c.block.toNat ∧ x.frame = c.frame.toNat
          ∧ x.cells.getLsbD c.cell.toNat = true)
        ∧ RegsBut [Reg.INPUT k, Reg.FEC_CORR k] d e)
    ∧ (c.dst.toNat = d.myId → 2 ≤ c.cls.toNat →
      (d.CellTaken k h 10 c.cls.toNat →
        Completes (.void k h c) s fun e => e.rd Reg.DISCARD = d.rd Reg.DISCARD + 1 ∧ RegsBut [Reg.DISCARD, Reg.FEC_CORR k] d e ∧ SameBytes d e)
      ∧ (d.CellTaken k h 1 c.cls.toNat → a.windowAccepts c = false ∨ a.windowAddr c = none →
        Completes (.data k h c) s fun e => .copyRefused k c.stream.toNat ∈ e.out ∧ RegsBut [Reg.FEC_CORR k] d e ∧ SameBytes d e ∧ SameTiles d e)
      ∧ (∀ pa, d.CellTaken k h 1 c.cls.toNat → a.windowAccepts c = true → a.windowAddr c = some pa →
        Completes (.data k h c) s fun e =>
          e.rdBytes pa (64 * c.cgroup.toNat) = (padTo 256 c.payload).take (64 * c.cgroup.toNat)
          ∧ (∀ i < c.cgroup.toNat, (e.lineAt (pa + 64 * i)).poison = bit c.side.toNat (4 * i))
          ∧ (∀ b, b < pa ∨ pa + 64 * c.cgroup.toNat ≤ b → e.rdByte b = d.rdByte b)
          ∧ RegsBut [Reg.CWIN c.stream.toNat, Reg.CWINR c.stream.toNat, Reg.FEC_CORR k] d e
          ∧ (c.block ≠ 0 → RegsBut [Reg.FEC_CORR k] d e ∧ e.cwinBusy.contains c.stream.toNat = true)))

/-- Replay (R434): a NAK or 4 µs without progress sends every unacknowledged cell again, in order; a link that loses a cell 8 times, or
makes no progress for 100 µs, goes down, its replay state is cleared, and an attempt to train it starts at once. -/
def Obligations.ReplayResendsOrDropsTheLink : Prop :=
  ∀ (k : LinkId) (s : State),
    let d := s.dev
    let x := d.lnk k
    (∀ i ∈ [Instr.nak k, .replayResendTimeout k],
      (2 ≤ d.linkState k → d.linkState k ≤ 4 → x.sent ≠ [] → (∀ c ∈ x.sent, c.resent < 7) →
        Completes i s fun e => e.out = d.out ++ x.sent.map (·.out) ∧ (e.lnk k).sent = x.sent.map (fun c => { c with resent := c.resent + 1 })
          ∧ e.rd (Reg.RESENT k) = d.rd (Reg.RESENT k) + w64 x.sent.length ∧ OnlyRegs [Reg.RESENT k] { d with out := e.out, links := e.links } e)
      ∧ (d.linkUp k = true → (∃ c ∈ x.sent, c.resent ≥ 7) →
        Completes i s fun e => e.lnk k = {} ∧ e.linkState k = if d.mayTrain k then 1 else 0))
    ∧ (d.linkUp k = true → x.sent ≠ [] →
      Completes (.linkLossTimeout k) s fun e => e.lnk k = {} ∧ e.linkState k = if d.mayTrain k then 1 else 0)
    ∧ (x.sent = [] → Completes (.linkLossTimeout k) s fun e => OnlyRegs [] d e)

/-- Training and authentication (R39, R425 to R429): an attempt trains at the widest width that the good lanes and the attachment allow and
begins to authenticate, or fails; a verified hello is answered; a verified answer brings the link up, in the scheduled set at full
width; a hello or answer that fails its check, or names this device's own ID, fails the link; a retry is counted; a failed lane is replaced by the spare. -/
def Obligations.LinksTrainAndAuthenticate : Prop :=
  ∀ (k : LinkId) (s : State),
    let d := s.dev
    let tested := findAll 17 fun i => !bit (d.badLanes k) i
    let refused (e : Dev) : Prop := e.linkState k = 5 ∧ e.rb (Reg.L_STATUS k) 56 = true
      ∧ (d.ready readyDevice = true → e.rd Reg.AUTHFAIL = d.rd Reg.AUTHFAIL + 1) ∧ e.lnk k = {}
    (∀ (good : BitVec 17) (m : LinkModules), d.linkState k = 1 → d.mayTrain k = true →
        (findAll 24 fun j => d.linkState j == 2).length < 8 →
      let lanes := tested.filter (bit good.toNat)
      -- the modules of the attachment bound the width (R39)
      let w := widest (min lanes.length (Modules.lanes ⟨m.full, m.half⟩))
      Completes (.linkTrainingAttempt k good m) s fun e =>
        (w ≠ 0 → e.linkState k = 2 ∧ e.rb (Reg.L_STATUS k) 57 = decide (w < widest lanes.length) ∧ e.rf (Reg.L_LANES k) 16 0 = laneMask (lanes.take w) ∧ e.rf (Reg.L_STATUS k) 60 59 = widthCode w
          ∧ (e.lnk k).nonce.isSome = true ∧ (e.lnk k).hello = none)
        ∧ (w = 0 → e.linkState k = 5 ∧ e.lnk k = {}))
    ∧ (∀ (h : CellHdr) (id : BitVec 17) (link : BitVec 5) (pub : BitVec 256) (ser : BitVec 64) (cert : BitVec 512) (nonce n : BitVec 256),
        let a := d.atCell k h 0
        let verified : Bool := (Config.sha512 (toBytes 32 d.ownerPub.toNat)).toNat == d.ownerHash
          && Config.ed25519Verify d.ownerPub (toBytes 32 pub.toNat ++ toBytes 8 ser.toNat) cert
        d.CellTaken k h 13 0 → d.linkState k = 2 → (d.lnk k).nonce = some n → id.toNat ≠ d.myId →
      Completes (.auth k h (.hello id link pub ser cert nonce)) s fun e =>
        (verified = true → (e.lnk k).hello = some ⟨id.toNat, link.toNat, pub, ser, cert, nonce⟩
          ∧ (a.canSend k 0 = true →
            Out.answer k (Config.ed25519Sign d.idSeed (authMsg nonce n d.myId k id.toNat link.toNat)) ∈ e.out))
        ∧ (verified = false → refused e))
    ∧ (∀ (h : CellHdr) (id : BitVec 17) (link : BitVec 5) (pub : BitVec 256) (ser : BitVec 64) (cert : BitVec 512) (nonce : BitVec 256),
        d.CellTaken k h 13 0 → d.linkState k = 2 → id.toNat = d.myId →
      Completes (.auth k h (.hello id link pub ser cert nonce)) s refused)
    ∧ (∀ (h : CellHdr) (p : Hello) (n : BitVec 256) (sig : BitVec 512),
        let verified : Bool := Config.ed25519Verify p.pub (authMsg n p.nonce d.myId k p.id p.link) sig
        d.CellTaken k h 13 0 → d.linkState k = 2 → (d.lnk k).nonce = some n → (d.lnk k).hello = some p → p.id < 2 ^ 17 → p.link < 32 →
      Completes (.auth k h (.answer sig)) s fun e =>
        (verified = true →
          e.linkState k = (if d.rf (Reg.L_STATUS k) 60 59 = 3 ∧ d.rb (Reg.L_CTL k) 61 = false then 4 else 3)
          ∧ e.rf (Reg.L_STATUS k) 49 33 = p.id ∧ e.rf (Reg.L_STATUS k) 32 28 = p.link ∧ e.rf (Reg.L_STATUS k) 15 0 = 0)
        ∧ (verified = false → refused e))
    ∧ (d.linkState k = 5 ∨ d.linkState k = 0 → d.mayTrain k = true →
      Completes (.linkRetry k) s fun e => e.linkState k = 1 ∧ e.rd (Reg.ATTEMPTS k) = d.rd (Reg.ATTEMPTS k) + 1
        ∧ e.rf (Reg.L_STATUS k) 15 0 = min 0xFFFF (d.rf (Reg.L_STATUS k) 15 0 + 1))
    ∧ (∀ lane : Fin 17, d.linkUp k = true → d.rb (Reg.L_LANES k) lane.val = true →
      let spare : Bool := lane != 16 && !d.rb (Reg.L_LANES k) 16 && !bit (d.badLanes k) 16
      (spare = true →
        Completes (.laneFault k lane) s fun e => e.rb (Reg.L_LANES k) lane.val = false ∧ e.rb (Reg.L_LANES k) 16 = true
          ∧ e.rb (Reg.L_LANES k) (17 + lane.val) = true ∧ e.linkState k = d.linkState k ∧ e.rd Reg.STEERED = d.rd Reg.STEERED + 1)
      ∧ (spare = false →
        Completes (.laneFault k lane) s fun e => e.lnk k = {} ∧ e.linkState k = if d.mayTrain k then 1 else 0))

/-- The steward's commands of the links (R426, R427, R430) and their refusal to any other port: ADMIT, HOLD, RETRAIN, ENABLE and the
lock of the device ID. -/
def Obligations.StewardRulesTheLinks : Prop :=
  ∀ (p : Port) (k : LinkId) (v : Bool) (id : BitVec 17) (s : State),
    let d := s.dev
    (d.isSteward p = false →
      ∀ i ∈ [Instr.linkAdmit p k, .linkHold p k v, .linkRetrain p k, .linkEnableWrite p k v, .devidLock p id],
        Completes i s fun e => OnlyRegs [] d e)
    ∧ (d.isSteward p = true → d.linkState k = 3 → d.framesRun = true →
      Completes (.linkAdmit p k) s fun e => (e.lnk k).admitting = true ∧ RegsBut [] d e ∧ SameBytes d e)
    ∧ (d.isSteward p = true → d.linkState k = 3 → d.framesRun = false → d.rb (Reg.L_CTL k) 61 = false → d.streamPend = [] →
      Completes (.linkAdmit p k) s fun e => e.linkState k = 4 ∧ (e.lnk k).admitting = false)
    ∧ (d.isSteward p = true → d.framesRun = true →
      Completes (.linkHold p k v) s fun e => e.rb (Reg.L_CTL k) 61 = v ∧ OnlyRegs [Reg.L_CTL k] d e)
    ∧ (d.isSteward p = true → d.framesRun = false → d.streamPend = [] → d.linkState k = 4 →
      Completes (.linkHold p k true) s fun e => e.rb (Reg.L_CTL k) 61 = true ∧ e.linkState k = 3)
    ∧ (d.isSteward p = true → d.mayTrain k = true → d.linkState k ≠ 6 →
      Completes (.linkRetrain p k) s fun e => e.linkState k = 1 ∧ e.lnk k = {} ∧ e.rd (Reg.ATTEMPTS k) = d.rd (Reg.ATTEMPTS k) + 1)
    ∧ (d.isSteward p = true →
      Completes (.linkEnableWrite p k false) s fun e => e.rb (Reg.L_CTL k) 63 = false ∧ e.linkState k = 6 ∧ e.lnk k = {})
    ∧ (d.isSteward p = true → d.linkState k = 6 →
      Completes (.linkEnableWrite p k true) s fun e => e.rb (Reg.L_CTL k) 63 = true ∧ (e.linkState k = 1 ∨ e.linkState k = 0))
    ∧ (d.isSteward p = true → d.idLocked = false →
      Completes (.devidLock p id) s fun e => e.rd Reg.DEVID = w64 (2 ^ 63 + id.toNat) ∧ OnlyRegs [Reg.DEVID] d e)
    ∧ (d.idLocked = true → Completes (.devidLock p id) s fun e => OnlyRegs [] d e)

/-- A stream register is written by the port that owns the region's context: at once while no frames run, else at the next frame
boundary; another port's write, or one that would enable a stream over a region that is not mapped, does not take effect (R454). -/
def Obligations.StreamRegistersAreOwned : Prop :=
  ∀ (p : Port) (n : Fin 64) (reg : Fin 4) (x : BitVec 64) (s : State),
    let d := s.dev
    let cfgOff := streamReg n (if reg.val < 2 then 0 else 2)
    let dstOff := streamReg n (if reg.val < 2 then 1 else 3)
    let off := streamReg n reg
    let v := x &&& regImpl off
    let region := if off = dstOff then v else d.streamView dstOff
    let cfg := if off = cfgOff then v else d.streamView cfgOff
    let mine := d.ctxPort (regionCtx region) = some p.val
      ∧ (tst (d.streamView cfgOff) 63 = true → d.ctxPort (regionCtx (d.streamView dstOff)) = some p.val)
    (¬ mine → Completes (.streamWrite p n reg x) s fun e => OnlyRegs [] d e)
    ∧ (mine → (tst cfg 63 = true → d.regionOk region = true) → d.framesRun = false →
      Completes (.streamWrite p n reg x) s fun e => e.rd off = v ∧ OnlyRegs [off] d e)
    ∧ (mine → (tst cfg 63 = true → d.regionOk region = true) → d.framesRun = true →
      Completes (.streamWrite p n reg x) s fun e => e.streamPend = d.streamPend ++ [(off, v)] ∧ RegsBut [] d e)
    ∧ (mine → tst cfg 63 = true → d.regionOk region = false →
      Completes (.streamWrite p n reg x) s fun e => e.out = d.out ++ [.status p St.INVALID] ∧ SameBytes d e)

/-! ## Memory -/

/-- Blocks move between a tile and the memory tiers (R215, R217, R228, R237, R238, R309, R314, R315, R321): a block of a GET, checked against
its value and poisoned where the check fails, leaves for the tile as 16 flits of VC1 from the perimeter port where its port block's
traffic comes in; each lands with its words tagged full, and with its last the GET ends; a PUT's line is stored with its kind, value
bit and poison; a page that does not translate faults the context with PAGE. -/
def Obligations.BlocksLandAndAreStored : Prop :=
  ∀ (t : TileId) (n : Fin 16) (x : Xfer) (s : State),
    let d := s.dev
    (d.tile t).xfers[n.val]? = some x → x.vpn.isSome = true →
    (∀ page me h lat l, x.isGet = true → x.pa = some page → x.moved < x.nb → x.cadence = false →
      let a := page + 4096 * (x.off + x.moved)
      let stack := (stackOf a).getD 0
      let whole : Bool := d.blockKind a = 0 ∨ (d.blockKind a ≠ 3 ∧ crc64 (d.rdBytes a 4096) = d.blockCv a)
      d.logOf t = some me → d.homeOf stack = some (h, lat) → d.entryTile h (blockSide stack) me = some l →
      d.stackUp stack = true → (∀ i < 64, (d.lineAt (a + 64 * i)).poison = false) →
      Completes (.getLanding t n []) s fun e =>
        (∀ j < 16, ∃ f ∈ e.flits, f.cargo = .get x.id ∧ f.vc = 1 ∧ f.at' = l ∧ f.dst = me ∧ f.k = 16 * x.moved + j ∧ f.beat = d.now t + lat
          ∧ f.data = (List.range 8).map fun i => (BitVec.ofNat 256 (d.rdNum (a + 32 * (8 * j + i)) 32), !whole))
        ∧ e.rd Reg.CV_UNCHECKED = d.rd Reg.CV_UNCHECKED + (if d.blockKind a = 0 then 1 else 0)
        ∧ e.rd Reg.CV_FAIL = d.rd Reg.CV_FAIL + (if whole then 0 else 1))
    ∧ (∀ (inp : Fin 4) (errs : FlitErrs) (me : Nat) (f g : Flit),
      let d := s.dev.crossed t inp 1 errs
      let first := x.base + 8 * f.k
      d.logOf t = some me → d.headFlit me inp 1 = some f → f.dst = me → f.beat ≤ d.now t → f.cargo = .get x.id → f.landed = [] →
      (d.tile t).xfers.find? (·.id == x.id) = some x →
      (d.grantLand t (d.landers me (d.now t + 1) [1]) 1 (d.banksBefore t)).1.find? (·.same f) = some g →
      g = { f with now := (List.range f.data.length).map (first + ·) } →
      Completes (.landing t inp 1 errs) s fun e =>
        (∀ (k : Nat) (h : k < f.data.length), e.spRd t (first + k) = f.data[k].1
          ∧ (e.tile t).full (first + k) = true ∧ (e.tile t).poisoned (first + k) = f.data[k].2)
        ∧ (x.landed + 1 ≥ 16 * x.nb → ∀ z ∈ (e.tile t).xfers, z.id ≠ x.id))
    ∧ (∀ page y, ((d.putIn t x.id 256).tile t).xfers.find? (·.id == x.id) = some y → y.isGet = false → y.pa = some page →
        y.vpn.isSome = true →
      let block := y.moved / 64
      let i := y.moved % 64
      let a := page + 4096 * (y.off + block)
      let ws := (y.buf.drop (128 * block)).take 128
      let bs := ws.flatMap fun w => toBytes 32 w.1.toNat
      let k := putKind y block (crc64 bs)
      ws.length = 128 → d.stackUp ((stackOf a).getD 0) = true →
      Completes (.putAccepted t n) s fun e =>
        e.rdBytes (a + 64 * i) 64 = (bs.drop (64 * i)).take 64
        ∧ e.lineAt (a + 64 * i) = ⟨k.1, bit (crc64 bs) i, k.2.1 || (nth ws (2 * i) (0, false)).2 || (nth ws (2 * i + 1) (0, false)).2⟩
        ∧ (∀ b, b < a + 64 * i ∨ a + 64 * i + 64 ≤ b → e.rdByte b = d.rdByte b)
        ∧ (y.moved + 1 ≥ 64 * y.nb → ∀ z ∈ (e.tile t).xfers, z.id ≠ x.id))
    ∧ (x.pa = none → d.translate x.ctx (x.vpn.getD 0 * 65536) (!x.isGet) = none → (d.tile t).raise = none →
        d.slotState t x.slot ≠ 0 → d.slotState t x.slot ≠ 6 →
      Completes (.translationFailure t n) s fun e =>
        (∀ z ∈ (e.tile t).xfers, z.id ≠ x.id) ∧ e.slotState t x.slot = 6 ∧ e.trf t (Reg.CTXSTATE x.slot) 47 40 = FC.PAGE)

/-- A held landing is tried again once its words are empty (R173), the scrub reads lines as any reader does and reports what it finds
(R309, R310), and a failed wire waits for the beat of its steering, 64 beats with its link direction idle (R231, R232). -/
def Obligations.HeldLandingsScrubAndSteering : Prop :=
  ∀ s : State,
    let d := s.dev
    (∀ (t : TileId) (me : Nat) (f g : Flit), d.logOf t = some me →
      d.flits.find? (fun f => f.held > 0 && f.inp < 4 && f.dst == me && f.at' == me && !d.landHeld t f) = some f →
      f.cargo = .send → f.vc ≠ 1 → d.landOk t f = true → f.landed = [] →
      let first := d.winBase t f.win + f.off
      (d.grantLand t (d.landers me (d.now t + 1) [0, 3]) (2 - (d.tile t).netCount) (d.tile t).netBanks).1.find? (·.same f) = some g →
      g = { f with now := (List.range f.data.length).map (first + ·) } →
      Completes (.taggedLandingRelease t) s fun e =>
        e.flits = d.flits.filter (fun g => !g.same f)
        ∧ ∀ (k : Nat) (h : k < f.data.length), e.spRd t (first + k) = f.data[k].1 ∧ (e.tile t).full (first + k) = true)
    ∧ (∀ (a : BitVec 48) (k : Nat), stackOf a.toNat = some k → d.stackUp k = true →
      (Completes (.scrubRead a none) s fun e => OnlyRegs [] d e)
      ∧ (Completes (.scrubRead a (some false)) s fun e => e.rd Reg.MEM_CORR = d.rd Reg.MEM_CORR + 1
        ∧ (∃ y ∈ e.events, y.cls = (if k < 20 then 6 else 8) ∧ y.kind = (stackKind k).1 ∧ y.idx = (stackKind k).2 ∧ y.loc = lineLoc a.toNat)
        ∧ RegsBut [Reg.MEM_CORR] d e ∧ SameBytes d e)
      ∧ ((d.lineAt a.toNat).poison = false →
        Completes (.scrubRead a (some true)) s fun e => e.rd Reg.MEM_UNCORR = d.rd Reg.MEM_UNCORR + 1
          ∧ (e.lineAt a.toNat).poison = true
          ∧ ∃ y ∈ e.events, y.cls = (if k < 20 then 7 else 9) ∧ y.kind = (stackKind k).1 ∧ y.idx = (stackKind k).2 ∧ y.loc = lineLoc a.toNat))
    ∧ (∀ x : WireOrder, d.wirePend.find? d.wireIdle = some x →
      let used := d.trf x.tile Reg.RT_PORT (8 * x.port + 4) (8 * x.port)
      Completes .wireSteering s fun e => e.wirePend = d.wirePend.erase x ∧ e.rd Reg.RETIRED = d.rd Reg.RETIRED + 1
        ∧ (x.tile < 1664 → x.port < 4 → used < d.spareCap x.tile x.port →
          e.trf x.tile Reg.RT_PORT (8 * x.port + 4) (8 * x.port) = used + 1))
    ∧ (d.wirePend.find? d.wireIdle = none → Completes .wireSteering s fun e => OnlyRegs [] d e)

/-- Page operations (R322, R339): the command ends with a status, a refused one changes nothing; MAP adds a page of zeros, UNMAP takes
the last mapping's page away, SETTIER changes its tier and ALIAS adds a mapping to it; UNMAP and SETTIER of a cadence context wait for
the commit point while frames run; a port whose command is under way, or any port in recovery, is not served. -/
def Obligations.PageOperationsEnd : Prop :=
  ∀ (p : Port) (o : MemOp) (s : State),
    let d := s.dev
    let cmdOf (n : Nat) : Nat := ((w64 (memWord n o % 2 ^ 63 + 2 ^ 63)) &&& regImpl (Reg.OP_CMD p)).toNat
    let at' (n : Nat) : Dev := (d.wr (Reg.OP_CMD p) (w64 (memWord n o % 2 ^ 63 + 2 ^ 63) &&& regImpl (Reg.OP_CMD p))).wr (Reg.OP_STATUS p) (w64 (2 ^ 63))
    let waits (n : Nat) : Bool := (n = 2 ∨ n = 3) ∧ d.framesRun = true ∧ (at' n).ctxIsCad (bits (memWord n o) 53 48) = true
      ∧ (at' n).opCheck p (memWord n o) = 0
    (∀ x ∈ ([(.map p o, 1), (.unmap p o, 2), (.settier p o, 3), (.aliasPage p o, 4)] : List (Instr × Nat)),
      (d.served = false ∨ d.rb (Reg.OP_STATUS p) 63 = true → Completes x.1 s fun e => OnlyRegs [] d e)
      ∧ (d.served = true → d.rb (Reg.OP_STATUS p) 63 = false →
        (waits x.2 = true → Completes x.1 s fun e => e.opWait = d.opWait ++ [p.val] ∧ e.rb (Reg.OP_STATUS p) 63 = true ∧ SameBytes d e)
        ∧ (waits x.2 = false →
          (∀ c, (at' x.2).opRun p (cmdOf x.2) = .error c →
            Completes x.1 s fun e => d.retrain = [] → e.rd (Reg.OP_STATUS p) = w64 c &&& regImpl (Reg.OP_STATUS p)
              ∧ e.rb (Reg.OP_CMD p) 63 = false ∧ OnlyRegs [Reg.OP_CMD p, Reg.OP_STATUS p, Reg.QUOTA_HIT] d e)
          ∧ (∀ y, (at' x.2).opRun p (cmdOf x.2) = .ok y →
            Completes x.1 s fun e => y.retrain = [] → e.rd (Reg.OP_STATUS p) = 0 ∧ e.rb (Reg.OP_CMD p) 63 = false ∧ e.pages = y.pages))))
    ∧ (∀ y, (at' 1).opRun p (cmdOf 1) = .ok y → ∃ f touch,
        y.pages = d.pages ++ [{ frame := f, large := o.large, ctx := o.ctx, maps := [(o.ctx.val, o.vpn.toNat)], tier := o.tier.toNat, touch }]
        ∧ ∀ a, f * 65536 ≤ a → a < f * 65536 + 65536 * (if o.large then 32 else 1) → y.rdByte a = 0)
    ∧ (∀ y l pg, (at' 2).opRun p (cmdOf 2) = .ok y → d.walk o.ctx (o.vpn.toNat * 65536) = some l → d.pageAt l.frame = some pg →
        d.repairs = [] → d.moves = [] → pg.maps = [(o.ctx.val, o.vpn.toNat)] →
        y.pages = d.pages.filter (·.frame != pg.frame) ∧ y.rdNum l.addr 8 = 0)
    ∧ (∀ y, (at' 3).opRun p (cmdOf 3) = .ok y → ∃ l pg, d.walk o.ctx (o.vpn.toNat * 65536) = some l ∧ d.pageAt l.frame = some pg
        ∧ y.pages = updIf (·.frame == pg.frame) (fun q => { q with tier := o.tier.toNat }) d.pages)
    ∧ (∀ y, (at' 4).opRun p (cmdOf 4) = .ok y → ∃ l, d.walk o.srcCtx (d.rf (Reg.OP_ARG p) 47 16 * 65536) = some l
        ∧ y.pages = updIf (·.holds l.frame) (fun q => { q with maps := q.maps ++ [(o.ctx.val, o.vpn.toNat)] }) d.pages)

/-- The steward forms the pools and sets the quotas (R316, R330); pages are demoted, promoted and switched to where they moved
(R326, R328). -/
def Obligations.PoolsQuotasAndMigration : Prop :=
  ∀ (p : Port) (s : State),
    let d := s.dev
    (d.isSteward p = true → d.locked = false →
      Completes (.poolLock p) s fun e => e.locked = true ∧ RegsBut (Reg.MEM_CTL :: (List.range 36).map Reg.STACK) d e ∧ SameBytes d e)
    ∧ (d.isSteward p = false ∨ d.locked = true → Completes (.poolLock p) s fun e => OnlyRegs [] d e)
    ∧ (∀ (cls : Bool) (n : CtxId) (v : BitVec 64),
      (d.isSteward p = false ∨ (cls = true ∧ 8 ≤ n.val) → Completes (.quotaWrite p cls n v) s fun e => OnlyRegs [] d e)
      ∧ (d.isSteward p = true → (cls = true → n.val < 8) →
        let off := if cls then Reg.QCLS n else Reg.QCTX n
        let use := d.rd (if cls then Reg.UCLS n else Reg.UCTX n)
        Completes (.quotaWrite p cls n v) s fun e => e.rd off = v
          ∧ (fld use 63 32 ≤ fld v 63 32 → fld use 31 0 ≤ fld v 31 0 → OnlyRegs [off] d e)))
    -- while occupancy is above the watermarks one page is demoted, the least recently touched of all (log entry 100)
    ∧ (d.rb Reg.MEM_CTL 62 = true → d.above d.highPct = false → d.above d.lowPct = false →
      Completes .demotion s fun e => OnlyRegs [] { d with demoting := false } e)
    ∧ (d.rb Reg.MEM_CTL 62 = true → d.above d.highPct = false → d.demoting = false →
      Completes .demotion s fun e => OnlyRegs [] d e)
    ∧ (∀ q f d2, d.rb Reg.MEM_CTL 62 = true → d.above d.highPct = true ∨ (d.above d.lowPct = true ∧ d.demoting = true) →
        let c : Dev := { d with demoting := true }
        c.demotable (fun _ => true) = some q → c.placeIn 1 q.large = (some f, d2) →
      Completes .demotion s fun e => e.moves = d.moves ++ [⟨q.frame, f, .demote⟩] ∧ e.demoting = true)
    ∧ (∀ c vpn rest l q, d.rb Reg.MEM_CTL 62 = true → d.handed = (c, vpn) :: rest → d.walk c (vpn * 65536) = some l →
        d.pageAt l.frame = some q → frameTier q.frame = 1 → q.tier = 0 → (∀ m ∈ d.moves, m.src ≠ q.frame) →
        d.stackUp ((stackOf (q.frame * 65536)).getD 0) = true →
      let waits : Bool := d.moves.any fun m => m.why == .demote && ((d.pageAt m.src).map (·.ctx)) == some q.ctx
      let quota := d.quotaRoom q.ctx q.cls 0 q.frames
      (∀ f d2, quota = true → ((d.promoRoom = true ∧ waits = false) ∨ (d.promoRoom = false ∧ d.occupied d.highPct false = false)) →
        ({ d with handed := rest, promoRoom := false } : Dev).placeIn 0 q.large = (some f, d2) →
        Completes .promotion s fun e => e.moves = d.moves ++ [⟨q.frame, f, .promote⟩] ∧ e.handed = rest ∧ e.promoRoom = false)
      ∧ (∀ y f d2, d.promoRoom = false → quota = false ∨ d.occupied d.highPct false = true →
        d.demotable (fun z => z.ctx == q.ctx) = some y → d.placeIn 1 y.large = (some f, d2) →
        Completes .promotion s fun e => e.moves = d.moves ++ [⟨y.frame, f, .demote⟩] ∧ e.handed = d.handed ∧ e.promoRoom = true)
      ∧ (d.promoRoom = true → waits = true → Completes .promotion s fun e => OnlyRegs [] d e))
    ∧ (d.rb Reg.MEM_CTL 62 = false → ∀ i ∈ [Instr.demotion, .promotion], Completes i s fun e => OnlyRegs [] d e)
    ∧ (∀ (n : BitVec 16) (m : Move) (q : Page), d.moves[n.toNat]? = some m → d.pageAt m.src = some q → d.repairs = [] → d.retrain = [] →
        d.stackUp ((stackOf (m.src * 65536)).getD 0) = true → d.stackUp ((stackOf (m.dst * 65536)).getD 0) = true →
      Completes (.pageMoveSwitch n) s fun e => e.moves = d.moves.erase m
        ∧ e.pages = updIf (·.frame == m.src) (fun x => { x with frame := m.dst }) d.pages
        ∧ e.rd Reg.DEMOTED = d.rd Reg.DEMOTED + (if frameTier m.src = 0 ∧ frameTier m.dst = 1 then 1 else 0)
        ∧ e.rd Reg.PROMOTED = d.rd Reg.PROMOTED + (if frameTier m.src = 1 ∧ frameTier m.dst = 0 then 1 else 0))

/-- Retraining (R331, R497, R499): one stack at a time, in the order asked; it closes at once while no frames run, waits for the
commit point while they do, and comes back READY, or DOWN and failed. -/
def Obligations.StacksRetrainInOrder : Prop :=
  ∀ (p : Port) (k : StackId) (evac : Bool) (s : State),
    let d := s.dev
    (d.isSteward p = false → Completes (.stackRetrain p k evac) s fun e => OnlyRegs [] d e)
    ∧ (d.retrain ≠ [] →
      (d.isSteward p = true → Completes (.stackRetrain p k evac) s fun e => e.retrain = d.retrain ++ [(k.val, evac)] ∧ e.rb Reg.RETRAIN 61 = true
        ∧ SameBytes d e)
      ∧ Completes (.stackSelfRetrain k) s fun e => e.retrain = d.retrain ++ [(k.val, d.rb Reg.RETRAIN 62)] ∧ e.rb Reg.RETRAIN 61 = true
        ∧ OnlyRegs [Reg.RETRAIN] { d with retrain := e.retrain } e)
    ∧ (d.retrain = [] → stackState d k ≤ 1 →
      ∀ i ∈ (if d.isSteward p then [Instr.stackRetrain p k false] else []) ++ (if d.rb Reg.RETRAIN 62 then [] else [Instr.stackSelfRetrain k]),
        (d.framesRun = true → Completes i s fun e => e.retrain = [(k.val, false)] ∧ e.retrainStage = 1 ∧ stackState e k = 1)
        ∧ (d.framesRun = false →
          Completes i s fun e => e.retrain = [(k.val, false)] ∧ e.retrainStage = 2 ∧ stackState e k = 2 ∧ k.val ∈ e.training))
    ∧ (k.val ∈ d.training → d.retrain = [] →
      (d.ready (readyField (homes k).1) = true ∨ d.ready (readyField (homes k).2) = true →
        Completes (.stackTrainingDone k true) s fun e => stackState e k = 0 ∧ e.failedBit (readyStack k) = false)
      ∧ (Completes (.stackTrainingDone k false) s fun e => stackState e k = 4 ∧ e.failedBit (readyStack k) = true))
    ∧ (k.val ∉ d.training → ∀ ok, Completes (.stackTrainingDone k ok) s fun e => OnlyRegs [] d e)

/-! ## Data integrity -/

/-- Events and lasting decisions (R341 to R345, R348, R358): an event that reaches the integrity block is counted and entered in the
tracking table; the event that reaches the threshold of its class, or a double error in the base image whatever the threshold, makes the
location lasting, which becomes an order, or waits while RETIRE_EN is 0. Events of a field under stress are not taken. -/
def Obligations.EventsAreTrackedAndDecide : Prop :=
  ∀ (ms : BitVec 64) (x : ExtEvent) (r : Retiree) (s : State),
    let d := s.dev
    let now := max ms.toNat (d.rn Reg.ITG_CLOCK)
    let v : Event := { cls := x.cls.val, kind := x.kind.toNat, idx := x.idx.toNat, loc := x.loc, syn := x.syn }
    let need := d.rfIn (Reg.THR x.cls) 35 32 1 8
    let image : Prop := x.cls.val = 1 ∧ x.loc.getLsbD 63 = true ∧ x.loc.toNat % 2 ^ 15 < 4096
    let fresh := (∀ t ∈ d.track, ¬ (t.cls = v.cls ∧ t.kind = v.kind ∧ t.idx = v.idx ∧ t.loc = v.loc)) ∧ d.track.length < 8192
    (d.underStress v.kind v.idx = true → x.cls.val < 12 →
      Completes (.integrityEvent ms (some x)) s fun e => e.rn Reg.ITG_CLOCK = now ∧ e.rd Reg.EVENTS = d.rd Reg.EVENTS ∧ e.track = d.track)
    ∧ (d.underStress v.kind v.idx = false ∨ x.cls.val = 12 → d.retireeOf v = some r → d.deciding r = false → fresh →
      Completes (.integrityEvent ms (some x)) s fun e =>
        e.rn Reg.ITG_CLOCK = now ∧ e.rd Reg.EVENTS = d.rd Reg.EVENTS + 1
        ∧ e.track = d.track ++ [⟨v.cls, v.kind, v.idx, v.loc, [now]⟩]
        ∧ (need ≥ 2 → ¬ image → e.orders = d.orders ∧ e.held = d.held ∧ e.rd Reg.LASTING = d.rd Reg.LASTING)
        ∧ (need = 1 ∨ image → e.rd Reg.LASTING = d.rd Reg.LASTING + 1
          ∧ (d.rb Reg.ITG_CTL 62 = true → e.orders = d.orders ++ [⟨r, false⟩] ∧ e.held = d.held)
          ∧ (d.rb Reg.ITG_CTL 62 = false → e.orders = d.orders ∧ e.held = d.held ++ [⟨r, false⟩])))
    ∧ (∀ (c : Nat) (r : Repair), x.cls.val = c → 6 ≤ c → c ≤ 9 → c % 2 = 0 → d.retireeOf v = some (.memory r) →
      Completes (.integrityEvent ms (some x)) s fun e => e.rd Reg.MEM_CORR = d.rd Reg.MEM_CORR + 1)
    ∧ (∀ y ys, d.events = y :: ys → d.underStress y.kind y.idx = false →
      Completes (.integrityEvent ms none) s fun e => e.events = ys ∧ e.rd Reg.EVENTS = d.rd Reg.EVENTS + 1)

/-- Retirement orders (R346, R348, R360): taken up one at a time in the order decided, one already retired is dropped; the steward may order one of any kind; an
order with a location that does not exist is refused and changes nothing; RETIRE_EN makes what waits an order. -/
def Obligations.RetirementsAreOrderedAndCarriedOut : Prop :=
  ∀ (p : Port) (w : BitVec 48) (v : BitVec 64) (o : Order) (s : State),
    let d := s.dev
    let n := w.toNat
    (∀ x ∈ ([(.retireTile p w, decide (n < 1664), .tile n),
             (.retireScratchpadRow p w, decide (bits n 10 0 < 1664) && bits n 15 11 == 0 && bits n 23 22 == 0 && bits n 47 32 == 0,
               .row (bits n 10 0) (bits n 21 16) (bits n 31 24)),
             (.retireMemoryFrame p w, bits n 47 32 == 0 && (stackOf (n * 65536)).isSome, .memory { frame := n })]
            : List (Instr × Bool × Retiree)),
      (d.isSteward p = false → Completes x.1 s fun e => OnlyRegs [] d e)
      ∧ (d.isSteward p = true → x.2.1 = true →
        Completes x.1 s fun e => e.orders = d.orders ++ [⟨x.2.2, true⟩] ∧ e.rb Reg.RETIRE_CMD 63 = true
          ∧ OnlyRegs [Reg.RETIRE_CMD] { d with orders := e.orders } e)
      ∧ (d.isSteward p = true → x.2.1 = false →
        Completes x.1 s fun e => e.rd Reg.RETIRE_STATUS = w64 St.INVALID ∧ e.rb Reg.RETIRE_CMD 63 = false
          ∧ OnlyRegs [Reg.RETIRE_CMD, Reg.RETIRE_STATUS] d e))
    ∧ (d.isSteward p = false → Completes (.retireEnWrite p v) s fun e => OnlyRegs [] d e)
    ∧ (d.isSteward p = true → Completes (.retireEnWrite p v) s fun e => e.rd Reg.ITG_CTL = v &&& maskOf 63 62
        ∧ (tst v 62 = true → e.orders = d.orders ++ d.held ∧ e.held = []) ∧ (tst v 62 = false → e.orders = d.orders ∧ e.held = d.held))
    ∧ (d.orders.find? (fun y => y.host || d.rb Reg.ITG_CTL 62) = none → Completes .retirementOrder s fun e => OnlyRegs [] d e)
    ∧ (d.orders.find? (fun y => y.host || d.rb Reg.ITG_CTL 62) = some o → Completes .retirementOrder s fun e =>
        let os := d.orders.erase o
        (d.alreadyGone o.what = true → e.orders = os
          ∧ (o.host = true → e.rb Reg.RETIRE_CMD 63 = false ∧ e.rd Reg.RETIRE_STATUS = 0 ∧ e.hostRetire = none))
        ∧ (∀ t b k, o.what = .row t b k → d.alreadyGone o.what = false → d.sparesUsed t b < 4 →
          (e.tile t).remapPend = (d.tile t).remapPend ++ [512 * b + k] ∧ e.orders = os ∧ (o.host = true → e.hostRetire = some o.what))
        ∧ (∀ t q k, o.what = .wire t q k → d.alreadyGone o.what = false →
          e.wirePend = d.wirePend ++ [⟨t, q, k, d.rn Reg.CLK_BEAT⟩] ∧ e.orders = os ∧ (o.host = true → e.hostRetire = some o.what))
        ∧ (∀ m, o.what = .memory m → d.alreadyGone o.what = false → (d.pageAt m.frame).isSome = true →
          m.frame ∈ e.outFrames ∧ m ∈ e.repairs ∧ e.orders = os)
        ∧ (∀ t, t < 1664 → o.what = .tile t → d.alreadyGone o.what = false →
          (e.tile t).fenced = true ∧ (∃ x ∈ e.restores, physId x.field x.row x.col = t ∧ x.dead = false)
          ∧ ∀ y ∈ e.orders, ∀ b k, y.what ≠ .row t b k))

/-- Captures (R112, R146, R184, R350, R351): a held capture is copied into the ring and its buffer released; the steward's read index
goes no further than what was written; either port releases a buffer or a shadow record. -/
def Obligations.CapturesAreCopiedAndReleased : Prop :=
  ∀ (t : TileId) (p : Port) (v ms : BitVec 64) (s : State),
    let d := s.dev
    (∀ (laneCap : Bool) (n : Nat), d.capSize = some n → d.rb Reg.ITG_CTL 63 = true →
      let off := if laneCap then Reg.LCAP_STATUS else Reg.CAP_STATUS
      let a := d.rf Reg.CAPRING 47 12 * 4096 + 4096 * (d.rn Reg.CAP_WR % n)
      d.rb (Reg.tile t off) 63 = true → d.rn Reg.CAP_WR - d.rn Reg.CAP_RD < n →
      Completes (.captureCopy t laneCap ms) s fun e =>
        e.rd Reg.CAP_WR = d.rd Reg.CAP_WR + 1 ∧ e.trd t off = 0 ∧ e.rb Reg.ITG_STATUS 0 = true
        ∧ e.rdNum a 8 = d.rn Reg.CAP_WR % 2 ^ 48 + (if laneCap then 2 else 1) * 2 ^ 48 + b2n (if laneCap then (d.tile t).lcapTest else (d.tile t).capTest) * 2 ^ 63
        ∧ e.rdNum (a + 0x10) 8 = d.trf t off 47 32
        ∧ (laneCap = false → ∀ i < 256, e.rdNum (a + 0x800 + 8 * i) 8 = (d.trd t (0x800 + 8 * i)).toNat)
        ∧ (laneCap = true → ∀ i < 6, e.rdNum (a + 0x338 + 8 * i) 8 = (d.trd t (0x338 + 8 * i)).toNat)
        ∧ ∀ b, b < a ∨ a + 4096 ≤ b → e.rdByte b = d.rdByte b)
    ∧ (d.isSteward p = true → v.toNat ≤ d.rn Reg.CAP_WR →
      Completes (.capRdWrite p v) s fun e => e.rd Reg.CAP_RD = v ∧ OnlyRegs [Reg.CAP_RD] d e)
    ∧ (d.isSteward p = false ∨ d.rn Reg.CAP_WR < v.toNat → Completes (.capRdWrite p v) s fun e => OnlyRegs [] d e)
    ∧ (∀ x ∈ ([(.captureRelease p t, Reg.CAP_STATUS), (.laneCaptureRelease p t, Reg.LCAP_STATUS),
               (.shadowRecordRelease p t, Reg.SHADOW_REC)] : List (Instr × Nat)),
      (d.served = true → Completes x.1 s fun e => e.rb (Reg.tile t x.2) 63 = false ∧ OnlyRegs [Reg.tile t x.2] d e)
      ∧ (d.served = false → Completes x.1 s fun e => OnlyRegs [] d e))

/-- Test packages (R354 to R356): a package is loaded when every check passes and otherwise refused with the status of the first that
fails; unloading empties the slot; a run counts its kernel runs and failures; the steward only, one command at a time. -/
def Obligations.PackagesLoadAndRun : Prop :=
  ∀ (p : Port) (n : Fin 16) (f : FieldId) (fails : List KernelFail) (s : State),
    let d := s.dev
    let at' (op k m : Nat) : Dev := d.wr Reg.PKG_CMD (w64 (2 ^ 63 + op * 2 ^ 60 + k * 2 ^ 4 + m))
    let idle := d.isSteward p = true ∧ d.rb Reg.PKG_CMD 63 = false
    (¬ idle → ∀ i ∈ [Instr.pkgLoad p n, .pkgUnload p n, .pkgRun p f fails], Completes i s fun e => OnlyRegs [] d e)
    ∧ (idle → Completes (.pkgLoad p n) s fun e => e.rb Reg.PKG_CMD 63 = false
        ∧ (∀ c, (at' 1 0 n).checkPkg n = .error c → e.rd Reg.PKG_STATUS = w64 c &&& regImpl Reg.PKG_STATUS
          ∧ OnlyRegs [Reg.PKG_CMD, Reg.PKG_STATUS] d e)
        ∧ (∀ x, (at' 1 0 n).checkPkg n = .ok x → e.rd Reg.PKG_STATUS = 0 ∧ e.pkg n = some x
          ∧ ∀ m : Fin 16, m ≠ n → (∀ y, d.pkg m = some y → y.id ≠ x.id) → e.pkg m = d.pkg m))
    ∧ (idle → Completes (.pkgUnload p n) s fun e => e.rb Reg.PKG_CMD 63 = false ∧ e.rd Reg.PKG_STATUS = 0 ∧ e.pkg n = none
        ∧ e.rd (Reg.PKG n) = 0)
    ∧ (idle → d.fieldBusy f = true ∨ d.rf Reg.SWEEP_STATUS 47 40 ≥ 2 →
      Completes (.pkgRun p f fails) s fun e => e.rb Reg.PKG_CMD 63 = false ∧ e.rd Reg.PKG_STATUS = w64 St.BUSY
        ∧ OnlyRegs [Reg.PKG_CMD, Reg.PKG_STATUS] d e)
    ∧ (idle → d.fieldBusy f = false → d.rf Reg.SWEEP_STATUS 47 40 < 2 →
      Completes (.pkgRun p f fails) s fun e => e.rb Reg.PKG_CMD 63 = false ∧ e.rd Reg.PKG_STATUS = 0
        ∧ e.rd Reg.TEST_RUNS = d.rd Reg.TEST_RUNS + w64 (d.kernelCount * (d.testedTiles f).length)
        ∧ e.rd Reg.TEST_FAIL = d.rd Reg.TEST_FAIL
          + w64 (fails.filter fun k => physField k.tile.val == f.val && (d.pkg k.slot.val).isSome).length)

/-- A margin sweep (R357, R358): it falls due on the next field that is not dark, begins once the field is drained and power is
granted, goes through its stages in order, decides on what fails twice, and ends with its counts. -/
def Obligations.SweepsGoThroughTheirStages : Prop :=
  ∀ (fails : List SweepFail) (runs : BitVec 32) (s : State),
    let d := s.dev
    (∀ f, d.rb Reg.SWEEP_CTL 63 = true → d.sweepStage = 0 → d.sweepPick = some f →
      Completes .sweepDue s fun e => e.sweepStage = 1 ∧ e.sweepField = f ∧ e.rb Reg.ITG_STATUS 4 = true)
    ∧ (d.rb Reg.SWEEP_CTL 63 = true → d.sweepStage = 1 →
      Completes .sweepDue s fun e => e.rd Reg.SWEEP_LATE = d.rd Reg.SWEEP_LATE + 1 ∧ OnlyRegs [Reg.SWEEP_LATE] d e)
    ∧ (d.sweepStage = 1 → d.fieldBusy d.sweepField = false → d.rf Reg.EST 15 0 + 500 ≤ d.rf Reg.CAP_W 31 16 →
      Completes .sweepBegin s fun e => e.sweepStage = 2 ∧ e.sweepField = d.sweepField ∧ e.ready (readyField d.sweepField) = false)
    ∧ (d.sweepStage ≠ 1 ∨ d.fieldBusy d.sweepField = true → Completes .sweepBegin s fun e => OnlyRegs [] d e)
    ∧ (∀ x ∈ [(Instr.sweepIsolateDone, 2), (.sweepStressDone, 3), (.sweepHeatDone, 4)],
      (d.sweepStage = x.2 → Completes x.1 s fun e => e.sweepStage = x.2 + 1 ∧ e.sweepField = d.sweepField ∧ OnlyRegs [Reg.SWEEP_STATUS] d e)
      ∧ (d.sweepStage ≠ x.2 → Completes x.1 s fun e => OnlyRegs [] d e))
    ∧ (d.sweepStage = 5 → Completes (.sweepTestDone runs fails) s fun e => e.sweepStage = 6 ∧ e.sweepFails = d.ofSweep fails
        ∧ e.rd Reg.TEST_RUNS = d.rd Reg.TEST_RUNS + w64 runs.toNat
        ∧ e.rd Reg.TEST_FAIL = d.rd Reg.TEST_FAIL + w64 ((d.ofSweep fails).filter (·.isTile)).length)
    ∧ (d.sweepStage = 6 → Completes (.sweepRecheckDone fails) s fun e => e.sweepStage = 7
        ∧ ∀ t, .tile t ∈ d.sweepFails →
          (∃ y ∈ e.events, y.cls = 12 ∧ y.kind = 0 ∧ y.idx = t ∧ y.loc = 0) ∧ (.tile t ∈ d.ofSweep fails → e.deciding (.tile t) = true))
    ∧ (d.sweepStage = 7 → Completes .sweepRestoreDone s fun e => e.sweepStage = 0
        ∧ e.rf Reg.SWEEP_STATUS 35 34 = b2n d.sweepFailed ∧ e.sweepFails = [] ∧ e.sweepNext = (d.sweepField + 1) % 16
        ∧ e.rd Reg.SWEEPS = d.rd Reg.SWEEPS + 1)

/-! ## Clocking and power -/

/-- The reference and the oscillators (R365, R368, R369, R372): the mesh runs free without a reference and locks again once it is back; a
field goes on with one failed oscillator, whose floe is injected from a neighbour, and is shut down by a second; a crossing that
slips poisons the flit it reads. -/
def Obligations.ReferenceAndOscillatorFaultsAct : Prop :=
  ∀ s : State,
    let d := s.dev
    (d.rb Reg.CLK_STATUS 63 = true → Completes .referenceLoss s fun e =>
      e.rb Reg.CLK_STATUS 63 = false ∧ e.rb Reg.CLK_STATUS 62 = false ∧ RegsLog [Reg.CLK_STATUS] d e)
    ∧ (d.rb Reg.CLK_STATUS 63 = false → Completes .referenceLoss s fun e => OnlyRegs [] d e)
    ∧ (d.ready 1 = true → Completes .referenceReturn s fun e => e.rb Reg.CLK_STATUS 63 = true ∧ OnlyRegs [Reg.CLK_STATUS] d e)
    ∧ (d.ready 1 = false → Completes .referenceReturn s fun e => OnlyRegs [] d e)
    ∧ (d.rb Reg.CLK_STATUS 63 = true → Completes .meshLockRegained s fun e =>
      e.rb Reg.CLK_STATUS 62 = true ∧ OnlyRegs [Reg.CLK_STATUS] d e)
    ∧ (d.rb Reg.CLK_STATUS 63 = false → Completes .meshLockRegained s fun e => OnlyRegs [] d e)
    ∧ (∀ k : FloeId, let f := k.val / 4
      d.oscFailed k = false → d.floeState k ≠ 2 → d.floeState k ≠ 4 → d.firnWorn (0x442 + k.val / 32) = false →
      ((∀ j, j < 4 → d.oscFailed (4 * f + j) = false) →
        Completes (.oscillatorFailure k) s fun e => e.oscFailed k = true ∧ e.rd Reg.OSC_FAIL = d.rd Reg.OSC_FAIL + 1
          ∧ e.floeState k = (if d.floeState k = 3 then 3 else 1) ∧ e.rf (Reg.FLOE k) 57 52 = d.floeSrc k
          ∧ RegsLog [Reg.OSC_FAIL, Reg.FLOE k, Reg.CLK_STATUS] d e)
      ∧ (∀ j, j < 4 → 4 * f + j ≠ k.val → d.oscFailed (4 * f + j) = true →
        Completes (.oscillatorFailure k) s fun e => e.oscFailed k = true ∧ e.rd Reg.OSC_FAIL = d.rd Reg.OSC_FAIL + 1
          ∧ e.fieldState f = 0 ∧ e.ready (readyField f) = false ∧ ∀ i < 4, e.floeState (4 * f + i) = 4))
    ∧ (∀ k : FloeId, d.oscFailed k = true → Completes (.oscillatorFailure k) s fun e => OnlyRegs [] d e)
    ∧ (∀ (t : TileId) (p : Fin 4) (me n u hop : Nat), d.logOf t = some me → neighbour me p = some (n, hop) → hop ≠ 1 → d.physOf n = some u →
      Completes (.crossingSlip t p) s fun e => e.rd Reg.SLIP = d.rd Reg.SLIP + 1 ∧ RegsLog [Reg.SLIP] d e
        ∧ (∀ g, d.lastFlit me p = some g → { g with data := g.data.map fun w => (w.1, true) } ∈ e.flits)
        ∧ (d.lastFlit me p = none → e.flits = d.flits))
    ∧ (∀ (t : TileId) (p : Fin 4), d.logOf t = none → Completes (.crossingSlip t p) s fun e => OnlyRegs [] d e)

/-- The operating point (R373 to R375, R407, R408, R410): a change is announced at least 4,096 beats ahead, is in force from its
switch beat, and goes upward only once the supplies have reached the point's voltage; a step-down lowers the ceiling with it and a
second without a breach raises the ceiling. -/
def Obligations.OperatingPointSwitches : Prop :=
  ∀ s : State,
    let d := s.dev
    let announced (op : Nat) (e : Dev) : Prop := e.switchPending = true ∧ e.rf Reg.CLK_SWITCH 1 0 = op
      ∧ e.rd Reg.SWITCH_BEAT = d.rd Reg.CLK_BEAT + 4096 ∧ e.opNow = d.opNow
    let hot : Bool := d.dieTemps.any (· ≥ 105)
    (d.switchPending = true → d.afterSwitch = none →
      Completes .switchBeat s fun e => e.opNow = d.rf Reg.CLK_SWITCH 1 0 ∧ e.switchPending = false
        ∧ e.rn Reg.CLK_BEAT = max (d.rn Reg.CLK_BEAT) (d.rn Reg.SWITCH_BEAT)
        ∧ RegsBut [Reg.CLK_STATUS, Reg.CLK_SWITCH, Reg.CLK_BEAT, Reg.PWR_STATUS, Reg.EVENT] d e ∧ SameBytes d e)
    ∧ (∀ op c, op < d.rf Reg.CLK_SWITCH 1 0 → d.switchPending = true → d.afterSwitch = some (op, c) →
      Completes .switchBeat s fun e => e.opNow = d.rf Reg.CLK_SWITCH 1 0 ∧ e.switchPending = true ∧ e.rf Reg.CLK_SWITCH 1 0 = op
        ∧ e.rd Reg.SWITCH_BEAT = e.rd Reg.CLK_BEAT + 4096 ∧ e.afterSwitch = none)
    ∧ (d.switchPending = false → Completes .switchBeat s fun e => OnlyRegs [] d e)
    ∧ (∀ op c, op < 4 → d.opNow < op → op ≤ d.ceiling → d.switchPending = false → d.raising = some (op, c) →
      Completes .setVoltageReached s fun e => announced op e ∧ e.raising = none
        ∧ RegsBut [Reg.CLK_SWITCH, Reg.SWITCH_BEAT] d e ∧ SameBytes d e)
    ∧ (d.raising = none → Completes .setVoltageReached s fun e => OnlyRegs [] d e)
    ∧ (d.ceiling < 3 → Completes .ceilingRise s fun e => e.ceiling = d.ceiling + 1)
    ∧ (d.ceiling = 1 → d.floatOn = false → d.switchPending = false → d.afterSwitch = none → d.opNow < 2 →
      Completes .ceilingRise s fun e => e.raising = some (2, 3) ∧ RegsBut [] d e)
    ∧ (3 ≤ d.ceiling → Completes .ceilingRise s fun e => OnlyRegs [] d e)
    ∧ (hot = true → d.switchPending = false → d.afterSwitch = none → 0 < d.opNow →
      Completes .thermalStepdownRepeat s fun e => announced (d.opNow - 1) e ∧ e.ceiling = d.opNow - 1
        ∧ e.rd Reg.THERM_STEPS = d.rd Reg.THERM_STEPS + 1 ∧ e.rb Reg.PWR_STATUS 7 = true ∧ SameBytes d e)
    ∧ (hot = false → Completes .thermalStepdownRepeat s fun e => OnlyRegs [] d e)
    ∧ (d.switchPending = true ∨ d.raising ≠ none → Completes .floatingEvaluation s fun e => OnlyRegs [] d e)
    ∧ (d.switchPending = false → d.raising = none → d.rb Reg.PWR_CTL 63 = false → d.floatOn = true → 2 ≤ d.ceiling →
      (d.opNow < 2 → Completes .floatingEvaluation s fun e => e.floatOn = false ∧ e.raising = some (2, 3) ∧ RegsBut [] d e)
      ∧ (2 < d.opNow → Completes .floatingEvaluation s fun e => e.floatOn = false ∧ announced 2 e))
    ∧ (∀ b, d.switchPending = false → d.raising = none → d.rb Reg.PWR_CTL 63 = true → d.intOn = true →
      (∀ op, op ≤ 3 → op ≤ d.ceiling → ({ d with floatOn := true } : Dev).opFits op = true → op ≤ b) →
      (b = 0 ∨ (b ≤ 3 ∧ b ≤ d.ceiling ∧ ({ d with floatOn := true } : Dev).opFits b = true)) →
      (d.opNow < b → Completes .floatingEvaluation s fun e => e.floatOn = true ∧ e.raising = some (b, 0) ∧ RegsBut [] d e)
      ∧ (b < d.opNow → Completes .floatingEvaluation s fun e => e.floatOn = true ∧ announced b e))

/-- Sympathetic stretch (R376, R378, R381 to R383): a floe below the droop threshold owes itself the beats the depth gives and asks
for them, every other participant owes them when the broadcast arrives, a swept field keeps its requests to itself; a window
over LIMIT steps the operating point down, or clamps the fields that asked at code 0. -/
def Obligations.StretchIsShared : Prop :=
  ∀ s : State,
    let d := s.dev
    let n := d.rf Reg.CLK_WINDOW 15 0
    (∀ (k : FloeId) (supply : BitVec 32),
      let thr := (d.opMv d.opNow - d.droopMv) * 1000
      let m := min 4 (1 + (thr - supply.toNat) / 10000)
      (supply.toNat < thr → d.owed k = 0 → d.floeState k ≤ 1 →
        Completes (.stretchRequest k supply) s fun e => e.owed k = m ∧ e.stretch = d.stretch ++ [(k.val, m)]
          ∧ e.rf (Reg.FLOE k) 31 0 = min 0xFFFFFFFF (d.rf (Reg.FLOE k) 31 0 + 1)
          ∧ e.rf Reg.CLK_WINDOW 15 0 = min 65535 (n + m) ∧ e.rd Reg.STRETCH_BEATS = d.rd Reg.STRETCH_BEATS + BitVec.ofNat 64 m
          ∧ k.val / 4 ∈ e.windowFields ∧ RegsBut [Reg.FLOE k, Reg.CLK_WINDOW, Reg.STRETCH_BEATS] d e ∧ SameBytes d e)
      ∧ (supply.toNat < thr → d.owed k = 0 → d.floeState k = 3 →
        Completes (.stretchRequest k supply) s fun e => e.owed k = m ∧ e.stretch = d.stretch ++ [(k.val, m)]
          ∧ e.windowFields = d.windowFields ∧ RegsBut [Reg.FLOE k] d e ∧ SameBytes d e)
      ∧ (thr ≤ supply.toNat ∨ 0 < d.owed k ∨ d.floeState k = 2 ∨ d.floeState k = 4 →
        Completes (.stretchRequest k supply) s fun e => OnlyRegs [] d e))
    ∧ (∀ k m rest, d.stretch = (k, m) :: rest → d.floeState k ≠ 3 →
      Completes .stretchBroadcastArrival s fun e => e.stretch = rest ∧ e.edgeOwed = d.edgeOwed + m
        ∧ e.rd Reg.STRETCH_EVENTS = d.rd Reg.STRETCH_EVENTS + 1
        ∧ ∀ j, j < 64 → e.owed j = if j ≠ k ∧ d.floeState j ≤ 1 then min 256 (d.owed j + m) else d.owed j)
    ∧ (∀ k m rest, d.stretch = (k, m) :: rest → d.floeState k = 3 →
      Completes .stretchBroadcastArrival s fun e => e.stretch = rest ∧ e.edgeOwed = d.edgeOwed
        ∧ ∀ j, j < 64 → e.owed j = if j ≠ k ∧ j / 4 = k / 4 then min 256 (d.owed j + m) else d.owed j)
    ∧ (d.stretch = [] → Completes .stretchBroadcastArrival s fun e => OnlyRegs [] d e)
    ∧ (n ≤ d.stretchLimit →
      Completes .stretchWindowEnd s fun e => e.rf Reg.CLK_WINDOW 15 0 = 0 ∧ e.rf Reg.CLK_WINDOW 47 32 = n ∧ e.windowFields = []
        ∧ e.opNow = d.opNow ∧ e.rd Reg.CLK_SWITCH = d.rd Reg.CLK_SWITCH &&& regImpl Reg.CLK_SWITCH
        ∧ e.rd Reg.STEPDOWNS = d.rd Reg.STEPDOWNS)
    ∧ (d.stretchLimit < n → d.switchPending = false → d.afterSwitch = none → 0 < d.opNow →
      Completes .stretchWindowEnd s fun e => e.switchPending = true ∧ e.rf Reg.CLK_SWITCH 1 0 = d.opNow - 1
        ∧ e.rd Reg.SWITCH_BEAT = d.rd Reg.CLK_BEAT + 4096 ∧ e.ceiling = d.opNow - 1 ∧ e.rd Reg.STEPDOWNS = d.rd Reg.STEPDOWNS + 1
        ∧ e.rf Reg.CLK_WINDOW 15 0 = 0 ∧ e.rf Reg.CLK_WINDOW 47 32 = n)
    ∧ (d.stretchLimit < n → d.opDecided = 0 →
      Completes .stretchWindowEnd s fun e => e.rf Reg.CLK_WINDOW 15 0 = 0 ∧ e.rf Reg.CLK_WINDOW 47 32 = n
        ∧ (∀ f ∈ d.windowFields, e.clampSrc f 3 = 48) ∧ e.rd Reg.STEPDOWNS = d.rd Reg.STEPDOWNS)

/-- Power and temperature (R392 to R394, R399 to R405, R409): an estimator window shows what is drawn, teaches the figure of each phase
that ran long enough, and clamps what exceeds its limit; the clamp halves while the excess lasts and is released with it; a
retired phase lowers its field's limit; the cap is the lesser of the steward's and the thermal one, which follows the temperatures. -/
def Obligations.PowerIsEstimatedAndCapped : Prop :=
  ∀ s : State,
    let d := s.dev
    (∀ (ns : BitVec 32) (w nt : BitVec 16) (amps : List (BitVec 12)), amps.length = 16 →
      Completes (.estimatorWindowEnd ns w nt amps []) s fun e =>
        e.rf Reg.EST 15 0 = w.toNat ∧ e.rf Reg.EST 63 48 = nt.toNat ∧ e.rf Reg.EST 47 32 = max (d.rf Reg.EST 47 32) w.toNat
        ∧ (∀ f, f < 16 → e.rf (Reg.FIELD f) 11 0 = (nth amps f 0).toNat
            ∧ e.rf (Reg.FIELD f) 23 12 = max (d.rf (Reg.FIELD f) 23 12) (nth amps f 0).toNat
            ∧ (d.clampSrc f 1 = 96 → e.clampSrc f 1 = if (nth amps f 0).toNat > d.rf (Reg.FIELD f) 39 28 then 48 else 96)
            ∧ (w.toNat > 13000 → d.clampSrc f 2 = 96 → e.clampSrc f 2 = 48))
        ∧ e.frameEnergy = d.frameEnergy + w.toNat * ns.toNat * 1000 ∧ e.learned = d.learned)
    ∧ (∀ (ns : BitVec 32) (w nt : BitVec 16) (amps : List (BitVec 12)) (a : PhaseEnergy),
      let key := figKey a.field.val d.opNow a.phase.toNat
      let x := a.pj.toNat / a.beats.toNat
      (a.beats.toNat < 256 → Completes (.estimatorWindowEnd ns w nt amps [a]) s fun e => e.learned = d.learned)
      ∧ (256 ≤ a.beats.toNat → smGet noFig d.learned key = none →
        Completes (.estimatorWindowEnd ns w nt amps [a]) s fun e => smGet noFig e.learned key = some x)
      ∧ (∀ y, 256 ≤ a.beats.toNat → smGet noFig d.learned key = some y → d.rf Reg.PWR_CTL 47 44 = 4 →
        Completes (.estimatorWindowEnd ns w nt amps [a]) s fun e =>
          smGet noFig e.learned key = some ((y : Int) + ((x : Int) - y).tdiv 16).toNat))
    ∧ (∀ (f : FieldId) (m : Bool),
      let src := if m then 2 else 1
      let tooHigh : Bool := if m then d.moduleOver else d.fieldOver f
      (d.clampSrc f src = 96 → Completes (.clampExcessTimer f m) s fun e => OnlyRegs [] d e)
      ∧ (d.clampSrc f src ≠ 96 → tooHigh = true → Completes (.clampExcessTimer f m) s fun e =>
          e.clampSrc f src = max 12 (d.clampSrc f src / 2) ∧ e.rf (Reg.FIELD f) 47 41 = e.clampK f
          ∧ RegsBut [Reg.FIELD f, Reg.AVL f] d e ∧ SameBytes d e)
      ∧ (d.clampSrc f src ≠ 96 → tooHigh = false → Completes (.clampExcessTimer f m) s fun e =>
          e.clampSrc f src = 96 ∧ e.rf (Reg.FIELD f) 47 41 = e.clampK f ∧ RegsBut [Reg.FIELD f, Reg.AVL f] d e ∧ SameBytes d e))
    ∧ (∀ (f : FieldId) (n : Fin 24) (pct : BitVec 16) (i : Instr) (crack : Bool),
      (i = .phaseFault f n ∧ crack = false) ∨ (i = .phaseResistanceTest f n pct ∧ 130 < pct.toNat ∧ crack = true) →
      let g := d.rf (Reg.FIELD f) 60 56 + 1
      (d.rb (Reg.PHMAP f) n = false → g < 13 → Completes i s fun e =>
        e.rb (Reg.PHMAP f) n = true ∧ (crack = true → e.rb (Reg.PHMAP f) (24 + n.val) = true ∧ e.rb Reg.PWR_STATUS 3 = true)
        ∧ e.rf (Reg.FIELD f) 60 56 = g ∧ e.rf (Reg.FIELD f) 39 28 = (if g < 5 then 792 else 792 * (24 - g) / 20)
        ∧ e.rb Reg.PWR_STATUS 2 = true ∧ (5 ≤ g → e.rf (Reg.FIELD f) 47 41 ≤ 96 * (24 - g) / 20) ∧ e.fieldState f = d.fieldState f)
      ∧ (d.rb (Reg.PHMAP f) n = false → 13 ≤ g → 1 ≤ d.fieldState f → d.fieldState f ≤ 3 → Completes i s fun e =>
        e.rb (Reg.PHMAP f) n = true ∧ e.fieldState f = 0 ∧ (d.ready readyDevice = true → e.rd Reg.SHORTS = d.rd Reg.SHORTS + 1))
      ∧ (d.rb (Reg.PHMAP f) n = true → Completes i s fun e => OnlyRegs [] d e))
    ∧ (∀ (f : FieldId) (n : Fin 24) (pct : BitVec 16), pct.toNat ≤ 130 →
      Completes (.phaseResistanceTest f n pct) s fun e => OnlyRegs [] d e)
    ∧ (∀ (p : Port) (w : BitVec 16), d.isSteward p = true → Completes (.capWrite p w) s fun e =>
      e.rf Reg.CAP_W 15 0 = w.toNat ∧ e.rf Reg.CAP_W 31 16 = min (max 4000 (min 10500 w.toNat)) d.thermalCap)
    ∧ (∀ p : Port, d.isSteward p = true → Completes (.forget p) s fun e =>
      (∀ f op x, e.learnedFig f op x = d.rf (Reg.OP op) 47 32) ∧ RegsBut [] d e ∧ SameBytes d e)
    ∧ (∀ (p : Port) (w : BitVec 16), d.isSteward p = false →
      Completes (.capWrite p w) s (fun e => OnlyRegs [] d e) ∧ Completes (.forget p) s fun e => OnlyRegs [] d e)
    ∧ ((∃ t ∈ d.dieTemps, d.targetC < t) → Completes .thermalCapStep s fun e =>
      e.thermalCap = max 4000 (d.thermalCap - 250) ∧ e.rf Reg.CAP_W 31 16 = min e.setW e.thermalCap)
    ∧ ((∀ t ∈ d.dieTemps, t + 5 ≤ d.targetC) → Completes .thermalCapStep s fun e =>
      e.thermalCap = min 10500 (d.thermalCap + 250) ∧ e.rf Reg.CAP_W 31 16 = min e.setW e.thermalCap ∧ RegsBut [Reg.CAP_W] d e)
    ∧ ((∀ t ∈ d.dieTemps, t ≤ d.targetC) → (∃ t ∈ d.dieTemps, d.targetC < t + 5) →
      Completes .thermalCapStep s fun e => OnlyRegs [] d e)

/-- A field's switch (R393, R396 to R398, R411, R413, R492): it opens on overcurrent, undervoltage or lost phases and goes dark;
switch-on and switch-off are the steward's; a ramp starts under its conditions and, done, brings the field's floes and maps up; a
field over 115 °C trips and recovers once cool; at 125 °C everything is killed. -/
def Obligations.FieldSwitchesAct : Prop :=
  ∀ (f : FieldId) (s : State),
    let d := s.dev
    let st := d.fieldState f
    let dark (floe : Nat) (e : Dev) : Prop := e.ready (readyField f) = false ∧ ∀ k < 4, e.floeState (4 * f.val + k) = floe
    let up (e : Dev) : Prop := e.fieldState f = 2 ∧ ∀ k < 4, e.floeState (4 * f.val + k) = if d.oscFailed (4 * f.val + k) then 1 else 0
    (∀ why, 1 ≤ st → st ≤ 3 → (why = .phases → d.phasesGone f = true) →
      Completes (.fieldSwitchOpen f why) s fun e => e.fieldState f = (if why = .overcurrent then 4 else 0)
        ∧ (d.ready readyDevice = true → e.rd Reg.SHORTS = d.rd Reg.SHORTS + 1) ∧ dark 2 e)
    ∧ (∀ why, st = 0 ∨ 4 ≤ st → Completes (.fieldSwitchOpen f why) s fun e => OnlyRegs [] d e)
    ∧ (∀ p : Port, d.isSteward p = true → d.rb Reg.FIELD_CMD 63 = false →
      (d.shortMark f = true ∨ st = 4 ∨ d.phasesGone f = true ∨ d.oscBar f = true →
        Completes (.fieldSwitchOn p f) s fun e => e.rb Reg.FIELD_CMD 63 = false ∧ e.rf Reg.FIELD_CMD 15 0 = St.INVALID
          ∧ OnlyRegs [Reg.FIELD_CMD] d e)
      ∧ (d.shortMark f = false → d.phasesGone f = false → d.oscBar f = false →
        (st = 2 ∨ st = 3 → Completes (.fieldSwitchOn p f) s fun e => e.rb Reg.FIELD_CMD 63 = false ∧ e.rf Reg.FIELD_CMD 15 0 = 0
          ∧ OnlyRegs [Reg.FIELD_CMD] d e)
        ∧ (st = 0 → (∀ g < 16, d.fieldState g ≠ 5) → d.grantOk f = true →
          Completes (.fieldSwitchOn p f) s fun e => e.fieldState f = 1 ∧ e.rb Reg.FIELD_CMD 63 = true
            ∧ OnlyRegs [Reg.FIELD_CMD, Reg.FIELD f] d e)
        ∧ (st = 0 → d.grantOk f = false →
          Completes (.fieldSwitchOn p f) s fun e => e.fieldState f = 5 ∧ e.rb Reg.FIELD_CMD 63 = true
            ∧ e.rd Reg.DEFERS = d.rd Reg.DEFERS + 1 ∧ e.rb Reg.PWR_STATUS 1 = true))
      ∧ (d.fieldBusy f = false → Completes (.fieldSwitchOff p f) s fun e => e.fieldState f = 0 ∧ dark 2 e
          ∧ e.rb Reg.FIELD_CMD 63 = false ∧ e.rf Reg.FIELD_CMD 15 0 = 0)
      ∧ (d.fieldBusy f = true → Completes (.fieldSwitchOff p f) s fun e =>
          e.rb Reg.FIELD_CMD 63 = false ∧ e.rf Reg.FIELD_CMD 15 0 = St.BUSY ∧ OnlyRegs [Reg.FIELD_CMD] d e))
    ∧ (∀ p : Port, d.isSteward p = false ∨ d.rb Reg.FIELD_CMD 63 = true →
      Completes (.fieldSwitchOn p f) s (fun e => OnlyRegs [] d e) ∧ Completes (.fieldSwitchOff p f) s fun e => OnlyRegs [] d e)
    ∧ (st = 5 → (∀ g < f.val, d.fieldState g ≠ 5) → d.grantOk f = true →
      Completes (.fieldRampStart f) s fun e => e.fieldState f = 1 ∧ OnlyRegs [Reg.FIELD f] d e)
    ∧ (st ≠ 5 ∨ d.grantOk f = false → Completes (.fieldRampStart f) s fun e => OnlyRegs [] d e)
    ∧ (∀ w : WaveObs, st = 1 → d.switchPending = false → d.oscBar f = false → w.crossing = false → w.sensor = false →
      Completes (.fieldRampDone f w) s up)
    ∧ (∀ w : WaveObs, st = 1 → d.switchPending = false → d.oscBar f = false → w.crossing = true →
      Completes (.fieldRampDone f w) s fun e => e.fieldState f = (if d.shortMark f then 4 else 0)
        ∧ e.rf Reg.FIELD_CAUSE (4 * f.val + 3) (4 * f.val) = 3 ∧ e.failedBit (readyField f) = true ∧ dark 2 e)
    ∧ (∀ w : WaveObs, st ≠ 1 ∨ d.switchPending = true → Completes (.fieldRampDone f w) s fun e => OnlyRegs [] d e)
    ∧ (st = 1 ∨ st = 2 → Completes (.fieldTrip f) s fun e => e.fieldState f = 3 ∧ e.rd Reg.TRIPS = d.rd Reg.TRIPS + 1 ∧ dark 2 e)
    ∧ (st ≠ 1 → st ≠ 2 → Completes (.fieldTrip f) s fun e => OnlyRegs [] d e)
    ∧ (∀ w : WaveObs, st = 3 → (∀ i < 8, d.rf (Reg.TEMP f) (8 * i + 7) (8 * i) ≤ 95) → d.oscBar f = false → w.crossing = false →
      w.sensor = false → Completes (.tripRecovery f w) s up)
    ∧ (∀ (w : WaveObs) (i : Nat), i < 8 → 95 < d.rf (Reg.TEMP f) (8 * i + 7) (8 * i) →
      Completes (.tripRecovery f w) s fun e => OnlyRegs [] d e)
    ∧ Completes .overtempKill s fun e => e.killed = true ∧ Out.pin 0 true ∈ e.out
        ∧ e.fieldState f = (if st = 4 then 4 else 0) ∧ dark 2 e

/-- Readings and hours (R409, R410, R412, R419, R424, R510): every temperature is shown, a stack at 105 °C is stopped, a link's engine is
marked hot from 85 °C; an hour of operation raises its lifetime counter in firn. -/
def Obligations.ReadingsAreTaken : Prop :=
  ∀ s : State,
    let d := s.dev
    (∀ die mem links : List (BitVec 8), Completes (.sensorRead die mem links) s fun e =>
      (∀ f i, f < 16 → i < 8 → e.rf (Reg.TEMP f) (8 * i + 7) (8 * i) = (die.getD (8 * f + i) 0xFF).toNat)
      ∧ (∀ k, k < 36 → 105 ≤ (mem.getD k 0xFF).toNat → (mem.getD k 0xFF).toNat < 255 → stackState d k ≤ 1 →
          stackState e k = 3 ∧ k ∈ e.tripped)
      ∧ (∀ k, k < 24 → (links.getD k 0xFF).toNat < 255 → e.rb (Reg.L_STATUS k) 58 = decide (85 ≤ (links.getD k 0xFF).toNat)))
    ∧ Completes .operatingHoursWrite s fun e => e.firnView 0x41 = (d.firnView 0x41 + 1) % 2 ^ 32 ∧ e.firn = d.firn
        ∧ RegsBut [] d e ∧ SameBytes d e

/-! ## The host interface -/

/-- The steward lease (R461): a claim takes a free lease for a ready port and advances its term, or renews the port's own; renewal sets
3,000 ms again; release and lapse end it; no other port's claim, renewal or release has an effect. -/
def Obligations.StewardLeaseIsHeld : Prop :=
  ∀ (p : Port) (s : State),
    let d := s.dev
    (d.rb Reg.STEWARD 63 = false → d.ready (readyPort p) = true → d.served = true →
      Completes (.claim p) s fun e => e.isSteward p = true ∧ e.rf Reg.STEWARD 31 0 = 3000
        ∧ e.rf Reg.STEWARD 47 32 = (d.rf Reg.STEWARD 47 32 + 1) % 65536 ∧ RegsBut [Reg.STEWARD] d e ∧ SameBytes d e ∧ SameTiles d e)
    ∧ (d.rb Reg.STEWARD 63 = false → d.ready (readyPort p) = false → Completes (.claim p) s fun e => OnlyRegs [] d e)
    ∧ (d.isSteward p = true →
      (∀ i ∈ [Instr.claim p, Instr.renew p], Completes i s fun e =>
        e.rf Reg.STEWARD 31 0 = 3000 ∧ e.isSteward p = true ∧ e.rf Reg.STEWARD 47 32 = d.rf Reg.STEWARD 47 32 ∧ OnlyRegs [Reg.STEWARD] d e)
      ∧ (∀ i ∈ [Instr.stewardRelease p, Instr.leaseLapse], Completes i s fun e =>
        e.rb Reg.STEWARD 63 = false ∧ e.rf Reg.STEWARD 31 0 = 0 ∧ RegsLog [Reg.STEWARD] d e ∧ SameTiles d e))
    ∧ (d.isSteward p = false → d.rb Reg.STEWARD 63 = true → Completes (.claim p) s fun e => OnlyRegs [] d e)
    ∧ (d.isSteward p = false → ∀ i ∈ [Instr.renew p, Instr.stewardRelease p], Completes i s fun e => OnlyRegs [] d e)
    ∧ (d.rb Reg.STEWARD 63 = false → Completes .leaseLapse s fun e => OnlyRegs [] d e)

/-- Contexts (R465 to R469): CREATE gives a number a page table of its own, LOAD writes the code and the tables of a descriptor that
passes its checks, the context is loaded once the load completes, and DESTROY frees all of it; every entry ends with its CONTROL
record, a refused one with its status and nothing else. -/
def Obligations.ContextsAreCreatedLoadedAndDestroyed : Prop :=
  ∀ (p : Port) (c : CtxId) (n : CtrlEntry) (s : State),
    let d := s.dev
    n.ctx = c →
    let ends (op st : Nat) (e : Dev) : Prop := d.Reports e p n.tag.toNat op c st 0
    let same (e : Dev) : Prop := e.ctxs = d.ctxs ∧ e.ctxState c = d.ctxState c ∧ (d.RecRoom p → SameBytes d e) ∧ SameTiles d e
    let pool := d.rangeOf Reg.PT_POOL
    (entryClean n 0 = true → d.ctxState c = 0 → d.hostFenced p = false → d.locked = true →
      (∃ u < pool.2 / 4096, ∀ x ∈ d.nodes, x.addr + x.size ≤ pool.1 + 4096 * u ∨ pool.1 + 4096 * (u + 1) ≤ x.addr) →
      Completes (.create p n) s fun e => e.ctxState c = 1 ∧ e.ctxPort c = some p.val ∧ e.rb (Reg.PTROOT c) 63 = true
        ∧ (∃ x ∈ e.nodes, x ∉ d.nodes ∧ x.ctx = c ∧ x.size = 4096 ∧ pool.1 ≤ x.addr ∧ x.addr + 4096 ≤ pool.1 + pool.2
            ∧ (d.RecRoom p → ∀ i < 4096, e.rdByte (x.addr + i) = 0))
        ∧ ends 1 0 e)
    ∧ (entryClean n 0 = false ∨ d.ctxState c ≠ 0 → Completes (.create p n) s fun e => ends 1 St.INVALID e ∧ same e)
    ∧ (entryClean n 0 = true → d.ctxState c = 0 → d.hostFenced p = true →
      Completes (.create p n) s fun e => ends 1 St.FENCED e ∧ same e)
    ∧ (∀ desc code : List Byte, let len := n.w2.toNat; let x : Desc := ⟨desc.take len⟩
      (entryClean n 2 = true → d.owns p c = true → d.entryFenced p c = false → d.loadingCtx c = false → d.ctxTiles c = [] →
        d.checkDesc (desc.take len) len = 0 →
        Completes (.load p n desc code) s fun e => e.ctxState c = 2 ∧ e.ctxPort c = some p.val ∧ e.ctxIsCad c = x.cadence
          ∧ (⟨c, p, n.tag.toNat⟩ : Loading) ∈ e.loading
          ∧ ∀ i < x.tiles, ∃ t, d.physOf (x.logical i) = some t
            ∧ e.rd (Reg.tile t (Reg.CS (x.slot i))) = w64 (2 ^ 63 + c.val * 2 ^ 48 + b2n x.cadence * 2 ^ 47 + (x.extent i).2 * 2 ^ 16 + (x.extent i).1)
            ∧ e.slotState t (x.slot i) = 0
            ∧ ∀ k < (x.extent i).2, smGet (fun _ => 0) (e.tile t).cstore ((x.extent i).1 + k) = bundleAt code (x.r i 0x10 + k))
      ∧ (entryClean n 2 = false ∨ d.owns p c = false → Completes (.load p n desc code) s fun e => ends 2 St.INVALID e ∧ same e)
      ∧ (entryClean n 2 = true → d.owns p c = true → d.entryFenced p c = true →
        Completes (.load p n desc code) s fun e => ends 2 St.FENCED e ∧ same e))
    ∧ (∀ l, d.loading.find? (·.ctx == c.val) = some l →
      Completes (.loadComplete c) s fun e => e.ctxState c = 3 ∧ e.loadingCtx c = false ∧ d.Reports e l.port l.tag 2 c 0 0
        ∧ (d.ctxIsCad c = false → ∀ x ∈ d.ctxTiles c, d.slotState x.1 x.2 = 0 → e.slotState x.1 x.2 = 1))
    ∧ (d.loadingCtx c = false → Completes (.loadComplete c) s fun e => OnlyRegs [] d e)
    ∧ (entryClean n 0 = true → d.owns p c = true → d.entryFenced p c = false → d.ctxBusy c = false → d.ctxNamed c = false →
      Completes (.destroy p n) s fun e => e.ctxState c = 0 ∧ e.ctxPort c = none ∧ e.rd (Reg.PTROOT c) = 0
        ∧ (∀ x ∈ e.nodes, x.ctx ≠ c) ∧ ends 3 0 e)
    ∧ (entryClean n 0 = false ∨ d.owns p c = false → Completes (.destroy p n) s fun e => ends 3 St.INVALID e ∧ same e)
    ∧ (entryClean n 0 = true → d.owns p c = true → d.entryFenced p c = false → d.ctxBusy c = true →
      Completes (.destroy p n) s fun e => ends 3 St.BUSY e ∧ same e)

/-- Launches (R466, R472, R514): LAUNCH queues one launch on every tile of a loaded free-running context; once every tile has halted or
faulted the launch ends with its CONTROL record, which names the first fault and its tile. -/
def Obligations.LaunchesRunAndEnd : Prop :=
  ∀ (p : Port) (c : CtxId) (n : CtrlEntry) (s : State),
    let d := s.dev
    n.ctx = c →
    let refused (st : Nat) : Prop := Completes (.launch p n) s fun e =>
      d.Reports e p n.tag.toNat 4 c st 0 ∧ e.launches = d.launches ∧ (d.RecRoom p → SameBytes d e) ∧ SameTiles d e
    let mine : Prop := entryClean n 0 = true ∧ d.owns p c = true
    (mine → d.workFenced p c = false → d.loadingCtx c = false → d.ctxTiles c ≠ [] → d.ctxIsCad c = false →
      d.ctxState c = 3 ∨ d.ctxState c = 5 →
      Completes (.launch p n) s fun e => e.nextLaunch = d.nextLaunch + 1
        ∧ e.launches = d.launches ++ [{ id := d.nextLaunch, ctx := c, port := p, tag := n.tag.toNat, left := (d.ctxTiles c).map (·.1) }]
        ∧ (∀ x ∈ d.ctxTiles c, (⟨x.2, d.nextLaunch⟩ : TileLaunch) ∈ (e.tile x.1).launches)
        ∧ RegsBut [] d e ∧ SameBytes d e)
    ∧ (entryClean n 0 = false ∨ d.owns p c = false → refused St.INVALID)
    ∧ (mine → d.workFenced p c = true → refused St.FENCED)
    ∧ (mine → d.workFenced p c = false → d.loadingCtx c = true → refused St.BUSY)
    ∧ (mine → d.workFenced p c = false → d.loadingCtx c = false → d.ctxTiles c = [] ∨ d.ctxIsCad c = true ∨ (d.ctxState c ≠ 3 ∧ d.ctxState c ≠ 5) →
      refused St.INVALID)
    ∧ (∀ l, d.launches.find? (fun l => l.ctx == c.val && l.left == []) = some l → l.iso = false → d.fences = [] →
      (l.fault = none → Completes (.launchEnd c) s fun e =>
        e.launches = d.launches.filter (·.id != l.id) ∧ d.Reports e l.port l.tag 4 c 0 0)
      ∧ (∀ code t, l.fault = some (code, t) → Completes (.launchEnd c) s fun e =>
        e.launches = d.launches.filter (·.id != l.id) ∧ d.Reports e l.port l.tag 4 c St.FAULTED (code + t * 2 ^ 16)))
    ∧ ((∀ l ∈ d.launches, l.ctx = c → l.left ≠ []) → Completes (.launchEnd c) s fun e => OnlyRegs [] d e)

/-- Copies (R470, R471): a valid entry starts a copy, and one to a peer is sent on the link that leads there, or ends with LINK_DOWN; lines from
the host are stored in memory, lines to the host are written to it, poisoned ones marked, and a line within a context keeps its poison; a copy
to a peer ends once every cell is acknowledged, or with WINDOW where it is refused; one whose first address does not translate ends with PAGE and
no unit moved. A copy window belongs to the port of its context, and a write of it waits for the copies into it. -/
def Obligations.CopiesMoveLines : Prop :=
  ∀ (p : Port) (n : CtrlEntry) (j : Fin 16) (host : List Byte) (errs : List (BitVec 48 × Bool)) (s : State),
    let d := s.dev
    let kind := fld n.w3 34 32
    let len := fld n.w3 29 0
    (entryClean n 4 = true → d.owns p n.ctx = true → d.workFenced p n.ctx = false → kind ≤ 1 ∨ kind = 3 → n.w4 = 0 →
      fld n.w3 31 30 = 0 → fld n.w3 63 36 = 0 → 1 ≤ len → len ≤ 2 ^ 24 → n.w1.toNat % 64 = 0 → n.w2.toNat % 64 = 0 →
      (∀ k ∈ d.copies, k.kind ≠ 2) →
      Completes (.copy p n errs) s fun e => e.nextCopy = d.nextCopy + 1
        ∧ e.copies = d.copies ++ [{ id := d.nextCopy, port := p, tag := n.tag.toNat, ctx := n.ctx, kind := kind, src := n.w1.toNat,
                                    dst := n.w2.toNat, units := len, be := tst n.w3 35, peer := 0, win := 0 }]
        ∧ RegsBut [] d e ∧ SameBytes d e ∧ SameTiles d e)
    ∧ (∀ pa, let cls := if tst n.w3 35 then 3 else 2; let win := fld n.w4 34 32; let peer := fld n.w4 16 0
      let cell : QCell := { typ := 1, cls, w1 := word1 false 0 win d.myId peer (b2n (d.lineAt pa).poison), w2 := 2 ^ 48 + n.w2.toNat % 2 ^ 48,
                            block := 0, payload := d.rdBytes pa 64, copy := some d.nextCopy }
      entryClean n 4 = true → d.owns p n.ctx = true → d.workFenced p n.ctx = false → kind = 2 → fld n.w4 31 17 = 0 → fld n.w4 63 35 = 0 →
      fld n.w3 31 30 = 0 → fld n.w3 63 36 = 0 → len = 1 → n.w1.toNat % 64 = 0 → n.w2.toNat % 64 = 0 →
      (∀ k ∈ d.copies, k.kind ≠ 2 ∧ k.id ≠ d.nextCopy) → (d.running p).length < 16 →
      n.w1.toNat < 2 ^ 48 → d.translate n.ctx n.w1.toNat false = some pa → d.stackUp ((stackOf pa).getD 0) = true →
      (∀ l, d.route cls peer win = some l → d.canSend l cls = true →
        Completes (.copy p n []) s fun e => d.Sends e l cell ∧ e.nextCopy = d.nextCopy + 1
          ∧ e.copies = d.copies ++ [{ id := d.nextCopy, port := p, tag := n.tag.toNat, ctx := n.ctx, kind := 2, src := n.w1.toNat,
                                      dst := n.w2.toNat, units := 1, be := tst n.w3 35, peer, win, sent := true }]
          ∧ RegsBut [] d e ∧ SameBytes d e ∧ SameTiles d e)
      ∧ (d.route cls peer win = none → Completes (.copy p n []) s fun e =>
          d.Reports e p n.tag.toNat 5 n.ctx St.LINK_DOWN 0 ∧ e.copies = d.copies))
    ∧ (entryClean n 4 = false ∨ d.owns p n.ctx = false ∨ 3 < kind ∨ len = 0 ∨ 2 ^ 24 < len ∨ n.w1.toNat % 64 ≠ 0 ∨ n.w2.toNat % 64 ≠ 0 →
      Completes (.copy p n errs) s fun e => d.Reports e p n.tag.toNat 5 n.ctx St.INVALID 0 ∧ e.copies = d.copies ∧ (d.RecRoom p → SameBytes d e))
    ∧ (∀ k, (d.running p)[j.val]? = some k → k.kind ≤ 1 ∨ k.kind = 3 → (∀ x ∈ d.copies, x.kind ≠ 2) → d.fences = [] →
      (∀ pa, k.kind = 0 → k.units = 1 → k.dst < 2 ^ 48 → d.translate k.ctx k.dst true = some pa → d.stackUp ((stackOf pa).getD 0) = true →
        Completes (.copyEnd p j host false errs) s fun e =>
          (d.RecRoom k.port → e.rdBytes pa 64 = padTo 64 (host.take 64) ∧ ∀ a, a < pa ∨ pa + 64 ≤ a → e.rdByte a = d.rdByte a)
          ∧ e.copies = d.copies.filter (·.id != k.id) ∧ d.Reports e k.port k.tag 5 k.ctx 0 1)
      -- any number of units, where the copy does not write the tables that translate it
      ∧ (∀ f : Nat → Nat, k.kind = 0 → let apart (a : Nat) : Prop := ∀ i < k.units, a < f i ∨ f i + 64 ≤ a
          k.dst + 64 * k.units ≤ 2 ^ 48 → (∀ i < k.units, d.stackUp ((stackOf (f i)).getD 0) = true) →
          (∀ i j', i < k.units → j' < k.units → i ≠ j' → f i + 64 ≤ f j' ∨ f j' + 64 ≤ f i) →
          (∀ x : Dev, x.regs = d.regs → (∀ a, apart a → x.rdByte a = d.rdByte a) →
            ∀ i < k.units, x.translate k.ctx (k.dst + 64 * i) true = some (f i)) →
        Completes (.copyEnd p j host false errs) s fun e =>
          (d.RecRoom k.port → (∀ i < k.units, e.rdBytes (f i) 64 = padTo 64 ((host.drop (64 * i)).take 64)) ∧ ∀ a, apart a → e.rdByte a = d.rdByte a)
          ∧ e.copies = d.copies.filter (·.id != k.id) ∧ d.Reports e k.port k.tag 5 k.ctx 0 k.units)
      ∧ (∀ pa pb, k.kind = 3 → k.units = 1 → k.src < 2 ^ 48 → k.dst < 2 ^ 48 → d.translate k.ctx k.src false = some pa →
          d.translate k.ctx k.dst true = some pb → pb % 64 = 0 → d.stackUp ((stackOf pa).getD 0) = true → d.stackUp ((stackOf pb).getD 0) = true →
        Completes (.copyEnd p j host false []) s fun e =>
          (d.RecRoom k.port → e.rdBytes pb 64 = d.rdBytes pa 64 ∧ (e.lineAt pb).poison = (d.lineAt pa).poison
            ∧ ∀ a, a < pb ∨ pb + 64 ≤ a → e.rdByte a = d.rdByte a)
          ∧ e.copies = d.copies.filter (·.id != k.id) ∧ d.Reports e k.port k.tag 5 k.ctx 0 1)
      ∧ (k.kind = 1 → (∀ i < k.units, k.src + 64 * i < 2 ^ 48
            ∧ ∃ pa, d.translate k.ctx (k.src + 64 * i) false = some pa ∧ d.stackUp ((stackOf pa).getD 0) = true) →
        Completes (.copyEnd p j host false []) s fun e =>
          (∀ i pa, i < k.units → d.translate k.ctx (k.src + 64 * i) false = some pa →
            (if (d.lineAt pa).poison then Out.hostPoison k.port (k.dst + 64 * i) (d.rdBytes pa 64)
             else Out.host k.port (k.dst + 64 * i) (d.rdBytes pa 64)) ∈ e.out)
          ∧ (d.RecRoom k.port → SameBytes d e) ∧ e.copies = d.copies.filter (·.id != k.id) ∧ d.Reports e k.port k.tag 5 k.ctx 0 k.units)
      ∧ (1 ≤ k.units → d.translate k.ctx (if k.kind = 0 then k.dst else k.src) (k.kind == 0) = none →
        Completes (.copyEnd p j host false errs) s fun e =>
          (d.RecRoom k.port → SameBytes d e) ∧ e.copies = d.copies.filter (·.id != k.id) ∧ d.Reports e k.port k.tag 5 k.ctx St.PAGE 0))
    ∧ (∀ k, (d.running p)[j.val]? = some k → k.kind = 2 → (∀ x ∈ d.copies, x.kind = 2 → x.sent = true) → d.fences = [] →
      (d.cellsOut k.id = false → Completes (.copyEnd p j host false errs) s fun e =>
        e.copies = d.copies.filter (·.id != k.id) ∧ d.Reports e k.port k.tag 5 k.ctx 0 k.units)
      ∧ (d.cellsOut k.id = true → Completes (.copyEnd p j host false errs) s fun e => OnlyRegs [] d e)
      ∧ (Completes (.copyEnd p j host true errs) s fun e =>
        e.copies = d.copies.filter (·.id != k.id) ∧ d.Reports e k.port k.tag 5 k.ctx St.WINDOW 0))
    ∧ ((d.running p)[j.val]? = none → ∀ refused, Completes (.copyEnd p j host refused errs) s fun e => OnlyRegs [] d e)
    ∧ (∀ (w : Fin 8) (v : BitVec 64), let off := Reg.CWIN w; let new := fld v 57 52; let old := d.rf off 57 52
      (d.owns p new = true → d.rb off 63 = false ∨ d.owns p old = true →
        (d.cwinBusy.contains w.val = false → Completes (.copyWindowWrite p w false v) s fun e =>
          e.rd off = v &&& regImpl off ∧ OnlyRegs [off] d e)
        ∧ (d.cwinBusy.contains w.val = true → Completes (.copyWindowWrite p w false v) s fun e =>
          e.cwinPend = d.cwinPend ++ [(off, v &&& regImpl off)] ∧ RegsBut [] d e))
      ∧ (d.owns p new = false ∨ (d.rb off 63 = true ∧ d.owns p old = false) →
        Completes (.copyWindowWrite p w false v) s fun e => OnlyRegs [] d e)
      ∧ (d.owns p old = true → d.cwinBusy.contains w.val = false → Completes (.copyWindowWrite p w true v) s fun e =>
        e.rd (Reg.CWINR w) = v &&& regImpl (Reg.CWINR w) ∧ OnlyRegs [Reg.CWINR w] d e)
      ∧ (d.owns p old = false → Completes (.copyWindowWrite p w true v) s fun e => OnlyRegs [] d e))

/-- BAR2 (R40, R43, R44, R46, R152, R170, R458): a port reads and writes the tiers and the scratchpads through its window over the physical map;
a write reaches the reserved ranges alone; an access to nothing, to a dark place or past a stack that is down fails with its
status, returns all ones, and latches the first failure. -/
def Obligations.Bar2ReachesTheMap : Prop :=
  ∀ (p : Port) (o : BitVec 42) (s : State),
    let d := s.dev
    let a := d.bar2Addr p o.toNat
    let failed (st : Nat) (e : Dev) : Prop := e.rd (Reg.P_WINCOUNT p) = d.rd (Reg.P_WINCOUNT p) + 1
      ∧ (d.rb (Reg.P_WINERR p) 63 = false → e.rf (Reg.P_WINERR p) 63 63 = 1 ∧ e.rf (Reg.P_WINERR p) 55 48 = st ∧ e.rf (Reg.P_WINERR p) 47 0 = a)
      ∧ (d.rb (Reg.P_WINERR p) 63 = true → e.rd (Reg.P_WINERR p) = d.rd (Reg.P_WINERR p) &&& regImpl (Reg.P_WINERR p))
    (∀ (n : BitVec 13) (k : Nat), reach a = .tier k → d.hostFenced p = false → d.stackUp k = true →
      ((∀ x ∈ linesOf a n.toNat, (d.lineAt x).poison = false) →
        Completes (.bar2Read p o n []) s fun e => e.out = d.out ++ [.readBytes p (d.rdBytes a n.toNat)] ∧ RegsBut [] d e ∧ SameBytes d e)
      ∧ ((∃ x ∈ linesOf a n.toNat, (d.lineAt x).poison = true) →
        Completes (.bar2Read p o n []) s fun e => e.out = d.out ++ [.readPoison p (d.rdBytes a n.toNat)] ∧ failed St.POISONED e ∧ SameBytes d e))
    ∧ (∀ (n : BitVec 13) (k : Nat), reach a = .tier k →
      (d.hostFenced p = true → Completes (.bar2Read p o n []) s fun e =>
        e.out = d.out ++ [.readBytes p (List.replicate n.toNat 0xFF)] ∧ failed St.FENCED e)
      ∧ (d.hostFenced p = false → d.stackUp k = false → Completes (.bar2Read p o n []) s fun e =>
        e.out = d.out ++ [.readBytes p (List.replicate n.toNat 0xFF)] ∧ failed St.TIER_BUSY e))
    ∧ (∀ (n : BitVec 13) (bs : List Byte), reach a = .unmapped →
      (Completes (.bar2Read p o n []) s fun e => .readBytes p (List.replicate n.toNat 0xFF) ∈ e.out ∧ failed St.UNMAPPED e)
      ∧ (Completes (.bar2Write p o bs []) s fun e => failed St.UNMAPPED e))
    ∧ (∀ (bs : List Byte) (k : Nat), reach a = .tier k → d.hostFenced p = false → d.stackUp k = true →
      (d.writeBarred a = false → Completes (.bar2Write p o bs []) s fun e =>
        e.rdBytes a bs.length = bs ∧ (∀ x, x < a ∨ a + bs.length ≤ x → e.rdByte x = d.rdByte x)
          ∧ RegsBut ((List.range 16).map Reg.PKG) d e ∧ e.out = d.out)
      ∧ (d.writeBarred a = true → Completes (.bar2Write p o bs []) s fun e => OnlyRegs [] d e))
    ∧ (∀ off, reach a = .regs off → off % 8 = 0 →
      Completes (.bar2Read p o 8 []) s fun e => .readBytes p (toBytes 8 (d.regValue p off).toNat) ∈ e.out ∧ SameBytes d e)
    ∧ (∀ t w, reach a = .aperture t (32 * w) → w < 131072 → d.hostFenced p = false → (d.tile t).dead = false → d.tileDark t = false →
      (d.logOf t).isSome = true → ∀ k, d.winOfWord t w = some k → d.winFenced t k = false →
      (d.winRRemote t k = true → d.winTagged t k = true → (d.tile t).poisoned w = false →
        Completes (.bar2Read p o 32 []) s fun e =>
          .readBytes p ((List.range 32).map fun i => (d.spRd t w).extractLsb' (8 * i) 8) ∈ e.out)
      ∧ (∀ bs : List Byte, bs.length = 32 → d.winWRemote t k = true → (d.tile t).full w = false →
        ((d.tile t).swBusy = false → Completes (.bar2Write p o bs []) s fun e =>
          e.spRd t w = BitVec.ofNat 256 (ofBytes bs) ∧ (e.tile t).full w = true
          ∧ ∀ x, x < spAddr t w ∨ spAddr t (w + 1) ≤ x → e.rdByte x = d.rdByte x)
        -- while a switch of the tile saves or restores, the write waits (R152)
        ∧ ((d.tile t).swBusy = true → Completes (.bar2Write p o bs []) s fun e =>
          (e.tile t).heldWrites = (d.tile t).heldWrites ++ [⟨32 * w, bs, []⟩] ∧ SameBytes d e ∧ RegsBut [] d e))
      ∧ (∀ bs : List Byte, bs.length = 32 → d.winWRemote t k = true → (d.tile t).full w = true → d.winTagged t k = true →
        Completes (.bar2Write p o bs []) s fun e => failed St.TAG_FULL e ∧ SameBytes d e))

/-- A port is reset and fenced, and resumes (R478 to R480): the fence ends its lease, aborts its copies, fences its contexts and returns its
registers to their reset values; RESUME ends the fence once the port is trained; a failed IDE check fences the port. -/
def Obligations.PortsAreFencedAndResume : Prop :=
  ∀ (p : Port) (s : State),
    let d := s.dev
    let fenced (e : Dev) : Prop := e.portFenced p = true ∧ e.ready (readyPort p) = false ∧ e.isSteward p = false
      ∧ (∀ k ∈ e.copies, k.port ≠ p) ∧ (∀ r ∈ e.backlog, r.port ≠ p)
      ∧ (∀ c < 64, d.owns p c = true → d.ctxState c ≠ 0 → e.ctxFencing c = true)
      ∧ (∀ o ∈ [Reg.P_REC p, Reg.P_CTRL p, Reg.P_CQ p, Reg.P_WIN p, Reg.P_WINERR p, Reg.P_WINCOUNT p, Reg.PUB p, Reg.RING p], e.rd o = 0)
      ∧ (∀ v < 4, e.msixMask.getLsbD (4 * p.val + v) = true) ∧ e.sec p = {}
    (∀ k : PortResetKind, Completes (.portReset p k) s fun e => fenced e ∧ e.inL0 p = (if k = .flr then d.inL0 p else false))
    ∧ ((d.sec p).ide = true → Completes (.ideCheckFail p) s fun e => fenced e ∧ .aer p ∈ e.out)
    ∧ ((d.sec p).ide = false → Completes (.ideCheckFail p) s fun e => OnlyRegs [] d e)
    ∧ (d.served = true → d.portFenced p = true → d.inL0 p = true →
      Completes (.portResume p) s fun e => e.portFenced p = false ∧ e.ready (readyPort p) = true
        ∧ RegsBut [Reg.P_CTL p, Reg.READY1, Reg.EVENT] d e ∧ SameBytes d e ∧ SameTiles d e)
    ∧ (d.portFenced p = false ∨ d.inL0 p = false → Completes (.portResume p) s fun e => OnlyRegs [] d e)

/-- Resets and fences (R516, R517, R526, R528): the owner resets or fences its context, the steward a tile or the device; what is
outstanding holds a fence until it has drained or DRAIN_US has passed, and then the domain is reset and the command ends. -/
def Obligations.DomainsAreFencedAndReset : Prop :=
  ∀ (p : Port) (s : State),
    let d := s.dev
    let idle : Prop := d.rb (Reg.RST_CMD p) 63 = false
    let ended (st : Nat) (e : Dev) : Prop := e.rb (Reg.RST_CMD p) 63 = false ∧ e.rd (Reg.RST_STATUS p) = w64 st
    let turned (st : Nat) (e : Dev) : Prop := ended st e ∧ OnlyRegs [Reg.RST_CMD p, Reg.RST_STATUS p] d e
    (∀ c : CtxId, d.served = true → idle →
      (d.owns p c = true → d.ctxIsCad c = false → d.ctxTiles c ≠ [] → d.ctxFencing c = false →
        Completes (.contextReset p c) s fun e => ended 0 e ∧ (∀ l ∈ e.launches, l.ctx ≠ c) ∧ (∀ f ∈ e.flits, f.ctx ≠ c)
          ∧ ∀ x ∈ d.ctxTiles c, d.slotState x.1 x.2 ≠ 0 → d.slotState x.1 x.2 ≠ 6 → e.slotState x.1 x.2 = 1)
      ∧ (d.owns p c = false ∨ d.ctxIsCad c = true ∨ d.ctxTiles c = [] → Completes (.contextReset p c) s (turned St.INVALID))
      ∧ (d.owns p c = true → d.ctxIsCad c = false → d.ctxTiles c ≠ [] → d.ctxFencing c = true →
        Completes (.contextReset p c) s (turned St.FENCED))
      ∧ (d.owns p c = true → d.ctxFencing c = false → d.ctxState c ≠ 0 → d.outstanding c = 0 →
        Completes (.contextFence p c) s fun e => ended 0 e ∧ e.ctxState c = 4 ∧ e.ctxTiles c = [])
      ∧ (d.owns p c = true → d.ctxFencing c = false → d.ctxState c ≠ 0 → d.outstanding c ≠ 0 →
        Completes (.contextFence p c) s fun e => e.rb (Reg.RST_CMD p) 63 = true ∧ .context c ∈ e.fences ∧ SameBytes d e ∧ SameTiles d e)
      ∧ (d.owns p c = false → Completes (.contextFence p c) s (turned St.INVALID))
      ∧ (d.owns p c = true → d.ctxFencing c = true → Completes (.contextFence p c) s (turned St.FENCED)))
    ∧ (∀ (t : TileId) (bad : List (Fin 9)), d.isSteward p = true → idle →
      ((d.tile t).fenced = false → d.fences.contains .device = false → d.tileOut t = 0 → Completes (.tileReset p t bad) s fun e =>
        ended 0 e ∧ (e.tile t).fenced = false ∧ (e.tile t).mode = .idle ∧ (e.tile t).regs = {} ∧ (e.tile t).tags = [] ∧ (e.tile t).poison = []
          ∧ ∀ n < 4, e.rd (Reg.tile t (Reg.CS n)) = 0)
      ∧ ((d.tile t).fenced = false → d.fences.contains .device = false → d.tileOut t ≠ 0 → Completes (.tileReset p t bad) s fun e =>
        e.rb (Reg.RST_CMD p) 63 = true ∧ (e.tile t).fenced = true ∧ .tile t ∈ e.fences)
      ∧ ((d.tile t).fenced = true ∨ d.fences.contains .device = true → Completes (.tileReset p t bad) s (turned St.FENCED)))
    ∧ (d.isSteward p = true → idle →
      (d.fences.contains .device = false → d.deviceOut = 0 → Completes (.deviceReset p) s fun e =>
        (∀ o, ¬(0x700000 ≤ o ∧ o < 0x800000) → e.rd o = regReset o &&& regImpl o) ∧ (∀ a, e.rdByte a = 0) ∧ e.tiles = []
          ∧ e.firn = d.firn ∧ e.wear = d.wear ∧ e.firnQ = d.firnQ ∧ e.powered = true)
      ∧ (d.fences.contains .device = false → d.deviceOut ≠ 0 → Completes (.deviceReset p) s fun e =>
        e.rb (Reg.RST_CMD p) 63 = true ∧ .device ∈ e.fences)
      ∧ (d.fences.contains .device = true → Completes (.deviceReset p) s (turned St.FENCED)))
    ∧ (d.isSteward p = false → (∀ (t : TileId) (bad : List (Fin 9)), Completes (.tileReset p t bad) s fun e => OnlyRegs [] d e)
        ∧ Completes (.deviceReset p) s fun e => OnlyRegs [] d e)
    ∧ (∀ (c : CtxId) (bad : List (Fin 9)),
      (d.fences.contains (.context c) = true → Completes (.drainExpiry (.context c) bad) s fun e =>
        e.ctxState c = 4 ∧ .context c ∉ e.fences ∧ e.ctxTiles c = [] ∧ ∀ l ∈ e.launches, l.ctx ≠ c)
      ∧ (d.fences.contains (.context c) = false → Completes (.drainExpiry (.context c) bad) s fun e => OnlyRegs [] d e))
    ∧ (∀ (t : TileId) (bad : List (Fin 9)), d.fences.contains (.tile t) = true →
      Completes (.drainExpiry (.tile t) bad) s fun e => (e.tile t).fenced = false ∧ (e.tile t).regs = {} ∧ .tile t ∉ e.fences)

/-- Heartbeats, restores and the varve ring (R521, R522, R531, R536, R537): a tile that misses two windows in a row is lost and its
row fenced until the restore has moved the bypass; ENABLE writes the early buffer to a ring that lies in a reserved range; a second
opens every class again. -/
def Obligations.LivenessRestoresAndLog : Prop :=
  ∀ s : State,
    let d := s.dev
    (Completes (.heartbeatWindow []) s fun e => (∀ t ∈ d.tiles.map (·.1), (e.tile t).missed = 0) ∧ RegsBut [] d e ∧ SameBytes d e)
    ∧ (∀ t : TileId, let f := physField t; let r := physRow t; let c := physCol t
      d.ready (readyField f) = true → d.aliveTile t = true →
      ((d.tile t).missed = 0 → Completes (.heartbeatWindow [t]) s fun e => (e.tile t).missed = 1 ∧ RegsBut [] d e)
      ∧ (1 ≤ (d.tile t).missed → (∀ x ∈ d.restores, ¬(x.field = f ∧ x.row = r ∧ x.col = c)) →
        Completes (.heartbeatWindow [t]) s fun e => (e.tile t).dead = true ∧ (∀ i ∈ rowFrom f r c, (e.tile i).fenced = true)
          ∧ e.restores = d.restores ++ [⟨f, r, c, true, false⟩]))
    ∧ (d.restores = [] → Completes .restoreComplete s fun e => OnlyRegs [] d e)
    ∧ (∀ x, d.restores = [x] → x.done = false → x.field < 16 → x.row < 8 → x.col < 13 →
      (∀ i ∈ rowFrom x.field x.row x.col, (d.tile i).inGroup = false) →
      Completes .restoreComplete s fun e => e.restores = []
        ∧ e.bypass x.field x.row = (if d.bypass x.field x.row = 12 then (if x.col = 12 then 13 else x.col) else d.bypass x.field x.row)
        ∧ ∀ i ∈ rowFrom x.field x.row x.col, (e.tile i).fenced = (e.tile i).dead)
    ∧ (∀ p : Port, d.isSteward p = true → d.vrvOn = false → d.inResv d.vrvBase = true → d.inResv (d.vrvBase + 2 ^ 22 - 1) = true →
      Completes (.varveEnable p) s fun e => e.rb Reg.VRV_CTL 63 = true ∧ e.varve.early = [] ∧ SameTiles d e)
    ∧ (∀ p : Port, d.isSteward p = false ∨ d.inResv d.vrvBase = false ∨ d.inResv (d.vrvBase + 2 ^ 22 - 1) = false →
      Completes (.varveEnable p) s fun e => OnlyRegs [] d e)
    ∧ (Completes .varveRateSecond s fun e => e.varve.second = [] ∧ RegsBut [Reg.ITG_CLOCK, Reg.STEWARD] d e ∧ SameBytes d e ∧ SameTiles d e)

/-- Registers and the port's own functions (R17 to R20, R46, R414, R418, R457, R475, R484): an aligned 64-bit access with all bytes enabled
reads or writes a register, any other reads all ones, writes nothing and is recorded; a vector pending while masked is sent once
unmasked; configuration requests are retried until the port is trained. -/
def Obligations.RegisterAccessesAct : Prop :=
  ∀ (p : Port) (w : BitVec 24) (be : BitVec 8) (v : BitVec 64) (s : State),
    let d := s.dev
    let off := 8 * w.toNat
    let recorded (e : Dev) : Prop := d.killed = false → e.rd (Reg.VRV_EV 15) = d.rd (Reg.VRV_EV 15) + 1
    (be = 0xFF → (d.readEnds off).regs = d.regs →
      Completes (.registerRead p w be) s fun e => e.out = d.out ++ [.readData p (d.regValue p off)] ∧ RegsBut [] d e ∧ SameBytes d e ∧ SameTiles d e)
    ∧ (∀ t : TileId, be = 0xFF → d.recovery = false → off = Reg.tile t Reg.VEC_STATE →
      Completes (.registerRead p w be) s fun e => e.out = d.out ++ [.readData p (w64 ((d.tile t).rotB * 2 ^ 8 + (d.tile t).rotA))] ∧ RegsBut [] d e)
    ∧ (be = 0xFF → off = Reg.EST → d.recovery = false →
      Completes (.registerRead p w be) s fun e => e.out = d.out ++ [.readData p (d.rd Reg.EST)] ∧ e.rf Reg.EST 47 32 = 0
        ∧ e.rf Reg.EST 15 0 = d.rf Reg.EST 15 0 ∧ RegsBut [Reg.EST] d e)
    ∧ (be = 0xFF → off = Reg.CAP → Completes (.registerRead p w be) s fun e => e.out = d.out ++ [.readData p (put (d.rd Reg.CAP) 48 48 p)])
    ∧ (be ≠ 0xFF →
      (Completes (.registerRead p w be) s fun e =>
        .readBytes p (List.replicate (findAll 8 be.getLsbD).length 0xFF) ∈ e.out ∧ RegsLog [] d e ∧ SameTiles d e ∧ recorded e)
      ∧ (Completes (.registerWrite p w be v) s fun e => RegsLog [] d e ∧ SameTiles d e ∧ recorded e))
    ∧ (∀ r, be = 0xFF → d.recovery = false → off / 0x100000 = 2 → regRow off = some r →
      (d.mayWrite p off r = true → Completes (.registerWrite p w be v) s fun e =>
        e.rd off = (((d.rd off &&& ~~~(w64 r.rw)) ||| (v &&& w64 r.rw)) &&& ~~~(v &&& w64 r.w1c)) &&& regImpl off ∧ OnlyRegs [off] d e)
      ∧ (d.mayWrite p off r = false → Completes (.registerWrite p w be v) s fun e => OnlyRegs [] d e))
    ∧ (be = 0xFF → d.recovery = false → off = Reg.EVENT → Completes (.registerWrite p w be v) s fun e =>
        (∀ i < 7, e.rb Reg.EVENT i = (d.rb Reg.EVENT i && !v.getLsbD i))
        ∧ e.rf Reg.EVENT 38 32 = (if d.isSteward p then fld v 38 32 else d.rf Reg.EVENT 38 32) ∧ OnlyRegs [Reg.EVENT] d e)
    ∧ (be = 0xFF → d.recovery = false → off / 0x100000 = 2 → regRow off = none →
      Completes (.registerWrite p w be v) s fun e => OnlyRegs [] d e)
    ∧ (∀ n : Fin 4, let i := 4 * p.val + n.val
      (d.msixPend.getLsbD i = true → Completes (.msiXUnmask p n false) s fun e => e.msixMask.getLsbD i = false
        ∧ e.msixPend.getLsbD i = false ∧ e.out = d.out ++ [.msix p n] ∧ RegsBut [] d e ∧ SameBytes d e)
      ∧ (d.msixPend.getLsbD i = false → Completes (.msiXUnmask p n false) s fun e => e.msixMask.getLsbD i = false ∧ e.out = d.out)
      ∧ (Completes (.msiXUnmask p n true) s fun e => e.msixMask.getLsbD i = true ∧ e.out = d.out ∧ RegsBut [] d e))
    ∧ (∀ r : ConfigReq, d.inL0 p = false → Completes (.configurationRequest p r) s fun e =>
        e.out = d.out ++ [.config p false] ∧ RegsBut [] d e ∧ e.boot = d.boot)
    ∧ (d.inL0 p = true →
      (Completes (.configurationRequest p .other) s fun e => e.out = d.out ++ [.config p true] ∧ RegsBut [] d e ∧ e.boot = d.boot)
      ∧ (∀ i, Completes (.configurationRequest p (.identifier i)) s fun e =>
          e.out = d.out ++ [.configId p (d.configId i), .config p true] ∧ RegsBut [] d e ∧ e.boot = d.boot)
      ∧ d.configId .vendor = 0x1F7C ∧ d.configId .device = d.rf Reg.DEV_ID 63 48 ∧ d.configId .revision = d.rf Reg.DEV_ID 47 40
      ∧ (d.subsys = 0 → d.configId .subVendor = 0x1F7C ∧ d.configId .subDevice = 0x70 + d.rf Reg.DEV_ID 39 32)
      ∧ (d.subsys ≠ 0 → d.configId .subVendor = (d.subsys.extractLsb' 0 16).toNat
          ∧ d.configId .subDevice = (d.subsys.extractLsb' 16 16).toNat)
      ∧ (∀ n, Completes (.configurationRequest p (.resizeBar2 n)) s fun e =>
          e.out = d.out ++ [.config p true] ∧ e.bar2Size p = 2 ^ (30 + n.val) ∧ RegsBut [] d e))

/-- The SPDM responder, IDE and the I3C target (R477, R478, R548, R549): each request has its answer, the digests, certificates and
measurements carry what they measure, a session is needed for what the manual says needs one; the I3C target answers once stage
1 has ended and has an address. The bytes of an answer that the manual leaves to SPDM are free (log entry 5). -/
def Obligations.SidebandsAnswer : Prop :=
  ∀ (p : Port) (req : List Byte) (s : State),
    let d := s.dev
    let x := d.sec p
    let answers (code : Nat) (content : List Byte) (e : Dev) : Prop :=
      (∃ tail, e.out = d.out ++ [.spdm p code (content ++ tail)]) ∧ RegsBut [] d e ∧ SameBytes d e ∧ SameTiles d e
    let hash (b : List Byte) : List Byte := toBytes 64 (sha b)
    (∀ y ∈ ([(.spdmGetVersion p req, 0x04, []), (.spdmGetCapabilities p req, 0x61, []), (.spdmNegotiateAlgorithms p req, 0x63, []),
             (.spdmChallenge p req, 0x03, []), (.spdmGetDigests p req, 0x01, hash (d.certChain 0) ++ hash (d.certChain 1)),
             (.spdmGetMeasurements p 0 req, 0x60, [6]), (.spdmGetMeasurements p 2 req, 0x60, hash (slice d.boot.bundle 0 0x880))]
             : List (Instr × Nat × List Byte)),
      Completes y.1 s fun e => answers y.2.1 y.2.2 e ∧ e.sec p = x)
    ∧ (∀ (k : Fin 2) (o n : BitVec 16), Completes (.spdmGetCertificate p k o n) s fun e =>
        answers 0x02 (slice (d.certChain k) o.toNat n.toNat) e ∧ e.sec p = x)
    ∧ (Completes (.spdmKeyExchange p req) s fun e => answers 0x64 [] e ∧ e.sec p = { x with session := 1 })
    ∧ (x.session = 1 → Completes (.spdmFinish p req) s fun e => answers 0x65 [] e ∧ e.sec p = { x with session := 2 })
    ∧ (x.session ≠ 1 → Completes (.spdmFinish p req) s fun e => answers 0x7F [] e ∧ e.sec p = x)
    ∧ (x.session = 2 →
      (Completes (.spdmKeyUpdate p req) s fun e => answers 0x69 [] e ∧ e.sec p = x)
      ∧ (Completes (.spdmHeartbeat p req) s fun e => answers 0x68 [] e ∧ e.sec p = x)
      ∧ (Completes (.spdmEndSession p req) s fun e => answers 0x6C [] e ∧ e.sec p = { x with session := 0 })
      ∧ (∀ m, Completes (.ideKm p m) s fun e => answers 0x7E [] e
          ∧ (e.sec p).keyed = (x.keyed || m == .program) ∧ (e.sec p).session = 2
          ∧ (e.sec p).ide = (if m = .stop then false else x.ide || (m == .go && x.keyed))))
    ∧ (x.session ≠ 2 → ∀ y ∈ [Instr.spdmKeyUpdate p req, .spdmHeartbeat p req, .spdmEndSession p req, .ideKm p .go],
      Completes y s fun e => answers 0x7F [] e ∧ e.sec p = x)
    ∧ (∀ (a : BitVec 7) (bs : List Byte), let frame (e : Dev) : Prop := RegsBut [] d e ∧ SameBytes d e ∧ SameTiles d e
      (d.i3cUp = false → ∀ y ∈ [Instr.setdasa a, .entdaa a, .disec, .i3cPrivateWrite bs, .i3cPrivateRead],
        Completes y s fun e => e.out = d.out ++ [.i3c false []] ∧ e.i3cAddr = d.i3cAddr ∧ frame e)
      ∧ (d.i3cUp = true → d.i3cAddr = none → ∀ y ∈ [Instr.setdasa a, .entdaa a],
        Completes y s fun e => e.out = d.out ++ [.i3c true []] ∧ e.i3cAddr = some a.toNat ∧ frame e)
      ∧ (d.i3cUp = true → d.i3cAddr ≠ none → ∀ y ∈ [Instr.setdasa a, .entdaa a],
        Completes y s fun e => e.out = d.out ++ [.i3c false []] ∧ e.i3cAddr = d.i3cAddr ∧ frame e)
      ∧ (d.i3cUp = true → Completes .disec s fun e => e.out = d.out ++ [.i3c true []] ∧ e.ibiOn = false ∧ frame e)
      ∧ (d.i3cUp = true → d.i3cAddr ≠ none → bs.length = 4 →
        Completes (.i3cPrivateWrite bs) s fun e => e.out = d.out ++ [.i3c true []] ∧ e.i3cSel = ofBytes bs ∧ frame e)
      ∧ (d.i3cUp = true → d.i3cAddr ≠ none → d.i3cSel = Reg.PWR_STATUS →
        Completes .i3cPrivateRead s fun e => e.out = d.out ++ [.i3c true (toBytes 8 (d.rn Reg.PWR_STATUS))] ∧ frame e)
      ∧ (d.i3cUp = true → d.i3cAddr ≠ none → d.i3cSel = Reg.EVENT →
        Completes .i3cPrivateRead s fun e => e.out = d.out ++ [.i3c true (toBytes 8 0)] ∧ frame e)
      ∧ (∀ n, d.ibiPend = some n → Completes .inBandInterruptAck s fun e =>
          e.out = d.out ++ [.pin 1 false, .i3c true [BitVec.ofNat 8 n]] ∧ e.ibiPend = none ∧ frame e)
      ∧ (d.ibiPend = none → Completes .inBandInterruptAck s fun e => OnlyRegs [] d e))

/-! ## Bring-up and firn -/

/-- Power and the first stages (R39, R365, R480, R482, R484, R485, R488, R489, R507, R508, R544): firn outlives power and nothing else does; each
stage begins once what it waits for holds; a device without a bundle that verifies is in recovery. The two verdicts of a bundle are
conclusions, since the signatures are opaque (log entry 4). -/
def Obligations.PowerAndFirstStages : Prop :=
  ∀ (p : Port) (a b : List Byte) (s : State),
    let d := s.dev
    let cleared (e : Dev) : Prop := (∀ o, e.rd o = regReset o &&& regImpl o) ∧ (∀ x, e.rdByte x = 0) ∧ e.tiles = []
      ∧ e.firn = d.firn ∧ e.wear = d.wear ∧ e.out = d.out
    (Completes .powerLoss s fun e => cleared e ∧ e.powered = false ∧ e.firnQ = [])
    ∧ (d.powered = false → Completes .powerGood s fun e => cleared e ∧ e.powered = true ∧ e.firnView 0x40 = (d.firnRd 0x40 + 1) % 2 ^ 32)
    ∧ (d.powered = true → Completes .powerGood s fun e => OnlyRegs [] d e)
    ∧ (d.powered = true → d.stage = 1 → Completes (.firstStageDone a b) s fun e => e.stage = 2 ∧ e.boot.slotA = a ∧ e.boot.slotB = b
        ∧ e.rd Reg.SERIAL = w64 (d.firnRd 0x38 + d.firnRd 0x39 * 2 ^ 32)
        ∧ e.subsys = BitVec.ofNat 32 (d.firnRd 0x82)
        ∧ ∀ n < 4, e.rf (Reg.OP n) 15 0 = d.firnRd (0x200 + n) % 2 ^ 16 ∧ e.rf (Reg.OP n) 47 32 = d.firnRd (0x204 + n) % 2 ^ 16)
    ∧ (d.powered = false ∨ d.stage ≠ 1 → Completes (.firstStageDone a b) s fun e => OnlyRegs [] d e)
    ∧ (∀ n, n = (if bundleSvn d.boot.slotB > bundleSvn d.boot.slotA then 1 else 0) → d.stage = 2 →
      let at' (k : Nat) : List Byte := if k = 0 then d.boot.slotA else d.boot.slotB
      let takes (k : Nat) (e : Dev) : Prop := e.boot.bundle = at' k ∧ e.boot.lastSlot = k ∧ e.recovery = false ∧ e.ready 0 = true
      Completes .bundleVerified s fun e => e.stage = 3
        ∧ (d.checkBundle (at' n) = 0 → takes n e)
        ∧ (d.checkBundle (at' n) ≠ 0 → d.checkBundle (at' (1 - n)) = 0 → takes (1 - n) e)
        ∧ (d.checkBundle (at' n) ≠ 0 → d.checkBundle (at' (1 - n)) ≠ 0 → e.recovery = true ∧ e.boot = d.boot))
    ∧ (d.stage ≠ 2 → Completes .bundleVerified s fun e => OnlyRegs [] d e)
    ∧ (3 ≤ d.stage → d.ready 1 = false → Completes .clockMeshLock s fun e => e.ready 1 = true ∧ e.rb Reg.CLK_STATUS 63 = true
        ∧ e.rb Reg.CLK_STATUS 62 = true ∧ e.stage = max d.stage (if d.recovery then 4 else 5))
    ∧ (d.stage < 3 ∨ d.ready 1 = true → Completes .clockMeshLock s fun e => OnlyRegs [] d e)
    ∧ (Completes (.perstDeassert p) s fun e => e.boot = { d.boot with perstOff := e.boot.perstOff } ∧ e.boot.perstOff.getLsbD p = true
        ∧ RegsBut [] d e ∧ SameBytes d e)
    ∧ (∀ (full half : BitVec 4) (w : Fin 5), let rate := Modules.rate ⟨full.setWidth 8, half.setWidth 8⟩
      (d.ready 1 = true → d.boot.perstOff.getLsbD p = true → rate ≠ 0 →
        Completes (.hostPortTrained ⟨p, full, half, w⟩) s fun e => e.inL0 p = true ∧ (d.portFenced p = false → e.ready (readyPort p) = true)
          ∧ smGet noWidth e.boot.width p = (if rate < 144 then min 8 (2 ^ w.val) else 2 ^ w.val)
          ∧ (d.portFenced p = true → RegsLog [] d e ∧ (144 ≤ rate → RegsBut [] d e))
          ∧ (rate < 144 → d.killed = false → e.rd (Reg.VRV_EV 31) = d.rd (Reg.VRV_EV 31) + 1))
      ∧ (d.ready 1 = false ∨ d.boot.perstOff.getLsbD p = false ∨ rate = 0 →
        Completes (.hostPortTrained ⟨p, full, half, w⟩) s fun e => OnlyRegs [] d e))

/-- Waves, images, stacks and links (R428, R430, R491 to R498): a wave brings up the fields of its diagonal, refusing those that firn
bars; a field is ready once every tile holds the image; six stacks train at a time; links begin once no stack awaits its first
training. -/
def Obligations.WavesImagesAndTraining : Prop :=
  ∀ s : State,
    let d := s.dev
    (∀ (n : Fin 7) (f : Nat), f < 16 → fieldX f + fieldY f = n.val → d.boot.scriptOk = true → d.fieldState f = 0 ∨ d.fieldState f = 4 →
      d.failedBit (readyField f) = false →
      let reach : Prop := isEdgeField f = true ∨ ∃ g ∈ nextFields f, d.ready (readyField g) = true
      let fails (cause : Nat) : Prop := Completes (.fieldWaveStart n) s fun e =>
        e.rf Reg.FIELD_CAUSE (4 * f + 3) (4 * f) = cause ∧ e.failedBit (readyField f) = true ∧ e.ready (readyField f) = false
      (reach → d.shortMark f = true → fails 1)
      ∧ (reach → d.shortMark f = false → d.phasesGone f = true → fails 6)
      ∧ (¬reach → fails 4)
      ∧ (reach → d.shortMark f = false → d.phasesGone f = false → Completes (.fieldWaveStart n) s fun e =>
          (e.fieldState f = 1 ∨ e.fieldState f = 5) ∧ e.stage = max d.stage 6))
    ∧ (∀ n : Fin 7, (∀ f < 16, fieldX f + fieldY f = n.val → d.failedBit (readyField f) = true) → 6 ≤ d.stage →
      Completes (.fieldWaveStart n) s fun e => OnlyRegs [] d e)
    ∧ (∀ n : Fin 7, d.boot.scriptOk = false → Completes (.fieldWaveStart n) s fun e => OnlyRegs [] d e)
    ∧ (∀ f : FieldId, let img := d.boot.bundle
      (d.fieldState f = 2 → d.ready (readyField f) = false → img ≠ [] → imageCount img ≤ 9 →
        Completes (.imageBroadcast f []) s fun e => e.ready (readyField f) = true ∧ e.stage = max d.stage 7
          ∧ ∀ t ∈ d.imageTiles f, e.trf t Reg.TLOAD 17 16 = 1
            ∧ ∀ j k, 1 ≤ j → j < imageCount img → k < 128 → smGet (fun _ => 0) (e.tile t).cstore (128 * (j - 1) + k)
                = BitVec.ofNat 256 (sliceNum (imageBlock img j) (32 * k) 32))
      ∧ (d.fieldState f ≠ 2 ∨ d.ready (readyField f) = true ∨ img = [] → ∀ bad, Completes (.imageBroadcast f bad) s fun e => OnlyRegs [] d e)
      ∧ (d.fieldState f = 2 → img ≠ [] → imageCount img ≤ 9 → ∀ t ∈ d.incomplete f,
        (d.trf t Reg.TLOAD 11 10 < 3 → Completes (.imageRepairRound f []) s fun e =>
          e.trf t Reg.TLOAD 17 16 = 1 ∧ e.trf t Reg.TLOAD 11 10 = d.trf t Reg.TLOAD 11 10 + 1)
        ∧ (d.trf t Reg.TLOAD 11 10 = 3 → Completes (.imageRepairRound f []) s fun e =>
          e.trf t Reg.TLOAD 17 16 = 2 ∧ (e.tile t).dead = true))
      ∧ (d.fieldState f ≠ 2 ∨ img = [] → ∀ bad, Completes (.imageRepairRound f bad) s fun e => OnlyRegs [] d e))
    ∧ (d.trainWait ≠ [] → Completes .stackFirstTraining s fun e => e.stage = max d.stage 8
        ∧ e.training = d.training ++ d.trainWait.take (6 - d.training.length) ∧ e.trainWait = d.trainWait.drop (6 - d.training.length))
    ∧ (d.trainWait = [] → Completes .stackFirstTraining s fun e => OnlyRegs [] d e)
    ∧ (d.stage < 9 → d.boot.scriptOk = true → (∀ k < 36, stackState d k ≠ 4 ∨ d.failedBit (readyStack k) = true) →
      let id := d.firnView 0x80
      let mask := d.firnView 0x81
      Completes .linkBringupStart s fun e => e.stage = 9 ∧ (bit id 31 = true → e.rb Reg.DEVID 63 = true ∧ e.rf Reg.DEVID 16 0 = bits id 16 0)
        ∧ ∀ k < 24, (bit mask k = true → e.linkState k = 6)
          ∧ (bit mask k = false → d.linkState k = 0 → d.rb (Reg.L_CTL k) 63 = true → d.laserOff.contains k = false →
              bit id 31 = true → e.linkState k = 1 ∧ (d.failedBit (readyLink k) = false →
                e.rd (Reg.ATTEMPTS k) = d.rd (Reg.ATTEMPTS k) + 1)))
    ∧ (9 ≤ d.stage ∨ d.boot.scriptOk = false ∨ (∃ k < 36, stackState d k = 4 ∧ d.failedBit (readyStack k) = false) →
      Completes .linkBringupStart s fun e => OnlyRegs [] d e)

/-- Bundles are pushed and stored (R489, R490, R500): START takes a push unless pushes are locked or one runs, DATA fills it, END verifies
it, in recovery it is taken and bring-up goes on, and on a running device it is written to the flash slot not used at the last start. -/
def Obligations.BundlesArePushedAndStored : Prop :=
  ∀ (p : Port) (store : Bool) (v : BitVec 64) (s : State),
    let d := s.dev
    let st (n : Nat) (e : Dev) : Prop := e.rf Reg.PUSH_STATUS 15 0 = n
    let may : Prop := d.recovery = true ∨ d.isSteward p = true
    (d.lockBit 2 = true → Completes (.pushStart p store) s fun e => st St.INVALID e ∧ OnlyRegs [Reg.PUSH_STATUS] d e)
    ∧ (d.lockBit 2 = false → d.boot.push ≠ none ∨ ¬may → Completes (.pushStart p store) s fun e => st St.BUSY e ∧ OnlyRegs [Reg.PUSH_STATUS] d e)
    ∧ (d.lockBit 2 = false → d.boot.push = none → d.recovery = true ∨ (d.isSteward p = true ∧ store = true) →
      Completes (.pushStart p store) s fun e => e.boot.push = some { port := p, store := store } ∧ e.rb Reg.PUSH_STATUS 63 = true
        ∧ RegsBut [Reg.PUSH_STATUS, Reg.PUSH_CTL] d e ∧ SameBytes d e)
    ∧ (∀ x, d.boot.push = some x → x.port = p → x.storing = false →
      (x.bytes.length < 2 ^ 22 → Completes (.pushDataWrite p v) s fun e =>
        e.boot.push = some { x with bytes := x.bytes ++ toBytes 8 v.toNat } ∧ RegsBut [] d e ∧ SameBytes d e)
      ∧ (Completes (.pushEnd p) s fun e => let c := d.checkBundle x.bytes
        (c ≠ 0 → e.boot.push = none ∧ st c e ∧ e.boot.bundle = d.boot.bundle)
        ∧ (c = 0 → d.recovery = true → e.boot.push = none ∧ e.boot.bundle = x.bytes ∧ e.recovery = false ∧ e.ready 0 = true ∧ 5 ≤ e.stage
            ∧ e.rb Reg.BOOT_STATUS 61 = true)
        ∧ (c = 0 → d.recovery = false → e.boot.push = some { x with storing := true } ∧ e.boot.bundle = d.boot.bundle)))
    ∧ (d.boot.push = none → (∀ i ∈ [Instr.pushDataWrite p v, .pushEnd p, .bundleStored], Completes i s fun e => OnlyRegs [] d e))
    ∧ (∀ x, d.boot.push = some x → x.storing = true → Completes .bundleStored s fun e =>
        e.boot.push = none ∧ e.rd Reg.PUSH_STATUS = 0 ∧ e.out = d.out ++ [.flash (1 - d.boot.lastSlot) x.bytes] ∧ RegsBut [Reg.PUSH_STATUS] d e)

/-- Scripts start, run and end (R502 to R506): every command has its effect and the next one waits, END ends the script with success, a
failed POLL, EXPECT or lease ends it with its status, and a divergence of the sequencers restarts bring-up. -/
def Obligations.ScriptsRun : Prop :=
  ∀ s : State,
    let d := s.dev
    let status (e : Dev) : Nat := e.rf Reg.SCRIPT_STATUS 63 48
    let ended (n : Nat) (e : Dev) : Prop := e.boot.script = none ∧ e.rb Reg.SCRIPT_CMD 63 = false ∧ status e = n
    let goes (y : Script) (e : Dev) : Prop :=
      (y.idx + 1 < y.cmds.length → e.boot.script = some { y with idx := y.idx + 1, wait := .none }) ∧ (y.cmds.length ≤ y.idx + 1 → ended 0 e)
        ∧ e.rf Reg.SCRIPT_STATUS 31 0 = (y.idx + 1) % 2 ^ 32
    let commands : List Instr := [.scriptEnd, .scriptWrite, .scriptMask, .scriptModify, .scriptPoll, .scriptTimeout, .scriptDelay,
      .scriptExpect, .scriptRead]
    let sc := component d.boot.bundle 2
    (5 ≤ d.stage → d.boot.bundle ≠ [] → d.boot.scriptRan = false → d.boot.script = none →
      Completes .bringupScriptRun s fun e => e.boot.scriptRan = true
        ∧ (scriptForm sc false = true ∧ cmdsOk false (scriptCmds sc) = true →
            e.boot.script = some { cmds := scriptCmds sc, debug := false, port := 2 } ∧ e.rb Reg.SCRIPT_CMD 63 = true)
        ∧ (¬(scriptForm sc false = true ∧ cmdsOk false (scriptCmds sc) = true) → ended St.INVALID e ∧ e.rb Reg.BOOT_STATUS 60 = true))
    ∧ (d.stage < 5 ∨ d.boot.bundle = [] ∨ d.boot.scriptRan = true ∨ d.boot.script ≠ none →
      Completes .bringupScriptRun s fun e => OnlyRegs [] d e)
    ∧ (∀ (p : Port) (b : List Byte), d.isSteward p = true → d.served = true →
      (d.boot.script ≠ none → Completes (.debugScriptGo p b) s fun e => status e = St.BUSY ∧ OnlyRegs [Reg.SCRIPT_STATUS] d e)
      ∧ (d.boot.script = none → Completes (.debugScriptGo p b) s fun e =>
        (scriptForm b true = false → ended St.INVALID e)
        ∧ (scriptForm b true = true → d.rf Reg.DEV_ID 39 32 ≠ 1 → d.debugOk b = false → e.boot.script = none ∧ status e = St.AUTH_FAIL)
        ∧ (scriptForm b true = true → d.rf Reg.DEV_ID 39 32 = 1 ∨ d.debugOk b = true → cmdsOk true (scriptCmds b) = true →
            e.boot.script = some { cmds := scriptCmds b, debug := true, port := p } ∧ e.rb Reg.SCRIPT_CMD 63 = true)))
    ∧ (∀ (p : Port) (b : List Byte), d.isSteward p = false ∨ d.served = false → Completes (.debugScriptGo p b) s fun e => OnlyRegs [] d e)
    ∧ (∀ x c off,
      (d.AtCommand x 0 c off → Completes .scriptEnd s fun e => ended 0 e ∧ (x.debug = false → e.boot.scriptOk = true)
          ∧ e.rf Reg.SCRIPT_STATUS 31 0 = (x.idx + 1) % 2 ^ 32)
      ∧ (∀ r i v, d.recovery = false → off / 0x100000 = 2 → regRow off = some r →
          (i = .scriptWrite ∧ d.AtCommand x 1 c off ∧ v = c.2)
            ∨ (i = .scriptModify ∧ d.AtCommand x 3 c off ∧ v = (d.regValue x.port off &&& ~~~x.mask) ||| (c.2 &&& x.mask)) →
          Completes i s fun e => goes x e ∧ RegsBut [off, Reg.SCRIPT_STATUS, Reg.SCRIPT_CMD] d e
            ∧ (d.mayWrite x.port off r = true → e.rd off = (((d.rd off &&& ~~~(w64 r.rw)) ||| (v &&& w64 r.rw)) &&& ~~~(v &&& w64 r.w1c)) &&& regImpl off)
            ∧ (d.mayWrite x.port off r = false → e.rd off = d.rd off &&& regImpl off))
      ∧ (d.AtCommand x 2 c off → Completes .scriptMask s (goes { x with mask := c.2 }))
      ∧ (d.AtCommand x 5 c off → Completes .scriptTimeout s (goes { x with timeout := c.2.toNat }))
      ∧ (d.AtCommand x 6 c off → Completes .scriptDelay s fun e => e.boot.script = some { x with wait := .delay } ∧ RegsBut [] d e)
      ∧ (∀ v, v = d.regValue x.port off →
        (d.AtCommand x 4 c off → v &&& x.mask = c.2 &&& x.mask → Completes .scriptPoll s (goes x))
        ∧ (d.AtCommand x 4 c off → v &&& x.mask ≠ c.2 &&& x.mask →
          Completes .scriptPoll s fun e => e.boot.script = some { x with wait := .poll })
        ∧ (d.AtCommand x 7 c off → v &&& x.mask = c.2 &&& x.mask → Completes .scriptExpect s (goes x))
        ∧ (d.AtCommand x 7 c off → v &&& x.mask ≠ c.2 &&& x.mask → Completes .scriptExpect s (ended St.MISMATCH))
        ∧ (d.AtCommand x 8 c off → x.output < 256 → Completes .scriptRead s fun e => goes { x with output := x.output + 1 } e
            ∧ .host x.port (d.rn Reg.SCRIPT_OUT + 16 * x.output) (toBytes 8 (0xC0000000000 + off) ++ toBytes 8 v.toNat) ∈ e.out)))
    ∧ (∀ x c i, d.boot.script = some x → x.cmds[x.idx]? = some c → x.wait ≠ .delay → x.debug = true → d.isSteward x.port = false →
      commands[cmdOp c]? = some i → Completes i s (ended St.FENCED))
    ∧ (d.boot.script = none → ∀ i ∈ commands ++ [.pollExpiry, .delayExpiry, .lockstepDivergence false],
      Completes i s fun e => OnlyRegs [] d e)
    ∧ (∀ x, d.boot.script = some x →
      (x.wait = .poll → Completes .pollExpiry s fun e => ended St.TIMEOUT e ∧ (x.debug = false → e.rb Reg.BOOT_STATUS 60 = true))
      ∧ (x.wait = .delay → Completes .delayExpiry s (goes x))
      ∧ (x.debug = true → Completes (.lockstepDivergence false) s (ended St.LOCKSTEP)))
    ∧ (∀ stage : Bool, stage = true ∨ (∃ x, d.boot.script = some x ∧ x.debug = false) →
      (d.boot.restarts < 2 → Completes (.lockstepDivergence stage) s fun e => e.boot.restarts = d.boot.restarts + 1 ∧ e.stage = 1
          ∧ e.boot.script = none ∧ e.boot.bundle = [] ∧ e.firn = d.firn)
      ∧ (2 ≤ d.boot.restarts → Completes (.lockstepDivergence stage) s fun e => e.recovery = true ∧ e.rb Reg.BOOT_STATUS 60 = true
          ∧ e.ready 0 = false ∧ e.boot.bundle = []))

/-- Firn (R397, R507 to R511): the steward's commands queue the words they grant, are refused with the status of what forbids them, and end
when the operation is durable; both copies then hold the words and their wear has risen. -/
def Obligations.FirnIsWritten : Prop :=
  ∀ (p : Port) (w : BitVec 14) (s : State),
    let d := s.dev
    let x := d.rn Reg.FIRN_DATA
    let go : Prop := d.isSteward p = true ∧ d.rb Reg.FIRN_CMD 63 = false
    let worn (k : Nat) : Bool := d.firnWorn k && !firnOrdinary k
    let queued (e : Dev) : Prop := e.rb Reg.FIRN_CMD 63 = true ∧ e.firnView 0x45 = (d.firnView 0x45 + 1) % 2 ^ 32 ∧ e.firn = d.firn
    let refused (st : Nat) (e : Dev) : Prop := e.rb Reg.FIRN_CMD 63 = false ∧ e.rd Reg.FIRN_STATUS = w64 st
      ∧ OnlyRegs [Reg.FIRN_CMD, Reg.FIRN_STATUS] d e
    (go → firnGranted w.toNat = true → worn w.toNat = false →
      Completes (.firnWrite p w) s fun e => queued e ∧ e.firnView w.toNat = x % 2 ^ 32 ∧ RegsBut [Reg.FIRN_CMD] d e)
    ∧ (go → firnGranted w.toNat = false → Completes (.firnWrite p w) s (refused St.INVALID))
    ∧ (go → firnGranted w.toNat = true → worn w.toNat = true → Completes (.firnWrite p w) s (refused St.WORN))
    ∧ (go → x < 16 → x % 4 = 0 → worn 0 = false → Completes (.setLock p) s fun e => queued e ∧ e.firnView 0 = d.firnView 0 ||| x)
    ∧ (go → 16 ≤ x ∨ x % 4 ≠ 0 → Completes (.setLock p) s (refused St.INVALID))
    ∧ (go → (∀ k < 0x30, worn k = false) → Completes (.enroll p) s fun e =>
        (d.enrollOk = true → queued e ∧ e.lockBit 1 = true
          ∧ ∀ i < 16, e.firnView (0x10 + i) = d.rf (Reg.NEWHASH (i / 2)) (32 * (i % 2) + 31) (32 * (i % 2)) ∧ e.firnView (0x20 + i) = 0)
        ∧ (d.enrollOk = false → refused St.AUTH_FAIL e))
    ∧ (go → worn 0x45C = false → Completes (.clearShort p) s fun e => queued e ∧ ∀ f < 16,
        (d.rf Reg.FIRN_DATA 15 0).testBit f = true → e.shortMark f = false ∧ (d.fieldState f = 4 → e.fieldState f = 0))
    ∧ (go → d.firnView 1 ≤ x → x ≤ d.rf Reg.BOOT_STATUS 31 0 → worn 1 = false →
      Completes (.raiseSvn p) s fun e => queued e ∧ e.firnView 1 = x)
    ∧ (go → x < d.firnView 1 ∨ d.rf Reg.BOOT_STATUS 31 0 < x → Completes (.raiseSvn p) s (refused St.INVALID))
    ∧ (∀ i ∈ [Instr.firnWrite p w, .setLock p, .enroll p, .clearShort p, .raiseSvn p],
      (d.isSteward p = false → Completes i s fun e => OnlyRegs [] d e)
      ∧ (d.isSteward p = true → d.rb Reg.FIRN_CMD 63 = true → Completes i s fun e =>
          e.rd Reg.FIRN_STATUS = w64 St.BUSY ∧ OnlyRegs [Reg.FIRN_STATUS] d e))
    ∧ (d.firnQ = [] → Completes .firnOperationComplete s fun e => OnlyRegs [] d e)
    ∧ (∀ o os, d.firnQ = o :: os → (o.words.map (·.1)).Nodup → Completes .firnOperationComplete s fun e =>
        e.firnQ = os ∧ (∀ z ∈ o.words, e.firnRd z.1 = z.2.toNat ∧ e.wearOf z.1 = min (d.wearOf z.1 + 1) 0xFFFFF)
        ∧ (∀ k, k ∉ o.words.map (·.1) → e.firnRd k = d.firnRd k ∧ e.wearOf k = d.wearOf k)
        ∧ (o.host = true → e.rb Reg.FIRN_CMD 63 = false ∧ e.rd Reg.FIRN_STATUS = 0))

/-! ## Frames, votes, plans -/

/-- Frames start, enter, are checked and end in order (R70, R257, R258, R260, R263, R325, R464, R473, R474): each command acts at its
point of a frame and at no other; between frames the port records are still read and the tick of 1 ms counted. -/
def Obligations.FramesRunInOrder : Prop :=
  ∀ (s : State) (p : Port),
    let d := s.dev
    let ring (q w : Nat) : Nat := fld (d.effRd (Reg.P_CQ q)) 63 12 * 4096 + 64 * (w % 2 ^ fld (d.effRd (Reg.P_CQ q)) 4 0)
    let starts (n : Nat) (e : Dev) : Prop :=
      e.framesRun = true ∧ e.rf Reg.FRAME_NOW 47 0 = n % 2 ^ 48 ∧ e.ended = false ∧ e.joining = false
      ∧ e.rd Reg.MEM_TICK = d.rd Reg.MEM_TICK + 1 ∧ e.voted = false ∧ e.own = none ∧ e.outcome = none
    (∀ (ns : BitVec 64) (r0 r1 : PortRead),
      (d.framesRun = true → d.ended = false → Completes (.frameStart ns r0 r1) s fun e => OnlyRegs [] d e)
      ∧ (d.framesRun = true → d.ended = true → d.rb Reg.GRP 63 = false → d.streamPend = [] →
        Completes (.frameStart ns r0 r1) s fun e => e.framesRun = false ∧ e.planRun = none ∧ ∀ t, (e.tile t).inGroup = false)
      ∧ (d.framesRun = true → d.ended = true → d.rb Reg.GRP 63 = true → d.streamPend = [] → (∀ r ∈ d.restores, r.done = false) →
        Completes (.frameStart ns r0 r1) s fun e => starts (d.frame + 1) e
          ∧ (d.switchAt = none → e.rd Reg.TB_TIME = w64 (d.frameT (d.frame + 1)).toNat &&& regImpl Reg.TB_TIME
            ∧ e.rd Reg.FRAME_CFG = d.rd Reg.FRAME_CFG &&& regImpl Reg.FRAME_CFG)
          ∧ (∀ v, d.switchAt = some (d.frame + 1, v) → e.rd Reg.FRAME_CFG = v &&& regImpl Reg.FRAME_CFG ∧ e.switchAt = none
            ∧ e.rd Reg.FRAME_EPOCH = w64 (d.frameT (d.frame + 1)).toNat &&& regImpl Reg.FRAME_EPOCH
            ∧ e.rd Reg.FRAME_BASE = w64 (d.frame + 1) &&& regImpl Reg.FRAME_BASE)
          ∧ (d.episode = none → d.isolates = false → ∀ c ∈ d.groupCtxs, ∀ x ∈ d.ctxTiles c, (d.tile x.1).fenced = false →
            let y := e.tile x.1
            y.inGroup = true ∧ y.mode = .entry 16 ∧ y.regs = {} ∧ y.verdict = 0))
      ∧ (d.framesRun = false → d.joining = true → d.rb Reg.GRP 63 = true → 40 ≤ d.rf Reg.FRAME_CFG 13 0 → d.rn Reg.FRAME_EPOCH ≤ ns.toNat →
          d.streamPend = [] → d.switchAt = none → (∀ r ∈ d.restores, r.done = false) →
        Completes (.frameStart ns r0 r1) s
          (starts (d.rf Reg.FRAME_BASE 47 0 + (ns.toNat - d.rn Reg.FRAME_EPOCH) / (d.rf Reg.FRAME_CFG 13 0 * 1000))))
      ∧ (d.framesRun = false → d.joining = false → Completes (.frameStart ns r0 r1) s fun e => OnlyRegs [] d e))
    ∧ (d.canonical = true → (∀ x ∈ d.tiles, x.1 < 1664) →
      Completes .frameEntryEnd s fun e =>
        (∀ t n, (d.tile t).mode = .entry n →
          let slot := listSlot (d.tile t).list 0
          e.trd t Reg.BEAT = d.trd t Reg.BEAT + w64 n ∧ e.trd t Reg.WAIT_FRAME = d.trd t Reg.WAIT_FRAME + w64 n
          ∧ (listCount (d.tile t).list = 0 → (e.tile t).mode = .idle)
          ∧ (listCount (d.tile t).list ≠ 0 → d.slotRuns t slot = true →
            (e.tile t).mode = .running ∧ (e.tile t).slot = slot ∧ (e.tile t).entry = 0 ∧ e.slotState t slot = 2))
        ∧ (∀ t, (∀ n, (d.tile t).mode ≠ .entry n) → e.tile t = d.tile t) ∧ SameBytes d e)
    ∧ (∀ rec : Option (BitVec 64 × BitVec 64),
      (d.framesRun = true → Completes (.portRecordIdleRead p rec) s fun e => OnlyRegs [] d e)
      ∧ (d.framesRun = false → d.portFenced p.val = true → d.wrote.getLsbD p.val = false →
        Completes (.portRecordIdleRead p rec) s fun e => OnlyRegs [] d e)
      ∧ (d.framesRun = false → d.portFenced p.val = false →
        Completes (.portRecordIdleRead p rec) s fun e => ∀ o ∈ portRegs p.val, e.effRd o = d.rd o))
    ∧ (∀ ctrl cq : BitVec 64,
        let done := d.rn (Reg.P_CTRL_DONE p)
        let size := fld (d.rd (Reg.P_CTRL p)) 3 0
        d.framesRun = false → d.portFenced p.val = false → d.rd (Reg.P_REC p) ≠ 0 → 4 ≤ size → size ≤ 12 →
      Completes (.portRecordIdleRead p (some (ctrl, cq))) s fun e => e.cqRead p.val = cq.toNat
        ∧ (done ≤ ctrl.toNat → ctrl.toNat ≤ done + 2 ^ size →
          e.rd (Reg.P_CTRL_DONE p) = d.rd (Reg.P_CTRL_DONE p) + w64 (min 256 (ctrl.toNat - done)))
        ∧ (ctrl.toNat < done ∨ done + 2 ^ size < ctrl.toNat → e.rd (Reg.P_CTRL_DONE p) = d.rd (Reg.P_CTRL_DONE p)))
    ∧ (d.portFenced p.val = true ∨ d.cqRoom p.val = false → Completes (.recordBacklogWrite p) s fun e => OnlyRegs [] d e)
    ∧ (∀ r, d.portFenced p.val = false → d.backlog.find? (·.port == p.val) = some r → d.cqRoom p.val = true →
      Completes (.recordBacklogWrite p) s fun e =>
        Out.host p.val (ring p.val (d.rn (Reg.P_CQ_WR p))) ((r.words ++ [d.rd (Reg.P_CQ_WR p)]).flatMap fun w => toBytes 8 w.toNat) ∈ e.out)
    ∧ (d.framesRun = false ∨ d.ended = true → Completes .inputDeadline s fun e => OnlyRegs [] d e)
    ∧ (d.framesRun = true → d.ended = false →
      Completes .inputDeadline s fun e => e.pastInput = true ∧ RegsBut [] d e ∧ SameBytes d e
        ∧ ((∃ k < 24, d.rf (Reg.INPUT k) 31 0 < d.rf (Reg.INPUT k) 63 32) → d.voted = false → e.causes = d.causes ||| 128#16)
        ∧ ((∀ k < 24, d.rf (Reg.INPUT k) 63 32 ≤ d.rf (Reg.INPUT k) 31 0) → e.causes = d.causes))
    ∧ (d.framesRun = true → Completes .memTick s fun e => OnlyRegs [] d e)
    ∧ (d.framesRun = false → d.canonical = true →
      Completes .memTick s fun e => e.rd Reg.MEM_TICK = d.rd Reg.MEM_TICK + 1
        ∧ ∀ t, (d.tile t).mode = .running → (d.tile t).cur.isSome = true → (smGet noStall d.stalled t).2 = (d.trd t Reg.ISSUE).toNat →
          smGet noStall e.stalled t = ((smGet noStall d.stalled t).1 + 1, (d.trd t Reg.ISSUE).toNat))
    ∧ (d.planRun = none ∨ d.framesRun = false ∨ d.ended = true → Completes .planHeaderDelivery s fun e => OnlyRegs [] d e)
    ∧ (∀ q, d.planRun = some q → d.framesRun = true → d.ended = false → q.buf ≤ 1 → q.id < 2 ^ 48 → q.var < 4 → d.hdrPend.Nodup →
        (∀ t ∈ d.hdrPend, t < 1664) →
      let w := d.planWin
      let va := d.intf Reg.INT_JOB 47 24 * 2 ^ 24 + q.buf * 0x800000
      -- the window is there and its words empty, no switch is under way, and the tile's beat has a landing and the words' banks to give
      let ready (t : Nat) : Prop := (d.tile t).fenced = false ∧ (d.tile t).swBusy = false ∧ d.winValid t w = true
        ∧ (d.tile t).full (d.winBase t w) = false ∧ (d.tile t).full (d.winBase t w + 1) = false ∧ (d.tile t).netCount < 2
        ∧ (d.tile t).netBanks.getLsbD (d.winBase t w % 64) = false ∧ (d.tile t).netBanks.getLsbD ((d.winBase t w + 1) % 64) = false
      Completes .planHeaderDelivery s fun e => RegsBut [] d e ∧ ∀ t ∈ d.hdrPend,
        (ready t → t ∉ e.hdrPend
          ∧ (∀ j < 4, (e.spRd t (d.winBase t w)).extractLsb' (64 * j) 64 = w64 (2 ^ 63 + va + 65536 * j))
          ∧ (e.spRd t (d.winBase t w + 1)).toNat = d.frame + q.id * 2 ^ 64 + (q.buf + 2 * b2n q.update + 4 * q.var) * 2 ^ 128
          ∧ (e.tile t).full (d.winBase t w) = true ∧ (e.tile t).full (d.winBase t w + 1) = true)
        ∧ (¬ ready t → t ∈ e.hdrPend ∧ e.tile t = d.tile t))

/-- The commit point (R73, R269, R270, R273, R275): the frame's tiles stop; an outcome that every child holds is applied, a commit or a void
that each port hears of; without it the member is pending, asks for it, and applies it once it is learnt; after 64 frames it leaves. -/
def Obligations.CommitPointAppliesTheOutcome : Prop :=
  ∀ s : State,
    let d := s.dev
    let n := d.frame
    let applied : Prop := ∀ k ∈ d.children, k ∈ d.outAcks
    let ring (q w : Nat) : Nat := fld (d.effRd (Reg.P_CQ q)) 63 12 * 4096 + 64 * (w % 2 ^ fld (d.effRd (Reg.P_CQ q)) 4 0)
    let ends (e : Dev) : Prop := e.ended = true ∧ e.framesRun = true ∧ ∀ t ∈ d.groupTiles, (e.tile t).mode = .idle
    (d.framesRun = false ∨ d.ended = true → Completes .commitPoint s fun e => OnlyRegs [] d e)
    ∧ (d.framesRun = true → d.ended = false → d.rb Reg.GRP 63 = true → d.awaited = none → d.outcome = some true → applied →
      Completes .commitPoint s fun e => ends e ∧ e.rf Reg.COMMITTED 47 0 = n ∧ e.rf Reg.COMMITTED 55 48 = 0
        ∧ e.replay = false ∧ e.rd Reg.VOID_COUNT = d.rd Reg.VOID_COUNT ∧ e.reqs = [])
    ∧ (d.framesRun = true → d.ended = false → d.rb Reg.GRP 63 = true → d.awaited = none → d.outcome = some false → applied →
      Completes .commitPoint s fun e => ends e ∧ e.rf Reg.COMMITTED 47 0 = d.rf Reg.COMMITTED 47 0
        ∧ e.rf Reg.COMMITTED 55 48 = min 255 (d.rf Reg.COMMITTED 55 48 + 1) ∧ e.rd Reg.VOID_COUNT = d.rd Reg.VOID_COUNT + 1
        ∧ e.rf Reg.VOID_LAST 47 0 = n
        ∧ (d.causes = 0 → e.rf Reg.VOID_LAST 51 48 = 8)
        ∧ (∀ c < 16, d.causes.getLsbD c = true → (∀ j < c, d.causes.getLsbD j = false) → e.rf Reg.VOID_LAST 51 48 = c)
        ∧ e.replay = true ∧ e.planNext = none
        ∧ ∀ p < 2, d.portFenced p = false → (∀ r ∈ d.backlog, r.port ≠ p) → d.cqRoom p = true →
          Out.host p (ring p (d.rn (Reg.P_CQ_WR p)))
            (([2, w64 n, 0, 0, 0, 0, 0, d.rd (Reg.P_CQ_WR p)] : List W64).flatMap fun w => toBytes 8 w.toNat) ∈ e.out)
    ∧ (d.framesRun = true → d.ended = false → d.rb Reg.GRP 63 = true → d.awaited = none → d.outcome = none ∨ ¬ applied →
      Completes .commitPoint s fun e => ends e ∧ e.awaited = some n ∧ e.awaitedFor = 0 ∧ e.learnt = d.outcome ∧ e.replay = true
        ∧ e.rb Reg.COMMITTED 63 = true ∧ e.rf Reg.COMMITTED 47 0 = d.rf Reg.COMMITTED 47 0
        ∧ (d.outcome = none → ∀ k < 24, d.scheduled k = true → d.canSend k 0 = true →
          d.Sends e k (d.msgOf k 8 (toBytes 8 n ++ toBytes 8 0))))
    ∧ (∀ a, d.framesRun = true → d.ended = false → d.rb Reg.GRP 63 = true → d.awaited = some a → d.learnt = none →
      Completes .commitPoint s fun e => ends e ∧ e.awaited = some a ∧ e.awaitedFor = d.awaitedFor + 1 ∧ e.replay = true
        ∧ e.rf Reg.COMMITTED 47 0 = d.rf Reg.COMMITTED 47 0 ∧ e.rd Reg.VOID_COUNT = d.rd Reg.VOID_COUNT + 1)
    ∧ (∀ a o, d.framesRun = true → d.ended = false → d.rb Reg.GRP 63 = true → d.awaited = some a → a < 2 ^ 48 → d.learnt = some o →
      Completes .commitPoint s fun e => ends e ∧ e.awaited = none ∧ e.learnt = none ∧ e.rb Reg.COMMITTED 63 = false
        ∧ e.rf Reg.COMMITTED 47 0 = (if o then a else d.rf Reg.COMMITTED 47 0)
        ∧ e.rd Reg.VOID_COUNT = d.rd Reg.VOID_COUNT + (if o then 1 else 2))
    ∧ (d.awaited = none ∨ d.learnt ≠ none ∨ d.awaitedFor < 64 → Completes .pendingExpiry s fun e => OnlyRegs [] d e)
    ∧ (d.awaited ≠ none → d.learnt = none → 64 ≤ d.awaitedFor → d.ended = false →
      Completes .pendingExpiry s fun e => e.rb Reg.GRP 63 = false ∧ e.awaited = none ∧ e.rd Reg.COMMITTED = d.rd Reg.COMMITTED &&& regImpl Reg.COMMITTED)
    ∧ (d.awaited ≠ none → d.learnt = none → 64 ≤ d.awaitedFor → d.ended = true →
      Completes .pendingExpiry s fun e => e.rb Reg.GRP 63 = false ∧ e.awaited = none ∧ e.framesRun = false ∧ ∀ t, (e.tile t).inGroup = false)

/-- The vote (R264 to R269, R446): the device verdict fails for each cause that holds at the cutoff; verdicts are gathered from the
children, a silent one failing with cause 8; the AND goes to the parent, and at the root is the outcome, which goes down the tree; a
member asked for an outcome answers from those it keeps. -/
def Obligations.VotesFormTheOutcome : Prop :=
  ∀ s : State,
    let d := s.dev
    let live : Prop := d.framesRun = true ∧ d.ended = false
    let children := d.children
    let holds (c : Nat) : Prop := d.causes.getLsbD c = true ∨ (∃ t ∈ d.groupTiles, (d.tile t).verdict.getLsbD c = true)
      ∨ (c = 5 ∧ ∃ t ∈ d.groupTiles, (d.tile t).mode ≠ .idle) ∨ (c = 6 ∧ d.heldTiles ≠ []) ∨ (c = 9 ∧ d.tbState = 0)
      ∨ (c = 11 ∧ d.isolating = true) ∨ (c = 8 ∧ (d.awaited ≠ none ∨ d.treeBad ≠ none))
    let voteMsg (k : Nat) (pass : Bool) (low members : Nat) : QCell :=
      d.msgOf k 6 (toBytes 8 d.frame ++ toBytes 8 (b2n pass + (if pass then 0 else low * 2 ^ 8) + members * 2 ^ 16))
    let complete (e : Dev) : Prop := ∀ k ∈ children, ∃ v ∈ e.childVotes, v.link = k
    let passes (e : Dev) : Prop := ∀ v ∈ e.childVotes, v.link ∈ children → v.pass = true
    let tally (own : Bool) (e : Dev) : Prop := d.sentUp = false → d.outcome = none → d.parentLink = none →
      (complete e → (e.outcome = some true ∨ e.outcome = some false) ∧ (e.outcome = some true ↔ own = true ∧ passes e))
      ∧ (¬ complete e → e.outcome = none)
    (d.framesRun = false ∨ d.ended = true ∨ d.voted = true → Completes .voteCutoff s fun e => OnlyRegs [] d e)
    ∧ (live → d.voted = false →
      Completes .voteCutoff s fun e => e.voted = true ∧ e.own = some (e.causes == 0)
        ∧ (∀ c < 16, e.causes.getLsbD c = true ↔ holds c)
        ∧ tally (e.causes == 0) e
        ∧ (children = [] → d.sentUp = false → ∀ k, d.parentLink = some k → d.canSend k 0 = true →
          d.Sends e k (voteMsg k (e.causes == 0) (lowCause e.causes) 1) ∧ e.sentUp = true))
    ∧ (d.framesRun = false ∨ d.ended = true ∨ d.voted = false → Completes .childVerdictCutoff s fun e => OnlyRegs [] d e)
    ∧ (live → d.voted = true →
      Completes .childVerdictCutoff s fun e =>
        e.childVotes = d.childVotes ++ (children.filter fun k => !d.childVotes.any (·.link == k)).map (fun k => ⟨k, false, 8, 0⟩)
        ∧ ∀ own, d.own = some own → tally own e)
    ∧ (∀ (k : LinkId) (h : CellHdr) (f : BitVec 48) (pass : Bool) (cause : BitVec 4) (m : BitVec 9) (since : BitVec 32),
        d.CellTaken k h 6 0 →
      (k.val ∉ children → Completes (.verdict k h f pass cause m since) s fun e => e.treeBad = some k.val ∧ e.childVotes = d.childVotes)
      ∧ (k.val ∈ children → live → f.toNat = d.frame → (∀ v ∈ d.childVotes, v.link ≠ k.val) →
        Completes (.verdict k h f pass cause m since) s fun e => e.childVotes = d.childVotes ++ [⟨k.val, pass, cause.toNat, m.toNat⟩]
          ∧ (d.own = none → e.outcome = d.outcome) ∧ ∀ own, d.own = some own → tally own e)
      ∧ (k.val ∈ children → ¬ live ∨ f.toNat ≠ d.frame →
        Completes (.verdict k h f pass cause m since) s fun e => e.childVotes = d.childVotes ∧ e.outcome = d.outcome))
    ∧ (∀ (k : LinkId) (h : CellHdr) (f : BitVec 48) (commit : Bool) (since : BitVec 32), d.CellTaken k h 7 0 →
      (d.parentLink ≠ some k.val →
        Completes (.outcome k h f commit since) s fun e => e.treeBad = some k.val ∧ e.outcome = d.outcome)
      ∧ (d.parentLink = some k.val → live → f.toNat = d.frame → d.outcome = none →
        Completes (.outcome k h f commit since) s fun e => e.outcome = some commit ∧ (d.frame, commit) ∈ e.outcomes
          ∧ e.rf Reg.VOTE_RTT 31 0 = since.toNat ∧ e.rf Reg.VOTE_RTT 63 32 = max (d.rf Reg.VOTE_RTT 63 32) since.toNat
          ∧ ∀ j ∈ children, j ≠ k.val → d.linkUp j = true → d.canSend j 0 = true →
            d.Sends e j (d.msgOf j 7 (toBytes 8 d.frame ++ toBytes 8 (b2n commit)) (some d.frame)))
      ∧ (d.parentLink = some k.val → ¬ live ∨ f.toNat ≠ d.frame →
          d.awaited = some f.toNat → d.learnt = none →
        Completes (.outcome k h f commit since) s fun e => e.learnt = some commit ∧ e.outcome = d.outcome))
    ∧ (∀ (k : LinkId) (h : CellHdr) (f : BitVec 48),
        let a := d.atCell k h 0
        d.CellTaken k h 8 0 → a.canSend k 0 = true →
      Completes (.oreq k h f) s fun e => ∃ code : Nat, a.Sends e k (a.msgOf k 9 (toBytes 8 f.toNat ++ toBytes 8 code))
        ∧ ((∀ x ∈ d.outcomes, x.1 ≠ f.toNat) → code = 0)
        ∧ ∀ o : Bool, d.outcomes.find? (·.1 == f.toNat) = some (f.toNat, o) → code = if o then 1 else 2)
    ∧ (∀ (k : LinkId) (h : CellHdr) (f : BitVec 48) (code : BitVec 2), d.CellTaken k h 9 0 → d.awaited = some f.toNat → d.learnt = none →
      Completes (.oresp k h f code) s fun e =>
        e.learnt = if code = 1 then some true else if code = 2 then some false else none)

/-- The group's registers, the reference inputs, and planning (R139, R257, R260, R277, R286, R302, R448, R547): the steward alone writes
the group's registers, a switch of the parameters within its limits waits for its frame, PPS sets the time, and at the intake
start a device plans, or sends its figures, or waits for the members'. -/
def Obligations.GroupRegistersAndPlans : Prop :=
  ∀ s : State,
    let d := s.dev
    (∀ (p : Port) (v : BitVec 64),
      (d.isSteward p = false → Completes (.groupEnable p v) s fun e => OnlyRegs [] d e)
      ∧ (d.isSteward p = true → d.streamPend = [] →
        Completes (.groupEnable p v) s fun e => e.rd Reg.GRP = v &&& regImpl Reg.GRP
          ∧ (tst v 63 = true → d.rb Reg.GRP 63 = false →
            e.joining = !d.framesRun ∧ e.awaited = none ∧ e.learnt = none ∧ e.rb Reg.COMMITTED 63 = false)
          ∧ (tst v 63 = true → e.framesRun = d.framesRun)
          ∧ (tst v 63 = false → e.joining = false ∧ e.framesRun = (d.framesRun && !d.ended))))
    ∧ (∀ (p : Port) (f : BitVec 48) (ns : BitVec 64) (same : Bool),
        let v := d.rd Reg.FRAME_NEXT
        let l := fld v 13 0; let g := fld v 27 14; let i := fld v 41 28; let c := fld v 55 42
        let legal : Prop := 40 ≤ l ∧ l ≤ 10000 ∧ 10 ≤ g ∧ 3 * l ≤ 100 * g ∧ g ≤ l ∧ 2 ≤ c ∧ c ≤ g ∧ i + g ≤ l
        let early : Prop := same = true ∧ (ns.toNat : Int) + 2000000 ≤ d.frameT f.toNat ∧ d.frame < f.toNat
      (d.isSteward p = false → Completes (.frameSwitchWrite p f ns same) s fun e => OnlyRegs [] d e)
      ∧ (d.isSteward p = true → legal → d.framesRun = false →
        Completes (.frameSwitchWrite p f ns same) s fun e => e.rd Reg.FRAME_CFG = v &&& regImpl Reg.FRAME_CFG
          ∧ OnlyRegs [Reg.FRAME_SWITCH, Reg.FRAME_CFG] d e)
      ∧ (d.isSteward p = true → legal → d.framesRun = true → early →
        Completes (.frameSwitchWrite p f ns same) s fun e => e.switchAt = some (f.toNat, v) ∧ RegsBut [Reg.FRAME_SWITCH] d e)
      ∧ (d.isSteward p = true → ¬ legal ∨ d.framesRun = true ∧ ¬ early →
        Completes (.frameSwitchWrite p f ns same) s fun e => Out.status p St.INVALID ∈ e.out ∧ e.switchAt = d.switchAt
          ∧ RegsLog [Reg.FRAME_SWITCH, Reg.EVENT] d e))
    ∧ (∀ (p : Port) (n : Fin 8) (r : Fin 4) (v : BitVec 64),
        let off := nth [Reg.SCH_CTL n, Reg.SCH_RATE n, Reg.SCH_LEN n, Reg.SCH_STEP n] r.val 0
        let c := d.rf (Reg.SCH_CTL n) 53 48
        let free : Prop := d.rb (Reg.SCH_CTL n) 63 = false ∨ d.ctxState c = 0 ∨ d.ctxPort c = some p.val
        let binds : Prop := r = 0 ∧ tst v 63 = true
        d.served = true →
      (free → (binds → d.ctxPort (fld v 53 48) = some p.val) →
        Completes (.scheduleWrite p n r v) s fun e => e.rd off = v &&& regImpl off ∧ OnlyRegs [off] { d with schWrote := e.schWrote } e
          ∧ e.schWrote = if r = 3 then n.val :: d.schWrote.erase n else d.schWrote)
      ∧ (¬ free ∨ (binds ∧ d.ctxPort (fld v 53 48) ≠ some p.val) → Completes (.scheduleWrite p n r v) s fun e => OnlyRegs [] d e))
    ∧ (∀ (p : Port) (v : BitVec 64),
      (d.isSteward p = true → d.tbState = 3 → d.framesRun = false →
        Completes (.tbSetWrite p v) s fun e => e.rb Reg.TB_SET 63 = true ∧ e.rf Reg.TB_SET 33 0 = fld v 33 0 ∧ OnlyRegs [Reg.TB_SET] d e)
      ∧ (d.isSteward p = false ∨ d.tbState ≠ 3 ∨ d.framesRun = true → Completes (.tbSetWrite p v) s fun e => OnlyRegs [] d e))
    ∧ (∀ good : Bool,
      (d.rb Reg.TB_CTL 8 = false → Completes (.ppsEdge good) s fun e => OnlyRegs [] d e)
      ∧ (d.rb Reg.TB_CTL 8 = true →
        Completes (.ppsEdge good) s fun e =>
          (good = true → e.ppsGood = min 3 (d.ppsGood + 1) ∧ e.rb Reg.TB_STATUS 2 = (d.rb Reg.TB_STATUS 2 || decide (2 ≤ d.ppsGood)))
          ∧ (good = false → e.ppsGood = 0 ∧ e.rb Reg.TB_STATUS 2 = false)
          ∧ (d.rb Reg.TB_SET 63 = true → e.rd Reg.TB_TIME = w64 (d.rf Reg.TB_SET 33 0 * 1000000000) ∧ e.rb Reg.TB_SET 63 = false)
          ∧ (d.rb Reg.TB_SET 63 = false → good = true → e.tbState = 3 →
              e.rd Reg.TB_TIME = w64 ((d.rn Reg.TB_TIME + 500000000) / 1000000000 * 1000000000))
          ∧ (d.rb Reg.TB_SET 63 = false → good = false ∨ e.tbState ≠ 3 → e.rd Reg.TB_TIME = d.rd Reg.TB_TIME)))
    ∧ (Completes .ppsTimeout s fun e => e.ppsGood = 0 ∧ e.rb Reg.TB_STATUS 2 = false ∧ e.rd Reg.TB_TIME = d.rd Reg.TB_TIME)
    ∧ (d.framesRun = false ∨ d.ended = true → Completes .intakeStart s fun e => OnlyRegs [] d e)
    ∧ (let b := (d.latch intRegs).checkHeaders
       let us := max 10 (min 1000 (fld (d.rd Reg.INT_CTL) 41 32))
       let on : Bool := tst (d.rd Reg.INT_CTL) 63
       let role := fld (d.rd Reg.INT_CTL) 62 61
       d.framesRun = true → d.ended = false →
        (d.awaited ≠ none → Completes .intakeStart s fun e => e.planNext = d.planNext)
        ∧ (d.awaited = none → on = false → Completes .intakeStart s fun e => e.planNext = none)
        ∧ (d.awaited = none → on = true → role ≠ 1 → role ≠ 2 →
          Completes .intakeStart s fun e => ∃ q, e.planNext = some q ∧ q.id = d.frame + 1
            ∧ e.rd Reg.PLAN_ID = w64 (d.frame + 1) &&& regImpl Reg.PLAN_ID
            ∧ (b.variants.find? (b.varFits (b.planOp us)) = none → q.empty = true)
            ∧ ∀ v, b.variants.find? (b.varFits (b.planOp us)) = some v → q.var = v)
        ∧ (d.awaited = none → on = true → role = 1 →
          Completes .intakeStart s fun e => (b.figuresIn = false → e.planWait = true ∧ e.planNext = d.planNext)
            ∧ (b.figuresIn = true → e.planWait = false ∧ ∃ q, e.planNext = some q ∧ q.id = d.frame + 1))
        ∧ (∀ k, d.awaited = none → on = true → role = 2 → d.parentLink = some k → d.canSend k 0 = true →
          let v := (b.variants.find? (b.varFits (b.planOp us))).getD 0
          let m := b.ownFigures d.frame v (b.planOp us)
          Completes .intakeStart s fun e => e.planNext = d.planNext ∧
            d.Sends e k (d.msgOf k 12 (toBytes 8 d.frame ++ [m.fix, m.lane, m.chunk, m.budget].flatMap fun x =>
              toBytes 8 (BitVec.ofInt 64 x).toNat))))
    ∧ (d.planWait = false ∨ d.ended = true → Completes .figuresTimeout s fun e => OnlyRegs [] d e)
    ∧ (d.planWait = true → d.ended = false →
      Completes .figuresTimeout s fun e => e.planWait = false ∧ ∃ q, e.planNext = some q ∧ q.id = d.frame + 1)
    ∧ (∀ (k : LinkId) (h : CellHdr) (src : BitVec 17) (f : BitVec 48) (fix lane chunk budget : BitVec 64), d.CellTaken k h 12 0 →
      (d.intRole = 1 → Completes (.figures k h src f fix lane chunk budget) s fun e =>
        e.figures = d.figures.filter (·.member != src.toNat)
          ++ [⟨src.toNat, f.toNat, fix.toInt, lane.toInt, chunk.toInt, budget.toInt⟩])
      ∧ (∀ j, d.intRole ≠ 1 → d.parentLink = some j → j ≠ k.val → d.canSend j 0 = true →
        Completes (.figures k h src f fix lane chunk budget) s fun e => e.figures = d.figures ∧
          d.Sends e j { typ := 12, cls := 0, w1 := word1 false 0 0 src.toNat (d.peerId j) 0
                        payload := toBytes 8 f.toNat ++ ([fix, lane, chunk, budget].flatMap fun v => toBytes 8 v.toNat) }))
    ∧ (∀ (k : LinkId) (h : CellHdr) (f : BitVec 48) (off : BitVec 64) (bytes : List Byte),
        let m := padTo 240 bytes
        let parts := (d.planIn.filter fun (x : Nat × Nat × List Byte) => x.1 == f.toNat && x.2.1 != off.toNat) ++ [(f.toNat, off.toNat, m)]
        d.CellTaken k h 11 0 →
      (d.parentLink ≠ some k.val → Completes (.plan k h f off bytes) s fun e => e.planIn = d.planIn ∧ e.planNext = d.planNext)
      ∧ (d.parentLink = some k.val → d.intOn = false → Completes (.plan k h f off bytes) s fun e => e.planIn = d.planIn ∧ e.planNext = d.planNext)
      ∧ (d.parentLink = some k.val → d.intRole = 2 → d.intOn = true → d.framesRun = true → f.toNat = d.frame + 1 ∨ d.lacksPlan f.toNat = true →
        Completes (.plan k h f off bytes) s fun e =>
          (joinParts (parts.map (·.2)) 4096 = none → e.planIn = parts ∧ e.planNext = d.planNext)
          ∧ ∀ j ∈ d.children, j ≠ k.val → d.canSend j 0 = true →
            d.Sends e j (d.msgOf j 11 (toBytes 8 f.toNat ++ toBytes 8 off.toNat ++ m))))

/-! ## Reset -/

/-- The state right after reset (R84, R117, R118, R145, R182, R253, R304, R335, R336, R363, R388, R421, R453): every counter reads 0 and every
quota register holds all ones. -/
def Obligations.ResetLeavesTheGivenValues : Prop :=
  let d := State.reset.dev
  State.reset.pending = []
  ∧ (∀ t : TileId, ∀ o ∈ [Reg.BEAT, Reg.ISSUE, Reg.STALL_BANK, Reg.STALL_WARM, Reg.STALL_ROUTE, Reg.STALL_MOVE, Reg.WAIT_TAG,
      Reg.WAIT_BAR, Reg.WAIT_FRAME, Reg.CUBE_MISMATCH, Reg.CUBE_ACTIVE, Reg.VEC_MISMATCH, Reg.SP_CORR, Reg.SP_DOUBLE, Reg.SP_SHADOW,
      Reg.SP_WINREFUSE, Reg.SP_HOLD, Reg.RT_CORR, Reg.RT_DOUBLE, Reg.RT_FWDHOLD], d.trd t o = 0)
  ∧ (∀ c : CtxId, d.rd (Reg.QCTX c) = BitVec.allOnes 64 ∧ d.rd (Reg.UCTX c) = 0)
  ∧ (∀ n : Fin 8, d.rd (Reg.QCLS n) = BitVec.allOnes 64 ∧ d.rd (Reg.UCLS n) = 0)
  ∧ (∀ k : LinkId, d.rd (Reg.FEC_UNCORR k) = 0 ∧ d.rd (Reg.RESENT k) = 0 ∧ d.rd (Reg.ATTEMPTS k) = 0 ∧ d.linkState k = 0)
  ∧ ∀ o : Nat, (0x200098 ≤ o ∧ o ≤ 0x2000C8 ∨ 0x300400 ≤ o ∧ o ≤ 0x300428 ∨ 0x400200 ≤ o ∧ o ≤ 0x400230 ∨ 0x500100 ≤ o ∧ o ≤ 0x500118
      ∨ 0x600500 ≤ o ∧ o ≤ 0x600540 ∨ 0xA00300 ≤ o ∧ o ≤ 0xA00320) → o % 8 = 0 → d.rd o = 0
end

