-- ==== Sys2Proof/Laws/Encode.lean ====
section
/-! SUPPORT. Laws of the bundle's encoding: a slot put into a bundle is the slot read back, and the slot words of the commands
decode to their operations. -/

namespace Sys2Proof.Machine

theorem testBit_bits (v hi lo i : Nat) : (bits v hi lo).testBit i = (decide (i < hi + 1 - lo) && v.testBit (lo + i)) := by
  simp [bits, Nat.testBit_mod_two_pow, Nat.testBit_shiftRight]

theorem getLsbD_putBundle (w : Word256) (hi lo x i : Nat) (hh : hi < 256) :
    (putBundle w hi lo x).getLsbD i = if lo ≤ i ∧ i ≤ hi then x.testBit (i - lo) else w.getLsbD i := by
  unfold putBundle
  simp only [BitVec.getLsbD_or, BitVec.getLsbD_and, BitVec.getLsbD_not, BitVec.getLsbD_ofNat, Nat.testBit_shiftLeft,
    Nat.testBit_two_pow_sub_one]
  by_cases h1 : lo ≤ i <;> by_cases h2 : i ≤ hi <;> by_cases h3 : i < 256 <;> simp [h1, h2, h3]
  all_goals first
    | omega
    | exact BitVec.getLsbD_of_ge _ _ (by omega)
    | (have hn : ¬ i - lo < hi + 1 - lo := by omega
       simp [hn])
    | (have hn : i - lo < hi + 1 - lo := by omega
       simp [hn])

/-- A slot put into a bundle is the slot read back. -/
theorem bits_putBundle (w : Word256) (hi lo x : Nat) (hh : hi < 256) :
    bits (putBundle w hi lo x).toNat hi lo = x % 2 ^ (hi + 1 - lo) := by
  apply Nat.eq_of_testBit_eq
  intro i
  rw [testBit_bits, Nat.testBit_mod_two_pow]
  by_cases h : i < hi + 1 - lo
  · have := getLsbD_putBundle w hi lo x (lo + i) hh
    rw [if_pos ⟨by omega, by omega⟩, Nat.add_sub_cancel_left] at this
    simp only [BitVec.getLsbD] at this
    simp [h, this]
  · simp [h]

/-- A slot put into a bundle leaves every other slot. -/
theorem bits_putBundle_other (w : Word256) (hi lo x hi' lo' : Nat) (hh : hi < 256) (h : hi' < lo ∨ hi < lo') :
    bits (putBundle w hi lo x).toNat hi' lo' = bits w.toNat hi' lo' := by
  apply Nat.eq_of_testBit_eq
  intro i
  rw [testBit_bits, testBit_bits]
  by_cases hlt : i < hi' + 1 - lo'
  · have := getLsbD_putBundle w hi lo x (lo' + i) hh
    rw [if_neg (by omega)] at this
    simp only [BitVec.getLsbD] at this
    simp [this]
  · simp [hlt]

theorem slotCtrl_putCtrl (w : Word256) (x : Nat) (h : x < 2 ^ 32) : slotCtrl (putCtrl w x) = x := by
  rw [slotCtrl, putCtrl, bits_putBundle _ _ _ _ (by decide)]
  exact Nat.mod_eq_of_lt h
theorem slotCube_putCube (w : Word256) (x : Nat) (h : x < 2 ^ 64) : slotCube (putCube w x) = x := by
  rw [slotCube, putCube, bits_putBundle _ _ _ _ (by decide)]
  exact Nat.mod_eq_of_lt h
theorem slotVec_putVec (u : VUnit) (w : Word256) (x : Nat) (h : x < 2 ^ 48) : slotVec u (putVec u w x) = x := by
  cases u <;> simp only [slotVec, putVec] <;> rw [bits_putBundle _ _ _ _ (by decide)] <;> exact Nat.mod_eq_of_lt h
theorem slotMove_putMove (w : Word256) (x : Nat) (h : x < 2 ^ 64) : slotMove (putMove w x) = x := by
  rw [slotMove, putMove, bits_putBundle _ _ _ _ (by decide)]
  exact Nat.mod_eq_of_lt h

/-- Fields as quotients, the form in which linear arithmetic works with them. -/
theorem bits_eq (v hi lo : Nat) : bits v hi lo = v / 2 ^ lo % 2 ^ (hi + 1 - lo) := by rw [bits, Nat.shiftRight_eq_div_pow]
theorem bit_eq (v i : Nat) : bit v i = decide (v / 2 ^ i % 2 = 1) := by
  rw [bit, Nat.shiftRight_eq_div_pow]
  by_cases h : v / 2 ^ i % 2 = 1 <;> simp [h]

/-- What a decoded bundle's slots are. -/
theorem decBundle_slots {w : Word256} {b : Bundle} (h : decBundle w = some b) :
    decCtrl (slotCtrl w) = some (b.ctrl, b.fin) ∧ decCube (slotCube w) = some b.cube ∧ decVec (slotVec .a w) = some b.veca
      ∧ decVec (slotVec .b w) = some b.vecb ∧ decMove (slotMove w) = some b.move := by
  unfold decBundle at h
  split at h
  · next c e q a v m h1 h2 h3 h4 h5 =>
    split at h
    · cases h
    · have := Option.some.inj h
      subst this
      exact ⟨h1, h2, h3, h4, h5⟩
  · cases h

/-- The VEC slot of a unit. -/
def Bundle.vec (b : Bundle) : VUnit → VecOp
  | .a => b.veca
  | .b => b.vecb

/-! ## The VEC slot's register form -/

theorem encVec_lt (op : Nat) (f : VecF) (h : op < 64) : encVec op f < 2 ^ 48 := by
  obtain ⟨d, a, b, c, ss, m, pm, fn⟩ := f
  have := d.isLt; have := a.isLt; have := b.isLt; have := c.isLt; have := ss.isLt; have := m.isLt; have := pm.isLt; have := fn.isLt
  simp only [encVec]
  omega

/-- Every field of the register form reads back. -/
theorem decVecF_encVec (op : Nat) (f : VecF) : decVecF (encVec op f) = f := by
  obtain ⟨d, a, b, c, ss, m, pm, fn⟩ := f
  have := d.isLt; have := a.isLt; have := b.isLt; have := c.isLt; have := ss.isLt; have := m.isLt; have := pm.isLt; have := fn.isLt
  simp only [decVecF, encVec, bits_eq, VecF.mk.injEq]
  refine ⟨?_, ?_, ?_, ?_, ?_, ?_, ?_, ?_⟩ <;> apply BitVec.eq_of_toNat_eq <;> rw [BitVec.toNat_ofNat] <;> omega

theorem bits_encVec_op (op : Nat) (f : VecF) (h : op < 64) : bits (encVec op f) 47 42 = op := by
  obtain ⟨d, a, b, c, ss, m, pm, fn⟩ := f
  have := d.isLt; have := a.isLt; have := b.isLt; have := c.isLt; have := ss.isLt; have := m.isLt; have := pm.isLt; have := fn.isLt
  simp only [encVec, bits_eq]
  omega

/-- A register-form VEC operation that R187, R206 and R208 allow decodes to itself. -/
theorem decVec_encVec (op : Nat) (f : VecF) (h : op < 64) (hr : op ∉ [0x00, 0x0B, 0x3C, 0x3D, 0x3E]) (ok : vecRegOk op f = true) :
    decVec (encVec op f) = some (.reg op f) := by
  simp only [List.mem_cons, List.not_mem_nil, or_false, not_or] at hr
  unfold decVec
  rw [bits_encVec_op op f h, decVecF_encVec]
  dsimp only
  split <;> first | omega | rw [if_pos ok]

end Sys2Proof.Machine
end

