-- ==== Sys2Proof/Laws/Map.lean ====
section
/-! SUPPORT. Laws of the sparse maps: a read after a write, the canonical form, and putting a map into it. -/

namespace Sys2Proof.Machine

variable {α : Type}

theorem smGet_smDel_same (d : Nat → α) (m : SMap α) (k : Nat) : smGet d (smDel m k) k = d k := by
  induction m with
  | nil => rfl
  | cons e r ih =>
    obtain ⟨k', v⟩ := e
    by_cases h : k' = k
    · simpa [smDel, h] using ih
    · simpa [smDel, h, smGet] using ih

theorem smGet_smDel_ne (d : Nat → α) (m : SMap α) {k k' : Nat} (h : k' ≠ k) : smGet d (smDel m k) k' = smGet d m k' := by
  induction m with
  | nil => rfl
  | cons e r ih =>
    obtain ⟨j, v⟩ := e
    by_cases hj : j = k
    · subst hj
      simpa [smDel, smGet, Ne.symm h] using ih
    · by_cases hk : j = k'
      · subst hk
        simp [smDel, smGet, hj]
      · simpa [smDel, smGet, hj, hk] using ih

theorem smGet_smIns_ne (d : Nat → α) (m : SMap α) {k k' : Nat} (v : α) (h : k' ≠ k) :
    smGet d (smIns k v m) k' = smGet d m k' := by
  induction m with
  | nil => simp [smIns, smGet, Ne.symm h]
  | cons e r ih =>
    obtain ⟨j, w⟩ := e
    by_cases hj : k < j
    · simp [smIns, hj, smGet, Ne.symm h]
    · simp [smIns, hj, smGet, ih]

/-- Where the key is not listed, the entry put in is the one read. -/
theorem smGet_smIns_same (d : Nat → α) (m : SMap α) (k : Nat) (v : α) (h : ∀ e ∈ m, e.1 ≠ k) :
    smGet d (smIns k v m) k = v := by
  induction m with
  | nil => simp [smIns, smGet]
  | cons e r ih =>
    obtain ⟨j, w⟩ := e
    have hj : j ≠ k := h (j, w) (by simp)
    by_cases hlt : k < j
    · simp [smIns, hlt, smGet]
    · simp only [smIns, hlt, if_false, smGet, hj]
      exact ih fun e he => h e (by simp [he])

theorem smDel_not_mem (m : SMap α) (k : Nat) : ∀ e ∈ smDel m k, e.1 ≠ k := by
  intro e he
  simp [smDel] at he
  exact he.2

variable [DecidableEq α]

/-- A read after a write to the same key gives the value written. -/
@[simp] theorem smGet_smSet_same (d : Nat → α) (m : SMap α) (k : Nat) (v : α) : smGet d (smSet d m k v) k = v := by
  unfold smSet
  split
  · next h => rw [smGet_smDel_same, h]
  · exact smGet_smIns_same d _ k v (smDel_not_mem m k)

/-- A write leaves every other key alone. -/
theorem smGet_smSet_ne (d : Nat → α) (m : SMap α) {k k' : Nat} (v : α) (h : k' ≠ k) :
    smGet d (smSet d m k v) k' = smGet d m k' := by
  unfold smSet
  split
  · exact smGet_smDel_ne d m h
  · rw [smGet_smIns_ne d _ v h, smGet_smDel_ne d m h]

theorem smGet_smSet (d : Nat → α) (m : SMap α) (k k' : Nat) (v : α) :
    smGet d (smSet d m k v) k' = if k' = k then v else smGet d m k' := by
  split
  · next h => subst h; simp
  · next h => exact smGet_smSet_ne d m v h

/-! ## The canonical form -/

/-- The canonical form, said of all pairs at once. -/
theorem smWf_iff (d : Nat → α) (m : SMap α) :
    smWf d m = true ↔ m.Pairwise (fun a b => a.1 < b.1) ∧ ∀ e ∈ m, e.2 ≠ d e.1 := by
  induction m with
  | nil => simp [smWf]
  | cons e r ih =>
    obtain ⟨k, v⟩ := e
    cases r with
    | nil => simp [smWf]
    | cons e' r' =>
      obtain ⟨k', v'⟩ := e'
      have hstep : smWf d ((k, v) :: (k', v') :: r') = true ↔ v ≠ d k ∧ k < k' ∧ smWf d ((k', v') :: r') = true := by
        simp [smWf, Bool.and_eq_true, and_assoc]
      rw [hstep, ih]
      constructor
      · rintro ⟨hv, hk, hp, hd⟩
        refine ⟨List.pairwise_cons.2 ⟨?_, hp⟩, ?_⟩
        · intro a ha
          rcases List.mem_cons.1 ha with rfl | ha
          · exact hk
          · exact Nat.lt_trans hk ((List.pairwise_cons.1 hp).1 a ha)
        · intro a ha
          rcases List.mem_cons.1 ha with rfl | ha
          · exact hv
          · exact hd a ha
      · rintro ⟨hp, hd⟩
        have hp' := List.pairwise_cons.1 hp
        exact ⟨hd (k, v) (by simp), hp'.1 (k', v') (by simp), hp'.2, fun a ha => hd a (by simp [List.mem_cons.1 ha])⟩

theorem smDel_wf (d : Nat → α) (m : SMap α) (k : Nat) (h : smWf d m = true) : smWf d (smDel m k) = true := by
  rw [smWf_iff] at *
  exact ⟨h.1.filter _, fun e he => h.2 e (List.mem_filter.1 he).1⟩

theorem mem_smIns {m : SMap α} {k : Nat} {v : α} {e : Nat × α} (h : e ∈ smIns k v m) : e = (k, v) ∨ e ∈ m := by
  induction m with
  | nil => simpa [smIns] using h
  | cons x r ih =>
    obtain ⟨j, w⟩ := x
    by_cases hj : k < j
    · simp only [smIns, hj, if_true, List.mem_cons] at h ⊢
      exact h
    · simp only [smIns, hj, if_false, List.mem_cons] at h ⊢
      rcases h with h | h
      · exact .inr (.inl h)
      · exact (ih h).imp_right .inr

theorem smIns_wf (d : Nat → α) (m : SMap α) (k : Nat) (v : α) (hv : v ≠ d k) (hk : ∀ e ∈ m, e.1 ≠ k)
    (h : smWf d m = true) : smWf d (smIns k v m) = true := by
  rw [smWf_iff] at *
  refine ⟨?_, fun e he => (mem_smIns he).elim (fun h' => h' ▸ hv) (h.2 e)⟩
  obtain ⟨hp, -⟩ := h
  induction m with
  | nil => simp [smIns]
  | cons x r ih =>
    obtain ⟨j, w⟩ := x
    have hp' := List.pairwise_cons.1 hp
    have hj : j ≠ k := hk (j, w) (by simp)
    by_cases hlt : k < j
    · simp only [smIns, hlt, if_true]
      refine List.pairwise_cons.2 ⟨fun a ha => ?_, hp⟩
      rcases List.mem_cons.1 ha with rfl | ha
      · exact hlt
      · exact Nat.lt_trans hlt (hp'.1 a ha)
    · simp only [smIns, hlt, if_false]
      refine List.pairwise_cons.2 ⟨fun a ha => ?_, ih (fun e he => hk e (by simp [he])) hp'.2⟩
      rcases mem_smIns ha with rfl | ha
      · show j < k
        omega
      · exact hp'.1 a ha

/-- A write keeps the canonical form. -/
theorem smSet_wf (d : Nat → α) (m : SMap α) (k : Nat) (v : α) (h : smWf d m = true) : smWf d (smSet d m k v) = true := by
  unfold smSet
  split
  · exact smDel_wf d m k h
  · next hv => exact smIns_wf d _ k v hv (smDel_not_mem m k) (smDel_wf d m k h)

theorem smFold_wf (d : Nat → α) (m : SMap α) : smWf d (m.foldr (fun e acc => smSet d acc e.1 e.2) []) = true := by
  induction m with
  | nil => rfl
  | cons e r ih => exact smSet_wf d _ e.1 e.2 ih

/-- What `smCanon` gives is canonical. -/
theorem smCanon_wf (d : Nat → α) (m : SMap α) : smWf d (smCanon d m) = true := by
  unfold smCanon
  split
  · next h => exact h
  · exact smFold_wf d m

theorem smGet_smFold (d : Nat → α) (m : SMap α) (k : Nat) :
    smGet d (m.foldr (fun e acc => smSet d acc e.1 e.2) []) k = smGet d m k := by
  induction m with
  | nil => rfl
  | cons e r ih =>
    obtain ⟨j, v⟩ := e
    simp only [List.foldr_cons, smGet_smSet, smGet, ih]
    by_cases h : k = j
    · simp [h]
    · simp [h, Ne.symm h]

/-- Putting a map into canonical form changes what no key reads as. -/
@[simp] theorem smGet_smCanon (d : Nat → α) (m : SMap α) (k : Nat) : smGet d (smCanon d m) k = smGet d m k := by
  unfold smCanon
  split
  · rfl
  · exact smGet_smFold d m k

end Sys2Proof.Machine
end

