-- ==== Sys2Proof/Laws/State.lean ====
section
/-! SUPPORT. Laws of the named operations over the state: what each primitive update changes and leaves, fields of registers,
memory bytes, and what a meaning's answer reads as. -/

namespace Sys2Proof.Machine

/-! ## Fields of a register -/

theorem getLsbD_maskOf (hi lo i : Nat) (h : lo ≤ hi) (hh : hi < 64) :
    (maskOf hi lo).getLsbD i = (decide (lo ≤ i) && decide (i ≤ hi)) := by
  unfold maskOf
  rw [BitVec.getLsbD_ofNat, Nat.testBit_shiftLeft, Nat.testBit_two_pow_sub_one]
  by_cases h1 : lo ≤ i <;> by_cases h2 : i ≤ hi <;> simp [h1, h2] <;> omega

theorem testBit_fld (v : W64) (hi lo i : Nat) :
    (fld v hi lo).testBit i = (decide (i < hi + 1 - lo) && v.getLsbD (lo + i)) := by
  simp [fld, bits, Nat.testBit_mod_two_pow, Nat.testBit_shiftRight, BitVec.getLsbD]

/-- Two registers that agree on the bits of a field agree on the field. -/
theorem fld_congr {v w : W64} {hi lo : Nat} (h : ∀ i, lo ≤ i → i ≤ hi → v.getLsbD i = w.getLsbD i) : fld v hi lo = fld w hi lo := by
  apply Nat.eq_of_testBit_eq
  intro i
  rw [testBit_fld, testBit_fld]
  by_cases hi' : i < hi + 1 - lo
  · rw [h (lo + i) (by omega) (by omega)]
  · simp [hi']

theorem getLsbD_put (v : W64) (hi lo x i : Nat) (h : lo ≤ hi) (hh : hi < 64) :
    (put v hi lo x).getLsbD i = if lo ≤ i ∧ i ≤ hi then x.testBit (i - lo) else v.getLsbD i := by
  unfold put
  rw [BitVec.getLsbD_or, BitVec.getLsbD_and, BitVec.getLsbD_and, BitVec.getLsbD_not, getLsbD_maskOf _ _ _ h hh,
    BitVec.getLsbD_ofNat, Nat.testBit_shiftLeft]
  by_cases h1 : lo ≤ i <;> by_cases h2 : i ≤ hi <;> by_cases h3 : i < 64 <;> simp [h1, h2, h3] <;> (try omega)
  all_goals exact BitVec.getLsbD_of_ge _ _ (by omega)

/-- A field written reads as the low bits of what was written. -/
theorem fld_put_same (v : W64) (hi lo x : Nat) (h : lo ≤ hi) (hh : hi < 64) :
    fld (put v hi lo x) hi lo = x % 2 ^ (hi + 1 - lo) := by
  apply Nat.eq_of_testBit_eq
  intro i
  rw [testBit_fld, getLsbD_put _ _ _ _ _ h hh, Nat.testBit_mod_two_pow]
  by_cases hi' : i < hi + 1 - lo
  · rw [if_pos ⟨by omega, by omega⟩, Nat.add_sub_cancel_left]
  · simp [hi']

/-- Writing a field leaves every disjoint field. -/
theorem fld_put_other (v : W64) (hi lo x hi' lo' : Nat) (h : lo ≤ hi) (hh : hi < 64) (hd : hi' < lo ∨ hi < lo') :
    fld (put v hi lo x) hi' lo' = fld v hi' lo' := by
  apply fld_congr
  intro i h1 h2
  rw [getLsbD_put _ _ _ _ _ h hh, if_neg (by omega)]

theorem fld_lt (v : W64) (hi lo : Nat) : fld v hi lo < 2 ^ (hi + 1 - lo) := Nat.mod_lt _ (Nat.two_pow_pos _)

/-- Bits in which nothing is masked out keep their value. -/
theorem fld_and (v m : W64) (hi lo : Nat) (h : m &&& maskOf hi lo = maskOf hi lo) (hl : lo ≤ hi) (hh : hi < 64) :
    fld (v &&& m) hi lo = fld v hi lo := by
  apply fld_congr
  intro i h1 h2
  have hm : (m &&& maskOf hi lo).getLsbD i = (maskOf hi lo).getLsbD i := by rw [h]
  rw [BitVec.getLsbD_and, getLsbD_maskOf _ _ _ hl hh] at hm
  simp [h1, h2] at hm
  rw [BitVec.getLsbD_and, hm, Bool.and_true]

/-! ## Registers -/

@[simp] theorem Dev.rd_wr_same (d : Dev) (o : Nat) (v : W64) : (d.wr o v).rd o = v := smGet_smSet_same ..
theorem Dev.rd_wr_ne (d : Dev) {o o' : Nat} (v : W64) (h : o' ≠ o) : (d.wr o v).rd o' = d.rd o' := smGet_smSet_ne _ _ _ h
theorem Dev.rd_wr (d : Dev) (o o' : Nat) (v : W64) : (d.wr o v).rd o' = if o' = o then v else d.rd o' := smGet_smSet ..
@[simp] theorem Dev.rd_wf_same (d : Dev) (o hi lo x : Nat) : (d.wf o hi lo x).rd o = put (d.rd o) hi lo x := Dev.rd_wr_same ..
theorem Dev.rd_wf_ne (d : Dev) {o o' : Nat} (hi lo x : Nat) (h : o' ≠ o) : (d.wf o hi lo x).rd o' = d.rd o' := d.rd_wr_ne _ h
@[simp] theorem Dev.rd_add_same (d : Dev) (o n : Nat) : (d.add o n).rd o = d.rd o + w64 n := Dev.rd_wr_same ..
theorem Dev.rd_add_ne (d : Dev) {o o' : Nat} (n : Nat) (h : o' ≠ o) : (d.add o n).rd o' = d.rd o' := d.rd_wr_ne _ h

/-- A field written reads back. -/
theorem Dev.rf_wf_same (d : Dev) (o hi lo x : Nat) (h : lo ≤ hi) (hh : hi < 64) :
    (d.wf o hi lo x).rf o hi lo = x % 2 ^ (hi + 1 - lo) := by
  unfold Dev.rf
  rw [Dev.rd_wf_same, fld_put_same _ _ _ _ h hh]

@[simp] theorem Dev.wr_mem (d : Dev) (o : Nat) (v : W64) : (d.wr o v).mem = d.mem := rfl
@[simp] theorem Dev.wr_tiles (d : Dev) (o : Nat) (v : W64) : (d.wr o v).tiles = d.tiles := rfl
@[simp] theorem Dev.wr_tile (d : Dev) (o t : Nat) (v : W64) : (d.wr o v).tile t = d.tile t := rfl
@[simp] theorem Dev.wr_rdByte (d : Dev) (o a : Nat) (v : W64) : (d.wr o v).rdByte a = d.rdByte a := rfl
@[simp] theorem Dev.wr_out (d : Dev) (o : Nat) (v : W64) : (d.wr o v).out = d.out := rfl
@[simp] theorem Dev.wr_events (d : Dev) (o : Nat) (v : W64) : (d.wr o v).events = d.events := rfl
@[simp] theorem Dev.wr_varve (d : Dev) (o : Nat) (v : W64) : (d.wr o v).varve = d.varve := rfl
@[simp] theorem Dev.wr_boot (d : Dev) (o : Nat) (v : W64) : (d.wr o v).boot = d.boot := rfl
@[simp] theorem Dev.wr_links (d : Dev) (o : Nat) (v : W64) : (d.wr o v).links = d.links := rfl
@[simp] theorem Dev.wf_mem (d : Dev) (o hi lo x : Nat) : (d.wf o hi lo x).mem = d.mem := rfl
@[simp] theorem Dev.wf_tiles (d : Dev) (o hi lo x : Nat) : (d.wf o hi lo x).tiles = d.tiles := rfl
@[simp] theorem Dev.wf_tile (d : Dev) (o hi lo x t : Nat) : (d.wf o hi lo x).tile t = d.tile t := rfl
@[simp] theorem Dev.wf_rdByte (d : Dev) (o hi lo x a : Nat) : (d.wf o hi lo x).rdByte a = d.rdByte a := rfl
@[simp] theorem Dev.wf_out (d : Dev) (o hi lo x : Nat) : (d.wf o hi lo x).out = d.out := rfl

@[simp] theorem Dev.add_tile (d : Dev) (o n t : Nat) : (d.add o n).tile t = d.tile t := rfl
@[simp] theorem Dev.inc_tile (d : Dev) (o t : Nat) : (d.inc o).tile t = d.tile t := rfl
@[simp] theorem Dev.inc_rdByte (d : Dev) (o a : Nat) : (d.inc o).rdByte a = d.rdByte a := rfl
@[simp] theorem Dev.twr_tile (d : Dev) (t o t' : Nat) (v : W64) : (d.twr t o v).tile t' = d.tile t' := rfl
@[simp] theorem Dev.twf_tile (d : Dev) (t o hi lo x t' : Nat) : (d.twf t o hi lo x).tile t' = d.tile t' := rfl
@[simp] theorem Dev.tinc_tile (d : Dev) (t o t' : Nat) : (d.tinc t o).tile t' = d.tile t' := rfl
@[simp] theorem Dev.tadd_tile (d : Dev) (t o n t' : Nat) : (d.tadd t o n).tile t' = d.tile t' := rfl
@[simp] theorem Dev.emit_tile (d : Dev) (x : Out) (t : Nat) : (d.emit x).tile t = d.tile t := rfl
@[simp] theorem Dev.emit_rd (d : Dev) (x : Out) (o : Nat) : (d.emit x).rd o = d.rd o := rfl
@[simp] theorem Dev.emit_rdByte (d : Dev) (x : Out) (a : Nat) : (d.emit x).rdByte a = d.rdByte a := rfl
@[simp] theorem Dev.report_tile (d : Dev) (c u : Nat) (l : BitVec 64) (t : Nat) : (d.report c u l).tile t = d.tile t := rfl
@[simp] theorem Dev.report_rd (d : Dev) (c u : Nat) (l : BitVec 64) (o : Nat) : (d.report c u l).rd o = d.rd o := rfl
@[simp] theorem Dev.report_rdByte (d : Dev) (c u : Nat) (l : BitVec 64) (a : Nat) : (d.report c u l).rdByte a = d.rdByte a := rfl
@[simp] theorem Dev.event_tile (d : Dev) (x : Event) (t : Nat) : (d.event x).tile t = d.tile t := rfl
@[simp] theorem Dev.event_rd (d : Dev) (x : Event) (o : Nat) : (d.event x).rd o = d.rd o := rfl
@[simp] theorem Dev.event_rdByte (d : Dev) (x : Event) (a : Nat) : (d.event x).rdByte a = d.rdByte a := rfl

/-! ## Tiles -/

/-- Two registers of a tile are the same only at the same offset. -/
theorem Reg.tile_ne (t : Nat) {a b : Nat} (h : a ≠ b) : Reg.tile t a ≠ Reg.tile t b := by unfold Reg.tile; omega
/-- A tile's register is none of the registers below the tile blocks. -/
theorem Reg.tile_ne_low (t a : Nat) {o : Nat} (h : o < 0x1000000) : Reg.tile t a ≠ o := by unfold Reg.tile; omega

@[simp] theorem Dev.tile_setTile_same (d : Dev) (t : Nat) (x : Tile) : (d.setTile t x).tile t = x := smGet_smSet_same ..
theorem Dev.tile_setTile_ne (d : Dev) {t t' : Nat} (x : Tile) (h : t' ≠ t) : (d.setTile t x).tile t' = d.tile t' :=
  smGet_smSet_ne _ _ _ h
@[simp] theorem Dev.tile_upd_same (d : Dev) (t : Nat) (f : Tile → Tile) : (d.upd t f).tile t = f (d.tile t) := smGet_smSet_same ..
theorem Dev.tile_upd_ne (d : Dev) {t t' : Nat} (f : Tile → Tile) (h : t' ≠ t) : (d.upd t f).tile t' = d.tile t' :=
  smGet_smSet_ne _ _ _ h
@[simp] theorem Dev.upd_rd (d : Dev) (t o : Nat) (f : Tile → Tile) : (d.upd t f).rd o = d.rd o := rfl
@[simp] theorem Dev.upd_regs (d : Dev) (t : Nat) (f : Tile → Tile) : (d.upd t f).regs = d.regs := rfl
@[simp] theorem Dev.upd_mem (d : Dev) (t : Nat) (f : Tile → Tile) : (d.upd t f).mem = d.mem := rfl
@[simp] theorem Dev.upd_out (d : Dev) (t : Nat) (f : Tile → Tile) : (d.upd t f).out = d.out := rfl
@[simp] theorem Dev.upd_bars (d : Dev) (t : Nat) (f : Tile → Tile) : (d.upd t f).bars = d.bars := rfl
@[simp] theorem Dev.upd_events (d : Dev) (t : Nat) (f : Tile → Tile) : (d.upd t f).events = d.events := rfl
@[simp] theorem Dev.updRegs_rd (d : Dev) (t o : Nat) (f : Regs → Regs) : (d.updRegs t f).rd o = d.rd o := rfl
theorem Dev.tile_updRegs_same (d : Dev) (t : Nat) (f : Regs → Regs) :
    (d.updRegs t f).tile t = { d.tile t with regs := f (d.tile t).regs } := smGet_smSet_same ..

/-! ## Memory -/

@[simp] theorem Dev.rdByte_wrByte_same (d : Dev) (a : Nat) (b : Byte) : (d.wrByte a b).rdByte a = b := smGet_smSet_same ..
theorem Dev.rdByte_wrByte_ne (d : Dev) {a a' : Nat} (b : Byte) (h : a' ≠ a) : (d.wrByte a b).rdByte a' = d.rdByte a' :=
  smGet_smSet_ne _ _ _ h
@[simp] theorem Dev.wrByte_rd (d : Dev) (a o : Nat) (b : Byte) : (d.wrByte a b).rd o = d.rd o := rfl
@[simp] theorem Dev.wrByte_tiles (d : Dev) (a : Nat) (b : Byte) : (d.wrByte a b).tiles = d.tiles := rfl

/-- Every byte outside the bytes written reads as before. -/
theorem Dev.rdByte_wrBytes_out (d : Dev) (a a' : Nat) (l : List Byte) (h : a' < a ∨ a + l.length ≤ a') :
    (d.wrBytes a l).rdByte a' = d.rdByte a' := by
  induction l generalizing d a with
  | nil => rfl
  | cons b bs ih =>
    simp only [List.length_cons] at h
    rw [Dev.wrBytes, ih _ _ (by omega), Dev.rdByte_wrByte_ne _ _ (by omega)]

/-- Every byte written reads as written. -/
theorem Dev.rdByte_wrBytes_in (d : Dev) (a : Nat) (l : List Byte) (i : Nat) (h : i < l.length) :
    (d.wrBytes a l).rdByte (a + i) = l[i] := by
  induction l generalizing d a i with
  | nil => simp at h
  | cons b bs ih =>
    cases i with
    | zero => rw [Dev.wrBytes, Dev.rdByte_wrBytes_out _ _ _ _ (by omega)]; simp
    | succ i =>
      have := ih (d.wrByte a b) (a + 1) i (by simpa using h)
      rw [Dev.wrBytes, show a + (i + 1) = a + 1 + i by omega, this]
      rfl

/-- A block of bytes reads back as written. -/
theorem Dev.rdBytes_wrBytes (d : Dev) (a : Nat) (l : List Byte) : (d.wrBytes a l).rdBytes a l.length = l := by
  induction l generalizing d a with
  | nil => rfl
  | cons b bs ih =>
    simp only [List.length_cons, Dev.rdBytes, Dev.wrBytes, ih]
    rw [Dev.rdByte_wrBytes_out _ _ _ _ (by omega), Dev.rdByte_wrByte_same]

@[simp] theorem Dev.wrBytes_rd (d : Dev) (a o : Nat) (l : List Byte) : (d.wrBytes a l).rd o = d.rd o := by
  induction l generalizing d a with
  | nil => rfl
  | cons b bs ih => rw [Dev.wrBytes, ih]; rfl
@[simp] theorem Dev.wrBytes_tiles (d : Dev) (a : Nat) (l : List Byte) : (d.wrBytes a l).tiles = d.tiles := by
  induction l generalizing d a with
  | nil => rfl
  | cons b bs ih => rw [Dev.wrBytes, ih]; rfl

/-- Every write of memory keeps its canonical form. -/
theorem Dev.wrByte_wf (d : Dev) (a : Nat) (b : Byte) (h : Memory.wf d.mem = true) : Memory.wf (d.wrByte a b).mem = true :=
  smSet_wf _ _ _ _ h
theorem Dev.wrBytes_wf (d : Dev) (a : Nat) (l : List Byte) (h : Memory.wf d.mem = true) : Memory.wf (d.wrBytes a l).mem = true := by
  induction l generalizing d a with
  | nil => exact h
  | cons b bs ih => exact ih _ _ (d.wrByte_wf a b h)
theorem Dev.wrNum_wf (d : Dev) (a n v : Nat) (h : Memory.wf d.mem = true) : Memory.wf (d.wrNum a n v).mem = true :=
  d.wrBytes_wf _ _ h
theorem Dev.zero_wf (d : Dev) (a n : Nat) (h : Memory.wf d.mem = true) : Memory.wf (d.zero a n).mem = true := d.wrBytes_wf _ _ h
theorem Dev.spWr_wf (d : Dev) (t w : Nat) (v : Word256) (h : Memory.wf d.mem = true) : Memory.wf (d.spWr t w v).mem = true :=
  d.wrBytes_wf _ _ h
theorem State.reset_mem_wf : Memory.wf State.reset.dev.mem = true := rfl

/-! ## Reset values lie within the bits a register has (R18) -/

/-- A row whose reset value lies within its bits. -/
def RegDef.fits (r : RegDef) : Bool := w64 r.reset &&& w64 (r.ro ||| r.rw ||| r.w1c) == w64 r.reset

theorem rowsTile_fit : rowsTile.all RegDef.fits = true := by decide
theorem rowsDev_fit : rowsDev.all RegDef.fits = true := by decide
theorem rowsCad_fit : rowsCad.all RegDef.fits = true := by decide
theorem rowsInt_fit : rowsInt.all RegDef.fits = true := by decide
theorem rowsPwr_fit : rowsPwr.all RegDef.fits = true := by decide
theorem rowsMem_fit : rowsMem.all RegDef.fits = true := by decide
theorem rowsLnk_fit : rowsLnk.all RegDef.fits = true := by decide
theorem rowsItg_fit : rowsItg.all RegDef.fits = true := by decide
theorem rowsFirn_fit : rowsFirn.all RegDef.fits = true := by decide
theorem rowsBoot_fit : rowsBoot.all RegDef.fits = true := by decide
theorem rowsClk_fit : rowsClk.all RegDef.fits = true := by decide
theorem rowsVrv_fit : rowsVrv.all RegDef.fits = true := by decide

theorem findRow_mem {l : List RegDef} {o : Nat} {r : RegDef} (h : findRow l o = some r) : r ∈ l := by
  induction l with
  | nil => simp [findRow] at h
  | cons x xs ih =>
    rw [findRow] at h
    split at h
    · simp only [Option.some.injEq] at h
      simp [h]
    · exact List.mem_cons_of_mem _ (ih h)

theorem findRow_fits {l : List RegDef} {o : Nat} {r : RegDef} (hl : l.all RegDef.fits = true) (h : findRow l o = some r) :
    r.fits = true := List.all_eq_true.1 hl r (findRow_mem h)

theorem regRow_fits {o : Nat} {r : RegDef} (h : regRow o = some r) : r.fits = true := by
  unfold regRow at h
  split at h
  · cases h
  · split at h
    · split at h
      · exact findRow_fits rowsTile_fit h
      · cases h
    · split at h
      · exact findRow_fits rowsDev_fit h
      · exact findRow_fits rowsCad_fit h
      · exact findRow_fits rowsInt_fit h
      · exact findRow_fits rowsPwr_fit h
      · exact findRow_fits rowsMem_fit h
      · exact findRow_fits rowsLnk_fit h
      · exact findRow_fits rowsItg_fit h
      · exact findRow_fits rowsFirn_fit h
      · exact findRow_fits rowsBoot_fit h
      · exact findRow_fits rowsClk_fit h
      · exact findRow_fits rowsVrv_fit h
      · cases h

/-- A register's reset value lies within the bits it has. -/
theorem regReset_and_impl (o : Nat) : regReset o &&& regImpl o = regReset o := by
  unfold regReset regImpl
  by_cases h : 0x1240 ≤ o ∧ o < 0x1240 + 8 * 36
  · rw [if_pos h, if_pos h]
    have : w64 all64 = BitVec.allOnes 64 := by decide
    rw [this, BitVec.and_allOnes]
  · rw [if_neg h, if_neg h]
    cases hr : regRow o with
    | none => simp
    | some r => simpa [RegDef.fits] using regRow_fits hr

/-- The bits of a tile's register are those of its row, whichever tile (R28). -/
theorem regImpl_tile (t off : Nat) (ht : t < 1664) (ho : off < 0x1000) (h8 : off % 8 = 0) :
    regImpl (Reg.tile t off) = match findRow rowsTile off with
      | some r => w64 (r.ro ||| r.rw ||| r.w1c)
      | none => 0 := by
  unfold regImpl regRow Reg.tile
  rw [if_neg (by omega), if_neg (by omega), if_pos (by omega), if_pos (by omega)]
  rw [show (0x1000000 + 0x1000 * t + off - 0x1000000) % 0x1000 = off by omega]
  all_goals rfl

/-! ## A meaning's answer -/

theorem smGet_maskRegs (m : SMap W64) (o : Nat) : smGet regReset (maskRegs m) o = smGet regReset m o &&& regImpl o := by
  induction m with
  | nil => exact (regReset_and_impl o).symm
  | cons e r ih =>
    obtain ⟨k, v⟩ := e
    simp only [maskRegs, List.map_cons, smGet] at ih ⊢
    split
    · next h => rw [h]
    · exact ih

/-- In a meaning's answer every register reads as the meaning left it, in the bits it has (R18). -/
@[simp] theorem Dev.seal_rd (d : Dev) (o : Nat) : d.seal.rd o = d.rd o &&& regImpl o := by
  unfold Dev.rd Dev.seal
  rw [smGet_smCanon, smGet_maskRegs]
@[simp] theorem Dev.seal_tile (d : Dev) (t : Nat) : d.seal.tile t = d.tile t := smGet_smCanon ..
@[simp] theorem Dev.seal_rdByte (d : Dev) (a : Nat) : d.seal.rdByte a = d.rdByte a := smGet_smCanon ..

/-- A field that a register has reads in a meaning's answer as the meaning left it. -/
theorem Dev.seal_rf (d : Dev) (o hi lo : Nat) (h : regImpl o &&& maskOf hi lo = maskOf hi lo) (hl : lo ≤ hi) (hh : hi < 64) :
    d.seal.rf o hi lo = d.rf o hi lo := by
  unfold Dev.rf
  rw [Dev.seal_rd, fld_and _ _ _ _ h hl hh]
theorem Dev.seal_rb (d : Dev) (o i : Nat) (h : (regImpl o).getLsbD i = true) : d.seal.rb o i = d.rb o i := by
  simp [Dev.rb, tst, h]
/-- A register all of whose bits exist. -/
theorem Dev.seal_rd_all (d : Dev) (o : Nat) (h : regImpl o = BitVec.allOnes 64) : d.seal.rd o = d.rd o := by
  rw [Dev.seal_rd, h, BitVec.and_allOnes]

theorem Dev.seal_canonical (d : Dev) : d.seal.canonical = true := by
  simp [Dev.canonical, Dev.seal, Memory.wf, smCanon_wf]

theorem Dev.seal_reservedZero (d : Dev) : d.seal.reservedZero := by
  intro o
  rw [Dev.seal_rd, BitVec.and_assoc, BitVec.and_not_self]
  simp

@[simp] theorem State.ok_eq (s : State) (d : Dev) : s.ok d = .next { s with dev := d.seal } := rfl

/-- Every answer of a meaning keeps the invariant. -/
theorem State.ok_inv (s : State) (d : Dev) : ({ s with dev := d.seal } : State).Inv := ⟨d.seal_canonical, d.seal_reservedZero⟩

end Sys2Proof.Machine
end

