-- ==== Sys2Proof/Laws/Report.lean ====
section
/-! SUPPORT. Laws of reporting: what raising a status bit, an MSI-X vector or a varve entry can change. -/

namespace Sys2Proof.Machine

/-- A device without what reporting may touch: registers, memory and its side band, the varve log, pending vectors, what has left. -/
def Dev.inner (d : Dev) : Dev := { d with regs := [], mem := [], lines := [], varve := {}, msixPend := 0, out := [] }

@[simp] theorem Dev.inner_wr (d : Dev) (o : Nat) (v : W64) : (d.wr o v).inner = d.inner := rfl
@[simp] theorem Dev.inner_wf (d : Dev) (o hi lo x : Nat) : (d.wf o hi lo x).inner = d.inner := rfl
@[simp] theorem Dev.inner_emit (d : Dev) (o : Out) : (d.emit o).inner = d.inner := rfl
@[simp] theorem Dev.inner_wrBytes (d : Dev) (a : Nat) (l : List Byte) : (d.wrBytes a l).inner = d.inner := by
  induction l generalizing d a with
  | nil => rfl
  | cons b bs ih => rw [Dev.wrBytes, ih]; rfl
@[simp] theorem Dev.inner_msix (d : Dev) (p v : Nat) : (d.msix p v).inner = d.inner := by
  unfold Dev.msix; split <;> rfl
@[simp] theorem Dev.msix_rd (d : Dev) (p v o : Nat) : (d.msix p v).rd o = d.rd o := by
  unfold Dev.msix; split <;> rfl
@[simp] theorem Dev.msix_rdByte (d : Dev) (p v a : Nat) : (d.msix p v).rdByte a = d.rdByte a := by
  unfold Dev.msix; split <;> rfl
@[simp] theorem Dev.msix_varve (d : Dev) (p v : Nat) : (d.msix p v).varve = d.varve := by
  unfold Dev.msix; split <;> rfl

/-- Raising a bit of DEV.EVENT changes no other register. -/
theorem Dev.raiseEvent_rd (d : Dev) (i : Nat) {o : Nat} (h : o ≠ Reg.EVENT) : (d.raiseEvent i).rd o = d.rd o := by
  unfold Dev.raiseEvent
  dsimp only
  split
  · rw [Dev.msix_rd, Dev.rd_wf_ne _ _ _ _ h]
  · exact Dev.rd_wf_ne _ _ _ _ h
@[simp] theorem Dev.inner_raiseEvent (d : Dev) (i : Nat) : (d.raiseEvent i).inner = d.inner := by
  unfold Dev.raiseEvent; dsimp only; split <;> simp
@[simp] theorem Dev.raiseEvent_rdByte (d : Dev) (i a : Nat) : (d.raiseEvent i).rdByte a = d.rdByte a := by
  unfold Dev.raiseEvent; dsimp only; split <;> simp
/-- The bit raised in DEV.EVENT reads 1. -/
theorem Dev.raiseEvent_bit (d : Dev) (i : Nat) (h : i < 64) : (d.raiseEvent i).rb Reg.EVENT i = true := by
  have : (d.wf Reg.EVENT i i 1).rb Reg.EVENT i = true := by
    unfold Dev.rb tst
    rw [Dev.rd_wf_same, getLsbD_put _ _ _ _ _ (Nat.le_refl _) h]
    simp
  unfold Dev.raiseEvent Dev.rb at *
  dsimp only
  split
  · rwa [Dev.msix_rd]
  · exact this

/-- Setting a status bit changes that register and DEV.EVENT only. -/
theorem Dev.setStatus_rd (d : Dev) (off i ev : Nat) {o : Nat} (h : o ≠ off) (h' : o ≠ Reg.EVENT) :
    (d.setStatus off i ev).rd o = d.rd o := by
  unfold Dev.setStatus
  dsimp only
  split
  · rw [Dev.raiseEvent_rd _ _ h', Dev.rd_wf_ne _ _ _ _ h]
  · exact Dev.rd_wf_ne _ _ _ _ h
@[simp] theorem Dev.inner_setStatus (d : Dev) (off i ev : Nat) : (d.setStatus off i ev).inner = d.inner := by
  unfold Dev.setStatus; dsimp only; split <;> simp
@[simp] theorem Dev.setStatus_rdByte (d : Dev) (off i ev a : Nat) : (d.setStatus off i ev).rdByte a = d.rdByte a := by
  unfold Dev.setStatus; dsimp only; split <;> simp

/-! ## The varve log -/

@[simp] theorem Dev.inner_keepLatest (d : Dev) (e : VEntry) : (d.keepLatest e).inner = d.inner := rfl
@[simp] theorem Dev.keepLatest_rd (d : Dev) (e : VEntry) (o : Nat) : (d.keepLatest e).rd o = d.rd o := rfl
@[simp] theorem Dev.inner_setLine (d : Dev) (a : Nat) (l : Line) : (d.setLine a l).inner = d.inner := rfl
@[simp] theorem Dev.inner_setKind (d : Dev) (a k : Nat) : (d.setKind a k).inner = d.inner := rfl
@[simp] theorem Dev.setLine_rd (d : Dev) (a : Nat) (l : Line) (o : Nat) : (d.setLine a l).rd o = d.rd o := rfl
@[simp] theorem Dev.setKind_rd (d : Dev) (a k o : Nat) : (d.setKind a k).rd o = d.rd o := rfl
@[simp] theorem Dev.inner_vrvLine (d : Dev) (e : VEntry) (n : Nat) : (d.vrvLine e n).inner = d.inner := by
  rw [Dev.vrvLine, Dev.inner_wrBytes, Dev.inner_setKind, Dev.inner_setLine]
@[simp] theorem Dev.vrvLine_rd (d : Dev) (e : VEntry) (n o : Nat) : (d.vrvLine e n).rd o = d.rd o := by
  rw [Dev.vrvLine, Dev.wrBytes_rd, Dev.setKind_rd, Dev.setLine_rd]
@[simp] theorem Dev.inner_inc (d : Dev) (o : Nat) : (d.inc o).inner = d.inner := rfl
@[simp] theorem Dev.inner_add (d : Dev) (o n : Nat) : (d.add o n).inner = d.inner := rfl

/-- The registers of the VRV block. -/
def vrvReg (o : Nat) : Prop := 0x700000 ≤ o ∧ o < 0x800000

theorem Dev.rd_wr_vrv (d : Dev) {o o' : Nat} (v : W64) (h : ¬ vrvReg o) (h' : vrvReg o') : (d.wr o' v).rd o = d.rd o :=
  d.rd_wr_ne v fun e => h (e ▸ h')
theorem Dev.rd_inc_vrv (d : Dev) {o o' : Nat} (h : ¬ vrvReg o) (h' : vrvReg o') : (d.inc o').rd o = d.rd o := d.rd_wr_vrv _ h h'
theorem Dev.rd_wf_vrv (d : Dev) {o o' hi lo x : Nat} (h : ¬ vrvReg o) (h' : vrvReg o') : (d.wf o' hi lo x).rd o = d.rd o :=
  d.rd_wr_vrv _ h h'

theorem vrvReg_ev (c : Nat) : vrvReg (Reg.VRV_EV c) := by unfold vrvReg Reg.VRV_EV; omega
theorem vrvReg_drop (c : Nat) : vrvReg (Reg.VRV_DROP c) := by unfold vrvReg Reg.VRV_DROP; omega
theorem vrvReg_status : vrvReg Reg.VRV_STATUS := by unfold vrvReg Reg.VRV_STATUS; omega
theorem vrvReg_wr : vrvReg Reg.VRV_WR := by unfold vrvReg Reg.VRV_WR; omega

theorem Dev.toRing_rd (d : Dev) (e : VEntry) {o : Nat} (h : ¬ vrvReg o) : (d.toRing e).1.rd o = d.rd o := by
  unfold Dev.toRing
  dsimp only
  repeat' split
  all_goals simp [Dev.rd_wf_vrv _ h vrvReg_status, Dev.rd_inc_vrv _ h (vrvReg_drop _), Dev.rd_inc_vrv _ h vrvReg_wr]
theorem Dev.inner_toRing (d : Dev) (e : VEntry) : (d.toRing e).1.inner = d.inner := by
  unfold Dev.toRing
  dsimp only
  repeat' split
  all_goals simp
theorem Dev.toEarly_rd (d : Dev) (e : VEntry) {o : Nat} (h : ¬ vrvReg o) : (d.toEarly e).1.rd o = d.rd o := by
  unfold Dev.toEarly
  dsimp only
  repeat' split
  all_goals first
    | rfl
    | simp [Dev.rd_wf_vrv _ h vrvReg_status, Dev.rd_inc_vrv _ h (vrvReg_drop _)]
  all_goals rfl
theorem Dev.inner_toEarly (d : Dev) (e : VEntry) : (d.toEarly e).1.inner = d.inner := by
  unfold Dev.toEarly
  dsimp only
  repeat' split
  all_goals rfl

/-- Recording an event in the varve log changes, of the registers, those of the VRV block only. -/
theorem Dev.varveLog_rd (d : Dev) (cls sev kind idx : Nat) (who : Who) (a b : W64) {o : Nat} (h : ¬ vrvReg o) :
    (d.varveLog cls sev kind idx who a b).rd o = d.rd o := by
  have hev : (d.inc (Reg.VRV_EV cls)).rd o = d.rd o := Dev.rd_inc_vrv _ h (vrvReg_ev _)
  unfold Dev.varveLog
  dsimp only
  split
  · rfl
  · split
    · split
      · simp [hev]
      · exact hev
    · split
      · rw [Dev.rd_inc_vrv _ h (vrvReg_drop _), hev]
      · generalize hd : ({ d.inc (Reg.VRV_EV cls) with varve := _ } : Dev) = d1
        have h1 : d1.rd o = d.rd o := by rw [← hd]; exact hev
        have h2 (e : VEntry) : (if d1.vrvOn then d1.toRing e else d1.toEarly e).1.rd o = d.rd o := by
          split
          · rw [Dev.toRing_rd _ _ h, h1]
          · rw [Dev.toEarly_rd _ _ h, h1]
        generalize hq : (if d1.vrvOn then d1.toRing _ else d1.toEarly _) = q
        have h3 : q.1.rd o = d.rd o := by rw [← hq]; exact h2 _
        repeat' split
        all_goals simp [h3]

theorem Dev.inner_varve (d : Dev) (v : Varve) : ({ d with varve := v } : Dev).inner = d.inner := rfl

/-- Recording an event leaves everything but registers, memory, the log, pending vectors and what has left. -/
@[simp] theorem Dev.inner_varveLog (d : Dev) (cls sev kind idx : Nat) (who : Who) (a b : W64) :
    (d.varveLog cls sev kind idx who a b).inner = d.inner := by
  unfold Dev.varveLog
  dsimp only
  split
  · rfl
  · split
    · split
      · simp
      · rfl
    · split
      · simp
      · generalize hd : ({ d.inc (Reg.VRV_EV cls) with varve := _ } : Dev) = d1
        have h1 : d1.inner = d.inner := by rw [← hd]; exact (Dev.inner_varve _ _).trans (Dev.inner_inc ..)
        have h2 (e : VEntry) : (if d1.vrvOn then d1.toRing e else d1.toEarly e).1.inner = d.inner := by
          split
          · rw [Dev.inner_toRing, h1]
          · rw [Dev.inner_toEarly, h1]
        generalize hq : (if d1.vrvOn then d1.toRing _ else d1.toEarly _) = q
        have h3 : q.1.inner = d.inner := by rw [← hq]; exact h2 _
        repeat' split
        all_goals simp [h3]

/-! ## What follows for the fields of the device -/

theorem Dev.inner_tile {d e : Dev} (h : d.inner = e.inner) (t : Nat) : d.tile t = e.tile t := by
  have := congrArg Dev.tiles h
  unfold Dev.tile
  exact congrArg (fun m => smGet tileReset m t) this
theorem Dev.inner_boot {d e : Dev} (h : d.inner = e.inner) : d.boot = e.boot := show d.inner.boot = e.inner.boot by rw [h]
theorem Dev.inner_links {d e : Dev} (h : d.inner = e.inner) : d.links = e.links := show d.inner.links = e.inner.links by rw [h]
theorem Dev.inner_events {d e : Dev} (h : d.inner = e.inner) : d.events = e.events := show d.inner.events = e.inner.events by rw [h]

@[simp] theorem Dev.varveLog_tile (d : Dev) (cls sev kind idx : Nat) (who : Who) (a b : W64) (t : Nat) :
    (d.varveLog cls sev kind idx who a b).tile t = d.tile t := Dev.inner_tile (Dev.inner_varveLog ..) t
@[simp] theorem Dev.raiseEvent_tile (d : Dev) (i t : Nat) : (d.raiseEvent i).tile t = d.tile t :=
  Dev.inner_tile (Dev.inner_raiseEvent ..) t
@[simp] theorem Dev.setStatus_tile (d : Dev) (off i ev t : Nat) : (d.setStatus off i ev).tile t = d.tile t :=
  Dev.inner_tile (Dev.inner_setStatus ..) t

/-! ## Nothing that has left is taken back -/

@[simp] theorem Dev.inc_out (d : Dev) (o : Nat) : (d.inc o).out = d.out := rfl
@[simp] theorem Dev.keepLatest_out (d : Dev) (e : VEntry) : (d.keepLatest e).out = d.out := rfl
@[simp] theorem Dev.wrBytes_out (d : Dev) (a : Nat) (l : List Byte) : (d.wrBytes a l).out = d.out := by
  induction l generalizing d a with
  | nil => rfl
  | cons b bs ih => rw [Dev.wrBytes, ih]; rfl
@[simp] theorem Dev.setLine_out (d : Dev) (a : Nat) (l : Line) : (d.setLine a l).out = d.out := rfl
@[simp] theorem Dev.setKind_out (d : Dev) (a k : Nat) : (d.setKind a k).out = d.out := rfl
@[simp] theorem Dev.vrvLine_out (d : Dev) (e : VEntry) (n : Nat) : (d.vrvLine e n).out = d.out := by
  rw [Dev.vrvLine, Dev.wrBytes_out, Dev.setKind_out, Dev.setLine_out]
theorem Dev.msix_out {d : Dev} {x : Out} (p v : Nat) (h : x ∈ d.out) : x ∈ (d.msix p v).out := by
  unfold Dev.msix
  split
  · exact h
  · exact List.mem_append_left _ h
theorem Dev.raiseEvent_out {d : Dev} {x : Out} (i : Nat) (h : x ∈ d.out) : x ∈ (d.raiseEvent i).out := by
  unfold Dev.raiseEvent
  dsimp only
  split
  · exact Dev.msix_out _ _ h
  · exact h
theorem Dev.toRing_out (d : Dev) (e : VEntry) : (d.toRing e).1.out = d.out := by
  unfold Dev.toRing
  dsimp only
  repeat' split
  all_goals simp
theorem Dev.toEarly_out (d : Dev) (e : VEntry) : (d.toEarly e).1.out = d.out := by
  unfold Dev.toEarly
  dsimp only
  repeat' split
  all_goals rfl
theorem Dev.varveLog_out {d : Dev} {x : Out} (cls sev kind idx : Nat) (who : Who) (a b : W64) (h : x ∈ d.out) :
    x ∈ (d.varveLog cls sev kind idx who a b).out := by
  unfold Dev.varveLog
  dsimp only
  split
  · exact h
  · split
    · split
      · simpa using h
      · exact h
    · split
      · exact h
      · generalize hd : ({ d.inc (Reg.VRV_EV cls) with varve := _ } : Dev) = d1
        have h1 : d1.out = d.out := by rw [← hd]; rfl
        have h2 (e : VEntry) : (if d1.vrvOn then d1.toRing e else d1.toEarly e).1.out = d.out := by
          split
          · rw [Dev.toRing_out, h1]
          · rw [Dev.toEarly_out, h1]
        generalize hq : (if d1.vrvOn then d1.toRing _ else d1.toEarly _) = q
        have h3 : q.1.out = d.out := by rw [← hq]; exact h2 _
        split
        · rwa [h3]
        · split
          · split
            · exact Dev.msix_out _ _ (by simpa [h3] using h)
            · simpa [h3] using h
          · simpa [h3] using h

end Sys2Proof.Machine
end

