-- ==== Sys2Proof/Laws/Frame.lean ====
section
/-! SUPPORT. How a completion and a frame are shown: from the meaning's device before it is sealed. -/

namespace Sys2Proof.Machine

/-- A command completes with what holds of the device its meaning gives, sealed. -/
theorem Completes.of {i : Instr} {s : State} {P : Dev → Prop} (d : Dev) (h : exec i s = s.ok d) (hP : P d.seal) : Completes i s P :=
  ⟨_, h, rfl, hP⟩

/-- A frame of registers holds of the sealed device where the meaning changed those registers only. -/
theorem RegsBut.seal {offs : List Nat} {d e : Dev} (h : ∀ o, o ∉ offs → e.rd o = d.rd o) : RegsBut offs d e.seal :=
  fun o ho => by rw [Dev.seal_rd, h o ho]
theorem SameBytes.seal {d e : Dev} (h : ∀ a, e.rdByte a = d.rdByte a) : SameBytes d e.seal := fun a => by rw [Dev.seal_rdByte, h]
theorem SameTiles.seal {d e : Dev} (h : ∀ t, e.tile t = d.tile t) : SameTiles d e.seal := fun t => by rw [Dev.seal_tile, h]
@[simp] theorem Dev.seal_rest (d : Dev) : d.seal.rest = d.rest := rfl
@[simp] theorem Dev.wr_rest (d : Dev) (o : Nat) (v : W64) : (d.wr o v).rest = d.rest := rfl
@[simp] theorem Dev.wf_rest (d : Dev) (o hi lo x : Nat) : (d.wf o hi lo x).rest = d.rest := rfl
@[simp] theorem Dev.add_rest (d : Dev) (o n : Nat) : (d.add o n).rest = d.rest := rfl
@[simp] theorem Dev.inc_rest (d : Dev) (o : Nat) : (d.inc o).rest = d.rest := rfl

/-- Nothing but registers has changed: from the parts. -/
theorem OnlyRegs.seal {offs : List Nat} {d e : Dev} (h : ∀ o, o ∉ offs → e.rd o = d.rd o) (hm : e.mem = d.mem)
    (ht : e.tiles = d.tiles) (hr : e.rest = d.rest) : OnlyRegs offs d e.seal :=
  ⟨.seal h, .seal fun a => by unfold Dev.rdByte; rw [hm], .seal fun t => by unfold Dev.tile; rw [ht], hr⟩

/-- Writing one register named changes only registers. -/
theorem OnlyRegs.wr {offs : List Nat} (d : Dev) {o : Nat} (v : W64) (h : o ∈ offs) : OnlyRegs offs d (d.wr o v).seal :=
  .seal (fun _ ho => d.rd_wr_ne v fun e => ho (e ▸ h)) rfl rfl rfl

end Sys2Proof.Machine
end

