-- ==== Sys2Proof/Laws/Vec.lean ====
section
/-! SUPPORT. Laws of vectors and predicates built lane by lane. -/

namespace Sys2Proof.Machine

theorem getLsbD_lane (v : BitVec 2048) (i j : Nat) (h : j < 32) : (lane v i).getLsbD j = v.getLsbD (32 * i + j) := by
  simp [lane, h]

/-- Lane i of a vector put together from lanes is the i-th of them. -/
theorem lane_ofLanes (l : List W32) (i : Nat) (h : i < l.length) (hi : i < 64) : lane (ofLanes l) i = l[i] := by
  induction l generalizing i with
  | nil => simp at h
  | cons x xs ih =>
    apply BitVec.eq_of_getLsbD_eq
    intro j hj
    rw [getLsbD_lane _ _ _ hj, ofLanes, BitVec.getLsbD_or, BitVec.getLsbD_shiftLeft]
    cases i with
    | zero =>
      have h1 : 32 * 0 + j < 32 := by omega
      have h2 : 32 * 0 + j < 2048 := by omega
      simp only [Nat.mul_zero, Nat.zero_add] at h1 h2 ⊢
      simp [h1, h2]
    | succ i =>
      have h1 : ¬ 32 * (i + 1) + j < 32 := by omega
      have h2 : 32 * (i + 1) + j < 2048 := by omega
      have h3 : 32 * (i + 1) + j - 32 = 32 * i + j := by omega
      have hz : (BitVec.zeroExtend 2048 x).getLsbD (32 * (i + 1) + j) = false := by
        simp only [BitVec.truncate_eq_setWidth, BitVec.getLsbD_setWidth, h2, decide_true, Bool.true_and]
        exact BitVec.getLsbD_of_ge _ _ (by omega)
      rw [hz, h3, ← getLsbD_lane _ _ _ hj, ih i (by simpa using h) (by omega)]
      simp [h1, h2]

/-- Lane i of a vector built from a function of the lane. -/
@[simp] theorem lane_mkVec (f : Nat → W32) (i : Nat) (h : i < 64) : lane (mkVec f) i = f i := by
  unfold mkVec
  rw [lane_ofLanes _ _ (by simpa using h) h]
  simp

theorem predSum (f : Nat → Bool) (n : Nat) :
    ((List.range n).foldl (fun k i => k + if f i then 2 ^ i else 0) 0) < 2 ^ n
      ∧ ∀ i, ((List.range n).foldl (fun k i => k + if f i then 2 ^ i else 0) 0).testBit i = (decide (i < n) && f i) := by
  induction n with
  | zero => simp
  | succ n ih =>
    rw [List.range_succ, List.foldl_append]
    simp only [List.foldl_cons, List.foldl_nil]
    obtain ⟨h1, h2⟩ := ih
    generalize (List.range n).foldl (fun k i => k + if f i then 2 ^ i else 0) 0 = k at *
    by_cases hf : f n = true
    · rw [if_pos hf]
      have hlt : k + 2 ^ n < 2 ^ (n + 1) := by rw [Nat.pow_succ]; omega
      refine ⟨hlt, fun i => ?_⟩
      rcases Nat.lt_trichotomy i n with hi | hi | hi
      · rw [Nat.add_comm, Nat.testBit_two_pow_add_gt hi, h2]
        simp [hi, Nat.lt_succ_of_lt hi]
      · subst hi
        rw [Nat.add_comm, Nat.testBit_two_pow_add_eq, h2]
        simp [hf]
      · rw [Nat.testBit_eq_false_of_lt (Nat.lt_of_lt_of_le hlt (Nat.pow_le_pow_right (by decide) (by omega)))]
        have : ¬ i < n + 1 := by omega
        simp [this]
    · rw [if_neg hf, Nat.add_zero]
      refine ⟨by rw [Nat.pow_succ]; omega, fun i => ?_⟩
      rw [h2]
      by_cases hn : i = n
      · subst hn; simp [hf]
      · have : decide (i < n + 1) = decide (i < n) := by
          rw [decide_eq_decide]; omega
        rw [this]

/-- Bit i of a predicate built from a function of the lane. -/
@[simp] theorem getLsbD_mkPred (f : Nat → Bool) (i : Nat) (h : i < 64) : (mkPred f).getLsbD i = f i := by
  unfold mkPred
  rw [BitVec.getLsbD_ofNat, (predSum f 64).2 i]
  simp [h]

end Sys2Proof.Machine
end

