-- ==== Sys2Proof/Laws/Issue.lean ====
section
/-! SUPPORT. Laws of the issue beat: what a bundle that issues does, said once for every operation of every slot. -/

namespace Sys2Proof.Machine

/-- A tile that reaches its bundle runs a beat. -/
theorem Dev.Reaches.tileBeat {d : Dev} {t : Nat} {w : Word256} {o : Obs} {b : Bundle} (h : d.Reaches t w o b) :
    d.tileBeat t (some w) o = ((d.atBeat t).runBeat t (some w) (d.granted t w) o).notePeaks t := by
  have h1 := h.awake
  have h2 := h.running
  unfold Dev.atBeat at *
  unfold Dev.tileBeat Dev.tileTick
  simp only [Option.getD_some, h1, h2, Bool.false_eq_true, if_false]

/-- The beat of a tile that reaches its bundle, by what becomes of the bundle. -/
theorem Dev.Reaches.runBeat {d : Dev} {t : Nat} {w : Word256} {o : Obs} {b : Bundle} (h : d.Reaches t w o b) (g : Bool) :
    (d.atBeat t).runBeat t (some w) g o = match (d.atBundle t o).judge t w g o with
      | .hold ctr k wait => (d.atBeat t).holdRun t ctr k wait false w o
      | .expire ctr => (d.atBeat t).holdRun t ctr 0 true true w o
      | .park => (((d.atBundle t o).tinc t Reg.WAIT_FRAME).proceed t 79 none).syncSeq t 4
      | v => (d.atBundle t o).act t v := by
  have h1 := h.banks
  have h2 := h.unraised
  unfold Dev.atBundle at *
  unfold Dev.runBeat
  generalize (d.atBeat t).bankBeat t o .arb = q at *
  obtain ⟨lost, e⟩ := q
  simp only at h1
  subst h1
  simp only [Bool.false_eq_true, if_false, Option.getD_some, Dev.tinc_tile, h2, Option.isSome_none]
  all_goals
    generalize (e.atReach t o).judge t w g o = v
    cases v <;> rfl

/-- A bundle whose conditions hold is judged to issue. -/
theorem Dev.Issues.judge {d : Dev} {t : Nat} {w : Word256} {o : Obs} {b : Bundle} {p : SlotPlan} (h : d.Issues t w o b p) :
    (d.atBundle t o).judge t w (d.granted t w) o = .issue b p := by
  have hc := h.cubes
  unfold Dev.judge Dev.judgePlan
  simp only [ge_iff_le, Nat.not_le.2 h.inBound, if_false, h.fetched, h.decodes, h.unsquashed, h.unparked, h.planned, h.ready, h.slotOpen, h.barrier,
    h.unstalled, Bool.false_eq_true, Bool.and_self, Bool.not_true]
  cases hb : b.cube with
  | mac m n x y => simp only [hc m n x y hb, if_true]
  | nop => rfl
  | zero n => rfl
  | drain f => rfl
  | fmt a b c d => rfl

theorem Dev.Issues.tileBeat {d : Dev} {t : Nat} {w : Word256} {o : Obs} {b : Bundle} {p : SlotPlan} (h : d.Issues t w o b p) :
    d.tileBeat t (some w) o = ((((d.atBundle t o).barArrival t b).dueActs t).1.issueBundle t b p).notePeaks t := by
  have hq := h.quiet
  rw [h.toReaches.tileBeat, h.toReaches.runBeat, h.judge]
  simp only [Dev.act]
  generalize (d.atBundle t o).dueActs t = q at *
  obtain ⟨e, due⟩ := q
  simp only at hq
  subst hq
  rfl

/-! ## What the parts of an issue leave of the tile -/

/-- The parts of a tile's registers that only the CTRL slot changes at issue, and the vector and predicate files, which change
only when a result is delivered. -/
def Regs.SameSeq (r r' : Regs) : Prop :=
  r'.pc = r.pc ∧ r'.rtn = r.rtn ∧ r'.loops = r.loops ∧ r'.calls = r.calls ∧ r'.squash = r.squash ∧ r'.lc = r.lc
    ∧ r'.v = r.v ∧ r'.p = r.p ∧ r'.accOut = r.accOut

theorem Regs.SameSeq.refl (r : Regs) : r.SameSeq r := ⟨rfl, rfl, rfl, rfl, rfl, rfl, rfl, rfl, rfl⟩
theorem Regs.SameSeq.trans {a b c : Regs} (h : a.SameSeq b) (g : b.SameSeq c) : a.SameSeq c := by
  obtain ⟨h1, h2, h3, h4, h5, h6, h7, h8, h9⟩ := h
  obtain ⟨g1, g2, g3, g4, g5, g6, g7, g8, g9⟩ := g
  exact ⟨g1.trans h1, g2.trans h2, g3.trans h3, g4.trans h4, g5.trans h5, g6.trans h6, g7.trans h7, g8.trans h8, g9.trans h9⟩

theorem Regs.sameSeq_wAg (r : Regs) (n : Nat) (x : AddrGen) : r.SameSeq (r.wAg n x) := ⟨rfl, rfl, rfl, rfl, rfl, rfl, rfl, rfl, rfl⟩
theorem Regs.sameSeq_uses (l : List Nat) (r : Regs) :
    r.SameSeq (l.foldl (fun r g => r.wAg g (agAdvance (r.rAg g))) r) := by
  induction l generalizing r with
  | nil => exact .refl r
  | cons g gs ih => exact (r.sameSeq_wAg g _).trans (ih _)

@[simp] theorem Dev.twords_tile (d : Dev) (t o : Nat) (l : List W64) (t' : Nat) : (d.twords t o l).tile t' = d.tile t' := by
  induction l generalizing d o with
  | nil => rfl
  | cons w ws ih => rw [Dev.twords, ih]; rfl
@[simp] theorem Dev.missed_tile (d : Dev) (t o t' : Nat) : (d.missed t o).tile t' = d.tile t' := rfl

/-- A failed verdict is all that changes of the tile. -/
theorem Dev.failIf_tile (e d : Dev) (t c : Nat) (b : Bool) (h : e.tile t = d.tile t) :
    ∃ v, (if b then e.failVerdict t c else e).tile t = { d.tile t with verdict := v } := by
  cases b
  · exact ⟨(d.tile t).verdict, h⟩
  · refine ⟨(d.tile t).verdict ||| BitVec.ofNat 16 (2 ^ c), ?_⟩
    rw [if_pos rfl, Dev.failVerdict, Dev.tile_upd_same, h]

/-- A lane capture changes of the tile only the mark of its capture. -/
theorem Dev.holdLane_tile (d : Dev) (t : Nat) (ws : List W64) (b : Bool) : (d.holdLane t ws b).tile t = { d.tile t with lcapTest := b } := by
  rw [Dev.holdLane, Dev.tile_upd_same, Dev.twf_tile, Dev.twords_tile]

/-- What a shadow mismatch leaves of the tile: only its verdict, and the mark of its capture, change. -/
theorem Dev.laneMismatch_tile (d : Dev) (t : Nat) (i : Inflight) :
    ∃ v c, (d.laneMismatch t i).tile t = { d.tile t with verdict := v, lcapTest := c } := by
  have key (e : Dev) (b : Bool) (h : ∃ c, e.tile t = { d.tile t with lcapTest := c }) :
      ∃ v c, (if b then e.failVerdict t 2 else e).tile t = { d.tile t with verdict := v, lcapTest := c } := by
    obtain ⟨c, h⟩ := h
    obtain ⟨v, h'⟩ := Dev.failIf_tile e e t 2 b rfl
    exact ⟨v, c, by rw [h', h]⟩
  unfold Dev.laneMismatch
  split
  · refine key _ _ ?_
    rw [Dev.report_tile]
    split
    · exact ⟨_, by rw [Dev.missed_tile, Dev.tinc_tile]⟩
    · exact ⟨_, by rw [Dev.holdLane_tile, Dev.tinc_tile]⟩
  · exact ⟨_, _, rfl⟩

theorem Dev.each_laneMismatch_tile (l : List Inflight) (d : Dev) (t : Nat) :
    ∃ v c, (d.each l fun d i => d.laneMismatch t i).tile t = { d.tile t with verdict := v, lcapTest := c } := by
  induction l generalizing d with
  | nil => exact ⟨_, _, rfl⟩
  | cons i is ih =>
    obtain ⟨v, c, h⟩ := d.laneMismatch_tile t i
    obtain ⟨v', c', h'⟩ := ih (d.laneMismatch t i)
    exact ⟨v', c', by rw [show (d.each (i :: is) fun d i => d.laneMismatch t i) = (d.laneMismatch t i).each is fun d i => d.laneMismatch t i from rfl, h', h]⟩

theorem Dev.dueActs_tile (d : Dev) (t : Nat) :
    ∃ v c, ((d.dueActs t).1.tile t) =
      { d.tile t with inflight := (d.tile t).inflight.filter (fun i => !decide (i.due ≤ d.issueNo t)), verdict := v, lcapTest := c } := by
  unfold Dev.dueActs
  dsimp only
  obtain ⟨v, c, h⟩ := (d.upd t fun x => { x with inflight := x.inflight.filter fun i => !(i.due ≤ d.issueNo t) }).each_laneMismatch_tile
    ((d.tile t).inflight.filter fun i => i.due ≤ d.issueNo t) t
  exact ⟨v, c, by rw [h, Dev.tile_upd_same]⟩

@[simp] theorem Dev.barArrival_tile (d : Dev) (t : Nat) (b : Bundle) (t' : Nat) : (d.barArrival t b).tile t' = d.tile t' := by
  unfold Dev.barArrival
  split
  · unfold Dev.arrive
    repeat' split
    all_goals rfl
  · rfl

/-- In-flight operations are kept in order and none is lost. -/
theorem mem_insInflight (x y : Inflight) (l : List Inflight) : y ∈ insInflight x l ↔ y = x ∨ y ∈ l := by
  induction l with
  | nil => simp [insInflight]
  | cons z zs ih =>
    rw [insInflight]
    split
    · simp
    · rw [List.mem_cons, ih, List.mem_cons]
      exact ⟨fun h => h.elim (fun h => .inr (.inl h)) (fun h => h.imp_right .inr),
        fun h => h.elim (fun h => .inr (.inl h)) (fun h => h.imp_right .inr)⟩
theorem mem_insAll (l : List Inflight) (m : List Inflight) (y : Inflight) :
    y ∈ l.foldl (fun acc i => insInflight i acc) m ↔ y ∈ l ∨ y ∈ m := by
  induction l generalizing m with
  | nil => simp
  | cons z zs ih =>
    rw [List.foldl_cons, ih, mem_insInflight, List.mem_cons]
    exact ⟨fun h => h.elim (fun h => .inl (.inr h)) (fun h => h.elim (fun h => .inl (.inl h)) .inr),
      fun h => h.elim (fun h => h.elim (fun h => .inr (.inl h)) .inl) (fun h => .inr (.inr h))⟩
theorem Dev.addInflight_tile (d : Dev) (t : Nat) (l : List Inflight) : (d.addInflight t l).tile t =
    { d.tile t with inflight := l.foldl (fun acc i => insInflight i acc) (d.tile t).inflight } := Dev.tile_upd_same ..

theorem Regs.sameSeq_wAcc (r : Regs) (n : Nat) (x : AccSet) : r.SameSeq (r.wAcc n x) := ⟨rfl, rfl, rfl, rfl, rfl, rfl, rfl, rfl, rfl⟩

theorem Dev.issueVec_kept (d : Dev) (t : Nat) (u : VUnit) (op : VecOp) :
    ∃ a b l, (d.issueVec t u op).tile t = { d.tile t with rotA := a, rotB := b, lastSfu := l } := by
  unfold Dev.issueVec
  dsimp only
  cases (vecUses op).1 <;> cases (vecUses op).2 <;> cases u <;>
    simp only [Dev.when, Bool.false_eq_true, if_false, if_true, Dev.tile_upd_same, Tile.stepRot] <;> exact ⟨_, _, _, rfl⟩

theorem Dev.issueMove_kept (d : Dev) (t : Nat) (op : MoveOp) :
    ∃ n f z, (d.issueMove t op).tile t = { d.tile t with nextId := n, fwd := f, xfers := z } := by
  unfold Dev.issueMove
  cases op <;> dsimp only <;> (try rw [Dev.tile_upd_same]) <;> exact ⟨_, _, _, rfl⟩

theorem drainCheck_sameSeq (f : DrainF) (b : Bool) (r : Regs) : r.SameSeq (drainCheck f b r) := by
  unfold drainCheck
  cases f.cve <;> cases f.cvs <;> cases b <;> exact ⟨rfl, rfl, rfl, rfl, rfl, rfl, rfl, rfl, rfl⟩

theorem Dev.issueCube_kept (d : Dev) (t : Nat) (op : CubeOp) :
    ∃ r f l c a g v q, (d.issueCube t op).tile t =
      { d.tile t with regs := r, lastFp32 := f, lastDrain := l, rotCube := c, activeAt := a, fpBeat := g, verdict := v, inflight := q }
      ∧ (d.tile t).regs.SameSeq r ∧ ∀ i ∈ (d.tile t).inflight, i ∈ q := by
  unfold Dev.issueCube
  cases op with
  | nop => exact ⟨_, _, _, _, _, _, _, _, rfl, .refl _, fun _ h => h⟩
  | mac m n a b =>
    dsimp only
    rw [Dev.tinc_tile, Dev.tile_upd_same, Dev.tile_updRegs_same]
    exact ⟨_, _, _, _, _, _, _, _, rfl, Regs.sameSeq_wAcc _ _ _, fun _ h => h⟩
  | zero n =>
    dsimp only
    rw [Dev.addInflight_tile, Dev.tile_updRegs_same]
    exact ⟨_, _, _, _, _, _, _, _, rfl, Regs.sameSeq_wAcc _ _ _, fun i h => (mem_insAll _ _ _).2 (.inr h)⟩
  | drain f =>
    dsimp only
    generalize hc : (d.drainBad t f.acc && d.drainOpen t f.acc && Dev.isCad _ t (Dev.tile _ t).slot) = c
    obtain ⟨v, h⟩ := Dev.failIf_tile _ ((d.updRegs t (drainCheck f (d.drainBad t f.acc))).upd t fun x =>
      { x with lastDrain := some (d.issueNo t), rotCube := if f.fmt = 0 then x.rotCube else (x.rotCube + 1) % 8 }) t 12 c rfl
    rw [h, Dev.tile_upd_same, Dev.tile_updRegs_same]
    exact ⟨_, _, _, _, _, _, _, _, rfl, drainCheck_sameSeq _ _ _, fun _ h => h⟩
  | fmt fa fb sa sb =>
    dsimp only
    rw [Dev.tile_updRegs_same]
    exact ⟨_, _, _, _, _, _, _, _, rfl, ⟨rfl, rfl, rfl, rfl, rfl, rfl, rfl, rfl, rfl⟩, fun _ h => h⟩

/-! ## What follows the slots -/

@[simp] theorem Dev.ibi_tile (d : Dev) (n t : Nat) : (d.ibi n).tile t = d.tile t := by
  unfold Dev.ibi Dev.when; dsimp only; split <;> rfl
@[simp] theorem Dev.pwrStatus_tile (d : Dev) (i t : Nat) : (d.pwrStatus i).tile t = d.tile t := by
  unfold Dev.pwrStatus Dev.when
  dsimp only
  split
  · rw [Dev.ibi_tile, Dev.setStatus_tile]
  · exact Dev.setStatus_tile ..
@[simp] theorem Dev.syncClamp_tile (d : Dev) (f t : Nat) : (d.syncClamp f).tile t = d.tile t := rfl
@[simp] theorem Dev.applyClamp_tile (d : Dev) (f s k t : Nat) : (d.applyClamp f s k).tile t = d.tile t := by
  unfold Dev.applyClamp
  dsimp only
  rw [Dev.syncClamp_tile, Dev.pwrStatus_tile]
  rfl
@[simp] theorem Dev.releaseClamp_tile (d : Dev) (f s t : Nat) : (d.releaseClamp f s).tile t = d.tile t := rfl
@[simp] theorem Dev.phaseStart_tile (d : Dev) (f p t : Nat) : (d.phaseStart f p).tile t = d.tile t := by
  unfold Dev.phaseStart
  dsimp only
  split
  · rw [Dev.applyClamp_tile]; rfl
  · split <;> rfl
@[simp] theorem Dev.syncSeq_tile (d : Dev) (t h t' : Nat) : (d.syncSeq t h).tile t' = d.tile t' := by
  unfold Dev.syncSeq; rw [Dev.twr_tile]
@[simp] theorem Dev.notePeaks_tile (d : Dev) (t t' : Nat) : (d.notePeaks t).tile t' = d.tile t' := rfl
@[simp] theorem Dev.consumeRelease_tile (d : Dev) (c n l t : Nat) : (d.consumeRelease c n l).tile t = d.tile t := by
  unfold Dev.consumeRelease; split <;> rfl
@[simp] theorem Dev.launchPart_tile (d : Dev) (t id : Nat) (f : Option Nat) (t' : Nat) : (d.launchPart t id f).tile t' = d.tile t' := rfl

@[simp] theorem Dev.dropFaulted_tile (d : Dev) (t : Nat) (l : List TileLaunch) (t' : Nat) : (d.dropFaulted t l).1.tile t' = d.tile t' := by
  induction l generalizing d with
  | nil => rfl
  | cons x xs ih => rw [Dev.dropFaulted]; split <;> simp [ih]
@[simp] theorem Dev.dropFaulted_rd (d : Dev) (t : Nat) (l : List TileLaunch) (o : Nat) : (d.dropFaulted t l).1.rd o = d.rd o := by
  induction l generalizing d with
  | nil => rfl
  | cons x xs ih => rw [Dev.dropFaulted]; split <;> [exact ih _; rfl]

/-- The end of an entry or launch changes only which context runs next. -/
theorem Dev.proceed_tile (d : Dev) (t left : Nat) (f : Option Nat) :
    ∃ m c l r w, (d.proceed t left f).tile t = { d.tile t with mode := m, cur := c, launches := l, reached := r, waited := w } := by
  unfold Dev.proceed Dev.when
  dsimp only
  repeat' split
  all_goals simp only [Dev.tile_upd_same, Dev.dropFaulted_tile, Dev.twf_tile, Dev.launchPart_tile, Dev.setSlotState]
  all_goals exact ⟨_, _, _, _, _, rfl⟩

/-- A PHASE changes only where the tile switches to. -/
theorem Dev.phaseAt_tile (d : Dev) (t id : Nat) : ∃ m, (d.phaseAt t id).tile t = { d.tile t with mode := m } := by
  unfold Dev.phaseAt
  dsimp only
  split
  · rw [Dev.tile_upd_same]
    simp only [Dev.twf_tile, Dev.setSlotState, Dev.phaseStart_tile]
    exact ⟨_, rfl⟩
  · rw [Dev.phaseStart_tile, Dev.twf_tile]
    exact ⟨_, rfl⟩

/-- What an issued bundle leaves of its tile: x as the slots found it, X afterwards; q is the tile as its CUBE slot left it and
z as all its slots left it. -/
structure Issued (x q z X : Tile) (b : Bundle) (p : SlotPlan) : Prop where
  regs : X.regs = ctrlNext b.ctrl b.fin false x.regs
    { p.uses.foldl (fun r g => r.wAg g (agAdvance (r.rAg g))) q.regs with squash := x.regs.squash - 1 }
  seq : x.regs.SameSeq q.regs
  infl : ∀ i ∈ p.infl, i ∈ X.inflight
  cubeInfl : ∀ i ∈ q.inflight, i ∈ X.inflight
  bankq : X.bankq = x.bankq ++ p.accs
  mvq : X.mvq = x.mvq ++ p.mv
  xfers : X.xfers = z.xfers
  fwd : X.fwd = z.fwd
  nextId : X.nextId = z.nextId
  slot : X.slot = x.slot
  tags : X.tags = x.tags

/-- The CUBE slot acts after MOVE has taken what it reads. -/
def Dev.atCube (d : Dev) (t : Nat) (b : Bundle) : Dev := (d.issueMove t b.move).issueCube t b.cube

theorem Dev.issueSlots_tile (d : Dev) (t : Nat) (b : Bundle) :
    ∃ ra rb ls, (d.issueSlots t b).tile t = { (d.atCube t b).tile t with rotA := ra, rotB := rb, lastSfu := ls } := by
  unfold Dev.issueSlots
  obtain ⟨a1, b1, l1, hva⟩ := (d.atCube t b).issueVec_kept t .a b.veca
  obtain ⟨a2, b2, l2, hvb⟩ := ((d.atCube t b).issueVec t .a b.veca).issueVec_kept t .b b.vecb
  exact ⟨a2, b2, l2, by unfold Dev.atCube at *; rw [hvb, hva]⟩

/-- What the MOVE and CUBE slots leave of the tile. -/
theorem Dev.atCube_kept (d : Dev) (t : Nat) (b : Bundle) :
    ∃ n fw z r f l c a g v q, (d.atCube t b).tile t =
      { d.tile t with nextId := n, fwd := fw, xfers := z, regs := r, lastFp32 := f, lastDrain := l, rotCube := c, activeAt := a, fpBeat := g,
                      verdict := v, inflight := q }
      ∧ (d.tile t).regs.SameSeq r ∧ ∀ i ∈ (d.tile t).inflight, i ∈ q := by
  obtain ⟨n, fw, z, hm⟩ := d.issueMove_kept t b.move
  obtain ⟨r, f, l, c, a, g, v, q, hq, hs, hi⟩ := (d.issueMove t b.move).issueCube_kept t b.cube
  rw [hm] at hq hs hi
  exact ⟨n, fw, z, r, f, l, c, a, g, v, q, hq, hs, hi⟩

theorem Dev.issueQueues_tile (d : Dev) (t : Nat) (p : SlotPlan) : (d.issueQueues t p).tile t =
    { d.tile t with
      inflight := p.infl.foldl (fun acc i => insInflight i acc) (d.tile t).inflight
      bankq := (d.tile t).bankq ++ p.accs, mvq := (d.tile t).mvq ++ p.mv, reached := none, waited := 0
      regs := p.uses.foldl (fun r g => r.wAg g (agAdvance (r.rAg g))) (d.tile t).regs } := by
  unfold Dev.issueQueues
  rw [Dev.tile_upd_same, Dev.addInflight_tile]

@[simp] theorem Dev.issueBar_tile (d : Dev) (t c : Nat) (op : CtrlOp) (t' : Nat) : (d.issueBar t c op).tile t' = d.tile t' := by
  unfold Dev.issueBar; split <;> simp

theorem Dev.issueEnd_tile (d : Dev) (t : Nat) (op : CtrlOp) :
    ∃ m c l r w, (d.issueEnd t op).tile t = { d.tile t with mode := m, cur := c, launches := l, reached := r, waited := w } := by
  unfold Dev.issueEnd
  split
  · obtain ⟨m, h⟩ := d.phaseAt_tile t _
    exact ⟨m, _, _, _, _, h⟩
  · exact d.proceed_tile t 79 none
  · exact ⟨_, _, _, _, _, rfl⟩

/-- Everything an issued bundle does to its tile. -/
theorem Dev.issueBundle_tile (d : Dev) (t : Nat) (b : Bundle) (p : SlotPlan) :
    Issued (d.tile t) ((d.atCube t b).tile t) ((d.issueSlots t b).tile t) ((d.issueBundle t b p).tile t) b p := by
  obtain ⟨n, fw, z, r, f, l, c, a, g, v, i, hq, hs, hi⟩ := d.atCube_kept t b
  obtain ⟨ra, rb, ls, hz⟩ := d.issueSlots_tile t b
  unfold Dev.issueBundle
  dsimp only
  rw [Dev.syncSeq_tile]
  obtain ⟨m, cu, la, re, w, he⟩ := Dev.issueEnd_tile (Dev.updRegs
    ((((d.issueSlots t b).issueQueues t p).tinc t Reg.ISSUE).issueBar t (d.ctxOf t (d.tile t).slot) b.ctrl) t
    fun r => ctrlNext b.ctrl b.fin false (d.tile t).regs { r with squash := r.squash - 1 }) t b.ctrl
  rw [he, Dev.tile_updRegs_same, Dev.issueBar_tile, Dev.tinc_tile, Dev.issueQueues_tile, hz]
  have hsq : ∀ (l : List Nat) (r : Regs), (l.foldl (fun r g => r.wAg g (agAdvance (r.rAg g))) r).squash = r.squash :=
    fun l r => (Regs.sameSeq_uses l r).2.2.2.2.1
  refine ⟨?_, ?_, ?_, ?_, ?_, ?_, ?_, ?_, ?_, ?_, ?_⟩
  · dsimp only
    rw [hsq, hq]
    dsimp only
    rw [hs.2.2.2.2.1]
  · rw [hq]; exact hs
  · exact fun i h => (mem_insAll _ _ _).2 (.inl h)
  · exact fun i h => (mem_insAll _ _ _).2 (.inr h)
  · rw [hq]
  · rw [hq]
  · rfl
  · rfl
  · rfl
  · rw [hq]
  · rw [hq]

/-! ## The tile's counters in an issue beat -/

/-- What reporting and power control of a PHASE write lies below the tile blocks. -/
theorem Dev.pwrStatus_rd (d : Dev) (i : Nat) {o : Nat} (h : o ≠ Reg.PWR_STATUS) (h' : o ≠ Reg.EVENT) :
    (d.pwrStatus i).rd o = d.rd o := by
  have hi (e : Dev) (n : Nat) : (e.ibi n).rd o = e.rd o := by
    unfold Dev.ibi Dev.when; dsimp only; split <;> rfl
  unfold Dev.pwrStatus Dev.when
  dsimp only
  split
  · rw [hi, Dev.setStatus_rd _ _ _ _ h h']
  · exact Dev.setStatus_rd _ _ _ _ h h'

theorem Dev.syncClamp_rd (d : Dev) (f : Nat) {o : Nat} (h : o ≠ Reg.FIELD f) (h' : o ≠ Reg.AVL f) : (d.syncClamp f).rd o = d.rd o := by
  unfold Dev.syncClamp
  dsimp only
  rw [Dev.rd_wr_ne _ _ h', Dev.rd_wf_ne _ _ _ _ h]

theorem Dev.phaseStart_rd (d : Dev) (f p : Nat) {o : Nat} (h : 0x1000000 ≤ o) : (d.phaseStart f p).rd o = d.rd o := by
  have h1 : o ≠ Reg.FIELD f := by unfold Reg.FIELD; omega
  have h2 : o ≠ Reg.AVL f := by unfold Reg.AVL; omega
  have h3 : o ≠ Reg.CLAMPS := by unfold Reg.CLAMPS; omega
  have h4 : o ≠ Reg.PWR_STATUS := by unfold Reg.PWR_STATUS; omega
  have h5 : o ≠ Reg.EVENT := by unfold Reg.EVENT; omega
  unfold Dev.phaseStart
  dsimp only
  split
  · unfold Dev.applyClamp
    dsimp only
    rw [Dev.syncClamp_rd _ _ h1 h2, Dev.pwrStatus_rd _ _ h4 h5, Dev.inc, Dev.rd_add_ne _ _ h3]
    rfl
  · split
    · unfold Dev.releaseClamp
      rw [Dev.syncClamp_rd _ _ h1 h2]
      rfl
    · rfl

/-- A tile's register that is no context's STATE register. -/
def plainTileReg (t o : Nat) : Prop := 0x1000000 ≤ o ∧ ∀ n, o ≠ Reg.tile t (Reg.CTXSTATE n)

theorem plainTileReg_issue (t : Nat) : plainTileReg t (Reg.tile t Reg.ISSUE) := by
  unfold plainTileReg Reg.tile Reg.ISSUE Reg.CTXSTATE
  exact ⟨by omega, fun n => by omega⟩

theorem Dev.proceed_rd (d : Dev) (t left : Nat) (f : Option Nat) {o : Nat} (h : plainTileReg t o) :
    (d.proceed t left f).rd o = d.rd o := by
  unfold Dev.proceed Dev.when
  dsimp only
  have hs (e : Dev) (n v : Nat) : (e.setSlotState t n v).rd o = e.rd o := Dev.rd_wf_ne _ _ _ _ (h.2 n)
  have hw (e : Dev) (n hi lo x : Nat) : (e.twf t (Reg.CTXSTATE n) hi lo x).rd o = e.rd o := Dev.rd_wf_ne _ _ _ _ (h.2 n)
  have hl (e : Dev) (i : Nat) (g : Option Nat) : (e.launchPart t i g).rd o = e.rd o := rfl
  repeat' split
  all_goals simp only [Dev.upd_rd, Dev.dropFaulted_rd, hs, hw, hl]

theorem Dev.phaseAt_rd (d : Dev) (t id : Nat) (ht : t < 1664) {o : Nat} (h : plainTileReg t o) : (d.phaseAt t id).rd o = d.rd o := by
  have hs (e : Dev) (n v : Nat) : (e.setSlotState t n v).rd o = e.rd o := Dev.rd_wf_ne _ _ _ _ (h.2 n)
  have hw (e : Dev) (n hi lo x : Nat) : (e.twf t (Reg.CTXSTATE n) hi lo x).rd o = e.rd o := Dev.rd_wf_ne _ _ _ _ (h.2 n)
  have hf : physField t < 16 := by unfold physField; omega
  unfold Dev.phaseAt
  dsimp only
  split
  · simp only [Dev.upd_rd, hw, hs]
    rw [Dev.phaseStart_rd _ _ _ h.1, hw]
  · rw [Dev.phaseStart_rd _ _ _ h.1, hw]

theorem Dev.issueCube_rd (d : Dev) (t : Nat) (op : CubeOp) {o : Nat} (h : o ≠ Reg.tile t Reg.CUBE_ACTIVE) :
    (d.issueCube t op).rd o = d.rd o := by
  unfold Dev.issueCube
  cases op <;> dsimp only
  · exact Dev.rd_add_ne _ _ h
  · rfl
  · have hv (e : Dev) (b : Bool) : (if b then e.failVerdict t 12 else e).rd o = e.rd o := by cases b <;> rfl
    rw [hv, Dev.upd_rd, Dev.updRegs_rd]
  · rfl
theorem Dev.issueVec_rd (d : Dev) (t : Nat) (u : VUnit) (op : VecOp) (o : Nat) : (d.issueVec t u op).rd o = d.rd o := by
  unfold Dev.issueVec Dev.when
  dsimp only
  split <;> split <;> rfl
theorem Dev.issueMove_rd (d : Dev) (t : Nat) (op : MoveOp) (o : Nat) : (d.issueMove t op).rd o = d.rd o := by
  unfold Dev.issueMove
  cases op <;> rfl
theorem Dev.issueSlots_rd (d : Dev) (t : Nat) (b : Bundle) {o : Nat} (h : o ≠ Reg.tile t Reg.CUBE_ACTIVE) :
    (d.issueSlots t b).rd o = d.rd o := by
  unfold Dev.issueSlots
  rw [Dev.issueVec_rd, Dev.issueVec_rd, Dev.issueCube_rd _ _ _ h, Dev.issueMove_rd]
theorem Dev.issueQueues_rd (d : Dev) (t : Nat) (p : SlotPlan) (o : Nat) : (d.issueQueues t p).rd o = d.rd o := rfl
theorem Dev.issueBar_rd (d : Dev) (t c : Nat) (op : CtrlOp) (o : Nat) : (d.issueBar t c op).rd o = d.rd o := by
  unfold Dev.issueBar Dev.consumeRelease
  split
  · split <;> rfl
  · rfl
theorem Dev.issueEnd_rd (d : Dev) (t : Nat) (ht : t < 1664) (op : CtrlOp) {o : Nat} (h : plainTileReg t o) :
    (d.issueEnd t op).rd o = d.rd o := by
  unfold Dev.issueEnd
  split
  · exact d.phaseAt_rd t _ ht h
  · exact d.proceed_rd t _ _ h
  · rfl

theorem Dev.notePeaks_rd (d : Dev) (t : Nat) {o : Nat} (h : 0x1000000 ≤ o) : (d.notePeaks t).rd o = d.rd o := by
  have : o ≠ Reg.AVL (physField t) := by unfold Reg.AVL physField; omega
  unfold Dev.notePeaks
  dsimp only
  rw [Dev.rd_wf_ne _ _ _ _ this, Dev.rd_wf_ne _ _ _ _ this]

theorem Dev.twords_rd (d : Dev) (t o : Nat) (l : List W64) {o' : Nat} (h : o' < Reg.tile t o ∨ Reg.tile t o + 8 * l.length ≤ o') :
    (d.twords t o l).rd o' = d.rd o' := by
  induction l generalizing d o with
  | nil => rfl
  | cons w ws ih =>
    simp only [List.length_cons, Reg.tile] at h
    rw [Dev.twords, ih _ _ (by unfold Reg.tile; omega), Dev.twr, Dev.rd_wr_ne _ _ (by unfold Reg.tile; omega)]

/-- What a shadow mismatch writes of the tile's registers lies from VEC_MISMATCH to the lane capture's words (R146, R147). -/
theorem Dev.laneMismatch_rd (d : Dev) (t : Nat) (i : Inflight) {o : Nat} (h : o < Reg.tile t 0x328 ∨ Reg.tile t 0x368 ≤ o) :
    (d.laneMismatch t i).rd o = d.rd o := by
  unfold Reg.tile at h
  have hv (e : Dev) (b : Bool) : (if b then e.failVerdict t 2 else e).rd o = e.rd o := by cases b <;> rfl
  have hm (e : Dev) : (e.missed t Reg.LCAP_STATUS).rd o = e.rd o :=
    Dev.rd_wf_ne _ _ _ _ (by unfold Reg.tile Reg.LCAP_STATUS; omega)
  unfold Dev.laneMismatch
  split
  · dsimp only
    rw [hv, Dev.report_rd]
    split
    · rw [hm]
      exact Dev.rd_add_ne _ _ (by unfold Reg.tile Reg.VEC_MISMATCH; omega)
    · rw [Dev.holdLane, Dev.upd_rd, Dev.twf, Dev.rd_wf_ne _ _ _ _ (by unfold Reg.tile Reg.LCAP_STATUS; omega),
        Dev.twords_rd _ _ _ _ (by unfold Reg.tile; simp; omega)]
      exact Dev.rd_add_ne _ _ (by unfold Reg.tile Reg.VEC_MISMATCH; omega)
  · rfl

theorem Dev.dueActs_rd (d : Dev) (t : Nat) {o : Nat} (h : o < Reg.tile t 0x328 ∨ Reg.tile t 0x368 ≤ o) :
    (d.dueActs t).1.rd o = d.rd o := by
  have hl (l : List Inflight) (e : Dev) : (e.each l fun d i => d.laneMismatch t i).rd o = e.rd o := by
    induction l generalizing e with
    | nil => rfl
    | cons i is ih =>
      show ((e.laneMismatch t i).each is fun d i => d.laneMismatch t i).rd o = _
      rw [ih, Dev.laneMismatch_rd _ _ _ h]
  unfold Dev.dueActs
  dsimp only
  rw [hl, Dev.upd_rd]

@[simp] theorem Dev.barArrival_rd (d : Dev) (t : Nat) (b : Bundle) (o : Nat) : (d.barArrival t b).rd o = d.rd o := by
  unfold Dev.barArrival
  split
  · unfold Dev.arrive
    repeat' split
    all_goals rfl
  · rfl

/-- Issuing a bundle counts one issue beat (R54, R84). -/
theorem Dev.issueBundle_issue (d : Dev) (t : Nat) (ht : t < 1664) (b : Bundle) (p : SlotPlan) :
    ((d.issueBundle t b p).notePeaks t).trd t Reg.ISSUE = d.trd t Reg.ISSUE + 1 := by
  have h := plainTileReg_issue t
  unfold Dev.trd
  rw [Dev.notePeaks_rd _ _ h.1]
  unfold Dev.issueBundle
  dsimp only
  rw [Dev.syncSeq, Dev.twr, Dev.rd_wr_ne _ _ (Reg.tile_ne t (by decide)), Dev.issueEnd_rd _ _ ht _ h, Dev.updRegs_rd,
    Dev.issueBar_rd, Dev.tinc, Dev.inc, Dev.rd_add_same, Dev.issueQueues_rd,
    Dev.issueSlots_rd _ _ _ (Reg.tile_ne t (by decide))]
  rfl

/-- A command that is an operation of a Selku slot is one beat of its tile with that bundle. -/
theorem exec_bundle (i : Instr) (s : State) (t : TileId) (w : Word256) (o : Obs) (h : bundleOf i = some (t, w, o)) :
    exec i s = s.ok (s.dev.tileBeat t (some w) o) := by
  cases i <;> simp only [bundleOf, vecForm, Option.map_none, Option.map_some, Option.some.injEq, Prod.mk.injEq, reduceCtorEq] at h <;>
    obtain ⟨rfl, rfl, rfl⟩ := h <;> rfl

/-- The device that a Selku command leaves when its bundle issues. -/
def Dev.issued (d : Dev) (t : Nat) (o : Obs) (b : Bundle) (p : SlotPlan) : Dev :=
  ((((d.atBundle t o).barArrival t b).dueActs t).1.issueBundle t b p).notePeaks t

theorem exec_issues {i : Instr} {s : State} {t : TileId} {w : Word256} {o : Obs} {b : Bundle} {p : SlotPlan}
    (h : bundleOf i = some (t, w, o)) (hi : s.dev.Issues t w o b p) : exec i s = s.ok (s.dev.issued t o b p) := by
  rw [exec_bundle i s t w o h, hi.tileBeat]
  rfl

/-- The tile as the slots of an issuing bundle find it: the beat's arrivals and mismatches have changed neither its registers
nor its queues. -/
theorem Dev.atIssue_tile (d : Dev) (t : Nat) (o : Obs) (b : Bundle) :
    ∃ v c, ((((d.atBundle t o).barArrival t b).dueActs t).1.tile t) = { (d.atBundle t o).tile t with
      inflight := ((d.atBundle t o).tile t).inflight.filter (fun i => !decide (i.due ≤ (d.atBundle t o).issueNo t)), verdict := v, lcapTest := c } := by
  obtain ⟨v, c, h⟩ := ((d.atBundle t o).barArrival t b).dueActs_tile t
  refine ⟨v, c, ?_⟩
  rw [h, Dev.barArrival_tile]
  unfold Dev.issueNo Dev.trd
  rw [Dev.barArrival_rd]

/-- The device as the slots of an issuing bundle find it. -/
def Dev.atIssue (d : Dev) (t : Nat) (o : Obs) (b : Bundle) : Dev := (((d.atBundle t o).barArrival t b).dueActs t).1

theorem Dev.atIssue_regs (d : Dev) (t : Nat) (o : Obs) (b : Bundle) :
    ((d.atIssue t o b).tile t).regs = ((d.atBundle t o).tile t).regs := by
  obtain ⟨v, c, h⟩ := d.atIssue_tile t o b
  unfold Dev.atIssue
  rw [h]
theorem Dev.atIssue_bankq (d : Dev) (t : Nat) (o : Obs) (b : Bundle) :
    ((d.atIssue t o b).tile t).bankq = ((d.atBundle t o).tile t).bankq := by
  obtain ⟨v, c, h⟩ := d.atIssue_tile t o b
  unfold Dev.atIssue
  rw [h]
theorem Dev.atIssue_mvq (d : Dev) (t : Nat) (o : Obs) (b : Bundle) :
    ((d.atIssue t o b).tile t).mvq = ((d.atBundle t o).tile t).mvq := by
  obtain ⟨v, c, h⟩ := d.atIssue_tile t o b
  unfold Dev.atIssue
  rw [h]
theorem Dev.atIssue_slot (d : Dev) (t : Nat) (o : Obs) (b : Bundle) :
    ((d.atIssue t o b).tile t).slot = ((d.atBundle t o).tile t).slot := by
  obtain ⟨v, c, h⟩ := d.atIssue_tile t o b
  unfold Dev.atIssue
  rw [h]
theorem Dev.atIssue_fwd (d : Dev) (t : Nat) (o : Obs) (b : Bundle) :
    ((d.atIssue t o b).tile t).fwd = ((d.atBundle t o).tile t).fwd := by
  obtain ⟨v, c, h⟩ := d.atIssue_tile t o b
  unfold Dev.atIssue
  rw [h]
theorem Dev.atIssue_xfers (d : Dev) (t : Nat) (o : Obs) (b : Bundle) :
    ((d.atIssue t o b).tile t).xfers = ((d.atBundle t o).tile t).xfers := by
  obtain ⟨v, c, h⟩ := d.atIssue_tile t o b
  unfold Dev.atIssue
  rw [h]
theorem Dev.atIssue_nextId (d : Dev) (t : Nat) (o : Obs) (b : Bundle) :
    ((d.atIssue t o b).tile t).nextId = ((d.atBundle t o).tile t).nextId := by
  obtain ⟨v, c, h⟩ := d.atIssue_tile t o b
  unfold Dev.atIssue
  rw [h]
theorem Dev.atIssue_rd (d : Dev) (t : Nat) (o : Obs) (b : Bundle) {off : Nat} (h : off < Reg.tile t 0x328 ∨ Reg.tile t 0x368 ≤ off) :
    (d.atIssue t o b).rd off = (d.atBundle t o).rd off := by
  unfold Dev.atIssue
  rw [Dev.dueActs_rd _ _ h, Dev.barArrival_rd]

/-- The tile after its bundle has issued. -/
theorem Dev.issued_tile (d : Dev) (t : Nat) (o : Obs) (b : Bundle) (p : SlotPlan) :
    Issued ((d.atIssue t o b).tile t) (((d.atIssue t o b).atCube t b).tile t) (((d.atIssue t o b).issueSlots t b).tile t)
      ((d.issued t o b p).tile t) b p := by
  have h := (d.atIssue t o b).issueBundle_tile t b p
  unfold Dev.issued
  rw [Dev.notePeaks_tile]
  exact h

/-- The issue beat is counted (R54, R84). -/
theorem Dev.issued_issue (d : Dev) (t : Nat) (ht : t < 1664) (o : Obs) (b : Bundle) (p : SlotPlan) :
    (d.issued t o b p).trd t Reg.ISSUE = (d.atBundle t o).trd t Reg.ISSUE + 1 := by
  have h := (d.atIssue t o b).issueBundle_issue t ht b p
  have hr := d.atIssue_rd t o b (off := Reg.tile t Reg.ISSUE) (by unfold Reg.tile Reg.ISSUE; omega)
  unfold Dev.trd at *
  rw [← hr]
  exact h

/-- A bundle that plans gives the plans of its slots, joined in their order (R188). -/
theorem Dev.planBundle_ok {d : Dev} {t : Nat} {w : Word256} {b : Bundle} {o : Obs} {p : SlotPlan} (h : d.planBundle t w b o = .ok p) :
    d.ctrlFault t b.ctrl b.fin = none ∧ ∃ q va vb m, d.planCube t b.cube o = .ok q
      ∧ d.planVec t .a b.veca o.laneA (slotVec .a w) = .ok va ∧ d.planVec t .b b.vecb o.laneB (slotVec .b w) = .ok vb
      ∧ d.planMove t b.move = .ok m ∧ p = joinPlans [q, va, vb, m, d.planParity t w b o] := by
  unfold Dev.planBundle at h
  cases hc : d.ctrlFault t b.ctrl b.fin with
  | some e => rw [hc] at h; cases h
  | none =>
    rw [hc] at h
    cases h1 : d.planCube t b.cube o with
    | error e => rw [h1] at h; cases h
    | ok q =>
      cases h2 : d.planVec t .a b.veca o.laneA (slotVec .a w) with
      | error e => rw [h1, h2] at h; cases h
      | ok va =>
        cases h3 : d.planVec t .b b.vecb o.laneB (slotVec .b w) with
        | error e => rw [h1, h2, h3] at h; cases h
        | ok vb =>
          cases h4 : d.planMove t b.move with
          | error e => rw [h1, h2, h3, h4] at h; cases h
          | ok m =>
            rw [h1, h2, h3, h4] at h
            exact ⟨rfl, q, va, vb, m, rfl, rfl, rfl, rfl, (Except.ok.inj h).symm⟩

theorem mem_joinPlans_infl {z : Inflight} {x : SlotPlan} {l : List SlotPlan} (hx : x ∈ l) (h : z ∈ x.infl) :
    z ∈ (joinPlans l).infl := List.mem_flatMap.2 ⟨x, hx, h⟩
theorem mem_joinPlans_accs {z : Acc} {x : SlotPlan} {l : List SlotPlan} (hx : x ∈ l) (h : z ∈ x.accs) :
    z ∈ (joinPlans l).accs := List.mem_flatMap.2 ⟨x, hx, h⟩
theorem mem_joinPlans_mv {z : Acc} {x : SlotPlan} {l : List SlotPlan} (hx : x ∈ l) (h : z ∈ x.mv) :
    z ∈ (joinPlans l).mv := List.mem_flatMap.2 ⟨x, hx, h⟩

/-- What a register-form VEC operation delivers where its main lanes give the exact results. -/
theorem Dev.planVec_reg {d : Dev} {t : Nat} {u : VUnit} {op : Nat} {f : VecF} {w : Nat} {i : VInfo} {p : SlotPlan}
    (hi : vInfo op f.fn.toNat = some i) (h : d.planVec t u (.reg op f) none w = .ok p) {z : Deliver}
    (hz : z ∈ vecResult op f.fn.toNat f.d.toNat (d.vsrc t f)) : ⟨d.issueNo t + i.lat, (d.tile t).regs.pc, z⟩ ∈ p.infl := by
  unfold Dev.planVec at h
  simp only [hi, withLane] at h
  split at h
  · cases h
  · have h := Except.ok.inj h
    subst h
    simp only [ite_self, List.append_nil, List.mem_map]
    exact ⟨z, hz, rfl⟩

/-! ## Ends of what a tile runs -/

/-- The end of an entry or launch leaves the tile not running. -/
theorem Dev.proceed_mode (d : Dev) (t left : Nat) (f : Option Nat) : ((d.proceed t left f).tile t).mode ≠ .running := by
  unfold Dev.proceed Dev.when
  dsimp only
  repeat' split
  all_goals simp only [Dev.tile_upd_same]
  all_goals exact fun h => by cases h

/-- A HALT that issues leaves the tile not running (R71, R75). -/
theorem Dev.issued_halt (d : Dev) (t : Nat) (o : Obs) (b : Bundle) (p : SlotPlan) (h : b.ctrl = .halt) :
    ((d.issued t o b p).tile t).mode ≠ .running := by
  unfold Dev.issued
  rw [Dev.notePeaks_tile]
  unfold Dev.issueBundle
  dsimp only
  rw [Dev.syncSeq_tile, h]
  unfold Dev.issueEnd
  exact Dev.proceed_mode _ _ _ _

/-- An FSYNC of a cadence context parks it: it never issues, and the tile goes on as on a HALT (R74). -/
theorem Dev.Reaches.fsync {d : Dev} {t : Nat} {w : Word256} {o : Obs} {b : Bundle} (h : d.Reaches t w o b) (hc : b.ctrl = .fsync)
    (hk : (d.atBundle t o).isCad t ((d.atBundle t o).tile t).slot = true) :
    d.tileBeat t (some w) o =
      ((((d.atBundle t o).tinc t Reg.WAIT_FRAME).proceed t 79 none).syncSeq t 4).notePeaks t := by
  have hb : (b.ctrl == CtrlOp.fsync) = true := by rw [hc]; rfl
  have hj (g : Bool) : (d.atBundle t o).judge t w g o = .park := by
    unfold Dev.judge
    simp only [ge_iff_le, Nat.not_le.2 h.inBound, if_false, h.fetched, h.decodes, h.unsquashed, hb, hk, Bool.and_self, if_true, Bool.false_eq_true]
  rw [h.tileBeat, h.runBeat, hj]

theorem fld_put_ctx (v : W64) (x y : Nat) : fld (put (put v 2 0 x) 15 3 y) 23 16 = fld v 23 16 := by
  rw [fld_put_other _ _ _ _ _ _ (by decide) (by decide) (by decide), fld_put_other _ _ _ _ _ _ (by decide) (by decide) (by decide)]

/-- PHASE writes the context's phase ID (R76, R81). -/
theorem Dev.phaseAt_phase (d : Dev) (t id : Nat) (ht : t < 1664) (hid : id < 256) :
    (d.phaseAt t id).trf t (Reg.CTXSTATE (d.tile t).slot) 23 16 = id := by
  have hf : physField t < 16 := by unfold physField; omega
  have hge : 0x1000000 ≤ Reg.tile t (Reg.CTXSTATE (d.tile t).slot) := by unfold Reg.tile; omega
  have hbase : (d.twf t (Reg.CTXSTATE (d.tile t).slot) 23 16 id).trf t (Reg.CTXSTATE (d.tile t).slot) 23 16 = id := by
    unfold Dev.trf Dev.twf
    rw [Dev.rf_wf_same _ _ _ _ _ (by decide) (by decide)]
    exact Nat.mod_eq_of_lt hid
  have hps : ((d.twf t (Reg.CTXSTATE (d.tile t).slot) 23 16 id).phaseStart (physField t) id).trf t
      (Reg.CTXSTATE (d.tile t).slot) 23 16 = id := by
    unfold Dev.trf Dev.rf at hbase ⊢
    rw [Dev.phaseStart_rd _ _ _ hge, hbase]
  unfold Dev.phaseAt
  dsimp only
  split
  · unfold Dev.trf Dev.rf at hps ⊢
    rw [Dev.upd_rd, Dev.twf, Dev.rd_wf_same, Dev.setSlotState, Dev.twf, Dev.rd_wf_same, fld_put_ctx, hps]
  · exact hps

theorem Reg.CTXSTATE_lt (n : Nat) : Reg.CTXSTATE n < 0x80 ∧ Reg.CTXSTATE n % 0x20 = 0x18 := by unfold Reg.CTXSTATE; omega

/-- A PHASE that issues leaves its ID in the context's STATE register (R76, R81). -/
theorem Dev.issued_phase (d : Dev) (t : Nat) (ht : t < 1664) (o : Obs) (b : Bundle) (p : SlotPlan) (id : Nat) (hid : id < 256)
    (h : b.ctrl = .phase id) :
    (d.issued t o b p).trf t (Reg.CTXSTATE ((d.atBundle t o).tile t).slot) 23 16 = id := by
  have hlt := Reg.CTXSTATE_lt ((d.atBundle t o).tile t).slot
  have hge : 0x1000000 ≤ Reg.tile t (Reg.CTXSTATE ((d.atBundle t o).tile t).slot) := by unfold Reg.tile; omega
  have hseq : Reg.tile t (Reg.CTXSTATE ((d.atBundle t o).tile t).slot) ≠ Reg.tile t Reg.SEQ :=
    Reg.tile_ne t (by unfold Reg.SEQ; omega)
  unfold Dev.issued Dev.trf Dev.rf
  rw [Dev.notePeaks_rd _ _ hge]
  unfold Dev.issueBundle
  dsimp only
  rw [Dev.syncSeq, Dev.twr, Dev.rd_wr_ne _ _ hseq, h]
  have hs : (((Dev.updRegs (((((d.atIssue t o b).issueSlots t b).issueQueues t p).tinc t Reg.ISSUE).issueBar t
      ((d.atIssue t o b).ctxOf t ((d.atIssue t o b).tile t).slot) (.phase id)) t
      fun r => ctrlNext (.phase id) b.fin false ((d.atIssue t o b).tile t).regs { r with squash := r.squash - 1 }).tile t)).slot
      = ((d.atBundle t o).tile t).slot := by
    obtain ⟨n, fw, z, r, f, l, c, a, g, v, i, hq, -, -⟩ := (d.atIssue t o b).atCube_kept t b
    obtain ⟨ra, rb, ls, hz⟩ := (d.atIssue t o b).issueSlots_tile t b
    rw [Dev.tile_updRegs_same, Dev.issueBar_tile, Dev.tinc_tile, Dev.issueQueues_tile, hz, hq]
    exact d.atIssue_slot t o b
  have hp := Dev.phaseAt_phase (Dev.updRegs (((((d.atIssue t o b).issueSlots t b).issueQueues t p).tinc t Reg.ISSUE).issueBar t
      ((d.atIssue t o b).ctxOf t ((d.atIssue t o b).tile t).slot) (.phase id)) t
      fun r => ctrlNext (.phase id) b.fin false ((d.atIssue t o b).tile t).regs { r with squash := r.squash - 1 }) t id ht hid
  rw [hs] at hp
  exact hp

end Sys2Proof.Machine
end

