-- ==== Sys2Proof/Laws/Link.lean ====
section
/-! SUPPORT. Laws of links: the state of a link after an update, what sending, acknowledging and taking a cell leave alone. -/

namespace Sys2Proof.Machine

@[simp] theorem Dev.lnk_setLnk_same (d : Dev) (k : Nat) (x : LinkSt) : (d.setLnk k x).lnk k = x := smGet_smSet_same ..
theorem Dev.lnk_setLnk_ne (d : Dev) {k k' : Nat} (x : LinkSt) (h : k' ≠ k) : (d.setLnk k x).lnk k' = d.lnk k' := smGet_smSet_ne _ _ _ h
@[simp] theorem Dev.lnk_updLnk_same (d : Dev) (k : Nat) (f : LinkSt → LinkSt) : (d.updLnk k f).lnk k = f (d.lnk k) := smGet_smSet_same ..
theorem Dev.lnk_updLnk_ne (d : Dev) {k k' : Nat} (f : LinkSt → LinkSt) (h : k' ≠ k) : (d.updLnk k f).lnk k' = d.lnk k' :=
  smGet_smSet_ne _ _ _ h
@[simp] theorem Dev.seal_lnk (d : Dev) (k : Nat) : d.seal.lnk k = d.lnk k := rfl
@[simp] theorem Dev.wr_lnk (d : Dev) (o k : Nat) (v : W64) : (d.wr o v).lnk k = d.lnk k := rfl
@[simp] theorem Dev.wf_lnk (d : Dev) (o hi lo x k : Nat) : (d.wf o hi lo x).lnk k = d.lnk k := rfl
@[simp] theorem Dev.inc_lnk (d : Dev) (o k : Nat) : (d.inc o).lnk k = d.lnk k := rfl
@[simp] theorem Dev.emit_lnk (d : Dev) (o : Out) (k : Nat) : (d.emit o).lnk k = d.lnk k := rfl
theorem Dev.inner_lnk {d e : Dev} (h : d.inner = e.inner) (k : Nat) : d.lnk k = e.lnk k := by
  unfold Dev.lnk; rw [Dev.inner_links h]
@[simp] theorem Dev.varveLog_lnk (d : Dev) (cls sev kind idx : Nat) (who : Who) (a b : W64) (k : Nat) :
    (d.varveLog cls sev kind idx who a b).lnk k = d.lnk k := Dev.inner_lnk (Dev.inner_varveLog ..) k
@[simp] theorem Dev.raiseEvent_lnk (d : Dev) (i k : Nat) : (d.raiseEvent i).lnk k = d.lnk k := Dev.inner_lnk (Dev.inner_raiseEvent ..) k

/-! ## What link operations leave alone -/

/-- The device beside its links and what it has sent. -/
def Dev.offLinks (d : Dev) : Dev := { d with links := [], out := [], outAcks := [] }

@[simp] theorem Dev.setLnk_off (d : Dev) (k : Nat) (x : LinkSt) : (d.setLnk k x).offLinks = d.offLinks := rfl
@[simp] theorem Dev.updLnk_off (d : Dev) (k : Nat) (f : LinkSt → LinkSt) : (d.updLnk k f).offLinks = d.offLinks := rfl
@[simp] theorem Dev.emit_off (d : Dev) (o : Out) : (d.emit o).offLinks = d.offLinks := rfl
@[simp] theorem Dev.childGone_off (d : Dev) (k : Nat) : (d.childGone k).offLinks = d.offLinks := by
  unfold Dev.childGone; split <;> rfl
@[simp] theorem Dev.sendIdle_off (d : Dev) (k : Nat) : (d.sendIdle k).offLinks = d.offLinks := rfl
@[simp] theorem Dev.sendNow_off (d : Dev) (k : Nat) (c : QCell) : (d.sendNow k c).offLinks = d.offLinks := rfl
@[simp] theorem Dev.sendCell_off (d : Dev) (k : Nat) (c : QCell) : (d.sendCell k c).offLinks = d.offLinks := by
  unfold Dev.sendCell; split <;> rfl
@[simp] theorem Dev.sendMsg_off (d : Dev) (k typ : Nat) (b : List Byte) (f : Option Nat) : (d.sendMsg k typ b f).offLinks = d.offLinks :=
  Dev.sendCell_off ..
theorem Dev.foldl_off {α : Type} (l : List α) (f : Dev → α → Dev) (h : ∀ d x, (f d x).offLinks = d.offLinks) (d : Dev) :
    (l.foldl f d).offLinks = d.offLinks := by
  induction l generalizing d with
  | nil => rfl
  | cons x xs ih => rw [List.foldl_cons, ih, h]
@[simp] theorem Dev.freeBuffer_off (d : Dev) (c : QCell) : (d.freeBuffer c).offLinks = d.offLinks := by
  unfold Dev.freeBuffer
  split
  · split
    · rw [Dev.sendIdle_off, Dev.updLnk_off]
    · rfl
  · rfl
@[simp] theorem Dev.drainQueue_off (d : Dev) (k : Nat) : (d.drainQueue k).offLinks = d.offLinks := by
  unfold Dev.drainQueue
  refine Dev.foldl_off _ _ (fun e c => ?_) d
  split
  · rfl
  · simp
@[simp] theorem Dev.takeAck_off (d : Dev) (k : Nat) (h : CellHdr) : (d.takeAck k h).offLinks = d.offLinks := by
  unfold Dev.takeAck Dev.when
  dsimp only
  rw [Dev.drainQueue_off]
  split <;> simp
@[simp] theorem Dev.atCell_off (d : Dev) (k : Nat) (h : CellHdr) (c : Nat) : (d.atCell k h c).offLinks =
    (d.add (Reg.FEC_CORR k) h.symbols.toNat).offLinks := by
  unfold Dev.atCell; simp

/-- Registers, memory and tiles are off the links. -/
theorem Dev.off_regs {d e : Dev} (h : d.offLinks = e.offLinks) : d.regs = e.regs := show d.offLinks.regs = e.offLinks.regs by rw [h]
theorem Dev.off_mem {d e : Dev} (h : d.offLinks = e.offLinks) : d.mem = e.mem := show d.offLinks.mem = e.offLinks.mem by rw [h]
theorem Dev.off_tiles {d e : Dev} (h : d.offLinks = e.offLinks) : d.tiles = e.tiles := show d.offLinks.tiles = e.offLinks.tiles by rw [h]
theorem Dev.off_rd {d e : Dev} (h : d.offLinks = e.offLinks) (o : Nat) : d.rd o = e.rd o := by unfold Dev.rd; rw [Dev.off_regs h]
theorem Dev.off_rdByte {d e : Dev} (h : d.offLinks = e.offLinks) (a : Nat) : d.rdByte a = e.rdByte a := by
  unfold Dev.rdByte; rw [Dev.off_mem h]

/-! ## Sending -/

theorem Dev.sendCell_now {d : Dev} {k : Nat} {c : QCell} (h : d.canSend k c.cls = true) : d.sendCell k c = d.sendNow k c := by
  unfold Dev.canSend at h
  unfold Dev.sendCell
  simp only [Bool.not_eq_true'] at h
  simp [h]
/-- A cell that can be sent leaves and is held for resending. -/
theorem Dev.sendCell_sends {d : Dev} {k : Nat} {c : QCell} (h : d.canSend k c.cls = true) : d.Sends (d.sendCell k c) k c := by
  rw [Dev.sendCell_now h]
  have ht : (d.lnk k).takeOwed.2.txSeq = (d.lnk k).txSeq := by unfold LinkSt.takeOwed; split <;> rfl
  unfold Dev.Sends Dev.sendNow Dev.cellOf
  generalize (d.lnk k).takeOwed = y at *
  obtain ⟨cr, x⟩ := y
  dsimp only at ht ⊢
  rw [← ht]
  refine ⟨List.mem_append_right _ (List.mem_singleton.mpr rfl), ?_⟩
  rw [Dev.emit_lnk, Dev.lnk_setLnk_same]
  exact List.mem_append_right _ (List.mem_singleton.mpr rfl)
/-- What has left stays left, and what is held stays held, when an IDLE cell follows. -/
theorem Dev.Sends.idle {d e : Dev} {k : Nat} {c : QCell} (h : d.Sends e k c) (j : Nat) : d.Sends (e.sendIdle j) k c := by
  refine ⟨?_, ?_⟩
  · exact List.mem_append_left _ h.1
  · unfold Dev.sendIdle
    dsimp only
    rw [Dev.emit_lnk]
    by_cases hk : k = j
    · subst hk
      rw [Dev.lnk_setLnk_same]
      have hs : (e.lnk k).takeOwed.2.sent = (e.lnk k).sent := by unfold LinkSt.takeOwed; split <;> rfl
      rw [hs]; exact h.2
    · rw [Dev.lnk_setLnk_ne _ _ hk]; exact h.2

/-! ## Taking a cell -/

/-- Counting corrected symbols leaves the states of the links. -/
theorem Dev.linkState_add_corr (d : Dev) (k j n : Nat) : (d.add (Reg.FEC_CORR k) n).linkState j = d.linkState j := by
  unfold Dev.linkState Dev.add Dev.rf
  rw [Dev.rd_wr_ne]
  unfold Reg.L_STATUS Reg.FEC_CORR; omega

/-- A link that accepts a cell takes cells in. -/
theorem Dev.receives_of_accepts {d : Dev} {k typ cls : Nat} (h : d.accepts k typ cls = true) : d.receives k = true := by
  unfold Dev.accepts at h
  unfold Dev.receives
  split at h
  · simp [*]
  · simp [*]
  · simp [*]
  · cases h

/-- A cell that is taken acts on the device at the cell, and is acknowledged while the link is in use. -/
theorem Dev.CellTaken.recv {d : Dev} {k : Nat} {h : CellHdr} {typ cls : Nat} (c : d.CellTaken k h typ cls) (ht : typ ≠ 0) (act : Dev → Dev) :
    d.recvCell k h typ cls act =
      (act (d.atCell k h cls)).when ((act (d.atCell k h cls)).receives k) (·.sendIdle k) := by
  unfold Dev.recvCell
  have ha : (d.add (Reg.FEC_CORR k) h.symbols.toNat).accepts k typ cls = true := by
    unfold Dev.accepts; rw [Dev.linkState_add_corr]; exact c.accepted
  have hr : (d.add (Reg.FEC_CORR k) h.symbols.toNat).receives k = true := Dev.receives_of_accepts ha
  have ho : h.seq.toNat = ((d.add (Reg.FEC_CORR k) h.symbols.toNat).lnk k).rxNext := c.inOrder
  dsimp only
  rw [hr, ha, c.undamaged]
  simp only [Bool.not_true, Bool.false_eq_true, if_false, ht, ho, ne_eq, not_true]
  rfl

end Sys2Proof.Machine
end

