-- ==== Sys2Proof/WellFormed.lean ====
section
/-! DEFINITION. The commands a sender can give: what the types of the operands do not already say of them. A meaning is total
and does not depend on it. -/

namespace Sys2Proof.WellFormed

/-- A cell carries 256 bytes (R431). -/
def payloadOk (c : CellData) : Bool := c.payload.length == 256
/-- An estimator window lasts some time, and has a current for each field (R399). -/
def estimatorOk (ns : BitVec 32) (amps : List (BitVec 12)) : Bool := ns != 0 && amps.length == 16
/-- One reading for each sensor (R409). -/
def sensorsOk (die mem links : List (BitVec 8)) : Bool := die.length == 128 && mem.length == 36 && links.length == 24
/-- A ring entry is 128 bytes (R282). -/
def readOk (r : PortRead) : Bool := r.ring.all fun e => e.length == 128
/-- A slot of the flash holds 4 MiB (R485). -/
def flashOk (b : List Byte) : Bool := b.length ≤ 2 ^ 22
/-- An access of PCIe reaches 1 to 4,096 bytes and crosses no 4 KiB boundary. -/
def bar2Ok (o : BitVec 42) (n : Nat) : Bool := 1 ≤ n && o.toNat % 4096 + n ≤ 4096
/-- The descriptor has the length its control entry names (R465). -/
def descOk (e : CtrlEntry) (desc : List Byte) : Bool := desc.length == e.w2.toNat
/-- Blocks of an image that go astray are the field's own (R495). -/
def blocksOk (f : FieldId) (bad : List (TileId × Fin 9)) : Bool := bad.all fun b => b.1.val / 104 == f.val
/-- A kernel runs on the tiles of the field under test (R356). -/
def kernelsOk (f : FieldId) (fails : List KernelFail) : Bool := fails.all fun k => k.tile.val / 104 == f.val
/-- A part of a plan fills at most one cell. -/
def planOk (off : BitVec 64) (bytes : List Byte) : Bool := off.toNat % 8 == 0 && bytes.length ≤ 240
/-- A slot named through a generator is named by one of the eight (R197). -/
def slotOk (a : SlotArg) : Bool := match a with
  | .imm _ idx => idx.toNat < 131072
  | .gen ag => ag.toNat < 8
/-- An event names a class of R343 and a source kind of R533. -/
def eventOk (e : ExtEvent) : Bool := e.kind.toNat ≤ 10

def wf (i : Instr) : Bool :=
  match i with
  | .waitf _ _ a _ _ => slotOk a
  | .waite _ _ a _ _ => slotOk a
  | .tagset _ a _ _ => slotOk a
  | .tagclr _ a _ _ => slotOk a
  | .data _ _ c => payloadOk c
  | .void _ _ c => payloadOk c
  | .lane _ _ bad new => bad != new
  | .integrityEvent _ e => e.all eventOk
  | .pkgRun _ f fails => kernelsOk f fails
  | .estimatorWindowEnd ns _ _ amps _ => estimatorOk ns amps
  | .frameStart _ r0 r1 => readOk r0 && readOk r1
  | .plan _ _ _ off bytes => planOk off bytes
  | .sensorRead die mem links => sensorsOk die mem links
  | .firstStageDone a b => flashOk a && flashOk b
  | .imageBroadcast f bad => blocksOk f bad
  | .imageRepairRound f bad => blocksOk f bad
  | .load _ e desc _ => descOk e desc
  | .copyEnd _ _ host _ _ => host.length % 64 == 0
  | .bar2Read _ o n _ => bar2Ok o n.toNat
  | .bar2Write _ o bytes _ => bar2Ok o bytes.length
  | .i3cPrivateWrite bytes => bytes != []
  | .nop .. | .loop .. | .skip .. | .bar .. | .phase .. | .fsync .. | .call .. | .ret .. | .halt .. | .cnop .. | .cmac .. |
  .cmul .. | .czero .. | .cdrain .. | .cfmt .. | .vnop .. | .vadd .. | .vsub .. | .vmul .. | .vfma .. | .vmax .. | .vmin .. |
  .vabs .. | .vneg .. | .vsign .. | .vsel .. | .vimm .. | .iadd .. | .isub .. | .imul .. | .iand .. | .ior .. | .ixor .. |
  .ishl .. | .ishr .. | .isra .. | .imax .. | .imin .. | .vcvt .. | .fcmp .. | .icmp .. | .pand .. | .por .. | .pxor .. |
  .pnot .. | .p2v .. | .v2p .. | .vredsum .. | .vredmax .. | .vredmin .. | .vredor .. | .vredand .. | .vperm .. | .vrot .. |
  .vbcast .. | .bstep .. | .topk .. | .exp2 .. | .log2 .. | .rcp .. | .rsq .. | .tanh .. | .vrand .. | .vld .. | .vst .. |
  .vagld .. | .mnop .. | .send .. | .recv .. | .get .. | .put .. | .resultReadable .. | .tagWatchdogExpiry .. |
  .contextSwitchEnd .. | .landing .. | .windowRefusalArrival .. | .flitArrival .. | .correctedWordWriteback .. |
  .barrierRelease .. | .limiterWindowEnd .. | .timeMasterSilence | .holdoverExpiry | .syncSend .. | .announceSend |
  .delayMeasurement .. | .idle .. | .sync .. | .dreq .. | .dresp .. | .announce .. | .auth .. | .replayResendTimeout .. |
  .linkLossTimeout .. | .linkTrainingAttempt .. | .linkRetry .. | .laneFault .. | .linkAdmit .. | .linkHold .. |
  .linkRetrain .. | .linkEnableWrite .. | .devidLock .. | .streamWrite .. | .nak .. | .reservedCell .. |
  .taggedLandingRelease .. | .wireSteering | .getLanding .. | .putAccepted .. | .scrubRead .. | .map .. | .unmap .. |
  .settier .. | .aliasPage .. | .poolLock .. | .quotaWrite .. | .demotion | .promotion | .pageMoveSwitch .. |
  .stackRetrain .. | .stackSelfRetrain .. | .stackTrainingDone .. | .translationFailure .. | .retirementOrder |
  .retireTile .. | .retireScratchpadRow .. | .retireMemoryFrame .. | .retireEnWrite .. | .captureCopy .. | .capRdWrite .. |
  .captureRelease .. | .laneCaptureRelease .. | .shadowRecordRelease .. | .pkgLoad .. | .pkgUnload .. | .sweepDue |
  .sweepBegin | .sweepIsolateDone | .sweepStressDone | .sweepHeatDone | .sweepTestDone .. | .sweepRecheckDone .. |
  .sweepRestoreDone | .referenceLoss | .referenceReturn | .meshLockRegained | .oscillatorFailure .. | .crossingSlip .. |
  .switchBeat | .stretchRequest .. | .stretchBroadcastArrival | .stretchWindowEnd | .setVoltageReached | .clampExcessTimer .. |
  .phaseFault .. | .phaseResistanceTest .. | .fieldSwitchOpen .. | .fieldSwitchOn .. | .fieldSwitchOff .. |
  .fieldRampStart .. | .fieldRampDone .. | .capWrite .. | .forget .. | .ceilingRise | .thermalCapStep |
  .thermalStepdownRepeat | .fieldTrip .. | .tripRecovery .. | .overtempKill | .operatingHoursWrite | .frameEntryEnd |
  .portRecordIdleRead .. | .planHeaderDelivery | .inputDeadline | .voteCutoff | .childVerdictCutoff | .commitPoint |
  .pendingExpiry | .recordBacklogWrite .. | .intakeStart | .figuresTimeout | .ppsEdge .. | .ppsTimeout | .tbSetWrite .. |
  .groupEnable .. | .frameSwitchWrite .. | .scheduleWrite .. | .verdict .. | .outcome .. | .oreq .. | .oresp .. | .figures .. |
  .memTick | .floatingEvaluation | .powerLoss | .powerGood | .bundleVerified | .clockMeshLock | .hostPortTrained .. |
  .perstDeassert .. | .bringupScriptRun | .fieldWaveStart .. | .stackFirstTraining | .linkBringupStart | .pushStart .. |
  .pushDataWrite .. | .pushEnd .. | .debugScriptGo .. | .scriptEnd | .scriptWrite | .scriptMask | .scriptModify | .scriptPoll |
  .scriptTimeout | .scriptDelay | .scriptExpect | .scriptRead | .pollExpiry | .delayExpiry | .lockstepDivergence .. |
  .firnWrite .. | .setLock .. | .enroll .. | .clearShort .. | .raiseSvn .. | .bundleStored | .firnOperationComplete |
  .claim .. | .renew .. | .stewardRelease .. | .leaseLapse | .create .. | .loadComplete .. | .destroy .. | .launch .. |
  .launchEnd .. | .copy .. | .copyWindowWrite .. | .portReset .. | .portResume .. | .ideCheckFail .. | .spdmGetVersion .. |
  .spdmGetCapabilities .. | .spdmNegotiateAlgorithms .. | .spdmGetDigests .. | .spdmGetCertificate .. | .spdmChallenge .. |
  .spdmGetMeasurements .. | .spdmKeyExchange .. | .spdmFinish .. | .spdmKeyUpdate .. | .spdmHeartbeat .. | .spdmEndSession .. |
  .contextReset .. | .contextFence .. | .tileReset .. | .deviceReset .. | .drainExpiry .. | .heartbeatWindow .. |
  .restoreComplete | .varveEnable .. | .varveRateSecond | .setdasa .. | .entdaa .. | .disec | .i3cPrivateRead |
  .registerWrite .. | .registerRead .. | .msiXUnmask .. | .configurationRequest .. | .ideKm .. | .inBandInterruptAck => true

end Sys2Proof.WellFormed
end

