-- ==== Sys2Proof/Tests/Slice0.lean ====
section
/-! SUPPORT. Tests of the model on values worked out from the manual, one ill-formed command for each check of WellFormed, and a witness
for every statement that has hypotheses. -/

namespace Sys2Proof.Tests
-- one kernel check at a time: a hundred at once would need more threads than the memory limit gives
set_option Elab.async false
open Sys2Proof Sys2Proof.Machine

/-- The state after reset with its device changed. -/
abbrev at' (d : Dev) : State := { State.reset with dev := d }
/-- A device at reset but for these registers. -/
abbrev dv (regs : SMap W64) : Dev := { regs }
/-- The device after a command. -/
def after (i : Instr) (d : Dev) : Dev := match exec i (at' d) with
  | .next s => s.dev
  | _ => {}

/-! ## A tile that runs -/

/-- Tile 0 runs slot 0: context 1 up to pc 100, all of the scratchpad private, window 0 tagged with every right and 4,096 words from
word 1,024, handle 0 onto it, handle 1 to logical tile 1. -/
def tileRegs : SMap W64 :=
  [(Reg.tile 0 (Reg.CS 0), BitVec.ofNat 64 (2 ^ 63 + 2 ^ 48 + 100 * 2 ^ 16)),
   (Reg.tile 0 (Reg.SP 0), BitVec.ofNat 64 (0x20000 * 2 ^ 32)), (Reg.tile 0 (Reg.CTXSTATE 0), 2),
   (Reg.tile 0 (Reg.WIN 0), BitVec.ofNat 64 (0xDE * 2 ^ 56 + 2 ^ 48 + 1024)), (Reg.tile 0 (Reg.WINB 0), 4096),
   (Reg.tile 0 (Reg.HDL 0), BitVec.ofNat 64 (2 ^ 63)), (Reg.tile 0 (Reg.HDL 1), BitVec.ofNat 64 (2 ^ 63 + 2 ^ 45)),
   (Reg.tile 0 (Reg.RT 5), BitVec.ofNat 64 (2 ^ 63 + 50 * 2 ^ 16))]
/-- Tile 0 with this register state. -/
def tileDev (r : Regs) (x : Tile := {}) : Dev :=
  { regs := tileRegs, tiles := [(0, { x with regs := r, mode := .running, cur := some ⟨0, 1⟩ })] }

/-- The conditions under which a bundle is reached, decided. -/
def reachesB (d : Dev) (t : Nat) (w : Word256) (o : Obs) (b : Bundle) : Bool :=
  !((d.atBeat t).tile t).fenced && ((d.atBeat t).tile t).mode == .running && !((d.atBeat t).bankBeat t o .arb).1
    && ((d.atBundle t o).tile t).raise.isNone && ((d.atBundle t o).dueActs t).2.isNone
    && decide (((d.atBundle t o).tile t).regs.pc < (d.atBundle t o).pcBound t)
    && !(d.atBundle t o).fetchBad t o && decBundle w == some b && !((d.atBundle t o).tile t).regs.squashed

theorem reaches_of {d : Dev} {t : Nat} {w : Word256} {o : Obs} {b : Bundle} (h : reachesB d t w o b = true) : d.Reaches t w o b := by
  simp only [reachesB, Bool.and_eq_true, Bool.not_eq_true', beq_iff_eq, Option.isNone_iff_eq_none, decide_eq_true_eq] at h
  obtain ⟨⟨⟨⟨⟨⟨⟨⟨h1, h2⟩, h3⟩, h4⟩, h5⟩, h6⟩, h7⟩, h8⟩, h9⟩ := h
  exact ⟨h1, h2, h3, h4, h5, h6, h7, h8, h9⟩

/-- The conditions of an issue, decided. -/
def issuesB (d : Dev) (t : Nat) (w : Word256) (o : Obs) : Bool :=
  match decBundle w with
  | none => false
  | some b => match (d.atBundle t o).planBundle t w b o with
    | .error _ => false
    | .ok p => reachesB d t w o b
        && !(b.ctrl == .fsync && (d.atBundle t o).isCad t ((d.atBundle t o).tile t).slot)
        && p.ready && (d.atBundle t o).slotReady t b && (d.atBundle t o).barOpen t b && ((d.atBundle t o).moveStall t b.move).isNone
        && (match b.cube with
          | .mac .. => d.granted t w
          | _ => true)

theorem issues_of {d : Dev} {t : Nat} {w : Word256} {o : Obs} (h : issuesB d t w o = true) : ∃ b p, d.Issues t w o b p := by
  unfold issuesB at h
  split at h
  · cases h
  · next b hb =>
    split at h
    · cases h
    · next p hp =>
      simp only [Bool.and_eq_true, Bool.not_eq_true', Option.isNone_iff_eq_none] at h
      obtain ⟨⟨⟨⟨⟨⟨h1, h2⟩, h3⟩, h4⟩, h5⟩, h6⟩, h7⟩ := h
      exact ⟨b, p, { reaches_of h1 with
        unparked := h2, planned := hp, ready := h3, slotOpen := h4, barrier := h5, unstalled := h6
        cubes := by intro m n x y he; rw [he] at h7; exact h7 }⟩

/-- A command issues on a device. -/
def issues (i : Instr) (d : Dev) : Bool := match bundleOf i with
  | some (t, w, o) => issuesB d t w o
  | none => false

/-- What `issues` decides is what the statements ask. -/
theorem issues_sound {i : Instr} {d : Dev} (h : issues i d = true) :
    ∃ (t : TileId) (w : Word256) (o : Obs) (b : Bundle) (p : SlotPlan), bundleOf i = some (t, w, o) ∧ d.Issues t w o b p := by
  unfold issues at h
  split at h
  · next t w o ht => obtain ⟨b, p, hi⟩ := issues_of h; exact ⟨t, w, o, b, p, ht, hi⟩
  · cases h

/-! ## Operations of a bundle issue -/

/-- An operation whose registers are all even and low, so that pairs and predicates are named well. -/
def fAB : VecF := ⟨2, 4, 6, 0, 0, 0, 0, 0⟩
def fA : VecF := ⟨2, 4, 0, 0, 0, 0, 0, 0⟩

theorem test_witness_CtrlOperationsSequence :
    (∀ i ∈ ([.nop 0 0 0 {}, .waitf 0 0 (.imm 0 3) 0 {}, .loop 0 0 (.imm 0) 0 {}, .loop 0 0 (.imm 0xFFFF) 0 {}, .loop 0 0 (.reg 63) 0 {},
        .skip 0 0 3 15 1023 0 {}, .phase 0 0 255 0 {}, .call 0 0 5 0 {}, .halt 0 0 0 {}] : List Instr),
      issues i (tileDev {} { tags := [(1027, true)] }) = true)
    ∧ issues (.waite 0 0 (.imm 0 3) 0 {}) (tileDev {}) = true
    ∧ issues (.bar 0 0 15 0 {}) { tileDev {} with bars := [⟨1, 15, [0], [(0, 0)], [(0, 0)]⟩] } = true
    ∧ issues (.nop 0 1 0 {}) (tileDev { loops := [⟨none, 0, 5, false⟩], lc := [(0, 2)] }) = true
    ∧ issues (.nop 0 1 0 {}) (tileDev { loops := [⟨none, 0, 5, false⟩], lc := [(0, 1)] }) = true
    ∧ issues (.ret 0 0 0 {}) (tileDev { calls := [⟨none, 3, 0⟩] }) = true := by decide +kernel

/-- An FSYNC of a cadence context is reached. -/
theorem test_witness_fsync :
    let d : Dev := { tileDev {} with regs := (Reg.tile 0 (Reg.CS 0), BitVec.ofNat 64 (2 ^ 63 + 2 ^ 48 + 2 ^ 47 + 100 * 2 ^ 16)) :: tileRegs.drop 1 }
    let w := putCtrl 0 (encCtrl 7 0 0)
    ∃ b, d.Reaches 0 w {} b ∧ b.ctrl = .fsync ∧ (d.atBundle 0 {}).isCad 0 ((d.atBundle 0 {}).tile 0).slot = true := by
  refine ⟨⟨.fsync, 0, .nop, .nop, .nop, .nop⟩, reaches_of (by decide +kernel), by decide +kernel, by decide +kernel⟩

theorem test_witness_VectorLanesDeliver :
    ∀ i ∈ ([.vadd 0 .a fAB 0 {}, .vsub 0 .b fAB 0 {}, .vmul 0 .a fAB 0 {}, .vfma 0 .a ⟨2, 4, 6, 8, 0, 0, 0, 0⟩ 0 {}, .vmax 0 .a fAB 0 {},
        .vmin 0 .a fAB 0 {}, .vabs 0 .a fA 0 {}, .vneg 0 .a fA 0 {}, .vsign 0 .a fA 0 {}, .vsel 0 .a ⟨2, 4, 6, 0, 0, 1, 15, 15⟩ 0 {},
        .iadd 0 .a fAB 0 {}, .isub 0 .a fAB 0 {}, .imul 0 .a fAB 0 {}, .iand 0 .a fAB 0 {}, .ior 0 .a fAB 0 {}, .ixor 0 .a fAB 0 {},
        .ishl 0 .a fAB 0 {}, .ishr 0 .a ⟨2, 4, 0, 0, 0, 0, 0, 63⟩ 0 {}, .isra 0 .a fAB 0 {}, .imax 0 .a fAB 0 {}, .imin 0 .a fAB 0 {}, .vcvt 0 .a fA 0 {},
        .exp2 0 .a fA 0 {}, .log2 0 .a fA 0 {}, .rcp 0 .a fA 0 {}, .rsq 0 .a fA 0 {}, .tanh 0 .b fA 0 {}, .vrand 0 .a fA 0 {}] :
        List Instr), issues i (tileDev {}) = true := by decide +kernel

theorem test_witness_VectorPredicatesDeliver :
    ∀ i ∈ ([.fcmp 0 .a fAB 0 {}, .icmp 0 .b fAB 0 {}, .pand 0 .a fAB 0 {}, .por 0 .a fAB 0 {}, .pxor 0 .a fAB 0 {}, .pnot 0 .a fA 0 {},
        .v2p 0 .a fA 0 {}] : List Instr), issues i (tileDev {}) = true := by decide +kernel

theorem test_witness_VectorCrossLaneDeliver :
    ∀ i ∈ ([.vredsum 0 .a fA 0 {}, .vredmax 0 .a fA 0 {}, .vredmin 0 .a fA 0 {}, .vredor 0 .a fA 0 {}, .vredand 0 .a fA 0 {},
        .vperm 0 .a fAB 0 {}, .vrot 0 .a ⟨2, 4, 0, 0, 0, 0, 0, 63⟩ 0 {}, .vbcast 0 .a ⟨2, 4, 0, 0, 0, 0, 0, 63⟩ 0 {}, .p2v 0 .a fA 0 {},
        .bstep 0 .a ⟨2, 4, 0, 0, 0, 0, 0, 8⟩ 0 {}, .topk 0 .a ⟨2, 4, 6, 0, 0, 0, 0, 63⟩ 0 {}] : List Instr),
      issues i (tileDev {}) = true := by decide +kernel

theorem test_witness_VectorMemoryStarts :
    ∀ i ∈ ([.vnop 0 .a 0 {}, .vimm 0 .b 63 0xFFFFFFFF 0 {}, .vld 0 .a 1 1 0 0 0 {}, .vst 0 .a 1 1 1 15 0 {}, .vagld 0 .a 1 0x1FFFF 0 {}] :
      List Instr), issues i (tileDev {}) = true := by decide +kernel

theorem test_witness_CubeOperationsStart :
    ∀ i ∈ ([.cnop 0 0 {}, .cfmt 0 1 1 7 7 0 {}, .czero 0 7 0 {}, .cmac 0 0 1 2 0 {}, .cmul 0 7 1 2 0 {}, .cdrain 0 0 0 1 0 0 0 0 0 0 0 {}] :
      List Instr), issues i (tileDev {}) = true := by decide +kernel

theorem test_witness_MoveOperationsStart :
    (∀ i ∈ ([.mnop 0 0 {}, .send 0 1 1 7 0 0 0 0 0 {}, .send 0 1 1 4095 0 1 0 0 0 {}, .recv 0 0 1 63 0 {}, .get 0 ⟨0, 1, 0, 0, 0, 0, 0, 0, 0, 0⟩ 0 {},
        .tagset 0 (.imm 0 3) 0 {}, .tagclr 0 (.imm 0 3) 0 {}] : List Instr), issues i (tileDev {}) = true)
    ∧ issues (.put 0 ⟨0, 1, 0, 0, 0, 0, 0, 0, 0, 0⟩ 0 {}) (tileDev {} { tags := (List.range 128).map fun i => (1024 + i, true) }) = true := by
  decide +kernel

/-! ## Witnesses: tiles and network -/

theorem test_witness_TileEventsAct :
    (let d := tileDev {}
     let x : Tile := { mode := .switch 5 (.entry 0), list := BitVec.ofNat 64 (2 ^ 61) }
     let e : Dev := { d with tiles := [(0, x)] }
     (e.tile 0).mode = .switch 5 (.entry 0) ∧ (e.tile 0).bankq = [] ∧ (e.tile 0).inflight = [] ∧ e.slotRuns 0 (listSlot (e.tile 0).list 0) = true)
    ∧ (let e : Dev := { tileDev {} with tiles := [(0, { mode := .switch 80 (.launch ⟨0, 1⟩) })] }
       (e.tile 0).mode = .switch 80 (.launch ⟨0, 1⟩) ∧ (e.tile 0).bankq = [] ∧ (e.tile 0).inflight = [] ∧ (e.tile 0).remapPend = []) := by
  decide +kernel

/-- A flit at logical tile `at1` from its west side. -/
def flitTo (dst at1 held : Nat) : Flit :=
  { tid := 3, k := 0, last := true, src := 2, ctx := 1, slot := 0, pc := 7, cadence := false, dst := dst, win := 0, off := 0,
    data := [(5, false)], vc := 0, at' := at1, inp := 2, held := held }

/-- Every word of the flit's window from the first on is full, for a flit in a tagged window. -/
theorem test_witness_heldFlit :
    let d : Dev := { tileDev {} { tags := [(1024, true)] } with flits := [flitTo 0 0 2000000] }
    d.flits.find? (d.overdue 0) = some (flitTo 0 0 2000000) ∧ d.logOf 2 = some 2 := by decide +kernel

/-- A WAITF whose watchdog has run out. -/
theorem test_witness_watchdog :
    let d := tileDev {} { waited := 5, cstore := [(0, putCtrl 0 (encCtrl 3 0 (encSlot (.imm 0 3))))] }
    let b : Bundle := ⟨.wait true (.imm 0 3), 0, .nop, .nop, .nop, .nop⟩
    let n := 4
    let k := d.wdog 0 - (n + 1)
    let c := ((d.tadd 0 Reg.BEAT k).tadd 0 (if d.trf 0 Reg.SEQ 31 29 == 3 then Reg.WAIT_BAR else Reg.WAIT_TAG) k).upd 0
      fun x => { x with waited := x.waited + k, ahead := x.ahead + k }
    let a := c.atBundle 0 {}
    let w := a.fetch 0
    let h := (c.atBeat 0).bankBeat 0 {} .wait
    (d.tile 0).mode = .running ∧ (d.tile 0).waited = n + 1 ∧ reachesB c 0 w {} b = true ∧ (b.ctrl == .fsync && a.isCad 0 (a.tile 0).slot) = false
    ∧ (match a.planBundle 0 w b {} with
      | .ok p => (p.ready && a.slotReady 0 b) == false
      | .error _ => false) = true
    ∧ (a.tile 0).waited ≥ a.wdog 0 ∧ h.1 = false ∧ (h.2.tile 0).raise = none ∧ (h.2.tile 0).mode = .running
    ∧ h.2.slotState 0 (h.2.tile 0).slot = 2 := by decide +kernel

/-- A flit for tile 0 whose crossing has been checked. -/
def seenFlit : Flit := { flitTo 0 0 0 with seen := true }

theorem test_witness_FlitsLandWaitOrBounce :
    let f := seenFlit
    let at0 (d : Dev) : Dev := ({ d with flits := [f] } : Dev).crossed 0 2 0 {}
    let d := at0 (tileDev {})
    let full := at0 (tileDev {} { tags := [(1024, true)] })
    let free := at0 { full with regs := (Reg.tile 0 (Reg.WIN 0), BitVec.ofNat 64 (0x9E * 2 ^ 56 + 2 ^ 48 + 1024)) :: tileRegs }
    let granted (d : Dev) : Option Flit := ((d.grantLand 0 (d.landers 0 (d.now 0 + 1) [0, 3]) (2 - (d.tile 0).netCount) (d.tile 0).netBanks).1).find? (·.same f)
    (d.logOf 0 = some 0 ∧ d.headFlit 0 2 0 = some f ∧ f.dst = 0 ∧ f.beat ≤ d.now 0 ∧ f.cargo = .send ∧ d.logOf f.src = some 2)
    ∧ (at0 (dv [])).landOk 0 f = false
    ∧ (d.landOk 0 f = true ∧ f.landed = [] ∧ (∀ k < f.data.length, (d.tile 0).full (d.winBase 0 f.win + f.off + k) = false)
      ∧ granted d = some { f with now := (List.range f.data.length).map fun k => d.winBase 0 f.win + f.off + k })
    ∧ (full.headFlit 0 2 0 = some f ∧ full.landOk 0 f = true ∧ full.landHeld 0 f = true ∧ ∀ g ∈ full.flits, g.same f = true → g = f)
    ∧ (free.headFlit 0 2 0 = some f ∧ free.landOk 0 f = true ∧ f.shadowed = false ∧ free.winTagged 0 f.win = false
      ∧ (∃ k < f.data.length, (free.tile 0).full (free.winBase 0 f.win + f.off + k) = true)
      ∧ granted free = some { f with now := (List.range f.data.length).map fun k => free.winBase 0 f.win + f.off + k }) := by decide +kernel

/-- Of the two queues of VC0 and VC3 the landing of VC0 comes first, and a third flit waits for the next beat (R227). -/
theorem test_two_landings_a_beat :
    let g (inp vc : Nat) : Flit := { seenFlit with inp := inp, vc := vc, tid := inp, off := inp, beat := 0 }
    let d : Dev := { tileDev {} with regs := (Reg.CLK_BEAT, 1) :: tileRegs, flits := [g 3 0, g 1 3, g 0 0] }
    let e := d.bankBeat 0 {} .free
    (e.2.flits.map (·.inp)) = [1] := by decide +kernel

theorem test_witness_NetworkEventsAct :
    let f := { flitTo 3 0 0 with seen := true }
    let at0 (x : Tile) : Dev := ({ tileDev {} x with flits := [f] } : Dev).crossed 0 2 0 {}
    let d := at0 {}
    let fwd (p : Nat) : Dev := { at0 { fwd := [⟨0, 2, p, 1, [], 0⟩] } with regs := (Reg.CLK_BEAT, 1) :: tileRegs }
    (d.logOf 0 = some 0 ∧ ({ tileDev {} with flits := [flitTo 3 0 0] } : Dev).headFlit 0 2 0 = some (flitTo 3 0 0) ∧ (flitTo 3 0 0).seen = false)
    ∧ (d.headFlit 0 2 0 = some f ∧ f.dst ≠ 0 ∧ f.beat ≤ d.now 0 ∧ f.cargo = .send ∧ (d.tile 0).entryFor f (d.now 0) = none)
    ∧ ((fwd 2).headFlit 0 2 0 = some f ∧ ((fwd 2).tile 0).entryFor f ((fwd 2).now 0) = some ⟨0, 2, 2, 1, [], 0⟩ ∧ (fwd 2).hop 0 2 = none
      ∧ (fwd 2).logOf f.src = some 2)
    ∧ ((fwd 0).headFlit 0 2 0 = some f ∧ ((fwd 0).tile 0).entryFor f ((fwd 0).now 0) = some ⟨0, 2, 0, 1, [], 0⟩ ∧ (fwd 0).hop 0 0 = some 1
      ∧ neighbour 0 0 = some (1, 1) ∧ (fwd 0).nextFlit 0 0 0 ((fwd 0).now 0) = some f)
    ∧ (let r : Flit := { flitTo 0 0 0 with src := 9, cargo := .refusal FC.WINDOW, vc := 2, data := [] }
       let e : Dev := { regs := tileRegs, flits := [r] }
       e.flits.find? (e.refusalAt 0) = some r ∧ r.cargo = .refusal FC.WINDOW ∧ e.ctxOf 0 r.slot = r.ctx
       ∧ ¬ ((e.tile 0).slot = r.slot ∧ (e.tile 0).mode = .running) ∧ e.slotState 0 r.slot ≠ 6 ∧ e.slotState 0 r.slot ≠ 0 ∧ FC.WINDOW < 256)
    ∧ (let b : BarLine := ⟨1, 15, [0], [(0, 4)], []⟩
       ({ bars := [b] } : Dev).barOf 1 15 = some b ∧ b.rel = [] ∧ ∀ p ∈ b.parts, ∃ a ∈ b.arrived, a.1 = p) := by decide +kernel

/-- A wire of an inbound link corrected, and a double error: counted, reported, and the flit's words marked poisoned (R230). -/
theorem test_flit_errors_counted :
    let f := flitTo 3 0 0
    let e := ({ tileDev {} with flits := [f] } : Dev).crossed 0 2 0 { corr := [5], double := true }
    e.trd 0 Reg.RT_CORR = 1 ∧ e.trd 0 Reg.RT_DOUBLE = 1 ∧ e.events.map (fun x => (x.cls, x.loc)) = [(2, 2 + 4 * 5), (3, 2)]
    ∧ ((e.headFlit 0 2 0).map fun g => g.data.map (·.2)) = some (f.data.map fun _ => true) := by decide +kernel
/-- At device readiness the counters that count from it start (R483). -/
theorem test_counters_start_at_readiness :
    let d : Dev := { regs := [(Reg.READY0, 0x3FFFFFFFFFFFFF), (Reg.READY1, 0x3FFFFFF), (Reg.SHORTS, 5)], thermalCap := 4000 }
    d.checkReady.ready readyDevice = true ∧ d.checkReady.rd Reg.SHORTS = 0 ∧ d.checkReady.thermalCap = 10500
    ∧ d.regValue 0 Reg.SHORTS = 0 := by decide +kernel
/-- Symbols corrected on a link are counted whatever becomes of the cell (R453). -/
theorem test_fec_symbols_counted :
    let d : Dev := { regs := [(Reg.L_STATUS 3, BitVec.ofNat 64 (4 * 2 ^ 61))] }
    (d.recvCell 3 ⟨0, 0, 0, 0, some true, 7⟩ 0 0 id).rd (Reg.FEC_CORR 3) = 7
    ∧ (d.recvCell 3 ⟨0, 0, 0, 0, some true, 7⟩ 0 0 id).rd (Reg.FEC_UNCORR 3) = 1 := by decide +kernel

/-! ## Witnesses: links -/

/-- Link 3 in a state, with more registers. -/
abbrev lk (st : Nat) (regs : SMap W64 := []) : Dev := { regs := (Reg.L_STATUS 3, BitVec.ofNat 64 (st * 2 ^ 61)) :: regs }
/-- An undamaged cell, the first of its link. -/
def h0 : CellHdr := ⟨0, 0, 0, 0, none, 0⟩
/-- The conditions of CellTaken. -/
abbrev taken (d : Dev) (k : Nat) (typ cls : Nat) : Prop := d.accepts k typ cls = true ∧ h0.bad = none ∧ h0.seq.toNat = (d.lnk k).rxNext
theorem taken_iff (d : Dev) (k typ cls : Nat) : taken d k typ cls ↔ d.CellTaken k h0 typ cls :=
  ⟨fun h => ⟨h.1, h.2.1, h.2.2⟩, fun h => ⟨h.1, h.2, h.3⟩⟩
/-- The device ID is locked as 9. -/
abbrev id9 : Nat × W64 := (Reg.DEVID, BitVec.ofNat 64 (2 ^ 63 + 9))
/-- Time base state v. -/
abbrev tb (v : Nat) : Nat × W64 := (Reg.TB_STATUS, BitVec.ofNat 64 (v + 4))

theorem test_witness_TimeBaseKeepsTime :
    ((dv [tb 1]).tbState = 1 ∧ (dv [tb 1]).selfCand = none) ∧ (dv [tb 2]).tbState = 2 ∧ (dv [tb 3]).tbState = 3
    ∧ (let d := lk 4 [id9, (Reg.TB_CTL, BitVec.ofNat 64 (0x105)), tb 1]
       d.tbState = 1 ∧ d.selfCand = some (5, 9) ∧ d.idLocked = true ∧ d.rf Reg.TB_CTL 3 0 ≠ 0 ∧ d.rb Reg.TB_CTL 8 = true
       ∧ d.schedLinks = [3] ∧ d.scheduled 3 = true ∧ d.canSend 3 0 = true
       ∧ ∀ c ∈ d.cands, some c.id ≠ d.silentCand → c.refOk = true → c.prio > 0 → outranks (c.prio, c.id) (5, 9) = false) := by decide +kernel

theorem test_witness_TimeMessagesAct :
    let d := lk 4 [id9]
    let b := (d.atCell 3 h0 0).updLnk 3 fun x => { x with hops := some 255 }
    (taken d 3 2 0 ∧ d.idLocked = true ∧ (∀ x ∈ b.others ++ b.selfCand.toList, outranks x (15, 0) = false)
      ∧ b.parent = none ∧ b.bestParent = some 3)
    ∧ (taken d 3 3 0 ∧ (d.atCell 3 h0 0).canSend 3 0 = true)
    ∧ (let e : Dev := { d with links := [(3, { t1 := some 7 })] }
       taken e 3 4 0 ∧ (e.lnk 3).t1 = some 7)
    ∧ (taken d 3 5 0 ∧ (4 : Nat) ≠ d.myId ∧ ∀ c ∈ d.cands, c.id ≠ 4) := by decide +kernel

theorem test_witness_CellsArriveInOrder :
    let d := lk 4 [(Reg.L_LANES 3, 1)]
    ((dv []).receives 3 = false ∧ d.receives 3 = true ∧ ∀ x ∈ ([(0, 0), (1, 3), (3, 0), (10, 1), (13, 0), (14, 0), (15, 0), (12, 0)] : List (Nat × Nat)),
      d.accepts 3 x.1 x.2 = true)
    ∧ (lk 3 []).accepts 3 2 0 = false ∧ (1 : BitVec 12).toNat ≠ (d.lnk 3).rxNext ∧ (d.lnk 3).queue = []
    ∧ taken d 3 1 1 ∧ taken d 3 3 0 ∧ taken d 3 10 1 ∧ taken d 3 15 0
    ∧ taken d 3 14 0 ∧ d.rb (Reg.L_LANES 3) 0 = true ∧ d.rb (Reg.L_LANES 3) 16 = false := by decide +kernel

/-- A cell in transit without a credit waits in a shared slot; once a credit has come it leaves (R436; hand calculation). -/
theorem test_transit_waits_in_a_shared_slot :
    let d : Dev := { lk 4 [] with links := [(5, { credits := [0, 0, 0, 0] })] }
    let e := d.holdCell 3 5 { typ := 1, cls := 1 }
    let h : CellHdr := { h0 with ack := 4095, crclass := 1, credits := 1 }
    e.poolUse 1 = 1 ∧ ((e.takeAck 5 h).lnk 5).queue = [] ∧ ((e.takeAck 5 h).lnk 5).sent.length = 1 ∧ (e.takeAck 5 h).poolUse 1 = 0 := by
  decide +kernel

/-- Cell 0 of block 0 of stream 0 of device 4, committed, for device `dst`. -/
def data0 (cls : BitVec 2) (dst : BitVec 17) : CellData := ⟨cls, false, 0, 0, 4, dst, 0, 0, 5, 0, []⟩
/-- Context 1 maps page 0 with every right to frame 0x200: its page table starts at 0x100000. -/
def mapped (regs : SMap W64) : Dev :=
  let d := dv ((Reg.PTROOT 1, BitVec.ofNat 64 (2 ^ 63 + 0x100000)) :: regs)
  (((d.wrNum 0x100000 8 (2 ^ 63 + 0x101000)).wrNum 0x101000 8 (2 ^ 63 + 0x102000)).wrNum 0x102000 8 (2 ^ 63 + 0x103000)).wrNum 0x103000 8
    (0xD8 * 2 ^ 56 + 0x2000000)
/-- Frames run; frame n. -/
abbrev frames (n : Nat) : Nat × W64 := (Reg.FRAME_NOW, BitVec.ofNat 64 (2 ^ 63 + n))

theorem test_witness_DataCellsAreRoutedOrWritten :
    (let d := lk 4 [id9]
     taken d 3 1 1 ∧ taken d 3 10 1 ∧ (data0 1 7).dst.toNat ≠ d.myId
     ∧ (d.atCell 3 h0 1).route 1 7 0 = none ∧ (data0 1 9).dst.toNat = d.myId ∧ (d.atCell 3 h0 1).streamAccepts (data0 1 9) = false)
    ∧ (let d := lk 4 [id9, (Reg.L_STATUS 5, BitVec.ofNat 64 (4 * 2 ^ 61)), (Reg.ROUTE, BitVec.ofNat 64 (2 ^ 63 + 5 * 2 ^ 16))]
       taken d 3 1 1 ∧ (d.atCell 3 h0 1).route 1 7 0 = some 5 ∧ (d.atCell 3 h0 1).canSend 5 1 = true)
    ∧ (let d : Dev := { lk 4 [id9, (Reg.L_STATUS 5, BitVec.ofNat 64 (4 * 2 ^ 61)), (Reg.ROUTE, BitVec.ofNat 64 (2 ^ 63 + 5 * 2 ^ 16))] with
                          links := [(5, { credits := [0, 0, 0, 0] })] }
       taken d 3 1 1 ∧ (d.atCell 3 h0 1).route 1 7 0 = some 5 ∧ (d.atCell 3 h0 1).canSend 5 1 = false)
    ∧ (let d := mapped [id9, frames 5, (Reg.L_STATUS 3, BitVec.ofNat 64 (4 * 2 ^ 61)), (Reg.ISTR_CFG 0, BitVec.ofNat 64 (2 ^ 63 + 2 ^ 62 + 4)),
         (Reg.ISTR_DST 0, BitVec.ofNat 64 (2 ^ 58 + 1))]
       let a := d.atCell 3 h0 1
       taken d 3 1 1 ∧ taken d 3 10 1 ∧ (data0 1 9).dst.toNat = d.myId ∧ a.streamAccepts (data0 1 9) = true
       ∧ a.translate (regionCtx (d.rd (Reg.ISTR_DST 0))) 0 false = some 0x2000000)
    ∧ (let win : Nat × W64 := (Reg.CWIN 0, BitVec.ofNat 64 (2 ^ 63 + 2 ^ 52 + 4))
       let d := mapped [id9, (Reg.L_STATUS 3, BitVec.ofNat 64 (4 * 2 ^ 61)), win, (Reg.CWINR 0, BitVec.ofNat 64 (2 ^ 48))]
       let a := d.atCell 3 h0 2
       let c : CellData := { data0 2 9 with cgroup := 1, frame := 64 }
       taken d 3 10 2 ∧ taken d 3 1 2 ∧ c.dst.toNat = d.myId ∧ 2 ≤ c.cls.toNat ∧ a.windowAccepts (data0 2 9) = false
       ∧ a.windowAccepts c = true ∧ a.windowAddr c = some 0x2000040) := by decide +kernel

/-- A cell sent and not yet acknowledged, resent n times. -/
def sent0 (n : Nat) : Sent := ⟨0, { typ := 3, cls := 0 }, .pin 0 true, n⟩

theorem test_witness_ReplayResendsOrDropsTheLink :
    (let d : Dev := { lk 4 with links := [(3, { sent := [sent0 0, sent0 6] })] }
     2 ≤ d.linkState 3 ∧ d.linkState 3 ≤ 4 ∧ (d.lnk 3).sent ≠ [] ∧ (∀ c ∈ (d.lnk 3).sent, c.resent < 7) ∧ d.linkUp 3 = true)
    ∧ (let d : Dev := { lk 3 with links := [(3, { sent := [sent0 7] })] }
       d.linkUp 3 = true ∧ ∃ c ∈ (d.lnk 3).sent, c.resent ≥ 7)
    ∧ ((dv []).lnk 3).sent = [] := by decide +kernel

/-- The device is ready. -/
abbrev deviceUp : Nat × W64 := (Reg.READY1, BitVec.ofNat 64 (2 ^ 63))
/-- Bring-up has come to the links, and link 3 is enabled. -/
abbrev stage9 : SMap W64 := [id9, (Reg.BOOT_STATUS, BitVec.ofNat 64 (9 * 2 ^ 56)), (Reg.L_CTL 3, BitVec.ofNat 64 (2 ^ 63))]

theorem test_witness_LinksTrainAndAuthenticate :
    (∀ st ∈ [1, 5, 0], let d := lk st stage9
      d.linkState 3 = st ∧ d.mayTrain 3 = true ∧ (findAll 24 fun j => d.linkState j == 2).length < 8)
    ∧ (let d : Dev := { lk 2 (deviceUp :: stage9) with links := [(3, { nonce := some 1, hello := some ⟨7, 3, 0, 0, 0, 2⟩ })] }
       taken d 3 13 0 ∧ d.ready readyDevice = true ∧ d.linkState 3 = 2 ∧ (d.lnk 3).nonce = some 1 ∧ (d.lnk 3).hello = some ⟨7, 3, 0, 0, 0, 2⟩
       ∧ (7 : BitVec 17).toNat ≠ d.myId ∧ (9 : BitVec 17).toNat = d.myId ∧ (7 : Nat) < 2 ^ 17 ∧ (3 : Nat) < 32)
    ∧ (∀ l ∈ [0x1FFFF, 0xFFFF], let d := lk 4 [(Reg.L_LANES 3, BitVec.ofNat 64 l)]
       d.linkUp 3 = true ∧ d.rb (Reg.L_LANES 3) 0 = true ∧ d.rb (Reg.L_LANES 3) 15 = true) := by decide +kernel

/-- Port 0 holds the steward lease. -/
abbrev steward0 : Nat × W64 := (Reg.STEWARD, BitVec.ofNat 64 (2 ^ 63 + 3000))

theorem test_witness_StewardRulesTheLinks :
    (dv []).isSteward 0 = false ∧ (dv [steward0]).isSteward 0 = true
    ∧ (let d := lk 3 [steward0, frames 5]
       d.isSteward 0 = true ∧ d.linkState 3 = 3 ∧ d.framesRun = true)
    ∧ (let d := lk 3 [steward0]
       d.isSteward 0 = true ∧ d.linkState 3 = 3 ∧ d.framesRun = false ∧ d.rb (Reg.L_CTL 3) 61 = false ∧ d.streamPend = [])
    ∧ (let d := lk 4 [steward0]
       d.isSteward 0 = true ∧ d.framesRun = false ∧ d.streamPend = [] ∧ d.linkState 3 = 4)
    ∧ (let d := lk 4 (steward0 :: stage9)
       d.isSteward 0 = true ∧ d.mayTrain 3 = true ∧ d.linkState 3 ≠ 6 ∧ d.idLocked = true)
    ∧ (let d := lk 6 [steward0]
       d.isSteward 0 = true ∧ d.linkState 3 = 6 ∧ d.idLocked = false) := by decide +kernel

theorem test_witness_StreamRegistersAreOwned :
    (let d := dv []
     ¬ d.ctxPort (regionCtx (0 &&& regImpl (streamReg 63 0))) = some 0)
    ∧ (∀ r ∈ [[], [frames 5]],
       let d : Dev := { mapped r with ctxs := [(1, some { port := 0 })] }
       let v : W64 := BitVec.ofNat 64 (2 ^ 58 + 1) &&& regImpl (streamReg 63 3)
       d.ctxPort (regionCtx v) = some 0 ∧ tst (d.streamView (streamReg 63 2)) 63 = false ∧ d.regionOk 0 = true
       ∧ d.framesRun = !r.isEmpty)
    ∧ (let d : Dev := { mapped [(Reg.ISTR_DST 63, BitVec.ofNat 64 (2 ^ 58 + 2))] with ctxs := [(1, some { port := 0 })] }
       let v : W64 := BitVec.ofNat 64 (2 ^ 63 + 4) &&& regImpl (streamReg 63 2)
       d.ctxPort (regionCtx (d.streamView (streamReg 63 3))) = some 0 ∧ tst (d.streamView (streamReg 63 2)) 63 = false ∧ tst v 63 = true
       ∧ d.regionOk (d.streamView (streamReg 63 3)) = false) := by decide +kernel

/-! ## Witnesses: memory tiers -/

theorem seekFree_some {ok : Nat → Bool} {n k i : Nat} (hk : 0 < k) (h : ok (i % n) = true) : seekFree ok n k i = some (i % n) := by
  cases k with
  | zero => omega
  | succ k => simp [seekFree, h]

theorem frameFree_of {d : Dev} {f : Nat} (hl : d.locked = true) (hr : ∀ n < 8, (d.rangeOf (Reg.RESV n)).2 = 0)
    (hp : d.inPool (f * 65536) = false) (hg : ∀ p ∈ d.pages, p.holds f = false) (ho : d.outFrames = []) (hi : d.pinnedFrames = [])
    (hm : d.moves = []) : d.frameFree f = true := by
  have h1 : d.inResv (f * 65536) = false := by
    simp only [Dev.inResv, Dev.inRange, List.any_eq_false, List.mem_range, Bool.and_eq_true, decide_eq_true_eq, not_and, not_lt]
    intro n hn; rw [hr n hn]; omega
  have h2 : d.pageAt f = none := by simpa [Dev.pageAt, List.find?_eq_none] using hg
  simp [Dev.frameFree, hl, h1, hp, h2, ho, hi, hm]

theorem placeOn_some {d : Dev} {s : Nat} (h : ∀ u < 2 ^ 21, d.frameFree (stackFrame s + u) = true) : (d.placeOn s false).1.isSome = true := by
  have hk : 0 < 2 ^ 21 := by norm_num
  have hm : ∀ v : Nat, v % 2 ^ 21 < 2 ^ 21 := fun v => Nat.mod_lt _ hk
  simp only [Dev.placeOn, Dev.draw, Bool.false_eq_true, if_false]
  rw [seekFree_some hk (h _ (hm _))]; rfl

theorem foldl_pick {P : Nat → Prop} {f : Option Nat → Nat → Option Nat} (h0 : ∀ s, f none s = some s)
    (h1 : ∀ x s, f (some x) s = some s ∨ f (some x) s = some x) : ∀ (l : List Nat) (b : Option Nat), (∀ x ∈ l, P x) →
    (∀ x, b = some x → P x) → (b ≠ none ∨ l ≠ []) → ∃ y, l.foldl f b = some y ∧ P y
  | [], b, _, hb, h => by
    cases b with
    | none => simp at h
    | some x => exact ⟨x, rfl, hb x rfl⟩
  | a :: l, b, hl, hb, _ => by
    have ha : P a := hl a (by simp)
    have hs : ∃ z, f b a = some z ∧ P z := by
      cases b with
      | none => exact ⟨a, h0 a, ha⟩
      | some x => rcases h1 x a with h | h
                  · exact ⟨a, h, ha⟩
                  · exact ⟨x, h, hb x rfl⟩
    obtain ⟨z, hz, hP⟩ := hs
    rw [List.foldl_cons, hz]
    exact foldl_pick h0 h1 l _ (fun x hx => hl x (List.mem_cons_of_mem _ hx)) (fun x hx => (Option.some.inj hx) ▸ hP) (.inl (by simp))

/-- A READY stack of the tier whose frames are all free has a place. -/
theorem placeIn_draw {d : Dev} {t s : Nat} (hs : s ∈ tierStacks t) (h0 : stackState d s = 0)
    (hp : ∀ u < 2 ^ 21, d.frameFree (stackFrame s + u) = true) :
    (d.bestStack t false).isSome = true ∧ ∃ f, d.placeIn t false = (some f, { d with free := d.free + 1 }) := by
  have hmem : s ∈ (tierStacks t).filter fun s => stackState d s == 0 && (d.placeOn s false).1.isSome := by
    simp [hs, h0, placeOn_some hp]
  obtain ⟨y, hy, hP⟩ : ∃ y, d.bestStack t false = some y ∧ (d.placeOn y false).1.isSome = true := by
    unfold Dev.bestStack
    refine foldl_pick (fun _ => rfl) (fun x s => ?_) _ none (by intro x hx; simp at hx; simpa using hx.2.2) (by simp) (.inr (List.ne_nil_of_mem hmem))
    dsimp only; split <;> simp
  obtain ⟨f, hf⟩ := Option.isSome_iff_exists.mp hP
  exact ⟨by simp [hy], f, by simp only [Dev.placeIn, hy]; exact Prod.ext hf rfl⟩

theorem placeIn_some {d : Dev} {t s : Nat} (hs : s ∈ tierStacks t) (h0 : stackState d s = 0)
    (hp : ∀ u < 2 ^ 21, d.frameFree (stackFrame s + u) = true) :
    (d.bestStack t false).isSome = true ∧ ∃ f d2, d.placeIn t false = (some f, d2) :=
  ⟨(placeIn_draw hs h0 hp).1, (placeIn_draw hs h0 hp).2.imp fun _ h => ⟨_, h⟩⟩

theorem heldOn_zero {d : Dev} {s : Nat} (hr : ∀ n < 8, (d.rangeOf (Reg.RESV n)).2 = 0) (hp : (d.rangeOf Reg.PT_POOL).2 = 0) : d.heldOn s = 0 := by
  have h : ((List.range 65536).filter fun u => d.inResv (stackBase s + u * 2 ^ 21) || d.inPool (stackBase s + u * 2 ^ 21)) = [] := by
    simp only [List.filter_eq_nil_iff, Bool.not_eq_true, Bool.or_eq_false_iff]
    intro u _
    constructor
    · simp only [Dev.inResv, Dev.inRange, List.any_eq_false, List.mem_range, Bool.and_eq_true, decide_eq_true_eq, not_and, not_lt]
      intro n hn; rw [hr n hn]; omega
    · simp only [Dev.inPool, Dev.inRange, hp, Bool.and_eq_false_iff, decide_eq_false_iff_not]; omega
  rw [Dev.heldOn, h]; rfl

/-- FREE of a stack where nothing is reserved. -/
def free0 (d : Dev) (s : Nat) : Nat :=
  if !d.locked || stackState d s ≥ 4 then 0
  else 2 ^ 21 - 0 - d.usedOn s - (d.pinnedFrames.filter fun f => stackOf (f * 65536) == some s).length
    - (d.outFrames.filter fun f =>
        stackOf (f * 65536) == some s && (d.pageAt f).isNone && !d.inResv (f * 65536) && !d.inPool (f * 65536)).length

theorem occupied_of {d : Dev} (hr : ∀ n < 8, (d.rangeOf (Reg.RESV n)).2 = 0) (hp : (d.rangeOf Reg.PT_POOL).2 = 0) (pct : Nat) (past : Bool) :
    d.occupied pct past = (if past then 100 * ((tierStacks 0).map d.usedOn).sum
        > pct * (((tierStacks 0).map d.usedOn).sum + ((tierStacks 0).map (free0 d)).sum)
      else 100 * ((tierStacks 0).map d.usedOn).sum ≥ pct * (((tierStacks 0).map d.usedOn).sum + ((tierStacks 0).map (free0 d)).sum) : Bool) := by
  have : d.freeOn = free0 d := by funext s; simp only [Dev.freeOn, free0, heldOn_zero hr hp]
  cases past <;> simp [Dev.occupied, this]

theorem above_of {d : Dev} (hm : d.moves = []) (pct : Nat) :
    d.above pct = d.occupied pct true := by
  simp [Dev.above, Dev.occupied, hm]

/-- Context 1 has page 0 in frame f, of tier 0 in its entry; the pools are formed and migration is on. -/
def paged (f : Nat) (regs : SMap W64 := []) : Dev :=
  { mapped ((Reg.MEM_CTL, BitVec.ofNat 64 (2 ^ 63 + 2 ^ 62 + 90 * 2 ^ 48 + 80 * 2 ^ 40)) :: regs) with pages := [{ frame := f, ctx := 1, maps := [(1, 0)] }] }

theorem paged_free (d : Dev) (k base : Nat) (hl : d.locked = true) (hr : ∀ n < 8, (d.rangeOf (Reg.RESV n)).2 = 0)
    (hp : (d.rangeOf Reg.PT_POOL).2 = 0 ) (hb : stackFrame k = base)
    (hg : d.pages.all (fun p => p.frame + 32 ≤ base || base + 2 ^ 21 ≤ p.frame) = true) (ho : d.outFrames = [])
    (hi : d.pinnedFrames = []) (hm : d.moves = []) : ∀ u < 2 ^ 21, d.frameFree (stackFrame k + u) = true := by
  intro u hu
  refine frameFree_of hl hr ?_ ?_ ho hi hm
  · simp only [Dev.inPool, Dev.inRange, hp, Bool.and_eq_false_iff, decide_eq_false_iff_not]; omega
  · intro p hpp
    have := List.all_eq_true.mp hg p hpp
    have h32 : p.frames ≤ 32 := by unfold Page.frames; split <;> omega
    simp only [Bool.or_eq_true, decide_eq_true_eq] at this
    simp only [Page.holds, Bool.and_eq_false_iff, decide_eq_false_iff_not, hb]
    omega

/-- Stack k is READY. -/
abbrev up (k : Nat) : Nat × W64 := (Reg.STACK k, 0)
/-- A device with more register values. -/
def plus (d : Dev) (r : SMap W64) : Dev := { d with regs := r ++ d.regs }
/-- A GET of one block of page 0 of context 1 onto word 1,024, translated. -/
def get0 : Xfer :=
  { id := 1, isGet := true, ctx := 1, slot := 0, cadence := false, pc := 0, win := 0, base := 1024, off := 0, nb := 1, ent := 0,
    vpn := some 0, pa := some 0x2000000 }
/-- A PUT of one block to page 0 of context 1, translated, its words read. -/
def put0 : Xfer := { get0 with isGet := false, buf := List.replicate 128 (0, false) }

/-- A flit of that GET, at the tile. -/
def getFlit : Flit := { seenFlit with cargo := .get 1, vc := 1, data := List.replicate 8 (7, false) }

theorem test_witness_get_leaves :
    let d := plus (tileDev {} { xfers := [get0] }) [up 0, (Reg.READY0, 0xFFFFFFFFFFFFFFFF)]
    (d.tile 0).xfers[(0 : Fin 16).val]? = some get0 ∧ get0.vpn.isSome = true ∧ get0.pa = some 0x2000000 ∧ get0.moved < get0.nb
    ∧ d.logOf 0 = some 0 ∧ (d.homeOf ((stackOf 0x2000000).getD 0)).isSome = true
    ∧ ((d.homeOf ((stackOf 0x2000000).getD 0)).bind fun h => d.entryTile h.1 (blockSide 0) 0).isSome = true
    ∧ d.stackUp ((stackOf 0x2000000).getD 0) = true ∧ ∀ i < 64, (d.lineAt (0x2000000 + 64 * i)).poison = false := by decide +kernel
theorem test_witness_get_lands :
    let f := getFlit
    let d := ({ tileDev {} { xfers := [get0] } with flits := [f] } : Dev).crossed 0 2 1 {}
    d.logOf 0 = some 0 ∧ d.headFlit 0 2 1 = some f ∧ f.dst = 0 ∧ f.beat ≤ d.now 0 ∧ f.cargo = .get get0.id ∧ f.landed = []
    ∧ (d.tile 0).xfers.find? (·.id == get0.id) = some get0
    ∧ (d.grantLand 0 (d.landers 0 (d.now 0 + 1) [1]) 1 (d.banksBefore 0)).1.find? (·.same f)
      = some { f with now := (List.range f.data.length).map (get0.base + 8 * f.k + ·) } := by decide +kernel
theorem test_witness_put_is_stored :
    let d := plus (tileDev {} { xfers := [put0] }) [up 0]
    (d.tile 0).xfers[(0 : Fin 16).val]? = some put0 ∧ ((d.putIn 0 put0.id 256).tile 0).xfers.find? (·.id == put0.id) = some put0
    ∧ put0.isGet = false ∧ put0.pa = some 0x2000000 ∧ put0.vpn.isSome = true ∧ ((put0.buf.drop (128 * 0)).take 128).length = 128
    ∧ d.stackUp ((stackOf 0x2000000).getD 0) = true := by decide +kernel
theorem test_witness_page_fault :
    let x : Xfer := { get0 with pa := none }
    let d := tileDev {} { xfers := [x] }
    (d.tile 0).xfers[(0 : Fin 16).val]? = some x ∧ x.vpn.isSome = true ∧ d.translate 1 0 false = none ∧ (d.tile 0).raise = none
    ∧ d.slotState 0 0 ≠ 0 ∧ d.slotState 0 0 ≠ 6 := by decide +kernel

theorem test_witness_HeldLandingsScrubAndSteering :
    (let f : Flit := { flitTo 0 0 1 with seen := true }
     let d : Dev := { tileDev {} with flits := [f] }
     d.logOf 0 = some 0 ∧ d.flits.find? (fun f => f.held > 0 && f.inp < 4 && f.dst == 0 && f.at' == 0 && !d.landHeld 0 f) = some f
     ∧ f.cargo = .send ∧ f.vc ≠ 1 ∧ d.landOk 0 f = true ∧ f.landed = []
     ∧ (d.grantLand 0 (d.landers 0 (d.now 0 + 1) [0, 3]) (2 - (d.tile 0).netCount) (d.tile 0).netBanks).1.find? (·.same f)
       = some { f with now := (List.range f.data.length).map (d.winBase 0 f.win + f.off + ·) })
    ∧ (stackOf 0 = some 0 ∧ (dv [up 0]).stackUp 0 = true ∧ ((dv []).lineAt 0).poison = false)
    ∧ (stackOf 0x40000000000 = some 20 ∧ (dv [up 20]).stackUp 20 = true)
    ∧ (let w : WireOrder := ⟨0, 1, 2, 0⟩
       let d : Dev := { regs := [(Reg.CLK_BEAT, 64)], wirePend := [w] }
       d.wirePend.find? d.wireIdle = some w ∧ d.trf 0 Reg.RT_PORT 12 8 < d.spareCap 0 1)
    ∧ (let d : Dev := { regs := [(Reg.CLK_BEAT, 63)], wirePend := [⟨0, 1, 2, 0⟩] }
       d.wirePend.find? d.wireIdle = none) := by decide +kernel

/-- Context 1 is port 0's. -/
def owned (d : Dev) : Dev := { d with ctxs := [(1, some { port := 0 })] }

theorem test_witness_PoolsQuotasAndMigration :
    (((dv [steward0]).isSteward 0 = true ∧ (dv [steward0]).locked = false) ∧ (dv []).isSteward 0 = false
      ∧ (dv [(Reg.MEM_CTL, BitVec.ofNat 64 (2 ^ 63))]).locked = true)
    ∧ (let d := paged 0x200 [up 0, up 20]
       let m : Move := ⟨0x200, 0x4000000, .demote⟩
       let e : Dev := { d with moves := [m] }
       e.moves[(0 : BitVec 16).toNat]? = some m ∧ (e.pageAt 0x200).isSome = true ∧ e.repairs = [] ∧ e.retrain = []
       ∧ e.stackUp ((stackOf (m.src * 65536)).getD 0) = true ∧ e.stackUp ((stackOf (m.dst * 65536)).getD 0) = true)
    := by decide +kernel

/-- Occupancy is far under the watermarks. -/
theorem test_witness_no_demotion :
    let d := paged 0x200 [up 0, up 20]
    d.rb Reg.MEM_CTL 62 = true ∧ d.above d.highPct = false ∧ d.above d.lowPct = false ∧ d.demoting = false := by
  intro d
  have hr : ∀ n < 8, (d.rangeOf (Reg.RESV n)).2 = 0 := by decide +kernel
  have hp : (d.rangeOf Reg.PT_POOL).2 = 0 := by decide +kernel
  refine ⟨by decide +kernel, ?_, ?_, rfl⟩
  · rw [above_of rfl, occupied_of hr hp]; decide +kernel
  · rw [above_of rfl, occupied_of hr hp]; decide +kernel

/-- A page not touched for longest. -/
def oldPage : Page := { frame := 0x100000, ctx := 1, maps := [(1, 0)] }
/-- 700 large pages pinned in HBM, above a high watermark of 1%. -/
def fullDev : Dev :=
  { regs := [(Reg.MEM_CTL, BitVec.ofNat 64 (2 ^ 63 + 2 ^ 62 + 2 ^ 48)), up 0, up 20], demoting := true,
    pages := oldPage :: (List.range 700).map fun i => { frame := 32 * i, large := true, ctx := 1, tier := 1 } }

theorem fullDev_used : ∀ s ∈ tierStacks 0, fullDev.usedOn s = if s = 0 then 22401 else 0 := by decide +kernel

theorem test_witness_demotion_watermark_page :
    fullDev.rb Reg.MEM_CTL 62 = true ∧ fullDev.demoting = true ∧ fullDev.demotable (fun _ => true) = some oldPage := by
  decide +kernel
theorem test_witness_demotion_watermark_room : fullDev.above fullDev.highPct = true := by
  have h : (tierStacks 0).map fullDev.usedOn = (tierStacks 0).map fun s => if s = 0 then 22401 else 0 := List.map_congr_left fullDev_used
  have g : (tierStacks 0).map (free0 fullDev) = (tierStacks 0).map fun s => if s = 0 then 2 ^ 21 - 22401 else 0 := by
    refine List.map_congr_left fun s hs => ?_
    have hp : fullDev.pinnedFrames = [] := by decide +kernel
    have hst : ∀ s ∈ tierStacks 0, (!fullDev.locked || decide (stackState fullDev s ≥ 4)) = decide (s ≠ 0) := by decide +kernel
    have ho : fullDev.outFrames = [] := rfl
    simp only [free0, hst s hs, fullDev_used s hs, hp, ho]
    split <;> simp_all
  rw [above_of rfl, occupied_of (by decide +kernel) (by decide +kernel), h, g]; decide +kernel
theorem test_witness_demotion_watermark_place : ∃ f d2, fullDev.placeIn 1 oldPage.large = (some f, d2) :=
  (placeIn_some (t := 1) (s := 20) (by decide) (by decide +kernel)
      (paged_free fullDev 20 0x4000000 (by decide +kernel) (by decide +kernel) (by decide +kernel) (by decide) (by decide +kernel)
        (by decide +kernel) (by decide +kernel) (by decide +kernel))).2

/-- A page of context 1 in LPDDR. -/
def lpPage : Page := { frame := 0x4000000, ctx := 1, maps := [(1, 0)] }
/-- That page is mapped, and handed over for promotion; another page of the context is in HBM. -/
def handedDev (room : Bool) : Dev :=
  { (paged 0x200 [up 0, up 1, up 20, up 21]).wrNum 0x103000 8 (0xD8 * 2 ^ 56 + 0x40000000000) with
    pages := [lpPage, { frame := 0x200, ctx := 1, maps := [(1, 1)] }], handed := [(1, 0)], promoRoom := room }
/-- The same device as it looks for the page's place. -/
def handedOff (room : Bool) : Dev := { handedDev room with handed := [], promoRoom := false }
/-- The device with a quota that is used up. -/
def handedTight : Dev := plus (handedDev false) [(Reg.QCTX 1, 0)]
/-- The device while a page of the context is demoted to make room. -/
def handedWait : Dev := { handedDev true with moves := [⟨0x200, 0x4000001, .demote⟩] }

theorem test_witness_promotion_page : ∀ d ∈ [handedDev false, handedDev true, handedTight, handedWait],
    d.rb Reg.MEM_CTL 62 = true ∧ d.handed = (1, 0) :: []
    ∧ d.walk 1 (0 * 65536) = some ⟨0x103000, 0xD8 * 2 ^ 56 + 0x40000000000, 0⟩ ∧ d.pageAt 0x4000000 = some lpPage
    ∧ frameTier lpPage.frame = 1 ∧ lpPage.tier = 0 ∧ (∀ m ∈ d.moves, m.src ≠ lpPage.frame)
    ∧ d.stackUp ((stackOf (lpPage.frame * 65536)).getD 0) = true := by decide +kernel
theorem test_witness_promotion_quota :
    (∀ r, (handedDev r).quotaRoom lpPage.ctx lpPage.cls 0 lpPage.frames = true ∧ (handedDev r).promoRoom = r ∧ (handedDev r).moves = [])
    ∧ handedTight.quotaRoom lpPage.ctx lpPage.cls 0 lpPage.frames = false ∧ handedTight.promoRoom = false
    ∧ handedTight.demotable (fun z => z.ctx == lpPage.ctx) = some { frame := 0x200, ctx := 1, maps := [(1, 1)] }
    ∧ handedWait.promoRoom = true
    ∧ (handedWait.moves.any fun m => m.why == .demote && ((handedWait.pageAt m.src).map (·.ctx)) == some lpPage.ctx) = true := by decide +kernel
theorem test_witness_promotion_room : (handedDev false).occupied (handedDev false).highPct false = false := by
  rw [occupied_of (by decide +kernel) (by decide +kernel)]; decide +kernel
theorem test_witness_promotion_place (r : Bool) : ∃ f d2, (handedOff r).placeIn 0 lpPage.large = (some f, d2) :=
  (placeIn_some (t := 0) (s := 1) (by decide) (by cases r <;> decide +kernel)
      (paged_free (handedOff r) 1 0x200000 (by cases r <;> decide +kernel) (by cases r <;> decide +kernel) (by cases r <;> decide +kernel) (by decide)
        (by cases r <;> decide +kernel) (by cases r <;> decide +kernel) (by cases r <;> decide +kernel) (by cases r <;> decide +kernel))).2
theorem test_witness_promotion_makes_room : ∃ f d2, handedTight.placeIn 1 false = (some f, d2) :=
  (placeIn_some (t := 1) (s := 21) (by decide) (by decide +kernel)
      (paged_free handedTight 21 0x4200000 (by decide +kernel) (by decide +kernel) (by decide +kernel) (by decide) (by decide +kernel)
        (by decide +kernel) (by decide +kernel) (by decide +kernel))).2

/-- A page operation on page v of context 1. -/
def opOn (v : BitVec 32) : MemOp := { ctx := 1, vpn := v, tier := 1, wr := true, large := false, srcCtx := 1 }
/-- Context 1 of port 0 has page 0 at frame 0x200, the pools are formed and stacks 0 and 20 are up. -/
def opDev (r : SMap W64 := []) : Dev := owned (paged 0x200 (up 0 :: up 20 :: r))
/-- The command word of operation n, and the device with it in its register. -/
def opCmd (n : Nat) (o : MemOp) : Nat := ((w64 (memWord n o % 2 ^ 63 + 2 ^ 63)) &&& regImpl (Reg.OP_CMD 0)).toNat
def opAt (d : Dev) (n : Nat) (o : MemOp) : Dev :=
  (d.wr (Reg.OP_CMD 0) (w64 (memWord n o % 2 ^ 63 + 2 ^ 63) &&& regImpl (Reg.OP_CMD 0))).wr (Reg.OP_STATUS 0) (w64 (2 ^ 63))
/-- The operation is carried out. -/
def opOk (d : Dev) (n : Nat) (o : MemOp) : Bool := match (opAt d n o).opRun 0 (opCmd n o) with
  | .ok _ => true
  | .error _ => false

/-- A job of cadence context 1 runs frame 5. -/
abbrev cad1 : SMap W64 := [frames 5, (Reg.INT_JOB_CTX, 2)]

theorem test_witness_PageOperationsEnd :
    (opDev.served = true ∧ opDev.rb (Reg.OP_STATUS 0) 63 = false)
    ∧ (opDev [(Reg.OP_STATUS 0, BitVec.ofNat 64 (2 ^ 63))]).rb (Reg.OP_STATUS 0) 63 = true
    ∧ (∀ x ∈ [(1, opOn 0), (2, opOn 5), (3, opOn 5), (4, opOn 0)], opOk opDev x.1 x.2 = false)
    ∧ (∀ x ∈ [(2, opOn 0), (3, opOn 0), (4, opOn 1)], opOk opDev x.1 x.2 = true)
    ∧ (let pg : Page := { frame := 0x200, ctx := 1, maps := [(1, 0)] }
       opDev.walk 1 0 = some ⟨0x103000, 0xD8 * 2 ^ 56 + 0x2000000, 0⟩ ∧ opDev.pageAt 0x200 = some pg ∧ opDev.repairs = [] ∧ opDev.moves = []
       ∧ pg.maps = [((opOn 0).ctx.val, (opOn 0).vpn.toNat)]) := by decide +kernel

/-- SETTIER of a cadence context while frames run. -/
theorem test_witness_PageOperations_wait :
    let d : Dev := { opDev cad1 with ctxs := [(1, some { port := 0, cadence := true })] }
    d.served = true ∧ d.rb (Reg.OP_STATUS 0) 63 = false ∧ d.framesRun = true
    ∧ (∀ n ∈ [2, 3], (opAt d n (opOn 0)).ctxIsCad (bits (memWord n (opOn 0)) 53 48) = true
      ∧ (opAt d n (opOn 0)).opCheck 0 (memWord n (opOn 0)) = 0) := by decide +kernel

/-- MAP of page 1 into LPDDR. -/
def mapOp : MemOp := { opOn 1 with tier := 2 }
/-- The device MAP runs on, and with a free value drawn. -/
def mapDev : Dev := opAt opDev 1 mapOp
def mapDev' : Dev := { mapDev with free := mapDev.free + 1 }

theorem mapAt_some {d e : Dev} {c vpn a f tier : Nat} {wr mv : Bool} (h : d.pathGo c (vpn * 65536) 0 3 (d.ptRoot c) = (some a, e)) :
    (d.mapAt c vpn f tier wr false mv).isSome = true := by
  simp [Dev.mapAt, h]

theorem path_some {x : Option Nat × Dev} (h : x.1.isSome = true) : ∃ a e, x = (some a, e) := by
  obtain ⟨a, ha⟩ := Option.isSome_iff_exists.mp h; exact ⟨a, x.2, Prod.ext ha rfl⟩

theorem test_witness_PageOperations_map : ∃ y, (opAt opDev 1 mapOp).opRun 0 (opCmd 1 mapOp) = .ok y := by
  obtain ⟨hb, f, hf⟩ := placeIn_draw (d := mapDev) (t := 1) (s := 20) (by decide) (by decide +kernel)
    (paged_free mapDev 20 0x4000000 (by decide +kernel) (by decide +kernel) (by decide +kernel) (by decide) (by decide +kernel)
        (by decide +kernel) (by decide +kernel) (by decide +kernel))
  have ha : mapDev.allocate 1 none 2 false = (.ok f, mapDev') := by
    have hq : mapDev.quotaRoom 1 none 1 1 = true := by decide +kernel
    simp [Dev.allocate, hq, hb, hf, mapDev']
  obtain ⟨a, e, hp⟩ := path_some (x := mapDev'.pathGo 1 (1 * 65536) 0 3 (mapDev'.ptRoot 1)) (by decide +kernel)
  obtain ⟨z, hz⟩ := Option.isSome_iff_exists.mp (mapAt_some (f := f) (tier := 2) (wr := true) (mv := false) hp)
  have h1 : mapDev.opCheck 0 (opCmd 1 mapOp) = 0 := by decide +kernel
  have h2 : bits (opCmd 1 mapOp) 62 60 = 1 := by decide +kernel
  have h3 : bits (opCmd 1 mapOp) 53 48 = 1 := by decide +kernel
  have h4 : bits (opCmd 1 mapOp) 47 16 = 1 := by decide +kernel
  have h5 : bits (opCmd 1 mapOp) 59 58 = 2 := by decide +kernel
  have h6 : bit (opCmd 1 mapOp) 57 = true := by decide +kernel
  have h7 : bit (opCmd 1 mapOp) 56 = false := by decide +kernel
  change ∃ y, mapDev.opRun 0 (opCmd 1 mapOp) = .ok y
  simp only [Dev.opRun, h1, h2, h3, h4, h5, h6, h7, Dev.mapNew, ha, hz]
  exact ⟨_, rfl⟩

theorem test_witness_StacksRetrainInOrder :
    ((dv []).isSteward 0 = false ∧ (dv [steward0]).isSteward 0 = true)
    ∧ ({ dv [steward0] with retrain := [(3, true)] } : Dev).retrain ≠ []
    ∧ (∀ r ∈ [[], [frames 5]], let d := dv (steward0 :: up 0 :: (Reg.RETRAIN, 0) :: r)
       d.retrain = [] ∧ stackState d 0 ≤ 1 ∧ d.isSteward 0 = true ∧ d.rb Reg.RETRAIN 62 = false ∧ d.framesRun = !r.isEmpty)
    ∧ (let d : Dev := { dv [(Reg.READY0, 0xFFFFFFFFFFFFFFFF)] with training := [0] }
       0 ∈ d.training ∧ d.retrain = [] ∧ d.ready (readyField (homes 0).1) = true)
    ∧ 0 ∉ (dv []).training := by decide +kernel

/-! ## Witnesses: data integrity -/

/-- An event of class c at tile 4, location 5. -/
def ev (c : Fin 13) : ExtEvent := { cls := c, kind := 0, idx := 4, loc := 5, syn := 0 }
/-- The device sees that event for the first time. -/
def freshEv (d : Dev) (x : ExtEvent) : Bool :=
  d.track.all (fun t => !(t.cls == x.cls.val && t.kind == x.kind.toNat && t.idx == x.idx.toNat && t.loc == x.loc)) && d.track.length < 8192

theorem test_witness_EventsAreTrackedAndDecide :
    ((dv [(Reg.SWEEP_STATUS, BitVec.ofNat 64 (3 * 2 ^ 40))]).underStress 0 4 = true ∧ (ev 0).cls.val < 12)
    ∧ (∀ n ∈ [1, 2], ∀ en ∈ [0, 1], let d := dv [(Reg.THR 0, BitVec.ofNat 64 (n * 2 ^ 32)), (Reg.ITG_CTL, BitVec.ofNat 64 (en * 2 ^ 62))]
       d.underStress 0 4 = false ∧ d.retireeOf { cls := 0, kind := 0, idx := 4, loc := 5, syn := 0 } = some (.row 4 5 0) ∧ d.deciding (.row 4 5 0) = false ∧ freshEv d (ev 0) = true
       ∧ d.rfIn (Reg.THR 0) 35 32 1 8 = n ∧ d.rb Reg.ITG_CTL 62 = (en == 1))
    ∧ ((dv []).retireeOf { cls := 12, kind := 0, idx := 4, loc := 0, syn := 0 } = some (.tile 4) ∧ freshEv (dv []) (ev 12) = true)
    -- a double error in the base image is lasting whatever the threshold is
    ∧ (let x : ExtEvent := { cls := 1, kind := 0, idx := 4, loc := BitVec.ofNat 64 (2 ^ 63 + 5), syn := 0 }
       let d := dv [(Reg.THR 1, BitVec.ofNat 64 (2 * 2 ^ 32))]
       d.underStress 0 4 = false ∧ d.retireeOf { cls := 1, kind := 0, idx := 4, loc := x.loc, syn := 0 } = some (.tile 4)
       ∧ d.deciding (.tile 4) = false ∧ freshEv d x = true ∧ x.loc.getLsbD 63 = true ∧ x.loc.toNat % 2 ^ 15 < 4096)
    ∧ (let x : ExtEvent := { cls := 6, kind := 2, idx := 0, loc := 0, syn := 0 }
       ((dv []).retireeOf { cls := 6, kind := 2, idx := 0, loc := x.loc, syn := 0 }).any (fun r => match r with
         | .memory _ => true
         | _ => false) = true)
    ∧ (let y : Event := { cls := 0, kind := 0, idx := 4, loc := 5, syn := 0 }
       let d : Dev := { events := [y] }
       d.events = y :: [] ∧ d.underStress y.kind y.idx = false) := by decide +kernel

theorem test_witness_RetirementsAreOrderedAndCarriedOut :
    ((dv []).isSteward 0 = false ∧ (dv [steward0]).isSteward 0 = true)
    ∧ (∀ w ∈ [0, 1663], decide (w < 1664) = true) ∧ decide (1664 < 1664) = false
    ∧ ((stackOf (0 * 65536)).isSome = true ∧ (stackOf (0x3000000 * 65536)).isSome = false)
    ∧ (∀ v ∈ [0, 1], tst (BitVec.ofNat 64 (v * 2 ^ 62)) 62 = (v == 1))
    ∧ (let en : Nat × W64 := (Reg.ITG_CTL, BitVec.ofNat 64 (2 ^ 62))
       let next (o : Order) (e : Dev) : Prop := e.orders.find? (fun y => y.host || e.rb Reg.ITG_CTL 62) = some o
       ({ orders := [⟨.tile 4, false⟩] } : Dev).orders.find? (fun y => y.host || (dv [(Reg.ITG_CTL, 0)]).rb Reg.ITG_CTL 62) = none
       ∧ (∀ h ∈ [false, true], let o : Order := ⟨.row 4 5 6, h⟩
         let d : Dev := { regs := [en], orders := [o] }
         next o d ∧ d.alreadyGone o.what = false ∧ d.sparesUsed 4 5 < 4)
       ∧ (let o : Order := ⟨.row 4 5 6, false⟩
          let d : Dev := { regs := [en], orders := [o], tiles := [(4, { remapPend := [512 * 5 + 6] })] }
          next o d ∧ d.alreadyGone o.what = true)
       ∧ (let o : Order := ⟨.wire 4 1 6, false⟩
          let d : Dev := { regs := [en], orders := [o] }
          next o d ∧ d.alreadyGone o.what = false)
       ∧ (let o : Order := ⟨.memory { frame := 0x200 }, false⟩
          let d : Dev := { paged 0x200 [en] with orders := [o] }
          next o d ∧ d.alreadyGone o.what = false ∧ (d.pageAt 0x200).isSome = true)
       ∧ (let o : Order := ⟨.tile 4, false⟩
          let d : Dev := { regs := [en], orders := [o] }
          next o d ∧ d.alreadyGone o.what = false)) := by decide +kernel

theorem test_witness_CapturesAreCopiedAndReleased :
    (let d := dv [(Reg.CAPRING, BitVec.ofNat 64 (0x200000 + 4)), (Reg.ITG_CTL, BitVec.ofNat 64 (2 ^ 63)),
       (Reg.tile 4 Reg.CAP_STATUS, BitVec.ofNat 64 (2 ^ 63)), (Reg.tile 4 Reg.LCAP_STATUS, BitVec.ofNat 64 (2 ^ 63))]
     d.capSize = some 16 ∧ d.rb Reg.ITG_CTL 63 = true ∧ d.rb (Reg.tile 4 Reg.CAP_STATUS) 63 = true
     ∧ d.rb (Reg.tile 4 Reg.LCAP_STATUS) 63 = true ∧ d.rn Reg.CAP_WR - d.rn Reg.CAP_RD < 16)
    ∧ ((dv [steward0, (Reg.CAP_WR, 7)]).isSteward 0 = true ∧ (7 : W64).toNat ≤ (dv [steward0, (Reg.CAP_WR, 7)]).rn Reg.CAP_WR)
    ∧ ((dv [steward0, (Reg.CAP_WR, 7)]).rn Reg.CAP_WR < (8 : W64).toNat)
    ∧ (dv []).served = true ∧ (dv [(Reg.BOOT_STATUS, BitVec.ofNat 64 (2 ^ 63))]).served = false := by decide +kernel

theorem test_witness_PackagesLoadAndRun :
    (let d := dv [steward0]
     d.isSteward 0 = true ∧ d.rb Reg.PKG_CMD 63 = false ∧ d.fieldBusy 0 = false ∧ d.rf Reg.SWEEP_STATUS 47 40 < 2)
    ∧ ¬ ((dv []).isSteward 0 = true ∧ (dv []).rb Reg.PKG_CMD 63 = false)
    ∧ (let d : Dev := { dv [steward0] with tiles := [(0, { inGroup := true })] }
       d.isSteward 0 = true ∧ d.rb Reg.PKG_CMD 63 = false ∧ d.fieldBusy 0 = true)
    ∧ (dv [steward0, (Reg.SWEEP_STATUS, BitVec.ofNat 64 (2 * 2 ^ 40))]).rf Reg.SWEEP_STATUS 47 40 ≥ 2 := by decide +kernel

/-- A sweep of field 3 in a stage. -/
abbrev swp (st : Nat) : Nat × W64 := (Reg.SWEEP_STATUS, BitVec.ofNat 64 (st * 2 ^ 40 + 3 * 2 ^ 36))

theorem test_witness_SweepsGoThroughTheirStages :
    (let d := dv [(Reg.SWEEP_CTL, BitVec.ofNat 64 (2 ^ 63)), (Reg.READY0, 0x20)]
     d.rb Reg.SWEEP_CTL 63 = true ∧ d.sweepStage = 0 ∧ d.sweepPick = some 3)
    ∧ (let d := dv [(Reg.SWEEP_CTL, BitVec.ofNat 64 (2 ^ 63)), swp 1]
       d.rb Reg.SWEEP_CTL 63 = true ∧ d.sweepStage = 1)
    ∧ (let d := dv [swp 1, (Reg.CAP_W, BitVec.ofNat 64 (9000 * 2 ^ 16))]
       d.sweepStage = 1 ∧ d.fieldBusy d.sweepField = false ∧ d.rf Reg.EST 15 0 + 500 ≤ d.rf Reg.CAP_W 31 16)
    ∧ (∀ st ∈ [2, 3, 4, 5, 6, 7], (dv [swp st]).sweepStage = st)
    ∧ (let d : Dev := { dv [swp 6] with sweepFails := [.tile 312] }
       .tile 312 ∈ d.sweepFails ∧ .tile 312 ∉ d.ofSweep [] ∧ .tile 312 ∈ d.ofSweep [.tile 312 none]) := by decide +kernel

/-! ## Witnesses: clocking and power -/

/-- CLK.STATUS with the reference (bit 63) and the operating point. -/
abbrev clk (ref op : Nat) : Nat × W64 := (Reg.CLK_STATUS, BitVec.ofNat 64 (ref * 2 ^ 63 + op))
/-- Floe k in a state, owing stretch beats. -/
abbrev floe (k st owe : Nat) : Nat × W64 := (Reg.FLOE k, BitVec.ofNat 64 (st * 2 ^ 61 + owe * 2 ^ 32))
/-- Field f in a state, with n phases retired, a limit of 792 A and a current. -/
abbrev field (f st n amps : Nat) : Nat × W64 := (Reg.FIELD f, BitVec.ofNat 64 (st * 2 ^ 61 + n * 2 ^ 56 + 96 * 2 ^ 41 + 792 * 2 ^ 28 + amps))

theorem test_witness_ReferenceAndOscillatorFaultsAct :
    ((dv [clk 1 0]).rb Reg.CLK_STATUS 63 = true ∧ (dv [clk 0 0]).rb Reg.CLK_STATUS 63 = false)
    ∧ ((dv [(Reg.READY0, 2)]).ready 1 = true ∧ (dv [(Reg.READY0, 0)]).ready 1 = false)
    ∧ (∀ st ∈ [0, 3], let d := dv [floe 9 st 0]
       d.oscFailed 9 = false ∧ d.floeState 9 = st ∧ d.firnWorn (0x442 + 9 / 32) = false ∧ ∀ j, j < 4 → d.oscFailed (4 * (9 / 4) + j) = false)
    ∧ (let d : Dev := { dv [floe 9 0 0] with firn := [(0x442, 0x100)] }
       d.oscFailed 9 = false ∧ d.floeState 9 = 0 ∧ 4 * (9 / 4) + 0 ≠ 9 ∧ d.oscFailed (4 * (9 / 4) + 0) = true ∧ d.oscFailed 8 = true)
    ∧ (dv []).logOf 12 = none
    ∧ (let d : Dev := { flits := [flitTo 0 12 0] }
       d.logOf 13 = some 12 ∧ neighbour 12 1 = some (24, 3) ∧ (3 : Nat) ≠ 1 ∧ d.physOf 24 = some 26)
    ∧ (let d : Dev := { flits := [{ flitTo 0 12 0 with inp := 1 }] }
       d.lastFlit 12 1 = some { flitTo 0 12 0 with inp := 1 } ∧ (dv []).lastFlit 12 1 = none) := by decide +kernel

/-- A point change to op is announced. -/
abbrev pend (op : Nat) : Nat × W64 := (Reg.CLK_SWITCH, BitVec.ofNat 64 (2 ^ 63 + op))
/-- Floating mode, an intake with one variant that asks for nothing, a ceiling and a point in force. -/
def floating (c op : Nat) : Dev :=
  { dv [clk 1 op, (Reg.PWR_CTL, BitVec.ofNat 64 (2 ^ 63)), (Reg.INT_CTL, BitVec.ofNat 64 (2 ^ 63)), (Reg.VAR_CFG 0, BitVec.ofNat 64 (2 ^ 63))]
      with ceiling := c }

theorem test_witness_OperatingPointSwitches :
    ((dv [pend 2]).switchPending = true ∧ (dv [pend 2]).afterSwitch = none ∧ (dv []).switchPending = false)
    ∧ (let d : Dev := { dv [pend 2] with afterSwitch := some (1, 2) }
       1 < d.rf Reg.CLK_SWITCH 1 0 ∧ d.switchPending = true ∧ d.afterSwitch = some (1, 2))
    ∧ (let d : Dev := { dv [clk 1 1] with raising := some (2, 3) }
       d.opNow < 2 ∧ 2 ≤ d.ceiling ∧ d.switchPending = false ∧ d.raising = some (2, 3))
    ∧ (let d : Dev := { dv [clk 1 1] with ceiling := 1 }
       d.ceiling = 1 ∧ d.floatOn = false ∧ d.switchPending = false ∧ d.afterSwitch = none ∧ d.opNow < 2)
    ∧ (let d := dv [clk 1 1, (Reg.TEMP 3, 105)]
       (d.dieTemps.any (· ≥ 105)) = true ∧ d.switchPending = false ∧ d.afterSwitch = none ∧ 0 < d.opNow)
    ∧ ((dv [(Reg.TEMP 3, 104)]).dieTemps.any (· ≥ 105)) = false
    ∧ (∀ op ∈ [1, 3], let d : Dev := { dv [clk 1 op] with floatOn := true }
       d.switchPending = false ∧ d.raising = none ∧ d.rb Reg.PWR_CTL 63 = false ∧ d.floatOn = true ∧ 2 ≤ d.ceiling ∧ d.opNow = op)
    ∧ (∀ op ∈ [0, 3], let d := floating 2 op
       d.switchPending = false ∧ d.raising = none ∧ d.rb Reg.PWR_CTL 63 = true ∧ d.intOn = true ∧ d.opNow = op ∧ 2 ≤ d.ceiling
       ∧ ({ d with floatOn := true } : Dev).opFits 2 = true) := by decide +kernel

theorem test_witness_StretchIsShared :
    (∀ st ∈ [0, 1, 3], let d := dv [floe 9 st 0]
      (0 : BitVec 32).toNat < (d.opMv d.opNow - d.droopMv) * 1000 ∧ d.owed 9 = 0 ∧ d.floeState 9 = st)
    ∧ ((dv []).opMv 0 - (dv []).droopMv) * 1000 ≤ (0xFFFFFFFF : BitVec 32).toNat ∧ 0 < (dv [floe 9 0 5]).owed 9
    ∧ (∀ st ∈ [0, 3], let d : Dev := { dv [floe 9 st 0] with stretch := [(9, 2)] }
       d.stretch = (9, 2) :: [] ∧ d.floeState 9 = st)
    ∧ ((dv []).rf Reg.CLK_WINDOW 15 0 ≤ (dv []).stretchLimit ∧ 256 < (dv [(Reg.CLK_WINDOW, 257)]).rf Reg.CLK_WINDOW 15 0
       ∧ (dv [(Reg.CLK_WINDOW, 257)]).stretchLimit ≤ 256)
    ∧ (let d := dv [(Reg.CLK_WINDOW, 257), clk 1 2]
       d.switchPending = false ∧ d.afterSwitch = none ∧ 0 < d.opNow)
    ∧ (let d : Dev := { dv [(Reg.CLK_WINDOW, 257), clk 1 0] with windowFields := [3] }
       d.opDecided = 0 ∧ 3 ∈ d.windowFields) := by decide +kernel

/-- 300 beats of phase 5 in field 2. -/
def act (beats : BitVec 32) : PhaseEnergy := { field := 2, phase := 5, beats := beats, pj := 600 }

theorem test_witness_PowerIsEstimatedAndCapped :
    (let amps : List (BitVec 12) := List.replicate 16 800
     amps.length = 16 ∧ (13001 : BitVec 16).toNat > 13000 ∧ ∀ f < 16, (dv []).clampSrc f 1 = 96 ∧ (dv []).clampSrc f 2 = 96)
    ∧ ((act 255).beats.toNat < 256 ∧ 256 ≤ (act 256).beats.toNat ∧ smGet noFig (dv []).learned (figKey 2 (dv []).opNow 5) = none)
    ∧ (let d : Dev := { dv [clk 1 0, (Reg.PWR_CTL, BitVec.ofNat 64 (4 * 2 ^ 44))] with learned := [(figKey 2 0 5, some 1000)] }
       d.opNow = 0 ∧ smGet noFig d.learned (figKey 2 d.opNow 5) = some 1000 ∧ d.rf Reg.PWR_CTL 47 44 = 4)
    ∧ (∀ a ∈ [700, 800], let d : Dev := { dv [field 3 2 0 a] with clamps := [(13, 48)] }
       d.clampSrc 3 1 = 48 ∧ d.fieldOver 3 = (a == 800))
    ∧ (∀ w ∈ [9000, 13001], let d : Dev := { dv [(Reg.EST, BitVec.ofNat 64 w)] with clamps := [(14, 48)] }
       d.clampSrc 3 2 = 48 ∧ d.moduleOver = (w == 13001))
    ∧ (∀ n ∈ [0, 11, 12, 13], let d := dv [field 3 2 n 0, deviceUp]
       d.ready readyDevice = true ∧ d.rf (Reg.FIELD 3) 60 56 + 1 = n + 1 ∧ d.rb (Reg.PHMAP 3) 7 = false ∧ 1 ≤ d.fieldState 3 ∧ d.fieldState 3 ≤ 3)
    ∧ ((dv [(Reg.PHMAP 3, 128)]).rb (Reg.PHMAP 3) 7 = true ∧ 130 < (131 : BitVec 16).toNat)
    ∧ ((dv [steward0]).isSteward 0 = true ∧ (dv []).isSteward 0 = false)
    ∧ (∃ t ∈ (dv [(Reg.TEMP 3, 110)]).dieTemps, (dv [(Reg.TEMP 3, 110)]).targetC < t)
    ∧ (∀ t ∈ (dv [(Reg.TEMP 3, 40)]).dieTemps, t + 5 ≤ (dv [(Reg.TEMP 3, 40)]).targetC)
    ∧ (let d := dv [(Reg.TEMP 3, 88), (Reg.PWR_CTL, BitVec.ofNat 64 (90 * 2 ^ 48))]
       (∀ t ∈ d.dieTemps, t ≤ d.targetC) ∧ ∃ t ∈ d.dieTemps, d.targetC < t + 5) := by decide +kernel

/-- Power to grant: the cap is 9,000 W. -/
abbrev cap9 : Nat × W64 := (Reg.CAP_W, BitVec.ofNat 64 (9000 * 2 ^ 16))
/-- No crossing, no sensor, no wire fails. -/
def calm : WaveObs := {}

theorem test_witness_FieldSwitchesAct :
    (∀ st ∈ [1, 2, 3], let d := dv [field 3 st 13 0, deviceUp]
      d.ready readyDevice = true ∧ d.fieldState 3 = st ∧ d.phasesGone 3 = true) ∧ ((dv [field 3 0 0 0]).fieldState 3 = 0 ∧ (dv [field 3 4 0 0]).fieldState 3 = 4)
    ∧ (let d := dv [steward0]
       d.isSteward 0 = true ∧ d.rb Reg.FIELD_CMD 63 = false)
    ∧ (∀ st ∈ [0, 2, 3, 5], let d := dv [steward0, cap9, field 3 st 0 0, field 2 0 0 0, field 7 0 0 0]
       d.shortMark 3 = false ∧ d.phasesGone 3 = false ∧ d.oscBar 3 = false ∧ d.fieldState 3 = st ∧ d.grantOk 3 = true
       ∧ (∀ g < 16, g ≠ 3 → d.fieldState g ≠ 5) ∧ d.fieldBusy 3 = false)
    ∧ (dv [steward0, (Reg.CAP_W, 0), field 3 0 0 0]).grantOk 3 = false
    ∧ ({ dv [steward0] with tiles := [(312, { inGroup := true })] } : Dev).fieldBusy 3 = true
    ∧ (let d := dv [field 3 1 0 0]
       d.fieldState 3 = 1 ∧ d.switchPending = false ∧ d.oscBar 3 = false ∧ calm.crossing = false ∧ calm.sensor = false)
    ∧ (dv [pend 2]).switchPending = true
    ∧ (let d := dv [field 3 3 0 0, (Reg.TEMP 3, 0x5F5F5F5F5F5F5F5F)]
       d.fieldState 3 = 3 ∧ (∀ i < 8, d.rf (Reg.TEMP 3) (8 * i + 7) (8 * i) ≤ 95) ∧ d.oscBar 3 = false)
    ∧ 95 < (dv [(Reg.TEMP 3, 96)]).rf (Reg.TEMP 3) (8 * 0 + 7) (8 * 0) := by decide +kernel

theorem test_witness_ReadingsAreTaken :
    (let mem : List (BitVec 8) := [105, 254]
     105 ≤ (mem.getD 0 0xFF).toNat ∧ (mem.getD 1 0xFF).toNat < 255 ∧ stackState (dv [up 0, up 1]) 0 ≤ 1 ∧ stackState (dv [up 0, up 1]) 1 ≤ 1)
    ∧ (let links : List (BitVec 8) := [85, 84]
       (links.getD 0 0xFF).toNat < 255 ∧ (links.getD 1 0xFF).toNat < 255) := by decide +kernel

theorem test_witness_StewardLeaseIsHeld :
    (∀ r ∈ [0, 1], let d := dv [(Reg.READY1, BitVec.ofNat 64 (r * 2 ^ (readyPort 0 - 64)))]
      d.rb Reg.STEWARD 63 = false ∧ d.ready (readyPort 0) = (r == 1) ∧ d.served = true)
    ∧ ((dv [steward0]).isSteward 0 = true ∧ (dv [steward0]).isSteward 1 = false ∧ (dv [steward0]).rb Reg.STEWARD 63 = true) := by decide +kernel

/-! ## Witnesses: the host interface -/

/-- A control entry of context 1 with nothing more in it. -/
def ent : CtrlEntry := { ctx := 1, tag := 9 }
/-- Context 1 in a state, port 0's, on these logical tiles and slots. -/
def ctx1 (st : Nat) (tiles : List (Nat × Nat)) (d : Dev) (cad : Bool := false) : Dev :=
  { d with ctxs := [(1, some { port := 0, cadence := cad, tiles := tiles })], regs := (Reg.CTX 1, BitVec.ofNat 64 (st * 2 ^ 61)) :: d.regs }
/-- A descriptor of one tile: logical tile 0, slot 0, extent of one bundle at 1,024. -/
def desc1 : List Byte := [1, 0, 7, 0] ++ List.replicate 12 0 ++ 1 :: List.replicate 4087 0 ++ [0, 4, 1, 0] ++ List.replicate 2036 0

theorem test_witness_ContextsAreCreatedLoadedAndDestroyed :
    (let d := dv [(Reg.MEM_CTL, BitVec.ofNat 64 (2 ^ 63)), (Reg.PT_POOL, BitVec.ofNat 64 (2 ^ 48 + 0x200000))]
     entryClean ent 0 = true ∧ d.ctxState 1 = 0 ∧ d.hostFenced 0 = false ∧ d.locked = true
     ∧ 0 < (d.rangeOf Reg.PT_POOL).2 / 4096 ∧ ∀ x ∈ d.nodes, x.addr + x.size ≤ (d.rangeOf Reg.PT_POOL).1 + 4096 * 0)
    ∧ entryClean { ent with w5 := 1 } 0 = false ∧ entryClean { ent with w5 := 1 } 2 = false ∧ (ctx1 1 [] (dv [])).ctxState 1 ≠ 0
    ∧ ((dv [(Reg.P_CTL 0, BitVec.ofNat 64 (2 ^ 62))]).hostFenced 0 = true ∧ (dv [(Reg.P_CTL 0, BitVec.ofNat 64 (2 ^ 62))]).ctxState 1 = 0)
    ∧ (let d := ctx1 1 [] (dv [])
       entryClean ent 2 = true ∧ d.owns 0 1 = true ∧ d.entryFenced 0 1 = false ∧ d.loadingCtx 1 = false ∧ d.ctxTiles 1 = []
       ∧ d.ctxBusy 1 = false ∧ d.ctxNamed 1 = false)
    ∧ (dv []).owns 0 1 = false
    ∧ (let d : Dev := { ctx1 4 [] (dv []) with fences := [.context 1] }
       d.owns 0 1 = true ∧ d.entryFenced 0 1 = true)
    ∧ (∀ cad ∈ [false, true], let d : Dev := { ctx1 2 [(0, 0)] (dv []) cad with loading := [⟨1, 0, 9⟩] }
       d.loading.find? (·.ctx == 1) = some ⟨1, 0, 9⟩ ∧ d.ctxIsCad 1 = cad ∧ (0, 0) ∈ d.ctxTiles 1 ∧ d.slotState 0 0 = 0
       ∧ d.owns 0 1 = true ∧ d.entryFenced 0 1 = false ∧ d.ctxBusy 1 = true)
    ∧ (dv []).loadingCtx 1 = false := by decide +kernel

/-- The record of its tile. -/
def rec1 : List Byte := [0, 0, 0, 0, 0, 0, 0, 0, 0, 4, 1, 0] ++ List.replicate 2036 0
theorem ofBytes_zero (n : Nat) : ofBytes (List.replicate n (0 : Byte)) = 0 := by
  induction n with
  | zero => rfl
  | succ n ih => rw [List.replicate_succ, ofBytes, ih]; rfl
theorem rec1_zero (off : Nat) (h : 12 ≤ off) : word64 rec1 off = 0 := by
  have : rec1.drop off = List.replicate (2036 - (off - 12)) 0 := by
    rw [rec1, List.drop_append, List.drop_replicate, List.drop_eq_nil_of_le (by simpa using h)]; rfl
  rw [word64, this, List.take_replicate, ofBytes_zero]
theorem desc1_drop : desc1.drop 4096 = rec1 := by decide +kernel
theorem desc1_r (off : Nat) : Desc.r ⟨desc1⟩ 0 off = word64 rec1 off := by
  simp only [Desc.r, Desc.u, word64, ← desc1_drop, List.drop_drop, Nat.mul_zero, Nat.add_zero]
/-- Field 0 is ready, and context 1 is created. -/
def loadDev : Dev := ctx1 1 [] (dv [(Reg.READY0, 4)])
theorem record_good : loadDev.badRecord ⟨desc1⟩ 0 = false := by
  have h0 : word64 rec1 0 = 0 := by decide +kernel
  have h8 : word64 rec1 8 = 1024 + 65536 := by decide +kernel
  have hd : List.drop (4096 + 2048 * 0) desc1 = rec1 := desc1_drop
  have hz : zeroBetween rec1 0x28 0xD8 = true ∧ zeroBetween rec1 0x500 768 = true := by decide +kernel
  simp (disch := omega) only [Dev.badRecord, Desc.wins, Desc.win, Desc.hdl, Desc.rt, Desc.priv, Desc.save, Desc.extent, Desc.logical, desc1_r,
    rec1_zero, h0, h8, hd, hz]
  decide +kernel

/-- Its descriptor passes the checks. -/
theorem test_witness_load : loadDev.checkDesc (desc1.take 6144) (6144 : BitVec 64).toNat = 0 := by
  have ht : desc1.take 6144 = desc1 := List.take_of_length_le (by decide +kernel)
  have hn : Desc.tiles ⟨desc1⟩ = 1 := by decide +kernel
  have hb : (List.range 1).any (loadDev.badRecord ⟨desc1⟩) = false := by
    rw [List.range_one, List.any_cons, List.any_nil, record_good]; rfl
  rw [ht, Dev.checkDesc, hn, hb]
  decide +kernel

theorem test_witness_LaunchesRunAndEnd :
    (∀ st ∈ [3, 5], let d := ctx1 st [(0, 0)] (dv [])
      (entryClean ent 0 = true ∧ d.owns 0 1 = true) ∧ d.workFenced 0 1 = false ∧ d.loadingCtx 1 = false ∧ d.ctxTiles 1 ≠ []
      ∧ d.ctxIsCad 1 = false ∧ d.ctxState 1 = st)
    ∧ (dv []).owns 0 1 = false ∧ entryClean { ent with w5 := 1 } 0 = false
    ∧ (let d := ctx1 4 [(0, 0)] (dv [])
       d.owns 0 1 = true ∧ d.workFenced 0 1 = true)
    ∧ (let d : Dev := { ctx1 3 [(0, 0)] (dv []) with loading := [⟨1, 0, 9⟩] }
       d.owns 0 1 = true ∧ d.workFenced 0 1 = false ∧ d.loadingCtx 1 = true)
    ∧ (let d := ctx1 6 [] (dv []) true
       d.owns 0 1 = true ∧ d.workFenced 0 1 = false ∧ d.loadingCtx 1 = false ∧ d.ctxTiles 1 = [] ∧ d.ctxIsCad 1 = true
       ∧ d.ctxState 1 ≠ 3 ∧ d.ctxState 1 ≠ 5)
    ∧ (∀ f ∈ [none, some (0x11, 3)], let l : Launch := { id := 7, ctx := 1, port := 0, tag := 9, left := [], fault := f }
       let d : Dev := { launches := [l] }
       d.launches.find? (fun l => l.ctx == 1 && l.left == []) = some l ∧ l.iso = false ∧ d.fences = [] ∧ l.fault = f)
    ∧ (∀ l ∈ ({ launches := [{ id := 7, ctx := 1, port := 0, tag := 9, left := [4] }] } : Dev).launches, l.ctx = 1 → l.left ≠ []) := by
  decide +kernel

/-- A COPY of `len` lines of a kind between line 0 of context 1 and host address 0. -/
def cpy (kind len : Nat) : CtrlEntry := { ent with w3 := BitVec.ofNat 64 (kind * 2 ^ 32 + len) }
/-- A copy of one line under way. -/
def copy1 (kind : Nat) : Copy := { id := 0, port := 0, tag := 9, ctx := 1, kind := kind, src := 0, dst := 0, units := 1, sent := true }

theorem test_witness_copy_starts :
    let d := ctx1 3 [] (dv [])
    d.owns 0 1 = true ∧ d.workFenced 0 1 = false ∧ (∀ k ∈ d.copies, k.kind ≠ 2) ∧ (∀ kind ∈ [0, 1, 3], ∀ len ∈ [1, 2 ^ 24],
      entryClean (cpy kind len) 4 = true ∧ fld (cpy kind len).w3 34 32 = kind ∧ (cpy kind len).w4 = 0 ∧ fld (cpy kind len).w3 31 30 = 0
      ∧ fld (cpy kind len).w3 63 36 = 0 ∧ fld (cpy kind len).w3 29 0 = len ∧ (cpy kind len).w1.toNat % 64 = 0
      ∧ (cpy kind len).w2.toNat % 64 = 0) := by decide +kernel

/-- Context 1 may copy the line at 0 to device 7, to which link 5 leads. -/
def peerDev (r : SMap W64) : Dev := ctx1 3 [] (mapped (up 0 :: r))
theorem test_witness_copy_to_peer :
    let n : CtrlEntry := { cpy 2 1 with w4 := 7 }
    let d := peerDev [id9, (Reg.L_STATUS 5, BitVec.ofNat 64 (4 * 2 ^ 61)), (Reg.ROUTE, BitVec.ofNat 64 (2 ^ 63 + 5 * 2 ^ 16))]
    entryClean n 4 = true ∧ fld n.w3 34 32 = 2 ∧ fld n.w4 31 17 = 0 ∧ fld n.w4 63 35 = 0 ∧ fld n.w3 31 30 = 0 ∧ fld n.w3 63 36 = 0
    ∧ fld n.w3 29 0 = 1 ∧ n.w1.toNat % 64 = 0 ∧ n.w2.toNat % 64 = 0 ∧ n.w1.toNat < 2 ^ 48
    ∧ (∀ e ∈ [d, peerDev []], e.owns 0 n.ctx = true ∧ e.workFenced 0 n.ctx = false ∧ (∀ k ∈ e.copies, k.kind ≠ 2 ∧ k.id ≠ e.nextCopy)
      ∧ (e.running 0).length < 16 ∧ e.translate n.ctx n.w1.toNat false = some 0x2000000 ∧ e.stackUp ((stackOf 0x2000000).getD 0) = true)
    ∧ d.route 2 7 0 = some 5 ∧ d.canSend 5 2 = true ∧ (peerDev []).route 2 7 0 = none := by decide +kernel

theorem rdBytes_near {x d : Dev} {n : Nat} : ∀ {a : Nat}, (∀ b, a ≤ b → b < a + n → x.rdByte b = d.rdByte b) → x.rdBytes a n = d.rdBytes a n := by
  induction n with
  | zero => intro a _; rfl
  | succ n ih =>
    intro a h
    rw [Dev.rdBytes, Dev.rdBytes, h a (by omega) (by omega), ih fun b h1 h2 => h b (by omega) (by omega)]
theorem walkGo_succ {x : Dev} {l node va a e next : Nat} (ha : node + 8 * levelIdx (l + 1) va = a) (he : x.rdNum a 8 = e)
    (hc : (!bit e 63 || bits e 61 60 == 3 || bits e 57 48 != 0 || bits e 7 0 != 0) = false) (hp : bit e 62 = false)
    (hn : bits e 47 8 * 256 = next) : x.walkGo (l + 1) node va = x.walkGo l next va := by
  simp only [Dev.walkGo, Dev.entryAt, ha, he, hc, hp, hn, Bool.false_eq_true, if_false]
theorem walkGo_zero {x : Dev} {node va a e : Nat} (ha : node + 8 * levelIdx 0 va = a) (he : x.rdNum a 8 = e)
    (hc : (bit e 63 && bit e 62 && bits e 61 60 ≠ 3 && bits e 57 48 == 0 && bits e 15 0 == 0 && (stackOf (bits e 47 16 * 65536)).isSome) = true) :
    x.walkGo 0 node va = some ⟨a, e, 0⟩ := by
  simp only [Dev.walkGo, Dev.entryAt, ha, he, hc, if_true]
/-- The first page of context 1 is translated alike in every device that has those registers and that table. -/
theorem translate_near {x : Dev} {r : SMap W64} (hr : x.regs = (mapped r).regs) (hb : ∀ a < 0x2000000, x.rdByte a = (mapped r).rdByte a)
    {va : Nat} (hv : va < 65536) (wr : Bool) : x.translate 1 va wr = some (0x2000000 + va) := by
  have hn : ∀ a, a + 8 ≤ 0x2000000 → x.rdNum a 8 = (mapped []).rdNum a 8 := fun a ha => by
    rw [Dev.rdNum, rdBytes_near fun b _ h2 => hb b (by omega), Dev.rdNum]; rfl
  have h0 : x.rdNum 0x100000 8 = 2 ^ 63 + 0x101000 := by rw [hn _ (by omega)]; decide +kernel
  have h1 : x.rdNum 0x101000 8 = 2 ^ 63 + 0x102000 := by rw [hn _ (by omega)]; decide +kernel
  have h2 : x.rdNum 0x102000 8 = 2 ^ 63 + 0x103000 := by rw [hn _ (by omega)]; decide +kernel
  have h3 : x.rdNum 0x103000 8 = 0xD8 * 2 ^ 56 + 0x2000000 := by rw [hn _ (by omega)]; decide +kernel
  have hl : ∀ l ≤ 3, levelIdx l va = 0 := by
    intro l hl
    have : va >>> levelShift l = 0 := by
      rw [Nat.shiftRight_eq_div_pow]
      exact Nat.div_eq_of_lt (lt_of_lt_of_le hv (by interval_cases l <;> decide))
    rw [levelIdx, this]; split <;> rfl
  have hroot : x.rb (Reg.PTROOT 1) 63 = true ∧ x.ptRoot 1 = 0x100000 := by
    have h : ∀ o, x.rd o = (mapped r).rd o := fun o => by rw [Dev.rd, Dev.rd, hr]
    have hp : x.rd (Reg.PTROOT 1) = BitVec.ofNat 64 (2 ^ 63 + 0x100000) := by rw [h]; rfl
    exact ⟨by rw [Dev.rb, hp]; decide +kernel, by rw [Dev.ptRoot, Dev.rf, hp]; decide +kernel⟩
  have hw : x.walk 1 va = some ⟨0x103000, 0xD8 * 2 ^ 56 + 0x2000000, 0⟩ := by
    have at' (l node : Nat) (h : l ≤ 3) : node + 8 * levelIdx l va = node := by rw [hl l h]; rfl
    rw [Dev.walk, if_pos hroot.1, hroot.2,
      walkGo_succ (at' 3 _ (by omega)) h0 (by decide +kernel) (by decide +kernel) (next := 0x101000) (by decide +kernel),
      walkGo_succ (at' 2 _ (by omega)) h1 (by decide +kernel) (by decide +kernel) (next := 0x102000) (by decide +kernel),
      walkGo_succ (at' 1 _ (by omega)) h2 (by decide +kernel) (by decide +kernel) (next := 0x103000) (by decide +kernel)]
    exact walkGo_zero (at' 0 _ (by omega)) h3 (by decide +kernel)
  have hm : va % 2 ^ 16 = va := Nat.mod_eq_of_lt (by omega)
  have hb59 : bit (0xD8 * 2 ^ 56 + 0x2000000) 59 = true := by decide +kernel
  have hf : (⟨0x103000, 0xD8 * 2 ^ 56 + 0x2000000, 0⟩ : Leaf).frame = 0x200 := by decide +kernel
  have hg : (⟨0x103000, 0xD8 * 2 ^ 56 + 0x2000000, 0⟩ : Leaf).large = false := by decide +kernel
  rw [Dev.translate, hw]
  simp only [hb59, hf, hg, hm, Bool.not_true, Bool.and_false, Bool.false_eq_true, if_false]

theorem copies_rdByte (d : Dev) (c : List Copy) (a : Nat) : ({ d with copies := c } : Dev).rdByte a = d.rdByte a := rfl
theorem copies_regs (d : Dev) (c : List Copy) : ({ d with copies := c } : Dev).regs = d.regs := rfl
/-- A copy of two lines into the first page, where its table does not lie. -/
theorem test_witness_copy_of_lines :
    let k : Copy := { copy1 0 with units := 2 }
    let d : Dev := { mapped [up 0] with copies := [k] }
    let f (i : Nat) : Nat := 0x2000000 + 64 * i
    (d.running 0)[(0 : Fin 16).val]? = some k ∧ (∀ x ∈ d.copies, x.kind ≠ 2) ∧ d.fences = [] ∧ k.dst + 64 * k.units ≤ 2 ^ 48
    ∧ (∀ i < k.units, d.stackUp ((stackOf (f i)).getD 0) = true)
    ∧ (∀ i j', i < k.units → j' < k.units → i ≠ j' → f i + 64 ≤ f j' ∨ f j' + 64 ≤ f i)
    ∧ ∀ x : Dev, x.regs = d.regs → (∀ a, (∀ i < k.units, a < f i ∨ f i + 64 ≤ a) → x.rdByte a = d.rdByte a) →
      ∀ i < k.units, x.translate k.ctx (k.dst + 64 * i) true = some (f i) := by
  intro k d f
  refine ⟨by decide +kernel, by decide +kernel, rfl, by decide, by decide +kernel, fun i j _ _ h => by simp only [f]; omega, fun x hx hb i hi => ?_⟩
  have hi' : i < 2 := hi
  have hd : ∀ a, d.rdByte a = (mapped [up 0]).rdByte a := copies_rdByte _ _
  have h := translate_near (x := x) (r := [up 0]) (hx.trans (copies_regs _ _))
    (fun a ha => (hb a fun j _ => .inl (by simp only [f]; omega)).trans (hd a)) (va := 64 * i) (by omega) true
  rw [show k.dst + 64 * i = 64 * i from Nat.zero_add _]
  exact h

theorem test_witness_copy_within :
    let k : Copy := { copy1 3 with dst := 64 }
    let d : Dev := { mapped [up 0] with copies := [k] }
    (d.running 0)[(0 : Fin 16).val]? = some k ∧ (∀ x ∈ d.copies, x.kind ≠ 2) ∧ d.fences = [] ∧ k.src < 2 ^ 48 ∧ k.dst < 2 ^ 48
    ∧ d.translate k.ctx k.src false = some 0x2000000 ∧ d.translate k.ctx k.dst true = some 0x2000040 ∧ 0x2000040 % 64 = 0
    ∧ d.stackUp ((stackOf 0x2000000).getD 0) = true := by decide +kernel

theorem test_witness_CopiesMoveLines :
    (entryClean { cpy 0 1 with w5 := 1 } 4 = false ∧ (dv []).owns 0 1 = false ∧ 3 < fld (cpy 4 1).w3 34 32 ∧ fld (cpy 0 0).w3 29 0 = 0
      ∧ 2 ^ 24 < fld (cpy 0 (2 ^ 24 + 1)).w3 29 0)
    ∧ (∀ kind ∈ [0, 1], let d : Dev := { mapped [up 0] with copies := [copy1 kind] }
       (d.running 0)[(0 : Fin 16).val]? = some (copy1 kind) ∧ (∀ x ∈ d.copies, x.kind ≠ 2) ∧ d.fences = []
       ∧ (∀ wr ∈ [false, true], d.translate 1 0 wr = some 0x2000000) ∧ d.stackUp ((stackOf 0x2000000).getD 0) = true
       ∧ (d.lineAt 0x2000000).poison = false)
    ∧ (∀ kind ∈ [0, 1], let d : Dev := { dv [] with copies := [copy1 kind] }
       (d.running 0)[(0 : Fin 16).val]? = some (copy1 kind) ∧ d.translate 1 0 (kind == 0) = none)
    ∧ (∀ out ∈ [false, true], let d : Dev := { dv [] with copies := [copy1 2],
                                                           links := if out then [(3, { queue := [{ typ := 10, cls := 3, copy := some 0 }] })] else [] }
       (d.running 0)[(0 : Fin 16).val]? = some (copy1 2) ∧ (∀ x ∈ d.copies, x.kind = 2 → x.sent = true) ∧ d.fences = [] ∧ d.cellsOut 0 = out)
    ∧ ((dv []).running 0)[(0 : Fin 16).val]? = none
    ∧ (∀ busy ∈ [[], [2]], let d : Dev := { ctx1 3 [] (dv [(Reg.CWIN 2, BitVec.ofNat 64 (2 ^ 63 + 2 ^ 52))]) with cwinBusy := busy }
       d.owns 0 (fld (BitVec.ofNat 64 (2 ^ 52)) 57 52) = true ∧ d.rb (Reg.CWIN 2) 63 = true ∧ d.owns 0 (d.rf (Reg.CWIN 2) 57 52) = true
       ∧ d.cwinBusy.contains 2 = !busy.isEmpty)
    ∧ (let d := dv [(Reg.CWIN 2, BitVec.ofNat 64 (2 ^ 63 + 2 ^ 52))]
       d.owns 0 1 = false ∧ d.rb (Reg.CWIN 2) 63 = true ∧ d.owns 0 (d.rf (Reg.CWIN 2) 57 52) = false) := by decide +kernel

/-- Port 0's BAR2 window starts at an address; its registers were read so. -/
def win2 (a : Nat) (d : Dev) : Dev := { d with eff := [(Reg.P_WIN 0, BitVec.ofNat 64 a)] }

theorem test_witness_Bar2ReachesTheMap :
    (let d := win2 0 (dv [up 0])
     reach (d.bar2Addr 0 4096) = .tier 0 ∧ d.hostFenced 0 = false ∧ d.stackUp 0 = true ∧ (∀ x ∈ linesOf 4096 64, (d.lineAt x).poison = false)
     ∧ d.writeBarred 4096 = true ∧ (win2 0 (dv [])).stackUp 0 = false)
    ∧ (let d : Dev := win2 0 { dv [up 0] with lines := [(64, { poison := true })] }
       ∃ x ∈ linesOf 4096 64, (d.lineAt x).poison = true)
    ∧ (let d := win2 0 (dv [up 0, (Reg.RESV 0, BitVec.ofNat 64 (2 ^ 48 + 0x200000)), (Reg.VRV_BASE, BitVec.ofNat 64 (2 ^ 30))])
       let e := win2 0 (dv [up 0, (Reg.RESV 0, BitVec.ofNat 64 (2 ^ 48 + 0x4000000)), (Reg.VRV_BASE, BitVec.ofNat 64 (2 ^ 30))])
       d.hostFenced 0 = false ∧ d.stackUp 0 = true ∧ reach (e.bar2Addr 0 0x4000000) = .tier 0 ∧ e.writeBarred 0x4000000 = false)
    ∧ (let d : Dev := win2 0 { dv [up 0] with fences := [.device] }
       d.hostFenced 0 = true)
    ∧ reach ((win2 0x28000000000 (dv [])).bar2Addr 0 0) = .unmapped
    ∧ (let d := win2 0xC0000000000 (dv [])
       reach (d.bar2Addr 0 0) = .regs 0 ∧ d.recovery = false ∧ d.regValue 0 0 = d.rd 0)
    ∧ (∀ full ∈ [false, true], let d := win2 0x80000000000 (plus (tileDev {} { tags := if full then [(1024, true)] else [] }) [(Reg.READY0, 4)])
       reach (d.bar2Addr 0 (32 * 1024)) = .aperture 0 (32 * 1024) ∧ d.hostFenced 0 = false ∧ (d.tile 0).dead = false ∧ d.tileDark 0 = false
       ∧ (d.logOf 0).isSome = true ∧ d.winOfWord 0 1024 = some 0 ∧ d.winFenced 0 0 = false ∧ d.winRRemote 0 0 = true ∧ d.winTagged 0 0 = true
       ∧ (d.tile 0).poisoned 1024 = false ∧ d.winWRemote 0 0 = true ∧ (d.tile 0).full 1024 = full) := by decide +kernel

/-- While a switch of the tile saves. -/
theorem test_witness_bar2_held :
    let d := win2 0x80000000000 { plus (tileDev {}) [(Reg.READY0, 4)] with tiles := [(0, { mode := .switch 60 (.entry 0) })] }
    reach (d.bar2Addr 0 (32 * 1024)) = .aperture 0 (32 * 1024) ∧ d.hostFenced 0 = false ∧ (d.tile 0).dead = false ∧ d.tileDark 0 = false
    ∧ (d.logOf 0).isSome = true ∧ d.winOfWord 0 1024 = some 0 ∧ d.winFenced 0 0 = false ∧ d.winWRemote 0 0 = true ∧ (d.tile 0).full 1024 = false
    ∧ (d.tile 0).swBusy = true := by decide +kernel

theorem test_witness_PortsAreFencedAndResume :
    (let d : Dev := { boot := { secure := [(0, { ide := true })] } }
     (d.sec 0).ide = true ∧ ((dv []).sec 0).ide = false)
    ∧ (let d : Dev := { dv [(Reg.P_CTL 0, BitVec.ofNat 64 (2 ^ 62))] with l0 := 1 }
       d.served = true ∧ d.portFenced 0 = true ∧ d.inL0 0 = true ∧ (dv []).portFenced 0 = false) := by decide +kernel

/-- A launch of context 1 that has tile 0 left. -/
def run1 : Launch := { id := 7, ctx := 1, port := 0, tag := 9, left := [0] }

theorem test_witness_DomainsAreFencedAndReset :
    (let d : Dev := { ctx1 3 [(0, 0)] (dv [(Reg.tile 0 (Reg.CTXSTATE 0), 2)]) with launches := [run1] }
     d.served = true ∧ d.rb (Reg.RST_CMD 0) 63 = false ∧ d.owns 0 1 = true ∧ d.ctxIsCad 1 = false ∧ d.ctxTiles 1 ≠ [] ∧ d.ctxFencing 1 = false
     ∧ (0, 0) ∈ d.ctxTiles 1 ∧ d.slotState 0 0 ≠ 0 ∧ d.slotState 0 0 ≠ 6 ∧ d.ctxState 1 ≠ 0 ∧ d.outstanding 1 ≠ 0)
    ∧ (let d := ctx1 4 [(0, 0)] (dv [])
       d.owns 0 1 = true ∧ d.ctxIsCad 1 = false ∧ d.ctxTiles 1 ≠ [] ∧ d.ctxFencing 1 = true)
    ∧ (let d := ctx1 3 [] (dv []) true
       d.owns 0 1 = true ∧ d.ctxIsCad 1 = true ∧ d.ctxTiles 1 = [] ∧ d.ctxFencing 1 = false ∧ d.ctxState 1 ≠ 0 ∧ d.outstanding 1 = 0)
    ∧ (dv []).owns 0 1 = false
    ∧ (let d := dv [steward0]
       d.isSteward 0 = true ∧ d.rb (Reg.RST_CMD 0) 63 = false ∧ (d.tile 4).fenced = false ∧ d.tileOut 4 = 0
       ∧ d.fences.contains .device = false ∧ d.deviceOut = 0 ∧ d.isSteward 1 = false)
    ∧ (let d : Dev := { dv [steward0] with tiles := [(4, { cur := some ⟨0, 7⟩ })], launches := [run1] }
       (d.tile 4).fenced = false ∧ d.tileOut 4 ≠ 0 ∧ d.fences.contains .device = false ∧ d.deviceOut ≠ 0)
    ∧ (let d : Dev := { dv [steward0] with tiles := [(4, { fenced := true })], fences := [.device, .tile 4, .context 1] }
       (d.tile 4).fenced = true ∧ d.fences.contains .device = true ∧ d.fences.contains (.tile (4 : TileId)) = true
       ∧ d.fences.contains (.context (1 : CtxId)) = true) := by decide +kernel

theorem test_witness_LivenessRestoresAndLog :
    (∀ n ∈ [0, 1], let d : Dev := { dv [(Reg.READY0, 4)] with tiles := [(4, { missed := n })] }
      d.ready (readyField (physField 4)) = true ∧ d.aliveTile 4 = true ∧ (d.tile 4).missed = n ∧ d.restores = [])
    ∧ (let x : Restore := ⟨3, 2, 1, true, false⟩
       let d : Dev := { restores := [x] }
       d.restores = [x] ∧ x.done = false ∧ x.field < 16 ∧ x.row < 8 ∧ x.col < 13 ∧ (∀ i ∈ rowFrom x.field x.row x.col, (d.tile i).inGroup = false))
    ∧ (let d := dv [steward0, (Reg.RESV 0, BitVec.ofNat 64 (2 * 2 ^ 48))]
       d.isSteward 0 = true ∧ d.vrvOn = false ∧ d.inResv d.vrvBase = true ∧ d.inResv (d.vrvBase + 2 ^ 22 - 1) = true)
    ∧ ((dv []).isSteward 0 = false ∧ (dv []).inResv (dv []).vrvBase = false) := by decide +kernel

theorem test_witness_RegisterAccessesAct :
    (let d := dv []
     8 * (BitVec.ofNat 24 (Reg.CLK_BEAT / 8)).toNat = Reg.CLK_BEAT ∧ d.regValue 0 Reg.CLK_BEAT = d.rd Reg.CLK_BEAT
     ∧ (d.readEnds Reg.CLK_BEAT).regs = d.regs ∧ d.recovery = false ∧ d.killed = false ∧ (0x0F : BitVec 8) ≠ 0xFF)
    ∧ (∀ o ∈ [Reg.EST, Reg.CAP, Reg.EVENT, Reg.COST 3, 0x200FF8, Reg.tile 4 Reg.VEC_STATE], 8 * (BitVec.ofNat 24 (o / 8)).toNat = o)
    ∧ (let r : RegDef := { base := 0x0400, count := 64, rw := mk 63 59 + mk 39 0, guard := .steward }
       Reg.COST 3 / 0x100000 = 2 ∧ regRow (Reg.COST 3) = some r ∧ (dv [steward0]).mayWrite 0 (Reg.COST 3) r = true
       ∧ (dv []).mayWrite 0 (Reg.COST 3) r = false)
    ∧ 0x200FF8 / 0x100000 = 2 ∧ regRow 0x200FF8 = none
    ∧ (({ msixPend := 4 } : Dev).msixPend.getLsbD (4 * 0 + 2) = true ∧ (dv []).msixPend.getLsbD (4 * 0 + 2) = false)
    ∧ (({ l0 := 1 } : Dev).inL0 0 = true ∧ (dv []).inL0 0 = false)
    ∧ (({ subsys := 0x12345678 } : Dev).subsys ≠ 0 ∧ (dv []).subsys = 0) := by decide +kernel

/-- Stage 1 has ended on a powered device; the I3C target has an address. -/
def i3cDev (sel : Nat) : Dev :=
  { dv [(Reg.BOOT_STATUS, BitVec.ofNat 64 (2 * 2 ^ 56))] with powered := true, i3cAddr := some 9, i3cSel := sel, ibiPend := some 5 }

theorem test_witness_SidebandsAnswer :
    (∀ n ∈ [0, 1, 2], let d : Dev := { boot := { secure := [(0, { session := n })] } }
      (d.sec 0).session = n)
    ∧ (dv []).i3cUp = false
    ∧ (let d : Dev := { i3cDev 0 with i3cAddr := none }
       d.i3cUp = true ∧ d.i3cAddr = none)
    ∧ (∀ o ∈ [Reg.PWR_STATUS, Reg.EVENT], (i3cDev o).i3cUp = true ∧ (i3cDev o).i3cAddr ≠ none ∧ (i3cDev o).i3cSel = o)
    ∧ ((i3cDev 0).ibiPend = some 5 ∧ (dv []).ibiPend = none) := by decide +kernel

/-! ## Witnesses: bring-up and firn -/

/-- Bring-up has reached a stage of a powered device. -/
def stageDev (n : Nat) (r : SMap W64 := []) : Dev := { dv ((Reg.BOOT_STATUS, BitVec.ofNat 64 (n * 2 ^ 56)) :: r) with powered := true }

theorem test_witness_PowerAndFirstStages :
    ((dv []).powered = false ∧ (stageDev 1).powered = true ∧ (stageDev 1).stage = 1 ∧ (stageDev 2).stage = 2)
    ∧ ((stageDev 3).stage = 3 ∧ (stageDev 3).ready 1 = false ∧ (stageDev 5 [(Reg.READY0, 2)]).ready 1 = true)
    ∧ (∀ f ∈ [0, 1], let d : Dev := { stageDev 5 [(Reg.READY0, 2), (Reg.P_CTL 0, BitVec.ofNat 64 (f * 2 ^ 62))] with boot := { perstOff := 1 } }
       d.ready 1 = true ∧ d.boot.perstOff.getLsbD 0 = true ∧ d.portFenced 0 = (f == 1))
    ∧ (dv []).boot.perstOff.getLsbD 0 = false
    -- no module, one of half its width, and three of all of it
    ∧ (Modules.rate ⟨(0 : BitVec 4).setWidth 8, (0 : BitVec 4).setWidth 8⟩ = 0
      ∧ Modules.rate ⟨(0 : BitVec 4).setWidth 8, (1 : BitVec 4).setWidth 8⟩ = 32
      ∧ Modules.rate ⟨(7 : BitVec 4).setWidth 8, (0 : BitVec 4).setWidth 8⟩ = 192)
    ∧ (dv []).killed = false := by decide +kernel

/-- The bring-up script has ended with success, with these firn words. -/
def waveDev (firn : SMap (BitVec 32)) (r : SMap W64) : Dev := { dv r with firn := firn, boot := { scriptOk := true } }

theorem test_witness_WavesImagesAndTraining :
    (∀ st ∈ [0, 4], let d := waveDev [] [field 0 st 0 0]
      fieldX 0 + fieldY 0 = 0 ∧ d.boot.scriptOk = true ∧ d.fieldState 0 = st ∧ d.failedBit (readyField 0) = false ∧ isEdgeField 0 = true ∧ d.shortMark 0 = false ∧ d.phasesGone 0 = false)
    ∧ ((waveDev [(0x45C, 1)] [field 0 0 0 0]).shortMark 0 = true ∧ (waveDev [] [field 0 0 13 0]).phasesGone 0 = true)
    ∧ (let d := waveDev [] [field 5 0 0 0]
       fieldX 5 + fieldY 5 = 2 ∧ d.fieldState 5 = 0 ∧ ¬ (isEdgeField 5 = true ∨ ∃ g ∈ nextFields 5, d.ready (readyField g) = true))
    ∧ (dv []).boot.scriptOk = false
    ∧ (let d := waveDev [] [(Reg.BOOT_STATUS, BitVec.ofNat 64 (6 * 2 ^ 56)), (Reg.READY0 + 0x10, 4)]
       (∀ f < 16, fieldX f + fieldY f = 0 → d.failedBit (readyField f) = true) ∧ d.stage = 6)
    ∧ (∀ n ∈ [2, 3], let img : List Byte := List.replicate 24 0 ++ [2, 0, 0, 0]
       let d : Dev := { dv [field 3 2 0 0, (Reg.tile 312 Reg.TLOAD, BitVec.ofNat 64 (n * 2 ^ 10))] with boot := { bundle := img } }
       d.fieldState 3 = 2 ∧ d.ready (readyField 3) = false ∧ img ≠ [] ∧ imageCount img = 2 ∧ 312 ∈ d.incomplete 3
       ∧ d.trf 312 Reg.TLOAD 11 10 = n)
    ∧ (({ trainWait := [3] } : Dev).trainWait ≠ [] ∧ (dv []).trainWait = [])
    ∧ (let d : Dev := { dv [(Reg.BOOT_STATUS, BitVec.ofNat 64 (8 * 2 ^ 56)), (Reg.READY0 + 0x10, 0xFFFFFFFFFFFFFFFF)] with
                          boot := { scriptOk := true }, firn := [(0x80, 0x80000009), (0x81, 4)] }
       d.stage < 9 ∧ d.boot.scriptOk = true ∧ (∀ k < 36, stackState d k ≠ 4 ∨ d.failedBit (readyStack k) = true)
       ∧ bit (d.firnView 0x80) 31 = true ∧ bit (d.firnView 0x81) 2 = true ∧ bit (d.firnView 0x81) 3 = false ∧ d.linkState 3 = 0
       ∧ d.rb (Reg.L_CTL 3) 63 = true ∧ d.laserOff.contains 3 = false)
    ∧ (stackState (dv []) 0 = 4 ∧ (dv []).failedBit (readyStack 0) = false) := by decide +kernel

/-- A push by port 0 of which nothing has come. -/
def push0 : Push := { port := 0, store := true }

theorem test_witness_BundlesArePushedAndStored :
    ({ firn := [(0, 4)] } : Dev).lockBit 2 = true
    ∧ (let d : Dev := { boot := { push := some push0 } }
       d.lockBit 2 = false ∧ d.boot.push ≠ none ∧ ¬ (d.recovery = true ∨ d.isSteward 0 = true))
    ∧ ((dv [steward0]).lockBit 2 = false ∧ (dv [steward0]).boot.push = none ∧ (dv [steward0]).isSteward 0 = true)
    ∧ (dv [(Reg.BOOT_STATUS, BitVec.ofNat 64 (2 ^ 63))]).recovery = true
    ∧ (push0.port = 0 ∧ push0.storing = false ∧ push0.bytes.length < 2 ^ 22)
    ∧ ({ push0 with storing := true } : Push).storing = true := by decide +kernel

/-- A debug script whose only command is END. -/
def endScript : List Byte := [0x41, 0x51, 0x54, 0x53, 1, 0, 1, 0, 1, 0, 0, 0] ++ List.replicate 196 0
/-- A bundle whose only component is that script as a bring-up script. -/
def oneBundle : List Byte :=
  List.replicate 12 0 ++ 1 :: List.replicate 115 0 ++ [2] ++ List.replicate 8 0 ++ [1] ++ List.replicate 6 0 ++ [208] ++ List.replicate 111 0
    ++ ([0x41, 0x51, 0x54, 0x53, 1, 0, 0, 0, 1, 0, 0, 0] ++ List.replicate 196 0)
/-- A script that runs, at its only command. -/
def scr (debug : Bool) (op : Nat) (a v : Nat) (wait : ScriptWait := .none) : Script :=
  { cmds := [(BitVec.ofNat 64 (op * 2 ^ 56 + a), BitVec.ofNat 64 v)], debug := debug, port := 0, wait := wait }
def scrDev (x : Script) (r : SMap W64 := []) : Dev := { dv r with boot := { script := some x } }
/-- The conditions of AtCommand. -/
def atCmd (d : Dev) (x : Script) (op : Nat) (c : W64 × W64) (off : Nat) : Bool :=
  d.boot.script == some x && x.cmds[x.idx]? == some c && cmdOp c == op && x.wait != .delay && (!x.debug || d.isSteward x.port)
    && off == cmdAddr c - 0xC0000000000
theorem atCmd_sound {d : Dev} {x : Script} {op : Nat} {c : W64 × W64} {off : Nat} (h : atCmd d x op c off = true) : d.AtCommand x op c off := by
  simp only [atCmd, Bool.and_eq_true, beq_iff_eq, bne_iff_ne, Bool.or_eq_true, Bool.not_eq_true'] at h
  obtain ⟨⟨⟨⟨⟨h1, h2⟩, h3⟩, h4⟩, h5⟩, h6⟩ := h
  exact ⟨h1, h2, h3, h4, fun hd => h5.resolve_left (by simp [hd]), h6⟩

theorem test_witness_ScriptsRun :
    (let d : Dev := { stageDev 5 with boot := { bundle := oneBundle } }
     5 ≤ d.stage ∧ d.boot.bundle ≠ [] ∧ d.boot.scriptRan = false ∧ d.boot.script = none
     ∧ scriptForm (component d.boot.bundle 2) false = true ∧ cmdsOk false (scriptCmds (component d.boot.bundle 2)) = true)
    ∧ (let d : Dev := { stageDev 5 with boot := { bundle := [0] } }
       d.boot.bundle ≠ [] ∧ scriptForm (component d.boot.bundle 2) false = false)
    ∧ ((dv [steward0]).isSteward 0 = true ∧ (dv [steward0]).served = true ∧ (dv [steward0]).boot.script = none)
    ∧ (scriptForm endScript true = true ∧ scriptForm [] true = false ∧ cmdsOk true (scriptCmds endScript) = true
      ∧ (dv [(Reg.DEV_ID, BitVec.ofNat 64 (2 ^ 32))]).rf Reg.DEV_ID 39 32 = 1 ∧ (dv []).rf Reg.DEV_ID 39 32 ≠ 1)
    ∧ (∀ op ∈ [0, 2, 4, 5, 6, 7, 8], ∀ dbg ∈ [false, true], let x := scr dbg op (0xC0000000000 + Reg.COST 3) 0
       atCmd (scrDev x [steward0]) x op (BitVec.ofNat 64 (op * 2 ^ 56 + (0xC0000000000 + Reg.COST 3)), 0) (Reg.COST 3) = true)
    ∧ (∀ op ∈ [1, 3], let x := scr true op (0xC0000000000 + Reg.COST 3) 7
       (scrDev x [steward0]).recovery = false ∧ (regRow (Reg.COST 3)).isSome = true
       ∧ atCmd (scrDev x [steward0]) x op (BitVec.ofNat 64 (op * 2 ^ 56 + (0xC0000000000 + Reg.COST 3)), 7) (Reg.COST 3) = true)
    ∧ (∀ v ∈ [0, 1], let x := scr true 4 (0xC0000000000 + Reg.COST 3) v
       (decide ((scrDev x [steward0]).regValue 0 (Reg.COST 3) &&& x.mask = BitVec.ofNat 64 v &&& x.mask)) = (v == 0))
    ∧ (let x := scr true 2 0 0
       (scrDev x).boot.script = some x ∧ x.wait ≠ .delay ∧ (scrDev x).isSteward x.port = false)
    ∧ (∀ w ∈ [ScriptWait.poll, .delay], (scr false 4 0 0 w).wait = w)
    ∧ (∀ n ∈ [0, 2], let d : Dev := { boot := { restarts := n } }
       d.boot.restarts = n) := by decide +kernel

/-- A debug script on a device that holds no owner key does not verify. -/
theorem test_witness_debug_script_refused : (dv [steward0]).debugOk endScript = false := by
  have h : (dv [steward0]).lockBit 1 = false := by decide +kernel
  simp [Dev.debugOk, h]

theorem test_witness_FirnIsWritten :
    (let d := dv [steward0, (Reg.FIRN_DATA, 4)]
     (d.isSteward 0 = true ∧ d.rb Reg.FIRN_CMD 63 = false) ∧ firnGranted 0x80 = true ∧ firnGranted 0x7F = false
     ∧ (∀ k ∈ [0x80, 0, 1, 0x45C], (d.firnWorn k && !firnOrdinary k) = false) ∧ (∀ k < 0x30, (d.firnWorn k && !firnOrdinary k) = false)
     ∧ d.rn Reg.FIRN_DATA < 16 ∧ d.rn Reg.FIRN_DATA % 4 = 0 ∧ d.rf Reg.BOOT_STATUS 31 0 < d.rn Reg.FIRN_DATA)
    ∧ (let d : Dev := { dv [steward0] with wear := [(0x20, 1000000)] }
       firnGranted 0x20 = true ∧ (d.firnWorn 0x20 && !firnOrdinary 0x20) = true)
    ∧ (dv [(Reg.FIRN_DATA, 16)]).rn Reg.FIRN_DATA = 16
    ∧ (let d := dv [(Reg.FIRN_DATA, 4), (Reg.BOOT_STATUS, 5)]
       d.firnView 1 ≤ d.rn Reg.FIRN_DATA ∧ d.rn Reg.FIRN_DATA ≤ d.rf Reg.BOOT_STATUS 31 0)
    ∧ (dv [(Reg.FIRN_CMD, BitVec.ofNat 64 (2 ^ 63))]).rb Reg.FIRN_CMD 63 = true
    ∧ (∀ h ∈ [false, true], let o : FirnOp := ⟨[(0x80, 5), (0x45, 1)], h⟩
       (o.words.map (·.1)).Nodup ∧ (dv []).firnQ = []) := by decide +kernel

/-! ## Witnesses: frames, votes, plans -/

/-- Frame 5 runs; the group is enabled. -/
abbrev grp : Nat × W64 := (Reg.GRP, BitVec.ofNat 64 (2 ^ 63))
/-- A frame of 1,000 µs with a gap of 400, an intake of 100 and a cutoff of 10. -/
def cfg0 : Nat := 1000 + 400 * 2 ^ 14 + 100 * 2 ^ 28 + 10 * 2 ^ 42
/-- Frame n runs, with more registers and a device otherwise at reset. -/
def fr (n : Nat) (r : SMap W64 := []) : Dev := dv (frames n :: r)
/-- Cadence context 1 is loaded on logical tile 0, whose list runs slot 0. -/
def cadDev (r : SMap W64) : Dev := ctx1 3 [(0, 0)] (dv r) true

theorem test_witness_FramesRunInOrder :
    (∀ b ∈ [false, true], let d : Dev := { fr 5 [grp] with ended := b }
      d.framesRun = true ∧ d.ended = b ∧ d.rb Reg.GRP 63 = true ∧ d.streamPend = [] ∧ (∀ r ∈ d.restores, r.done = false) ∧ d.switchAt = none)
    ∧ ((fr 5).rb Reg.GRP 63 = false)
    ∧ (let d : Dev := { fr 5 [grp] with switchAt := some (6, 7), ended := true }
       d.switchAt = some (d.frame + 1, 7))
    ∧ (let d : Dev := { cadDev [frames 5, grp] with ended := true }
       d.episode = none ∧ d.rb Reg.RECOV_CTL 63 = true ∧ 1 ∈ d.groupCtxs ∧ (0, 0) ∈ d.ctxTiles 1 ∧ (d.tile 0).fenced = false)
    ∧ (cadDev [(Reg.RECOV_CTL, 0)]).isolates = false
    ∧ (let d : Dev := { dv [grp, (Reg.FRAME_CFG, BitVec.ofNat 64 cfg0)] with joining := true }
       d.framesRun = false ∧ d.joining = true ∧ d.rb Reg.GRP 63 = true ∧ 40 ≤ d.rf Reg.FRAME_CFG 13 0
       ∧ d.rn Reg.FRAME_EPOCH ≤ (0 : BitVec 64).toNat ∧ d.streamPend = [] ∧ d.switchAt = none)
    ∧ ((dv []).framesRun = false ∧ (dv []).joining = false) := by decide +kernel

theorem test_witness_frame_entry :
    let d : Dev := { dv [(Reg.tile 4 (Reg.CS 0), BitVec.ofNat 64 (2 ^ 63)), (Reg.tile 4 (Reg.CTXSTATE 0), 1)] with
                       tiles := [(4, { mode := .entry 16, list := BitVec.ofNat 64 (2 ^ 61) }), (7, { mode := .entry 16 })] }
    smWf regReset d.regs = true ∧ smWf tileReset d.tiles = true ∧ (∀ x ∈ d.tiles, x.1 < 1664) ∧ (d.tile 4).mode = .entry 16
    ∧ listCount (d.tile 4).list ≠ 0 ∧ d.slotRuns 4 (listSlot (d.tile 4).list 0) = true ∧ (d.tile 7).mode = .entry 16
    ∧ listCount (d.tile 7).list = 0 := by decide +kernel

theorem test_witness_port_records :
    (∀ f ∈ [0, 1], let d := dv [(Reg.P_CTL 0, BitVec.ofNat 64 (f * 2 ^ 62)), (Reg.P_REC 0, 0x1000), (Reg.P_CTRL 0, 0x2004)]
      d.framesRun = false ∧ d.portFenced 0 = (f == 1) ∧ d.wrote.getLsbD 0 = false ∧ d.rd (Reg.P_REC 0) ≠ 0
      ∧ fld (d.rd (Reg.P_CTRL 0)) 3 0 = 4 ∧ d.rn (Reg.P_CTRL_DONE 0) = 0)
    ∧ (dv []).cqRoom 0 = false
    ∧ (let r : Rec := ⟨0, [1, 2, 3, 4, 5, 6, 7]⟩
       let d : Dev := { dv [] with backlog := [r], eff := [(Reg.P_CQ 0, 0x3008)] }
       d.portFenced 0 = false ∧ d.backlog.find? (·.port == 0) = some r ∧ d.cqRoom 0 = true)
    ∧ (∃ k < 24, (fr 5 [(Reg.INPUT 3, BitVec.ofNat 64 (2 * 2 ^ 32 + 1))]).rf (Reg.INPUT k) 31 0
        < (fr 5 [(Reg.INPUT 3, BitVec.ofNat 64 (2 * 2 ^ 32 + 1))]).rf (Reg.INPUT k) 63 32)
    ∧ (∀ k < 24, (fr 5).rf (Reg.INPUT k) 63 32 ≤ (fr 5).rf (Reg.INPUT k) 31 0)
    ∧ (let d : Dev := { tiles := [(4, { mode := .running, cur := some ⟨0, 7⟩ })], stalled := [(4, (3, 0))] }
       d.framesRun = false ∧ d.canonical = true ∧ (d.tile 4).mode = .running ∧ (d.tile 4).cur.isSome = true
       ∧ (smGet noStall d.stalled 4).2 = (d.trd 4 Reg.ISSUE).toNat) := by decide +kernel

/-- Plan 6 waits for the header of tile 0 in frame 5. -/
def hdrDev (full : Bool) : Dev :=
  { regs := frames 5 :: tileRegs, tiles := [(0, { tags := if full then [(1024, true)] else [], mode := .running, cur := some ⟨0, 1⟩ })],
    planRun := some { id := 6 }, hdrPend := [0] }

theorem test_witness_plan_headers :
    ∀ full ∈ [false, true], let d := hdrDev full
      d.planRun = some { id := 6 } ∧ d.framesRun = true ∧ d.ended = false ∧ d.hdrPend = [0] ∧ d.hdrPend.Nodup ∧ d.planWin = 0
      ∧ (d.tile 0).fenced = false ∧ (d.tile 0).swBusy = false ∧ d.winValid 0 0 = true ∧ (d.tile 0).full (d.winBase 0 0) = full
      ∧ (d.tile 0).full (d.winBase 0 0 + 1) = false ∧ (d.tile 0).netCount < 2 ∧ (d.tile 0).netBanks.getLsbD (d.winBase 0 0 % 64) = false
      ∧ (d.tile 0).netBanks.getLsbD ((d.winBase 0 0 + 1) % 64) = false := by decide +kernel

/-- Frame 5 ends with an outcome, these causes of failure, a tree, and a completion ring of 256 records for port 0. -/
def cpDev (o : Option Bool) (cs : BitVec 16) (r : SMap W64) : Dev :=
  { regs := frames 5 :: grp :: r, outcome := o, causes := cs, eff := [(Reg.P_CQ 0, 0x3008)] }

theorem test_witness_CommitPointAppliesTheOutcome :
    (∀ o ∈ [some true, some false, none], (cpDev o 0 []).framesRun = true ∧ (cpDev o 0 []).ended = false
      ∧ (cpDev o 0 []).rb Reg.GRP 63 = true ∧ (cpDev o 0 []).awaited = none ∧ (cpDev o 0 []).outcome = o
      ∧ ∀ k ∈ (cpDev o 0 []).children, k ∈ (cpDev o 0 []).outAcks)
    ∧ ¬ ∀ k ∈ (cpDev (some true) 0 [(Reg.VOTE_TREE, BitVec.ofNat 64 (31 * 2 ^ 32 + 8))]).children, k ∈ ([] : List Nat) := by decide +kernel
theorem test_witness_commit_void :
    (cpDev (some false) 0 []).causes = 0 ∧ (cpDev (some false) 0x30 []).causes.getLsbD 4 = true
    ∧ (∀ j < 4, (cpDev (some false) 0x30 []).causes.getLsbD j = false) ∧ (cpDev (some false) 0x30 []).portFenced 0 = false
    ∧ (∀ r ∈ (cpDev (some false) 0x30 []).backlog, r.port ≠ 0) ∧ (cpDev (some false) 0x30 []).cqRoom 0 = true := by decide +kernel
theorem test_witness_pending_outcome :
    (let d : Dev := { lk 4 [id9, frames 5, grp] with outcome := none }
     d.scheduled 3 = true ∧ d.canSend 3 0 = true)
    ∧ (∀ l ∈ [none, some true, some false], let d : Dev := { fr 5 [grp] with awaited := some 4, learnt := l, awaitedFor := 64 }
       d.framesRun = true ∧ d.ended = false ∧ d.rb Reg.GRP 63 = true ∧ d.awaited = some 4 ∧ d.learnt = l ∧ 64 ≤ d.awaitedFor)
    ∧ (let d : Dev := { fr 5 [grp] with awaited := some 4, awaitedFor := 64, ended := true }
       d.awaited ≠ none ∧ d.learnt = none ∧ 64 ≤ d.awaitedFor ∧ d.ended = true) := by
  decide +kernel

/-- VOTE_TREE with child 3, and parent link 5 unless this device is the root. -/
abbrev tree (root : Bool) : Nat × W64 := (Reg.VOTE_TREE, BitVec.ofNat 64 ((if root then 31 else 5) * 2 ^ 32 + 8))
/-- Links 3 and 5 are up. -/
abbrev twoUp : SMap W64 := [(Reg.L_STATUS 3, BitVec.ofNat 64 (4 * 2 ^ 61)), (Reg.L_STATUS 5, BitVec.ofNat 64 (4 * 2 ^ 61)), id9]
/-- An undamaged cell of a type is taken from a link. -/
def takes (d : Dev) (k : Nat) (typ : Nat) : Bool := d.accepts k typ 0 && h0.bad.isNone && h0.seq.toNat == (d.lnk k).rxNext
theorem takes_sound {d : Dev} {k typ : Nat} (h : takes d k typ = true) : d.CellTaken k h0 typ 0 := by
  simp only [takes, Bool.and_eq_true, beq_iff_eq, Option.isNone_iff_eq_none] at h
  exact ⟨h.1.1, h.1.2, h.2⟩

theorem test_witness_VotesFormTheOutcome :
    (let d := dv (frames 5 :: tree true :: twoUp)
     d.framesRun = true ∧ d.ended = false ∧ d.voted = false ∧ d.sentUp = false ∧ d.outcome = none ∧ d.parentLink = none ∧ d.children = [3]
     ∧ takes d 3 6 = true ∧ takes d 4 6 = false ∧ (∀ v ∈ d.childVotes, v.link ≠ 3) ∧ (5 : BitVec 48).toNat = d.frame)
    ∧ (let d := dv (frames 5 :: (Reg.VOTE_TREE, BitVec.ofNat 64 (5 * 2 ^ 32)) :: twoUp)
       d.children = [] ∧ d.parentLink = some 5 ∧ d.canSend 5 0 = true ∧ 3 ∉ d.children)
    ∧ (∀ own ∈ [none, some true, some false], let d : Dev := { dv (frames 5 :: tree true :: twoUp) with voted := true, own := own }
       d.framesRun = true ∧ d.ended = false ∧ d.voted = true ∧ d.own = own)
    ∧ (let d := dv (frames 5 :: tree false :: twoUp)
       takes d 5 7 = true ∧ takes d 3 7 = true ∧ d.parentLink = some 5 ∧ d.parentLink ≠ some 3 ∧ d.outcome = none ∧ 3 ∈ d.children ∧ d.linkUp 3 = true
       ∧ d.canSend 3 0 = true)
    ∧ (let d : Dev := { dv (tree false :: twoUp) with awaited := some 4 }
       takes d 5 7 = true ∧ ¬ (d.framesRun = true ∧ d.ended = false) ∧ d.awaited = some 4 ∧ d.learnt = none ∧ takes d 3 9 = true)
    ∧ (let d : Dev := { dv twoUp with outcomes := [(4, true)] }
       takes d 3 8 = true ∧ (d.atCell 3 h0 0).canSend 3 0 = true ∧ d.outcomes.find? (·.1 == 4) = some (4, true) ∧ (∀ x ∈ d.outcomes, x.1 ≠ 5)) := by
  decide +kernel

theorem test_witness_GroupRegistersAndPlans :
    ((dv [steward0]).isSteward 0 = true ∧ (dv []).isSteward 0 = false ∧ (dv []).streamPend = [])
    ∧ (∀ n ∈ [0, 5], let d := dv (steward0 :: (Reg.FRAME_NEXT, BitVec.ofNat 64 cfg0) :: (Reg.FRAME_EPOCH, BitVec.ofNat 64 (10 ^ 10))
          :: (Reg.FRAME_CFG, BitVec.ofNat 64 cfg0) :: (Reg.FRAME_BASE, 5) :: if n = 0 then [] else [frames n])
       let v := d.rd Reg.FRAME_NEXT
       d.isSteward 0 = true ∧ d.framesRun = (n == 5)
       ∧ (40 ≤ fld v 13 0 ∧ fld v 13 0 ≤ 10000 ∧ 10 ≤ fld v 27 14 ∧ 3 * fld v 13 0 ≤ 100 * fld v 27 14 ∧ fld v 27 14 ≤ fld v 13 0
         ∧ 2 ≤ fld v 55 42 ∧ fld v 55 42 ≤ fld v 27 14 ∧ fld v 41 28 + fld v 27 14 ≤ fld v 13 0)
       ∧ ((0 : BitVec 64).toNat : Int) + 2000000 ≤ d.frameT 6 ∧ d.frame < 6)
    ∧ ¬ (40 ≤ fld ((dv []).rd Reg.FRAME_NEXT) 13 0 ∧ fld ((dv []).rd Reg.FRAME_NEXT) 55 42 ≥ 2)
    ∧ (let d := ctx1 3 [] (dv [])
       d.served = true ∧ d.rb (Reg.SCH_CTL 2) 63 = false ∧ d.ctxPort (fld (BitVec.ofNat 64 (2 ^ 63 + 2 ^ 48)) 53 48) = some 0
       ∧ tst (BitVec.ofNat 64 (2 ^ 63 + 2 ^ 48)) 63 = true)
    ∧ (let d := ctx1 3 [] (dv [(Reg.SCH_CTL 2, BitVec.ofNat 64 (2 ^ 63 + 2 ^ 48))])
       d.rb (Reg.SCH_CTL 2) 63 = true ∧ d.ctxState (d.rf (Reg.SCH_CTL 2) 53 48) ≠ 0 ∧ d.ctxPort (d.rf (Reg.SCH_CTL 2) 53 48) ≠ some 1)
    ∧ (let d := dv [steward0, tb 3]
       d.isSteward 0 = true ∧ d.tbState = 3 ∧ d.framesRun = false ∧ (dv [steward0]).tbState ≠ 3)
    ∧ (∀ b ∈ [0, 1], (dv [(Reg.TB_CTL, BitVec.ofNat 64 (b * 256))]).rb Reg.TB_CTL 8 = (b == 1))
    ∧ (∀ b ∈ [0, 1], (dv [(Reg.TB_SET, BitVec.ofNat 64 (b * 2 ^ 63))]).rb Reg.TB_SET 63 = (b == 1))
    -- an edge of a locked reference aligns the time of the master
    ∧ ((after (.ppsEdge true) (dv [tb 3, (Reg.TB_CTL, 0x100)])).tbState = 3 ∧ (dv [tb 3, (Reg.TB_CTL, 0x100)]).rb Reg.TB_CTL 8 = true
      ∧ (dv [tb 3, (Reg.TB_CTL, 0x100)]).rb Reg.TB_SET 63 = false) := by decide +kernel

theorem test_witness_plans :
    (∀ role ∈ [0, 1, 2], ∀ on ∈ [0, 1], let d := dv (frames 5 :: tree false :: (Reg.INT_CTL, BitVec.ofNat 64 (on * 2 ^ 63 + role * 2 ^ 61)) :: twoUp)
      d.framesRun = true ∧ d.ended = false ∧ d.awaited = none ∧ tst (d.rd Reg.INT_CTL) 63 = (on == 1) ∧ fld (d.rd Reg.INT_CTL) 62 61 = role
      ∧ d.parentLink = some 5 ∧ d.canSend 5 0 = true)
    ∧ ({ fr 5 with awaited := some 4 } : Dev).awaited ≠ none
    ∧ (∀ v ∈ [0, 1], let d := fr 5 [(Reg.VAR_CFG 0, BitVec.ofNat 64 (v * 2 ^ 63))]
       (((d.latch intRegs).checkHeaders).variants.find? fun _ => true) = if v = 1 then some 0 else none)
    ∧ (∀ n ∈ [1, 2], let d : Dev := { fr 5 with groupSize := n }
       ((d.latch intRegs).checkHeaders).figuresIn = (n == 1))
    ∧ (∀ w ∈ [false, true], let d : Dev := { fr 5 with planWait := w }
       d.planWait = w ∧ d.ended = false)
    ∧ (∀ role ∈ [0, 1, 2], let d := dv (frames 5 :: tree false :: (Reg.INT_CTL, BitVec.ofNat 64 (role * 2 ^ 61)) :: twoUp)
       let e : Dev := { d with eff := [(Reg.INT_CTL, BitVec.ofNat 64 (role * 2 ^ 61))] }
       takes e 3 12 = true ∧ takes e 5 11 = true ∧ e.intRole = role ∧ e.parentLink = some 5 ∧ e.canSend 5 0 = true ∧ e.canSend 3 0 = true
       ∧ 3 ∈ e.children ∧ e.parentLink ≠ some 3 ∧ e.intOn = false ∧ (6 : BitVec 48).toNat = e.frame + 1)
    ∧ (let e : Dev := { dv (frames 5 :: tree false :: twoUp) with eff := [(Reg.INT_CTL, BitVec.ofNat 64 (2 ^ 63 + 2 * 2 ^ 61))], planRun := some { id := 5, built := false } }
       takes e 5 11 = true ∧ e.intRole = 2 ∧ e.intOn = true ∧ e.framesRun = true ∧ e.lacksPlan 5 = true ∧ e.parentLink = some 5) := by decide +kernel

/-! ## Witnesses: the whole machine -/

/-- The premises of the invariant's step hold at reset: the first command runs on a device that meets it. -/
theorem test_witness_StepKeepsInvariant : (match Machine.step { State.reset with pending := [.powerGood] } with
    | .next s => s.dev.canonical
    | _ => false) = true ∧ State.reset.dev.canonical = true := by decide +kernel

/-! ## Commands no sender can give -/

/-- A list of n zero bytes. -/
def zeros (n : Nat) : List Byte := List.replicate n 0

theorem test_witness_SelkuSlotsDecode : (8 : BitVec 4).toNat ≤ 8 := by decide

theorem test_wf_payload : WellFormed.wf (.data 3 h0 { data0 1 9 with payload := zeros 255 }) = false
    ∧ WellFormed.wf (.void 3 h0 (data0 1 9)) = false ∧ WellFormed.wf (.data 3 h0 { data0 1 9 with payload := zeros 256 }) = true := by
  decide +kernel
theorem test_wf_lane : WellFormed.wf (.lane 3 h0 2 2) = false ∧ WellFormed.wf (.lane 3 h0 2 16) = true := by decide +kernel
theorem test_wf_event : WellFormed.wf (.integrityEvent 0 (some { ev 0 with kind := 11 })) = false
    ∧ WellFormed.wf (.integrityEvent 0 (some (ev 0))) = true := by decide +kernel
theorem test_wf_kernels : WellFormed.wf (.pkgRun 0 3 [{ slot := 0, kernel := 0, tile := 311, cap := none }]) = false
    ∧ WellFormed.wf (.pkgRun 0 3 [{ slot := 0, kernel := 0, tile := 312, cap := none }]) = true := by decide +kernel
theorem test_wf_estimator : WellFormed.wf (.estimatorWindowEnd 1 0 0 (List.replicate 15 0) []) = false
    ∧ WellFormed.wf (.estimatorWindowEnd 0 0 0 (List.replicate 16 0) []) = false
    ∧ WellFormed.wf (.estimatorWindowEnd 1 0 0 (List.replicate 16 0) []) = true := by decide +kernel
theorem test_wf_ring : WellFormed.wf (.frameStart 0 { ring := [zeros 127] } {}) = false
    ∧ WellFormed.wf (.frameStart 0 { ring := [zeros 128] } {}) = true := by decide +kernel
theorem test_wf_plan : WellFormed.wf (.plan 3 h0 0 4 []) = false ∧ WellFormed.wf (.plan 3 h0 0 0 (zeros 241)) = false
    ∧ WellFormed.wf (.plan 3 h0 0 240 (zeros 240)) = true := by decide +kernel
theorem test_wf_sensors : WellFormed.wf (.sensorRead (zeros 128) (zeros 36) (zeros 23)) = false
    ∧ WellFormed.wf (.sensorRead (zeros 128) (zeros 36) (zeros 24)) = true := by decide +kernel
theorem test_wf_flash : WellFormed.flashOk (List.replicate (2 ^ 22 + 1) 0) = false ∧ WellFormed.wf (.firstStageDone [] []) = true := by
  constructor
  · simp only [WellFormed.flashOk, List.length_replicate]; decide +kernel
  · decide +kernel
theorem test_wf_blocks : WellFormed.wf (.imageBroadcast 3 [(0, 1)]) = false ∧ WellFormed.wf (.imageRepairRound 3 [(416, 1)]) = false
    ∧ WellFormed.wf (.imageBroadcast 3 [(415, 1)]) = true := by decide +kernel
theorem test_wf_desc : WellFormed.wf (.load 0 ent [0] []) = false ∧ WellFormed.wf (.load 0 { ent with w2 := 1 } [0] []) = true := by
  decide +kernel
theorem test_wf_copy : WellFormed.wf (.copyEnd 0 0 (zeros 63) false []) = false ∧ WellFormed.wf (.copyEnd 0 0 (zeros 64) false []) = true := by
  decide +kernel
theorem test_wf_bar2 : WellFormed.wf (.bar2Read 0 0 0 []) = false ∧ WellFormed.wf (.bar2Read 0 4095 2 []) = false
    ∧ WellFormed.wf (.bar2Write 0 4095 [1, 2] []) = false ∧ WellFormed.wf (.bar2Write 0 4095 [1] []) = true := by decide +kernel
theorem test_wf_i3c : WellFormed.wf (.i3cPrivateWrite []) = false ∧ WellFormed.wf (.i3cPrivateWrite [1]) = true := by decide +kernel

/-! ## The manual's own examples -/

/-- 06: bundles 8 and 9 of the FP8 product, LOOP 32 and ENDL 1 with CMAC acc3, ag0, ag1. -/
theorem test_bundle_loop : decBundle (0x0800001F00000000 <<< 192 : Word256) = some ⟨.loop (.imm 31), 0, .nop, .nop, .nop, .nop⟩ := by
  decide +kernel
theorem test_bundle_cmac : decBundle (0x008000000B040000 <<< 192 : Word256) = some ⟨.nop, 1, .mac false 3 0 1, .nop, .nop, .nop⟩ := by
  decide +kernel
/-- R187: an unassigned opcode is refused. -/
theorem test_bundle_illegal : decBundle (0xF800000000000000 <<< 192 : Word256) = none := by decide +kernel
/-- 06: the descriptor of ag1: window 2, stride 16, count 32. -/
theorem test_descriptor : let g : AddrGen := { desc := 0x007C0010000A0000 }
    agWindowed g = true ∧ agWin g = 2 ∧ agStride g 0 = 16 ∧ agCount g 0 = 32 ∧ agCount g 1 = 1 := by decide +kernel
/-- 03: the FP8 codes and their integer forms, and the closing sums of columns 0 and 1. -/
theorem test_fp8_codes : ([0x3C, 0xC0, 0x28, 0x44, 0x40, 0x30, 0xC8, 0x38, 0x00, 0xB0] : List Nat).map (mxDec 4) =
    ([768, -1024, 128, 1536, 1024, 256, -2048, 512, 0, -256] : List Int).map MxVal.int := by decide +kernel
theorem test_fp8_close : closeVal 4 4 0x7C 0x80 1048576 0 0 0x4B800000 = 0x4B800000
    ∧ closeVal 4 4 0x7C 0x80 (-524288) 0 0 0x3E800000 = 0xBE800000 := by decide +kernel
/-- 04: the learning rates of the schedule at its steps. -/
theorem test_learning_rate :
    let d : Dev := { eff := [(Reg.SCH_CTL 0, BitVec.ofNat 64 (2 ^ 63 + 2 * 2 ^ 32)), (Reg.SCH_RATE 0, 0x3A80000038800000),
      (Reg.SCH_LEN 0, BitVec.ofNat 64 (1024 * 2 ^ 32 + 4096))] }
    ([0, 511, 1024, 5120, 13312] : List Nat).map (d.lrAt 0) = ([0x35800000, 0x3A000000, 0x3A800000, 0x3A800000, 0x3A800000] : List W32) := by
  decide +kernel
theorem test_learning_rate_half :
    lrOf 0x3A800000 0x38800000 1024 4096 2 3072 = 0x3A080000 ∧ lrOf 0x3A800000 0x38800000 1024 4096 2 9216 = 0x3A080000 := by decide +kernel
/-- 01 and 11: logical tile 1,000 is F10, row 3, served by physical tile 1,083 of floe 41; 17: tile 379 serves logical tile 350. -/
theorem test_tiles : (dv []).physOf 1000 = some 1083 ∧ physFloe 1083 = 41 ∧ fieldX 10 = 2 ∧ fieldY 10 = 2 ∧ (dv []).logOf 379 = some 350 := by
  decide +kernel
/-- 01: H5 and L15 in the physical map. -/
theorem test_map : stackBase 5 = 0x00A000000000 ∧ stackBase 35 = 0x05E000000000 ∧ stackOf 0x00BFFFFFFFFF = some 5 := by decide +kernel
/-- 07: D(3) = 3 and D(24) = 4, and the hops of the SEND from tile 89 to tile 125. -/
theorem test_distances : tileDist 0 3 = 3 ∧ tileDist 0 24 = 4 ∧ neighbour 89 1 = some (101, 8) ∧ neighbour 101 1 = some (113, 1)
    ∧ neighbour 113 1 = some (125, 3) := by decide +kernel
/-- 10: the walk of a page of context 5, its leaf, and the pseudo-channel of its first granule. -/
theorem test_page : ([3, 2, 1, 0] : List Nat).map (levelIdx · 0x701234500000) = [224, 72, 418, 16]
    ∧ leafVal 0xA01234 0 true false false = 0xC80000A012340000 ∧ (lineLoc 0xA012340000).toNat % 32 = 20 := by decide +kernel
/-- 13: the limits of a field with 5, 8 and 12 phases retired. -/
theorem test_derating : limitOf 5 = 752 ∧ limitOf 8 = 633 ∧ limitOf 12 = 475 := by decide +kernel
/-- 00: a write of 4 to ITG.STATUS holding 5 leaves 1. -/
theorem test_write_one_to_clear :
    (after (.registerWrite 0 (BitVec.ofNat 24 (Reg.ITG_STATUS / 8)) 0xFF 4) (dv [steward0, (Reg.ITG_STATUS, 5)])).rd Reg.ITG_STATUS = 1 := by
  decide +kernel
/-- R109: the check values the CRCs are known by, of the bytes of "123456789" (CRC-64/XZ, CRC-32C; log entry 7). -/
theorem test_crc : crc64 [49, 50, 51, 52, 53, 54, 55, 56, 57] = 0x995DC9BBDF1939FA
    ∧ crc32c [49, 50, 51, 52, 53, 54, 55, 56, 57] = 0xE3069283 := by decide +kernel
/-- R129: Philox of a zero key and counter (the published answer; log entry 7). -/
theorem test_philox : philox 0 0 0 0 0 0 = (0x6627E8D5, 0xE169C58D, 0xBC57AC4C, 0x9B00DBD8) := by decide +kernel
/-- R461: a claim of a ready port takes the lease. -/
theorem test_claim : (after (.claim 1) (dv [(Reg.READY1, BitVec.ofNat 64 (2 ^ (readyPort 1 - 64)))])).isSteward 1 = true := by decide +kernel
/-- An empty queue passes a beat of the die once its mesh runs. -/
theorem test_idle : (match Machine.step (at' (dv [(Reg.READY0, 2)])) with
    | .next s => s.dev.rd Reg.CLK_BEAT
    | _ => 0) = 1 := by decide +kernel

end Sys2Proof.Tests
end

section
/-! PROOFS. The invariant of every step: at reset, and kept by every meaning because each answers through the seal (R18, log entry 86). -/

namespace Sys2Proof.Machine

/-! ## Reset -/

/-- At reset no register shows a bit that no field of it holds: reset values lie within the bits a register has. -/
theorem reset_reservedZero : State.reset.dev.reservedZero := by
  intro off
  have hr : State.reset.dev.rd off = regReset off &&& regImpl off := (regReset_and_impl off).symm
  rw [hr, BitVec.and_assoc, BitVec.and_not_self]
  simp

/-- Settles O3: nothing is listed at reset, so the maps are canonical, and every register reads its reset value. -/
theorem resetMeetsInvariant : Obligations.ResetMeetsInvariant := ⟨rfl, reset_reservedZero⟩

/-! ## Every answer is sealed -/

/-- Every command's meaning answers through `State.ok`: no constructor of `Instr` has an arm that leaves the seal out. -/
theorem exec_eq_ok (i : Instr) (s : State) : ∃ d : Dev, exec i s = s.ok d := by
  cases i <;> exact ⟨_, rfl⟩

/-- A step leaves a sealed device, whether it carries out a command or passes a beat of the idle block. -/
theorem step_sealed (s : State) : ∃ (q : List Instr) (d : Dev), step s = .next ⟨q, d.seal⟩ := by
  unfold step
  split
  · exact ⟨_, _, rfl⟩
  · next i r _ =>
    obtain ⟨d, h⟩ := exec_eq_ok i { s with pending := r }
    exact ⟨_, d, h⟩

/-- Settles O4: the device of every next state is sealed, and a sealed device meets the invariant. -/
theorem stepKeepsInvariant : Obligations.StepKeepsInvariant := by
  intro s t _ hstep
  obtain ⟨q, d, h⟩ := step_sealed s
  cases h.symm.trans hstep
  exact State.ok_inv s d

end Sys2Proof.Machine
end

section
/-! PROOFS. Register accesses of a port and the port's own functions (R17 to R20, R46, R414, R457, R475, R484). -/

namespace Sys2Proof.Machine

/-! ## What a read returns and ends -/

/-- A read changes at most one register, in which it clears one field. -/
theorem Dev.readEnds_cases (d : Dev) (off : Nat) : d.readEnds off = d ∨ ∃ hi lo, d.readEnds off = d.wf off hi lo 0 := by
  unfold Dev.readEnds
  split
  · exact .inl rfl
  split
  · exact .inr ⟨_, _, rfl⟩
  split
  · exact .inr ⟨_, _, rfl⟩
  split
  · exact .inr ⟨_, _, rfl⟩
  · exact .inl rfl

@[simp] theorem Dev.readEnds_out (d : Dev) (off : Nat) : (d.readEnds off).out = d.out := by
  rcases d.readEnds_cases off with h | ⟨hi, lo, h⟩ <;> rw [h]; rfl
@[simp] theorem Dev.readEnds_rdByte (d : Dev) (off a : Nat) : (d.readEnds off).rdByte a = d.rdByte a := by
  rcases d.readEnds_cases off with h | ⟨hi, lo, h⟩ <;> rw [h]; rfl
@[simp] theorem Dev.readEnds_tile (d : Dev) (off t : Nat) : (d.readEnds off).tile t = d.tile t := by
  rcases d.readEnds_cases off with h | ⟨hi, lo, h⟩ <;> rw [h]; rfl

/-- Outside recovery every offset is served (R489). -/
theorem Dev.offServed_of_not_recovery {d : Dev} (h : d.recovery = false) (off : Nat) : d.offServed off = true := by
  simp [Dev.offServed, h]

theorem idxOf_eq_none_of_ge {base stride n off : Nat} (h : n * stride + base ≤ off) (hs : 0 < stride) : idxOf base stride n off = none := by
  have hn : ¬ (off - base) / stride < n := by
    rw [Nat.div_lt_iff_lt_mul hs]; omega
  simp [idxOf, hn]

/-- The registers of the TILE blocks count from no readiness. -/
theorem countsFromReady_tile (t off : Nat) : countsFromReady (Reg.tile t off) = false := by
  have hge : 0x1000000 ≤ Reg.tile t off := by unfold Reg.tile; omega
  simp only [countsFromReady, Reg.VOID_COUNT, Reg.P_WINCOUNT, Reg.P_LOST, Bool.or_eq_false_iff, Bool.and_eq_false_iff,
    beq_eq_false_iff_ne, decide_eq_false_iff_not]
  omega

/-- A register of a TILE block reads as what the tile holds, or as written. -/
theorem Dev.regValue_tile {d : Dev} (h : d.recovery = false) (p t off : Nat) :
    d.regValue p (Reg.tile t off) = (d.tileValue (Reg.tile t off)).getD (d.rd (Reg.tile t off)) := by
  have hlow {o : Nat} (ho : o < 0x1000000) : Reg.tile t off ≠ o := Reg.tile_ne_low t off ho
  have hge : 0x1000000 ≤ Reg.tile t off := by unfold Reg.tile; omega
  unfold Dev.regValue
  rw [idxOf_eq_none_of_ge (by omega) (by decide), idxOf_eq_none_of_ge (by omega) (by decide)]
  simp [Dev.offServed_of_not_recovery h, countsFromReady_tile, hlow (o := Reg.CAP) (by decide),
    hlow (o := Reg.ETAB_DATA) (by decide), hlow (o := Reg.POOLUSE) (by decide), hlow (o := Reg.RTAB_DATA) (by decide)]

theorem Dev.tileValue_vecState (d : Dev) {t : Nat} (ht : t < 1664) :
    d.tileValue (Reg.tile t Reg.VEC_STATE) = some (d.vecState t) := by
  have hoff : Reg.tile t Reg.VEC_STATE % 0x1000 = Reg.VEC_STATE := by unfold Reg.tile Reg.VEC_STATE; omega
  have hidx : (Reg.tile t Reg.VEC_STATE - 0x1000000) / 0x1000 = t := by unfold Reg.tile Reg.VEC_STATE; omega
  have hin : ¬ (decide (Reg.tile t Reg.VEC_STATE < 0x1000000) || decide (0x1000000 + 1664 * 0x1000 ≤ Reg.tile t Reg.VEC_STATE)) = true := by
    rw [Bool.or_eq_true, decide_eq_true_eq, decide_eq_true_eq]; unfold Reg.tile Reg.VEC_STATE; omega
  unfold Dev.tileValue
  rw [if_neg hin, hoff, hidx, if_neg (by decide), if_pos rfl]

theorem Dev.readEnds_of_tile (d : Dev) (t off : Nat) : d.readEnds (Reg.tile t off) = d := by
  have hge : 0x1000000 ≤ Reg.tile t off := by unfold Reg.tile; omega
  unfold Dev.readEnds
  rw [idxOf_eq_none_of_ge (by unfold Reg.FIELD; omega) (by decide), if_neg (Reg.tile_ne_low t off (by decide)),
    if_neg (Reg.tile_ne_low t off (by decide))]
  split <;> rfl

/-- PWR.EST reads as it stands (R414). -/
theorem Dev.regValue_est {d : Dev} (h : d.recovery = false) (p : Nat) : d.regValue p Reg.EST = d.rd Reg.EST := by
  have ht : d.tileValue Reg.EST = none := rfl
  have hc : countsFromReady Reg.EST = false := by decide
  have hw : idxOf 0x810000 8 16384 Reg.EST = none := by decide
  have hx : idxOf 0x840000 8 16384 Reg.EST = none := by decide
  have hne : Reg.EST ≠ Reg.CAP ∧ Reg.EST ≠ Reg.ETAB_DATA ∧ Reg.EST ≠ Reg.POOLUSE ∧ Reg.EST ≠ Reg.RTAB_DATA := by decide
  simp [Dev.regValue, Dev.offServed_of_not_recovery h, hc, ht, hw, hx, hne]

/-- A read of PWR.EST ends its peak since the last read (R414). -/
theorem Dev.readEnds_est {d : Dev} (h : d.recovery = false) : d.readEnds Reg.EST = d.wf Reg.EST 47 32 0 := by
  simp [Dev.readEnds, Dev.offServed_of_not_recovery h]

/-- DEV.CAP shows the reader's port, in recovery as well (R457, R489). -/
theorem Dev.regValue_cap (d : Dev) (p : Nat) : d.regValue p Reg.CAP = put (d.rd Reg.CAP) 48 48 p := by
  simp [Dev.regValue, Dev.offServed]

/-! ## Recording an access of another width -/

/-- The count of a class's events is none of the registers that placing an entry changes. -/
theorem Reg.vrv_ev_ne (c c' : Nat) :
    VRV_EV c ≠ VRV_DROP c' ∧ VRV_EV c ≠ VRV_STATUS ∧ VRV_EV c ≠ VRV_WR := by
  simp only [VRV_EV, VRV_DROP, VRV_STATUS, VRV_WR]; omega

theorem Dev.toRing_rd_ev (d : Dev) (e : VEntry) (c : Nat) : (d.toRing e).1.rd (Reg.VRV_EV c) = d.rd (Reg.VRV_EV c) := by
  obtain ⟨hdrop, hstatus, hwr⟩ := Reg.vrv_ev_ne c e.cls
  unfold Dev.toRing
  dsimp only
  generalize (if e.sev = 0 then 61440 else 65536) = room
  split
  · rw [Dev.rd_wf_ne _ _ _ _ hstatus]; exact Dev.rd_add_ne _ _ hdrop
  · rw [Dev.vrvLine_rd]; exact Dev.rd_add_ne _ _ hwr

/-- Refusing or displacing an entry of the early buffer counts it in DROP and sets a bit of STATUS. -/
theorem Dev.toEarly_rd_ev (d : Dev) (e : VEntry) (c : Nat) : (d.toEarly e).1.rd (Reg.VRV_EV c) = d.rd (Reg.VRV_EV c) := by
  have hrefuse (d : Dev) (k : Nat) : ((d.inc (Reg.VRV_DROP k)).wf Reg.VRV_STATUS 2 2 1).rd (Reg.VRV_EV c) = d.rd (Reg.VRV_EV c) := by
    obtain ⟨hdrop, hstatus, -⟩ := Reg.vrv_ev_ne c k
    rw [Dev.rd_wf_ne _ _ _ _ hstatus]; exact Dev.rd_add_ne _ _ hdrop
  unfold Dev.toEarly
  dsimp only
  split
  · rfl
  · split
    · exact hrefuse d _
    · exact hrefuse d _
    · exact hrefuse _ _

/-- An event recorded while memory access goes on is counted once in its class (R534). -/
theorem Dev.varveLog_rd_ev (d : Dev) (cls sev kind idx : Nat) (who : Who) (a b : W64) (h : d.killed = false) :
    (d.varveLog cls sev kind idx who a b).rd (Reg.VRV_EV cls) = d.rd (Reg.VRV_EV cls) + 1 := by
  have hev : (d.inc (Reg.VRV_EV cls)).rd (Reg.VRV_EV cls) = d.rd (Reg.VRV_EV cls) + 1 := Dev.rd_add_same ..
  unfold Dev.varveLog
  dsimp only
  rw [if_neg (by simp [h])]
  split
  · split
    · simpa using hev
    · exact hev
  · split
    · rw [← hev]; exact Dev.rd_add_ne _ _ (Reg.vrv_ev_ne cls cls).1
    · generalize hd : ({ d.inc (Reg.VRV_EV cls) with varve := _ } : Dev) = d1
      have h1 : d1.rd (Reg.VRV_EV cls) = d.rd (Reg.VRV_EV cls) + 1 := by rw [← hd]; exact hev
      have h2 (e : VEntry) : (if d1.vrvOn then d1.toRing e else d1.toEarly e).1.rd (Reg.VRV_EV cls) = d.rd (Reg.VRV_EV cls) + 1 := by
        split
        · rw [Dev.toRing_rd_ev, h1]
        · rw [Dev.toEarly_rd_ev, h1]
      generalize hq : (if d1.vrvOn then d1.toRing _ else d1.toEarly _) = q
      have h3 : q.1.rd (Reg.VRV_EV cls) = d.rd (Reg.VRV_EV cls) + 1 := by rw [← hq]; exact h2 _
      repeat' split
      all_goals simp [h3]

theorem regImpl_vrv_ev15 : regImpl (Reg.VRV_EV 15) = BitVec.allOnes 64 := by decide

/-- What an access of another width or alignment leaves (R17): the log's registers and memory aside nothing changes, and the
access is counted while memory access goes on. -/
theorem Dev.widthError_recorded (d : Dev) (p off be : Nat) :
    RegsLog [] d (d.widthError p off be).seal ∧ SameTiles d (d.widthError p off be).seal
      ∧ (d.killed = false → (d.widthError p off be).seal.rd (Reg.VRV_EV 15) = d.rd (Reg.VRV_EV 15) + 1) := by
  refine ⟨fun o _ ho => ?_, .seal fun t => Dev.varveLog_tile .., fun hk => ?_⟩
  · rw [Dev.seal_rd]
    exact congrArg (· &&& regImpl o) (Dev.varveLog_rd _ _ _ _ _ _ _ _ ho)
  · rw [Dev.seal_rd_all _ _ regImpl_vrv_ev15]
    exact Dev.varveLog_rd_ev _ _ _ _ _ _ _ _ hk

/-! ## Register reads -/

/-- An aligned read of 64 bits completes with the register's value, and ends what the read ends. -/
theorem Completes.registerRead {p : Port} {w : BitVec 24} {s : State} {P : Dev → Prop}
    (h : P ((s.dev.readEnds (8 * w.toNat)).emit (.readData p (s.dev.regValue p (8 * w.toNat)))).seal) :
    Completes (.registerRead p w 0xFF) s P := .of _ rfl h

theorem registerRead_plain (p : Port) (w : BitVec 24) (s : State) (h : (s.dev.readEnds (8 * w.toNat)).regs = s.dev.regs) :
    Completes (.registerRead p w 0xFF) s fun e =>
      e.out = s.dev.out ++ [.readData p (s.dev.regValue p (8 * w.toNat))] ∧ RegsBut [] s.dev e ∧ SameBytes s.dev e ∧ SameTiles s.dev e := by
  have hrd (o : Nat) : (s.dev.readEnds (8 * w.toNat)).rd o = s.dev.rd o := by unfold Dev.rd; rw [h]
  exact .registerRead ⟨congrArg (· ++ _) (Dev.readEnds_out ..), .seal fun o _ => hrd o, .seal fun a => Dev.readEnds_rdByte ..,
    .seal fun t => Dev.readEnds_tile ..⟩

theorem registerRead_vecState (p : Port) (w : BitVec 24) (s : State) (t : TileId) (hr : s.dev.recovery = false)
    (ho : 8 * w.toNat = Reg.tile t Reg.VEC_STATE) :
    Completes (.registerRead p w 0xFF) s fun e =>
      e.out = s.dev.out ++ [.readData p (w64 ((s.dev.tile t).rotB * 2 ^ 8 + (s.dev.tile t).rotA))] ∧ RegsBut [] s.dev e := by
  apply Completes.registerRead
  rw [ho, Dev.regValue_tile hr, Dev.tileValue_vecState _ t.isLt, Dev.readEnds_of_tile]
  exact ⟨rfl, .seal fun _ _ => rfl⟩

theorem registerRead_est (p : Port) (w : BitVec 24) (s : State) (ho : 8 * w.toNat = Reg.EST) (hr : s.dev.recovery = false) :
    Completes (.registerRead p w 0xFF) s fun e => e.out = s.dev.out ++ [.readData p (s.dev.rd Reg.EST)] ∧ e.rf Reg.EST 47 32 = 0
      ∧ e.rf Reg.EST 15 0 = s.dev.rf Reg.EST 15 0 ∧ RegsBut [Reg.EST] s.dev e := by
  apply Completes.registerRead
  rw [ho, Dev.regValue_est hr, Dev.readEnds_est hr]
  refine ⟨rfl, ?_, ?_, .seal fun o h => Dev.rd_wf_ne _ _ _ _ (by simpa using h)⟩
  · rw [Dev.seal_rf _ _ _ _ (by decide) (by decide) (by decide)]
    exact Dev.rf_wf_same _ _ _ _ _ (by decide) (by decide)
  · rw [Dev.seal_rf _ _ _ _ (by decide) (by decide) (by decide)]
    unfold Dev.rf
    rw [Dev.emit_rd, Dev.rd_wf_same, fld_put_other _ _ _ _ _ _ (by decide) (by decide) (by decide)]

theorem registerRead_cap (p : Port) (w : BitVec 24) (s : State) (ho : 8 * w.toNat = Reg.CAP) :
    Completes (.registerRead p w 0xFF) s fun e => e.out = s.dev.out ++ [.readData p (put (s.dev.rd Reg.CAP) 48 48 p)] := by
  apply Completes.registerRead
  rw [ho, Dev.regValue_cap]
  exact congrArg (· ++ _) (Dev.readEnds_out ..)

theorem registerRead_width (p : Port) (w : BitVec 24) (be : BitVec 8) (s : State) (hb : be ≠ 0xFF) :
    Completes (.registerRead p w be) s fun e => .readBytes p (List.replicate (findAll 8 be.getLsbD).length 0xFF) ∈ e.out
      ∧ RegsLog [] s.dev e ∧ SameTiles s.dev e ∧ (s.dev.killed = false → e.rd (Reg.VRV_EV 15) = s.dev.rd (Reg.VRV_EV 15) + 1) :=
  .of ((s.dev.widthError p (8 * w.toNat) be.toNat).emit (.readBytes p (ones (findAll 8 be.getLsbD).length)))
    (congrArg s.ok (if_neg hb)) ⟨List.mem_append_right _ (List.mem_singleton_self _), s.dev.widthError_recorded ..⟩

/-! ## Register writes -/

theorem registerWrite_width (p : Port) (w : BitVec 24) (be : BitVec 8) (v : BitVec 64) (s : State) (hb : be ≠ 0xFF) :
    Completes (.registerWrite p w be v) s fun e =>
      RegsLog [] s.dev e ∧ SameTiles s.dev e ∧ (s.dev.killed = false → e.rd (Reg.VRV_EV 15) = s.dev.rd (Reg.VRV_EV 15) + 1) :=
  .of (s.dev.widthError p (8 * w.toNat) be.toNat) (congrArg s.ok (if_neg hb)) (s.dev.widthError_recorded ..)

/-- An aligned write of 64 bits completes with what the write of its register does. -/
theorem Completes.registerWrite {p : Port} {w : BitVec 24} {v : BitVec 64} {s : State} {P : Dev → Prop}
    (h : P (s.dev.regWrite p (8 * w.toNat) v).seal) : Completes (.registerWrite p w 0xFF v) s P := .of _ rfl h

/-- A register of the INT block has no effect beside its own fields. -/
theorem Dev.regWrite_int {d : Dev} (hr : d.recovery = false) (p : Nat) {off : Nat} (ho : off / 0x100000 = 2) (v : W64) :
    d.regWrite p off v = d.plainWrite p off v := by
  have ht : d.writeTile off v = none := by
    have hlow : off < 0x1000000 := by omega
    simp [Dev.writeTile, hlow]
  unfold Dev.regWrite
  simp [Dev.offServed_of_not_recovery hr, ho, ht]

theorem Dev.plainWrite_of_row {d : Dev} {p off : Nat} {r : RegDef} (h : regRow off = some r) (v : W64) :
    d.plainWrite p off v = if d.mayWrite p off r then d.plainFields off r v else d := by
  simp [Dev.plainWrite, Dev.idleWrite, h]
theorem Dev.plainWrite_of_no_row {d : Dev} {p off : Nat} (h : regRow off = none) (v : W64) : d.plainWrite p off v = d := by
  simp [Dev.plainWrite, Dev.idleWrite, h]

/-- A device that is only sealed has changed nothing. -/
theorem OnlyRegs.refl (offs : List Nat) (d : Dev) : OnlyRegs offs d d.seal := .seal (fun _ _ => rfl) rfl rfl rfl

theorem registerWrite_int_allowed (p : Port) (w : BitVec 24) (v : BitVec 64) (s : State) (r : RegDef) (hr : s.dev.recovery = false)
    (hi : 8 * w.toNat / 0x100000 = 2) (hrow : regRow (8 * w.toNat) = some r) (hm : s.dev.mayWrite p (8 * w.toNat) r = true) :
    Completes (.registerWrite p w 0xFF v) s fun e =>
      e.rd (8 * w.toNat) = (((s.dev.rd (8 * w.toNat) &&& ~~~(w64 r.rw)) ||| (v &&& w64 r.rw)) &&& ~~~(v &&& w64 r.w1c)) &&& regImpl (8 * w.toNat)
        ∧ OnlyRegs [8 * w.toNat] s.dev e := by
  apply Completes.registerWrite
  rw [Dev.regWrite_int hr _ hi, Dev.plainWrite_of_row hrow, if_pos hm]
  exact ⟨by rw [Dev.seal_rd, Dev.plainFields, Dev.rd_wr_same], .wr _ _ (List.mem_singleton_self _)⟩

theorem registerWrite_int_refused (p : Port) (w : BitVec 24) (v : BitVec 64) (s : State) (r : RegDef) (hr : s.dev.recovery = false)
    (hi : 8 * w.toNat / 0x100000 = 2) (hrow : regRow (8 * w.toNat) = some r) (hm : s.dev.mayWrite p (8 * w.toNat) r = false) :
    Completes (.registerWrite p w 0xFF v) s fun e => OnlyRegs [] s.dev e := by
  apply Completes.registerWrite
  rw [Dev.regWrite_int hr _ hi, Dev.plainWrite_of_row hrow, if_neg (by simp [hm])]
  exact .refl ..

theorem registerWrite_int_no_row (p : Port) (w : BitVec 24) (v : BitVec 64) (s : State) (hr : s.dev.recovery = false)
    (hi : 8 * w.toNat / 0x100000 = 2) (hrow : regRow (8 * w.toNat) = none) :
    Completes (.registerWrite p w 0xFF v) s fun e => OnlyRegs [] s.dev e := by
  apply Completes.registerWrite
  rw [Dev.regWrite_int hr _ hi, Dev.plainWrite_of_no_row hrow]
  exact .refl ..

/-- DEV.EVENT after a write: its bits are cleared by a 1 from either port (log entry 80), its masks are the steward's (R476). -/
def Dev.eventWritten (d : Dev) (p : Nat) (v : W64) : W64 :=
  let cleared := d.rd Reg.EVENT &&& ~~~(v &&& maskOf 6 0)
  if d.isSteward p then put cleared 38 32 (fld v 38 32) else cleared

theorem Dev.regWrite_event {d : Dev} (hr : d.recovery = false) (p : Nat) (v : W64) :
    d.regWrite p Reg.EVENT v = d.wr Reg.EVENT (d.rd Reg.EVENT &&& ~~~(v &&& maskOf 6 0)) ∧ d.isSteward p = false
      ∨ d.regWrite p Reg.EVENT v = (d.wr Reg.EVENT (d.rd Reg.EVENT &&& ~~~(v &&& maskOf 6 0))).wf Reg.EVENT 38 32 (fld v 38 32)
        ∧ d.isSteward p = true := by
  have hs : (d.wr Reg.EVENT (d.rd Reg.EVENT &&& ~~~(v &&& maskOf 6 0))).isSteward p = d.isSteward p := by
    simp only [Dev.isSteward, Dev.rb, Dev.rf, Dev.rd_wr_ne _ _ (show Reg.STEWARD ≠ Reg.EVENT by decide)]
  have hw : d.regWrite p Reg.EVENT v = (d.writeDev p Reg.EVENT v).getD (d.plainWrite p Reg.EVENT v) := by
    unfold Dev.regWrite
    rw [Dev.offServed_of_not_recovery hr]
    rfl
  rw [hw]
  unfold Dev.writeDev
  rw [if_neg (by decide), if_pos rfl]
  dsimp only [Option.getD_some]
  rw [hs]
  cases d.isSteward p
  · exact .inl ⟨rfl, rfl⟩
  · exact .inr ⟨rfl, rfl⟩

/-- A write of DEV.EVENT changes that register alone, as `Dev.eventWritten` gives it. -/
theorem Dev.regWrite_event_only {d : Dev} (hr : d.recovery = false) (p : Nat) (v : W64) :
    (d.regWrite p Reg.EVENT v).rd Reg.EVENT = d.eventWritten p v ∧ OnlyRegs [Reg.EVENT] d (d.regWrite p Reg.EVENT v).seal := by
  unfold Dev.eventWritten
  rcases Dev.regWrite_event hr p v with ⟨h, hs⟩ | ⟨h, hs⟩ <;> rw [h, hs]
  · exact ⟨Dev.rd_wr_same .., .wr _ _ (List.mem_singleton_self _)⟩
  · refine ⟨by rw [Dev.rd_wf_same, Dev.rd_wr_same]; rfl, .seal (fun o ho => ?_) rfl rfl rfl⟩
    have ho : o ≠ Reg.EVENT := by simpa using ho
    rw [Dev.rd_wf_ne _ _ _ _ ho, Dev.rd_wr_ne _ _ ho]

theorem Dev.getLsbD_eventWritten (d : Dev) (p : Nat) (v : W64) {i : Nat} (hi : i < 7) :
    (d.eventWritten p v).getLsbD i = (d.rb Reg.EVENT i && !v.getLsbD i) := by
  have hc : (d.rd Reg.EVENT &&& ~~~(v &&& maskOf 6 0)).getLsbD i = (d.rb Reg.EVENT i && !v.getLsbD i) := by
    have hin : (maskOf 6 0).getLsbD i = true := by
      rw [getLsbD_maskOf _ _ _ (by decide) (by decide)]; simp [show i ≤ 6 by omega]
    rw [BitVec.getLsbD_and, BitVec.getLsbD_not, BitVec.getLsbD_and, hin, Bool.and_true]
    simp [Dev.rb, tst, show i < 64 by omega]
  unfold Dev.eventWritten
  dsimp only
  split
  · rw [getLsbD_put _ _ _ _ _ (by decide) (by decide), if_neg (by omega), hc]
  · exact hc

theorem Dev.fld_eventWritten (d : Dev) (p : Nat) (v : W64) :
    fld (d.eventWritten p v) 38 32 = if d.isSteward p then fld v 38 32 else d.rf Reg.EVENT 38 32 := by
  unfold Dev.eventWritten
  dsimp only
  split
  · rw [fld_put_same _ _ _ _ (by decide) (by decide)]
    exact Nat.mod_eq_of_lt (fld_lt v 38 32)
  · apply fld_congr
    intro i hlo hhi
    have hout : (maskOf 6 0).getLsbD i = false := by
      rw [getLsbD_maskOf _ _ _ (by decide) (by decide)]; simp [show ¬ i ≤ 6 by omega]
    rw [BitVec.getLsbD_and, BitVec.getLsbD_not, BitVec.getLsbD_and, hout, Bool.and_false]
    simp [show i < 64 by omega]

theorem registerWrite_event (p : Port) (w : BitVec 24) (v : BitVec 64) (s : State) (hr : s.dev.recovery = false)
    (ho : 8 * w.toNat = Reg.EVENT) :
    Completes (.registerWrite p w 0xFF v) s fun e => (∀ i < 7, e.rb Reg.EVENT i = (s.dev.rb Reg.EVENT i && !v.getLsbD i))
      ∧ e.rf Reg.EVENT 38 32 = (if s.dev.isSteward p then fld v 38 32 else s.dev.rf Reg.EVENT 38 32) ∧ OnlyRegs [Reg.EVENT] s.dev e := by
  apply Completes.registerWrite
  obtain ⟨hrd, honly⟩ := Dev.regWrite_event_only hr p v
  have himpl : ∀ i < 7, (regImpl Reg.EVENT).getLsbD i = true := by decide
  rw [ho]
  refine ⟨fun i hi => ?_, ?_, honly⟩
  · rw [Dev.seal_rb _ _ _ (himpl i hi), Dev.rb, tst, hrd, Dev.getLsbD_eventWritten _ _ _ hi]
  · rw [Dev.seal_rf _ _ _ _ (by decide) (by decide) (by decide), Dev.rf, hrd, Dev.fld_eventWritten]

/-! ## MSI-X masks (R475) -/

/-- The bit of a port's vector among the eight (R475). -/
def vectorBit (p : Port) (n : Fin 4) : BitVec 8 := BitVec.ofNat 8 (2 ^ (4 * p.val + n.val))

theorem getLsbD_vectorBit (p : Port) (n : Fin 4) : (vectorBit p n).getLsbD (4 * p.val + n.val) = true := by
  revert p n; decide
theorem getLsbD_and_not_vectorBit (x : BitVec 8) (p : Port) (n : Fin 4) :
    (x &&& ~~~(vectorBit p n)).getLsbD (4 * p.val + n.val) = false := by
  rw [BitVec.getLsbD_and, BitVec.getLsbD_not, getLsbD_vectorBit]; simp
theorem getLsbD_or_vectorBit (x : BitVec 8) (p : Port) (n : Fin 4) : (x ||| vectorBit p n).getLsbD (4 * p.val + n.val) = true := by
  rw [BitVec.getLsbD_or, getLsbD_vectorBit, Bool.or_true]

/-- Unmasking a vector that is pending sends it. -/
theorem msiXUnmask_pending (p : Port) (n : Fin 4) (s : State) (h : s.dev.msixPend.getLsbD (4 * p.val + n.val) = true) :
    Completes (.msiXUnmask p n false) s fun e => e.msixMask.getLsbD (4 * p.val + n.val) = false
      ∧ e.msixPend.getLsbD (4 * p.val + n.val) = false ∧ e.out = s.dev.out ++ [.msix p n] ∧ RegsBut [] s.dev e ∧ SameBytes s.dev e :=
  let x : Dev := { s.dev with msixMask := s.dev.msixMask &&& ~~~(vectorBit p n), msixPend := s.dev.msixPend &&& ~~~(vectorBit p n) }
  .of (x.emit (.msix p n)) (congrArg s.ok (if_pos h))
    ⟨getLsbD_and_not_vectorBit .., getLsbD_and_not_vectorBit .., rfl, .seal fun _ _ => rfl, .seal fun _ => rfl⟩

theorem msiXUnmask_idle (p : Port) (n : Fin 4) (s : State) (h : s.dev.msixPend.getLsbD (4 * p.val + n.val) = false) :
    Completes (.msiXUnmask p n false) s fun e => e.msixMask.getLsbD (4 * p.val + n.val) = false ∧ e.out = s.dev.out :=
  .of { s.dev with msixMask := s.dev.msixMask &&& ~~~(vectorBit p n) } (congrArg s.ok (if_neg (by simp [h])))
    ⟨getLsbD_and_not_vectorBit .., rfl⟩

theorem msiXUnmask_masked (p : Port) (n : Fin 4) (s : State) :
    Completes (.msiXUnmask p n true) s fun e => e.msixMask.getLsbD (4 * p.val + n.val) = true ∧ e.out = s.dev.out ∧ RegsBut [] s.dev e :=
  .of { s.dev with msixMask := s.dev.msixMask ||| vectorBit p n } rfl ⟨getLsbD_or_vectorBit .., rfl, .seal fun _ _ => rfl⟩

/-! ## Configuration requests (R484) -/

theorem configurationRequest_retried (p : Port) (r : ConfigReq) (s : State) (h : s.dev.inL0 p = false) :
    Completes (.configurationRequest p r) s fun e =>
      e.out = s.dev.out ++ [.config p false] ∧ RegsBut [] s.dev e ∧ e.boot = s.dev.boot :=
  .of (s.dev.emit (.config p false)) (congrArg s.ok (if_pos (by simp [h]))) ⟨rfl, .seal fun _ _ => rfl, rfl⟩

section
variable (p : Port) (s : State) (h : s.dev.inL0 p = true)
include h

theorem configurationRequest_other : Completes (.configurationRequest p .other) s fun e =>
    e.out = s.dev.out ++ [.config p true] ∧ RegsBut [] s.dev e ∧ e.boot = s.dev.boot :=
  .of (s.dev.emit (.config p true)) (congrArg s.ok (if_neg (by simp [h]))) ⟨rfl, .seal fun _ _ => rfl, rfl⟩

theorem configurationRequest_identifier (i : ConfigId) : Completes (.configurationRequest p (.identifier i)) s fun e =>
    e.out = s.dev.out ++ [.configId p (s.dev.configId i), .config p true] ∧ RegsBut [] s.dev e ∧ e.boot = s.dev.boot :=
  .of ((s.dev.emit (.configId p (s.dev.configId i))).emit (.config p true)) (congrArg s.ok (if_neg (by simp [h])))
    ⟨List.append_assoc .., .seal fun _ _ => rfl, rfl⟩

theorem configurationRequest_resizeBar2 (n : Fin 13) : Completes (.configurationRequest p (.resizeBar2 n)) s fun e =>
    e.out = s.dev.out ++ [.config p true] ∧ e.bar2Size p = 2 ^ (30 + n.val) ∧ RegsBut [] s.dev e :=
  let x : Dev := { s.dev with boot := { s.dev.boot with bar2 := smSet bar2Reset s.dev.boot.bar2 p (30 + n.val) } }
  .of (x.emit (.config p true)) (congrArg s.ok (if_neg (by simp [h])))
    ⟨rfl, congrArg (2 ^ ·) (smGet_smSet_same ..), .seal fun _ _ => rfl⟩

end

/-- Settles O49: each clause is the completion of one command under its conditions, as the lemmas above give it. -/
theorem registerAccessesAct : Obligations.RegisterAccessesAct := by
  intro p w be v s
  refine ⟨?_, ?_, ?_, ?_, fun hb => ⟨registerRead_width p w be s hb, registerWrite_width p w be v s hb⟩, ?_, ?_, ?_, fun n =>
    ⟨msiXUnmask_pending p n s, msiXUnmask_idle p n s, msiXUnmask_masked p n s⟩, fun r => configurationRequest_retried p r s, fun h =>
    ⟨configurationRequest_other p s h, configurationRequest_identifier p s h, rfl, rfl, rfl, fun h0 => ⟨if_pos h0, if_pos h0⟩,
      fun h0 => ⟨if_neg h0, if_neg h0⟩, configurationRequest_resizeBar2 p s h⟩⟩
  · rintro rfl h
    exact registerRead_plain p w s h
  · rintro t rfl hr ho
    exact registerRead_vecState p w s t hr ho
  · rintro rfl ho hr
    exact registerRead_est p w s ho hr
  · rintro rfl ho
    exact registerRead_cap p w s ho
  · rintro r rfl hr hi hrow
    exact ⟨registerWrite_int_allowed p w v s r hr hi hrow, registerWrite_int_refused p w v s r hr hi hrow⟩
  · rintro rfl hr ho
    exact registerWrite_event p w v s hr ho
  · rintro rfl hr hi hrow
    exact registerWrite_int_no_row p w v s hr hi hrow

end Sys2Proof.Machine
end

section
/-! PROOFS. BAR2, a port's window over the physical map (R40 to R46, R152, R170, R458): failures, the tiers, the registers, the
scratchpad apertures. -/

namespace Sys2Proof.Machine

/-! ## Memory written line by line (R309) -/

/-- What no step of a fold changes, the fold does not change. -/
theorem Dev.each_keeps {α β : Type} (v : Dev → β) {f : Dev → α → Dev} {l : List α} (h : ∀ x ∈ l, ∀ d, v (f d x) = v d) (d : Dev) :
    v (d.each l f) = v d := by
  induction l generalizing d with
  | nil => rfl
  | cons x xs ih => exact (ih (fun y hy => h y (List.mem_cons_of_mem _ hy)) _).trans (h x List.mem_cons_self d)

theorem Dev.rdBytes_congr {d e : Dev} (h : ∀ x, e.rdByte x = d.rdByte x) (a n : Nat) : e.rdBytes a n = d.rdBytes a n := by
  induction n generalizing a with
  | zero => rfl
  | succ n ih => rw [Dev.rdBytes, Dev.rdBytes, h, ih]

theorem Dev.wrBytes_append (d : Dev) (a : Nat) (l l' : List Byte) : d.wrBytes a (l ++ l') = (d.wrBytes a l).wrBytes (a + l.length) l' := by
  induction l generalizing d a with
  | nil => rfl
  | cons b bs ih => rw [List.cons_append, Dev.wrBytes, Dev.wrBytes, ih, List.length_cons, Nat.add_right_comm, Nat.add_assoc]

theorem Dev.wrBytes_mem_congr {d e : Dev} (h : e.mem = d.mem) (a : Nat) (l : List Byte) : (e.wrBytes a l).mem = (d.wrBytes a l).mem := by
  induction l generalizing d e a with
  | nil => exact h
  | cons b bs ih => exact ih (congrArg (smSet memReset · a b) h) _

/-- A read that finds no line in error gives the lines' POISON and changes nothing. -/
theorem Dev.readLines_clean (d : Dev) (l : List Nat) : d.readLines [] l = ((l.map fun a => (d.lineAt a).poison, false), d) := by
  induction l with
  | nil => rfl
  | cons a as ih =>
    have hline : d.readLine a [] = (((d.lineAt a).poison, false), d) := rfl
    simp only [Dev.readLines, hline, ih]
    rfl

@[simp] theorem Dev.setLine_mem (d : Dev) (a : Nat) (l : Line) : (d.setLine a l).mem = d.mem := rfl
@[simp] theorem Dev.setLine_regs (d : Dev) (a : Nat) (l : Line) : (d.setLine a l).regs = d.regs := rfl
@[simp] theorem Dev.setKind_regs (d : Dev) (a k : Nat) : (d.setKind a k).regs = d.regs := rfl
@[simp] theorem Dev.setKind_mem (d : Dev) (a k : Nat) : (d.setKind a k).mem = d.mem := rfl

/-- A write of one line changes the bytes it names and the side band. -/
theorem Dev.writeLine_clean (d : Dev) (a : Nat) (bs : List Byte) (p : Bool) : ∃ l, d.writeLine a bs p [] = (d.setLine a l).wrBytes a bs := by
  unfold Dev.writeLine
  dsimp only
  split
  · exact ⟨_, rfl⟩
  · exact ⟨_, rfl⟩

/-- A write of memory changes registers never, and takes nothing out of the device. -/
theorem Dev.writeMem_frame (n : Nat) (d : Dev) (a : Nat) (bs : List Byte) :
    (d.writeMem a bs [] n).regs = d.regs ∧ (d.writeMem a bs [] n).out = d.out := by
  have hw (d : Dev) (a : Nat) (l : List Byte) : (d.wrBytes a l).regs = d.regs := by
    induction l generalizing d a with
    | nil => rfl
    | cons b bs ih => exact ih _ _
  induction n generalizing d a bs with
  | zero => exact ⟨rfl, rfl⟩
  | succ n ih =>
    unfold Dev.writeMem
    dsimp only
    split
    · exact ⟨rfl, rfl⟩
    · obtain ⟨l, hl⟩ := d.writeLine_clean a (bs.take (64 - a % 64)) false
      obtain ⟨hr, ho⟩ := ih (((d.setLine a l).wrBytes a (bs.take (64 - a % 64))).setKind a 0) (a + (64 - a % 64)) (bs.drop (64 - a % 64))
      rw [hl]
      rw [hr, ho, Dev.setKind_regs, hw, Dev.setLine_regs, Dev.setKind_out, Dev.wrBytes_out, Dev.setLine_out]
      exact ⟨rfl, rfl⟩

/-- With enough steps a write line by line leaves memory as one write of all the bytes does. -/
theorem Dev.writeMem_mem (n : Nat) (d : Dev) (a : Nat) (bs : List Byte) (h : bs.length < n) : (d.writeMem a bs [] n).mem = (d.wrBytes a bs).mem := by
  induction n generalizing d a bs with
  | zero => omega
  | succ n ih =>
    unfold Dev.writeMem
    dsimp only
    split
    · next hnil => rw [hnil]; rfl
    · next hne =>
      have hpos : 0 < bs.length := List.length_pos_iff.mpr hne
      obtain ⟨l, hl⟩ := d.writeLine_clean a (bs.take (64 - a % 64)) false
      have hk : 0 < 64 - a % 64 := by omega
      generalize 64 - a % 64 = k at hl hk ⊢
      rw [ih _ _ _ (by rw [List.length_drop]; omega), hl]
      calc _ = ((d.wrBytes a (bs.take k)).wrBytes (a + k) (bs.drop k)).mem :=
            Dev.wrBytes_mem_congr ((Dev.setKind_mem ..).trans (Dev.wrBytes_mem_congr (Dev.setLine_mem ..) _ _)) _ _
        _ = (d.wrBytes a bs).mem := by
            rcases Nat.lt_or_ge bs.length k with hlt | hge
            · rw [List.drop_of_length_le (by omega), List.take_of_length_le (by omega)]; rfl
            · conv_rhs => rw [← List.take_append_drop k bs, Dev.wrBytes_append, List.length_take, Nat.min_eq_left hge]

/-- Unloading the packages whose slots are written changes their registers only. -/
theorem Dev.pkgTouched_mem (d : Dev) (a n : Nat) : (d.pkgTouched a n).mem = d.mem := by
  unfold Dev.pkgTouched; refine Dev.each_keeps Dev.mem (fun _ _ _ => ?_) d; rfl
theorem Dev.pkgTouched_out (d : Dev) (a n : Nat) : (d.pkgTouched a n).out = d.out := by
  unfold Dev.pkgTouched; refine Dev.each_keeps Dev.out (fun _ _ _ => ?_) d; rfl
theorem Dev.pkgTouched_rd (d : Dev) (a n : Nat) {o : Nat} (h : o ∉ (List.range 16).map Reg.PKG) : (d.pkgTouched a n).rd o = d.rd o := by
  unfold Dev.pkgTouched
  refine Dev.each_keeps (fun e => e.rd o) (fun k hk e => ?_) d
  have hne : o ≠ Reg.PKG k := fun heq => h (List.mem_map.mpr ⟨k, (List.mem_filter.mp hk).1, heq.symm⟩)
  exact e.rd_wr_ne _ hne

/-! ## Failures (R458, R481) -/

/-- A failure of an access by port p to address a is counted in e, and it is latched with its status if it is the first. -/
def Dev.FailedWith (d e : Dev) (p a st : Nat) : Prop :=
  e.rd (Reg.P_WINCOUNT p) = d.rd (Reg.P_WINCOUNT p) + 1
  ∧ (d.rb (Reg.P_WINERR p) 63 = false → e.rf (Reg.P_WINERR p) 63 63 = 1 ∧ e.rf (Reg.P_WINERR p) 55 48 = st ∧ e.rf (Reg.P_WINERR p) 47 0 = a)
  ∧ (d.rb (Reg.P_WINERR p) 63 = true → e.rd (Reg.P_WINERR p) = d.rd (Reg.P_WINERR p) &&& regImpl (Reg.P_WINERR p))

theorem regImpl_winCount (p : Port) : regImpl (Reg.P_WINCOUNT p) = BitVec.allOnes 64 := by revert p; decide
theorem regImpl_winErr (p : Port) : regImpl (Reg.P_WINERR p) = BitVec.allOnes 64 := by revert p; decide
theorem Reg.winErr_ne_winCount (p : Nat) : P_WINERR p ≠ P_WINCOUNT p := by unfold P_WINERR P_WINCOUNT; omega

/-- The fields of the word that latches a failure. -/
theorem fld_latched {a st : Nat} (ha : a < 2 ^ 48) (hs : st < 256) :
    fld (w64 (2 ^ 63 + st * 2 ^ 48 + a)) 63 63 = 1 ∧ fld (w64 (2 ^ 63 + st * 2 ^ 48 + a)) 55 48 = st ∧ fld (w64 (2 ^ 63 + st * 2 ^ 48 + a)) 47 0 = a := by
  simp only [fld, w64, bits_eq, BitVec.toNat_ofNat]
  omega

/-- What shows the two registers as the failure left them shows the failure. -/
theorem Dev.winFail_failed (d e : Dev) (p : Port) {a st : Nat} (ha : a < 2 ^ 48) (hs : st < 256)
    (h : ∀ o ∈ [Reg.P_WINCOUNT p, Reg.P_WINERR p], e.rd o = (d.winFail p st a).rd o) : d.FailedWith e.seal p a st := by
  have hne := Reg.winErr_ne_winCount p
  have hcount := h (Reg.P_WINCOUNT p) (by simp)
  have herr := h (Reg.P_WINERR p) (by simp)
  have hinc : (d.inc (Reg.P_WINCOUNT p)).rd (Reg.P_WINERR p) = d.rd (Reg.P_WINERR p) := Dev.rd_add_ne _ _ hne
  have hinc' : (d.inc (Reg.P_WINCOUNT p)).rd (Reg.P_WINCOUNT p) = d.rd (Reg.P_WINCOUNT p) + 1 := Dev.rd_add_same ..
  have hrb : (d.inc (Reg.P_WINCOUNT p)).rb (Reg.P_WINERR p) 63 = d.rb (Reg.P_WINERR p) 63 := congrArg (tst · 63) hinc
  unfold Dev.winFail at hcount herr
  dsimp only at hcount herr
  rw [hrb] at hcount herr
  refine ⟨?_, fun hb => ?_, fun hb => ?_⟩
  · rw [Dev.seal_rd_all _ _ (regImpl_winCount p), hcount]
    split
    · exact hinc'
    · rw [Dev.rd_wr_ne _ _ hne.symm, hinc']
  · rw [if_neg (by simp [hb]), Dev.rd_wr_same] at herr
    simpa only [Dev.rf, Dev.seal_rd_all _ _ (regImpl_winErr p), herr] using fld_latched ha hs
  · rw [if_pos hb, hinc] at herr
    rw [Dev.seal_rd, herr]

theorem Dev.bar2Addr_lt (d : Dev) (p o : Nat) : d.bar2Addr p o < 2 ^ 48 := Nat.mod_lt _ (by decide)
@[simp] theorem Dev.winFail_rdByte (d : Dev) (p st a x : Nat) : (d.winFail p st a).rdByte x = d.rdByte x := by
  unfold Dev.winFail
  dsimp only
  split
  · rfl
  · rw [Dev.wr_rdByte]; rfl
@[simp] theorem Dev.winFail_out (d : Dev) (p st a : Nat) : (d.winFail p st a).out = d.out := by
  unfold Dev.winFail
  dsimp only
  split
  · rfl
  · rw [Dev.wr_out]; rfl

/-- The record of an unmapped access leaves the registers of the window. -/
theorem Dev.unmappedEntry_rd (d : Dev) (p : Port) (a : Nat) : ∀ o ∈ [Reg.P_WINCOUNT p, Reg.P_WINERR p], (d.unmappedEntry p a).rd o = d.rd o := by
  intro o ho
  refine Dev.varveLog_rd _ _ _ _ _ _ _ _ fun hv => ?_
  unfold vrvReg at hv
  simp only [List.mem_cons, List.not_mem_nil, or_false, Reg.P_WINCOUNT, Reg.P_WINERR] at ho
  omega

/-! ## Commands -/

theorem Completes.bar2Read {p : Port} {o : BitVec 42} {n : BitVec 13} {s : State} {P : Dev → Prop}
    (h : P (doBar2Read p o.toNat n.toNat [] s.dev).seal) : Completes (.bar2Read p o n []) s P := .of _ rfl h
theorem Completes.bar2Write {p : Port} {o : BitVec 42} {bs : List Byte} {s : State} {P : Dev → Prop}
    (h : P (doBar2Write p o.toNat bs [] s.dev).seal) : Completes (.bar2Write p o bs []) s P := .of _ rfl h

/-! ## What an access does, by what its address reaches (R40, R44, R458)

The kernel cannot compare an access with its cases while the address stands in it, since it would compute the address. The function is
compared as a whole instead, and the address is a variable in the cases. -/

theorem doBar2Read_cases {d : Dev} {p o a : Nat} (ha : d.bar2Addr p o = a) (n : Nat) :
    (∀ k, reach a = .tier k → doBar2Read p o n [] d =
      if d.hostFenced p then d.readFails p n St.FENCED a
      else if !d.stackUp k then d.readFails p n St.TIER_BUSY a
      else d.readGives p a (d.rdBytes a n) ((linesOf a n).any fun x => (d.lineAt x).poison))
    ∧ (reach a = .unmapped → doBar2Read p o n [] d = (d.readFails p n St.UNMAPPED a).unmappedEntry p a)
    ∧ (∀ off, reach a = .regs off → n = 8 → off % 8 = 0 →
      doBar2Read p o n [] d = (d.readEnds off).emit (.readBytes p (toBytes 8 (d.regValue p off).toNat)))
    ∧ (∀ t off bs bad e, reach a = .aperture t off → d.hostFenced p = false → d.apertureCheck t (touched off n) false = 0 →
      d.apertureRead t off n (apertureObs t []) = ((bs, bad), e) → doBar2Read p o n [] d = e.readGives p a bs bad) := by
  obtain ⟨f, hf⟩ : ∃ f, f = doBar2Read := ⟨_, rfl⟩
  rw [← hf]
  delta doBar2Read at hf
  rw [hf]
  beta_reduce
  rw [ha]
  refine ⟨fun k h => ?_, fun h => ?_, fun off h hn ho => ?_, fun t off bs bad e h hfence hcheck hread => ?_⟩
  · simp [h, Dev.readLines_clean, List.any_map]
  · simp [h]
  · simp [h, hn, ho, Dev.regRead]
  · simp [h, hfence, hcheck, hread]

theorem doBar2Write_cases {d : Dev} {p o a : Nat} (ha : d.bar2Addr p o = a) (bs : List Byte) :
    (∀ k, reach a = .tier k → d.hostFenced p = false → d.stackUp k = true →
      doBar2Write p o bs [] d = if d.writeBarred a then d else (d.store a bs).pkgTouched a bs.length)
    ∧ (reach a = .unmapped → doBar2Write p o bs [] d = (d.winFail p St.UNMAPPED a).unmappedEntry p a)
    ∧ (∀ t off, reach a = .aperture t off → d.hostFenced p = false → doBar2Write p o bs [] d =
      if d.apertureCheck t (touched off bs.length) true ≠ 0 then d.winFail p (d.apertureCheck t (touched off bs.length) true) a
      else d.apertureStore t off bs (apertureObs t [])) := by
  obtain ⟨f, hf⟩ : ∃ f, f = doBar2Write := ⟨_, rfl⟩
  rw [← hf]
  delta doBar2Write at hf
  rw [hf]
  beta_reduce
  rw [ha]
  refine ⟨fun k h hfence hup => ?_, fun h => ?_, fun t off h hfence => ?_⟩
  · simp [h, hfence, hup]
  · simp [h]
  · simp [h, hfence]

/-! ## The tiers -/

theorem readFails_failed (d : Dev) (p : Port) (o n : Nat) {st : Nat} (hs : st < 256) :
    (d.readFails p n st (d.bar2Addr p o)).seal.out = d.out ++ [.readBytes p (ones n)]
      ∧ d.FailedWith (d.readFails p n st (d.bar2Addr p o)).seal p (d.bar2Addr p o) st :=
  ⟨congrArg (· ++ _) (Dev.winFail_out ..), Dev.winFail_failed _ _ _ (d.bar2Addr_lt ..) hs fun _ _ => Dev.emit_rd ..⟩

/-- A host write of a tier leaves the bytes written, every other byte, and every register but those of the packages. -/
theorem Dev.hostStore_frame (d : Dev) (a : Nat) (bs : List Byte) :
    let e := ((d.store a bs).pkgTouched a bs.length).seal
    e.rdBytes a bs.length = bs ∧ (∀ x, x < a ∨ a + bs.length ≤ x → e.rdByte x = d.rdByte x)
      ∧ RegsBut ((List.range 16).map Reg.PKG) d e ∧ e.out = d.out := by
  obtain ⟨hregs, hout⟩ := d.writeMem_frame (bs.length + 1) a bs
  have hmem : ((d.store a bs).pkgTouched a bs.length).mem = (d.wrBytes a bs).mem :=
    (Dev.pkgTouched_mem ..).trans (d.writeMem_mem _ a bs (Nat.lt_succ_self _))
  have hbyte (x : Nat) : ((d.store a bs).pkgTouched a bs.length).seal.rdByte x = (d.wrBytes a bs).rdByte x := by
    rw [Dev.seal_rdByte]; unfold Dev.rdByte; rw [hmem]
  refine ⟨(Dev.rdBytes_congr hbyte _ _).trans (Dev.rdBytes_wrBytes ..), fun x hx => (hbyte x).trans (Dev.rdByte_wrBytes_out _ _ _ _ hx),
    .seal fun r hr => ?_, (Dev.pkgTouched_out ..).trans hout⟩
  rw [Dev.pkgTouched_rd _ _ _ hr]
  unfold Dev.rd; rw [← hregs]; rfl

/-! ## One word of a scratchpad (R42, R43, R150 to R163, R170) -/

/-- An access of a whole word touches that word. -/
theorem touched_word (w : Nat) : touched (32 * w) 32 = [w] := by
  have h : (32 * w + 32 + 31) / 32 - 32 * w / 32 = 1 := by omega
  have h' : 32 * w / 32 = w := by omega
  rw [touched, h, h']
  rfl

theorem Dev.eccCheck_clean (d : Dev) (t w : Nat) {o : Obs} (h : o.ecc = []) : d.eccCheck t w o = d := by
  simp [Dev.eccCheck, Dev.eccCheckAt, Dev.when, h]

section
variable {d : Dev} {t w k : Nat}

/-- What refuses an access to a word of a window of a tile that serves: the window's rights, then a full tagged word. -/
theorem Dev.apertureCheck_word (hw : w < 131072) (hk : d.winOfWord t w = some k) (hd : (d.tile t).dead = false) (hdark : d.tileDark t = false) (hl : (d.logOf t).isSome = true)
    (hf : d.winFenced t k = false) (wr : Bool) :
    d.apertureCheck t [w] wr = if (if wr then d.winWRemote t k else d.winRRemote t k) = false then St.WINDOW
      else if wr = true ∧ (d.tile t).full w = true ∧ d.winTagged t k = true then St.TAG_FULL else 0 := by
  have hl' : (d.logOf t).isNone = false := by simpa using hl
  have hw' : ¬ 131072 ≤ w := by omega
  simp only [Dev.apertureCheck, hl', hd, hdark, hk, hf, hw, hw', List.any_cons, List.any_nil, List.all_cons, List.all_nil, Option.any_some,
    ge_iff_le, decide_true, decide_false, Bool.or_false, Bool.false_or, Bool.and_true, Bool.true_and, Bool.and_false, Bool.false_eq_true, if_false,
    Bool.not_eq_true', Bool.and_eq_true]

/-- The shadow tags find nothing to report where the word's tag is as the access needs it, or where the window is tagged. -/
theorem Dev.apertureShadow_word (hk : d.winOfWord t w = some k) {wr : Bool} (h : (d.tile t).full w ≠ wr ∨ d.winTagged t k = true) : d.apertureShadow t [w] wr = d := by
  have hnone : ([w].find? fun w => w < 131072 && (d.tile t).full w == wr && (d.winOfWord t w).any fun k => !d.winTagged t k) = none := by
    rcases h with h | h <;> simp [hk, h]
  unfold Dev.apertureShadow
  rw [hnone]

theorem Dev.apertureRead_word (hw : w < 131072) (hk : d.winOfWord t w = some k) (ht : d.winTagged t k = true) {o : Obs} (ho : o.ecc = []) :
    d.apertureRead t (32 * w) 32 o = (((List.range 32).map (byteOf (d.spRd t w)), (d.tile t).poisoned w), d.mntTouch t [w]) := by
  have hfilter : [w].filter (· < 131072) = [w] := by simp [hw]
  have hread : (d.mntTouch t [w]).spReads t o [w] = ([(d.spRd t w, (d.tile t).poisoned w)], d.mntTouch t [w]) := by
    simp only [Dev.spReads, Dev.spRead, Dev.eccCheck_clean _ _ _ ho]
    rw [Dev.mntTouch, Dev.tile_upd_same]
    rfl
  have hoff : 32 * w % 32 = 0 := by omega
  unfold Dev.apertureRead
  dsimp only
  rw [touched_word, hfilter, Dev.apertureShadow_word hk (.inr ht), hread]
  simp [hoff]

/-- A write of a whole word replaces it, and tags it full when the word lies in a window. -/
theorem Dev.spWrite_whole (d : Dev) (t w : Nat) (v : Word256) (o : Obs) :
    d.spWrite t w v 0xFF true o = (((d.upd t (·.setPoison w false)).spWr t w v).upd t (·.setCorr w false)).upd t (·.setTag w true) := by
  have hmask : BitVec.ofNat 256 ((List.range 8).foldl (fun n i => n + if (0xFF : BitVec 8).getLsbD i then 0xFFFFFFFF * 2 ^ (32 * i) else 0) 0)
      = BitVec.allOnes 256 := by decide
  unfold Dev.spWrite
  dsimp only
  rw [hmask, BitVec.not_allOnes, BitVec.and_zero, BitVec.zero_or, BitVec.and_allOnes]
  rfl

/-- The bytes of a whole word, picked one by one. -/
theorem map_picked {w : Nat} {bs : List Byte} (hb : bs.length = 32) (old : Word256) :
    ((List.range 32).map fun i => if (decide (32 * w ≤ 32 * w + i) && decide (32 * w + i < 32 * w + bs.length)) = true
      then nth bs (32 * w + i - 32 * w) 0 else byteOf old i) = bs := by
  refine List.ext_getElem (by simp [hb]) fun i hi hi' => ?_
  simp [nth, hi']

theorem Dev.apertureWrite_word (hw : w < 131072) (hk : d.winOfWord t w = some k) (hfull : (d.tile t).full w = false) {bs : List Byte}
    (hb : bs.length = 32) (o : Obs) :
    ∃ b, d.apertureWrite t (32 * w) bs o = ((d.mntTouch t [w]).spWrite t w (BitVec.ofNat 256 (ofBytes bs)) 0xFF true {}).upd t (·.setPoison w b) := by
  have hfilter : [w].filter (· < 131072) = [w] := by simp [hw]
  have hcov : ((List.range 32).all fun i => decide (32 * w ≤ 32 * w + i) && decide (32 * w + i < 32 * w + bs.length)) = true := by
    rw [List.all_eq_true]
    intro i hi
    have : i < bs.length := by rw [hb]; exact List.mem_range.mp hi
    simp [this]
  have hshadow : d.apertureShadow t [w] true = d := Dev.apertureShadow_word hk (.inl (by simp [hfull]))
  unfold Dev.apertureWrite
  dsimp only
  rw [show touched (32 * w) bs.length = [w] by rw [hb, touched_word], hfilter, hshadow]
  simp only [Dev.each, List.foldl_cons, List.foldl_nil, hcov, if_true, map_picked hb]
  exact ⟨_, rfl⟩

end

/-! ## The bytes of a word -/

theorem length_toBytes (n v : Nat) : (toBytes n v).length = n := by
  induction n generalizing v with
  | zero => rfl
  | succ n ih => rw [toBytes, List.length_cons, ih]

theorem ofBytes_toBytes (n v : Nat) : ofBytes (toBytes n v) = v % 256 ^ n := by
  induction n generalizing v with
  | zero => rw [toBytes, ofBytes, Nat.pow_zero, Nat.mod_one]
  | succ n ih => rw [toBytes, ofBytes, ih, BitVec.toNat_ofNat, Nat.pow_succ' (n := n), Nat.mod_mul (b := 256 ^ n)]

theorem Dev.spRd_spWr (d : Dev) (t w : Nat) (v : Word256) : (d.spWr t w v).spRd t w = v := by
  have hlen : (toBytes 32 v.toNat).length = 32 := length_toBytes ..
  have hread : (d.wrBytes (spAddr t w) (toBytes 32 v.toNat)).rdBytes (spAddr t w) 32 = toBytes 32 v.toNat := by
    simpa only [hlen] using d.rdBytes_wrBytes (spAddr t w) (toBytes 32 v.toNat)
  rw [Dev.spRd, Dev.rdNum, Dev.spWr, Dev.wrNum, hread, ofBytes_toBytes]
  refine BitVec.eq_of_toNat_eq ?_
  have hpow : (256 : Nat) ^ 32 = 2 ^ 256 := by decide
  rw [BitVec.toNat_ofNat, hpow, Nat.mod_mod, Nat.mod_eq_of_lt v.isLt]

theorem Dev.spWr_rdByte (d : Dev) (t w : Nat) (v : Word256) {x : Nat} (h : x < spAddr t w ∨ spAddr t (w + 1) ≤ x) :
    (d.spWr t w v).rdByte x = d.rdByte x := by
  refine Dev.rdByte_wrBytes_out _ _ _ _ ?_
  rw [length_toBytes]
  unfold spAddr at *
  omega

/-! ## Accesses to a word of an aperture -/

theorem Dev.spWr_mem_congr {d e : Dev} (h : e.mem = d.mem) (t w : Nat) (v : Word256) : (e.spWr t w v).mem = (d.spWr t w v).mem :=
  Dev.wrBytes_mem_congr h _ _

theorem Dev.spWrite_whole_mem (d : Dev) (t w : Nat) (v : Word256) (o : Obs) : (d.spWrite t w v 0xFF true o).mem = (d.spWr t w v).mem := by
  rw [Dev.spWrite_whole, Dev.upd_mem, Dev.upd_mem]
  exact Dev.spWr_mem_congr (Dev.upd_mem ..) t w v

theorem Dev.spWrite_whole_full (d : Dev) (t w : Nat) (v : Word256) (o : Obs) : ((d.spWrite t w v 0xFF true o).tile t).full w = true := by
  rw [Dev.spWrite_whole, Dev.tile_upd_same]
  exact smGet_smSet_same noTag _ w true

/-- What stands of a tile and memory after a host has written a word. -/
theorem Dev.hostWord_frame (d : Dev) (t w : Nat) (v : Word256) (b : Bool) :
    let e := (((d.mntTouch t [w]).spWrite t w v 0xFF true {}).upd t (·.setPoison w b)).seal
    e.spRd t w = v ∧ (e.tile t).full w = true ∧ ∀ x, x < spAddr t w ∨ spAddr t (w + 1) ≤ x → e.rdByte x = d.rdByte x := by
  have hmem : ((d.mntTouch t [w]).spWrite t w v 0xFF true {}).mem = (d.spWr t w v).mem :=
    (Dev.spWrite_whole_mem ..).trans (Dev.spWr_mem_congr (Dev.upd_mem ..) t w v)
  have hfull := (d.mntTouch t [w]).spWrite_whole_full t w v {}
  generalize (d.mntTouch t [w]).spWrite t w v 0xFF true {} = x at hmem hfull
  have hbyte (a : Nat) : (x.upd t (·.setPoison w b)).seal.rdByte a = (d.spWr t w v).rdByte a := by
    rw [Dev.seal_rdByte]
    unfold Dev.rdByte
    rw [Dev.upd_mem, hmem]
  refine ⟨?_, ?_, fun a ha => (hbyte a).trans (Dev.spWr_rdByte _ _ _ _ ha)⟩
  · rw [Dev.spRd, Dev.rdNum, Dev.rdBytes_congr hbyte]
    exact Dev.spRd_spWr ..
  · rw [Dev.seal_tile, Dev.tile_upd_same]
    exact hfull

section
variable {s : State} {p : Port} {o : BitVec 42} {t w k : Nat} (hr : reach (s.dev.bar2Addr p o.toNat) = .aperture t (32 * w))
  (hw : w < 131072) (hf : s.dev.hostFenced p = false) (hd : (s.dev.tile t).dead = false) (hdark : s.dev.tileDark t = false)
  (hl : (s.dev.logOf t).isSome = true) (hk : s.dev.winOfWord t w = some k) (hfence : s.dev.winFenced t k = false)
include hr hw hf hd hdark hl hk hfence

theorem bar2Read_word (hright : s.dev.winRRemote t k = true) (htag : s.dev.winTagged t k = true) (hp : (s.dev.tile t).poisoned w = false) :
    Completes (.bar2Read p o 32 []) s fun e => .readBytes p ((List.range 32).map (byteOf (s.dev.spRd t w))) ∈ e.out := by
  obtain ⟨-, -, -, hcase⟩ := doBar2Read_cases (d := s.dev) (p := p) (o := o.toNat) rfl 32
  have hcheck : s.dev.apertureCheck t (touched (32 * w) 32) false = 0 := by
    rw [touched_word, Dev.apertureCheck_word hw hk hd hdark hl hfence]
    simp [hright]
  refine .bar2Read ?_
  rw [show (32 : BitVec 13).toNat = 32 from rfl, hcase _ _ _ _ _ hr hf hcheck (Dev.apertureRead_word hw hk htag rfl), hp]
  exact List.mem_append_right _ (List.mem_singleton.mpr rfl)

theorem bar2Write_word {bs : List Byte} (hb : bs.length = 32) (hright : s.dev.winWRemote t k = true) (hfull : (s.dev.tile t).full w = false)
    (hsw : (s.dev.tile t).swBusy = false) :
    Completes (.bar2Write p o bs []) s fun e => e.spRd t w = BitVec.ofNat 256 (ofBytes bs) ∧ (e.tile t).full w = true
      ∧ ∀ x, x < spAddr t w ∨ spAddr t (w + 1) ≤ x → e.rdByte x = s.dev.rdByte x := by
  obtain ⟨-, -, hcase⟩ := doBar2Write_cases (d := s.dev) (p := p) (o := o.toNat) rfl bs
  have hcheck : s.dev.apertureCheck t (touched (32 * w) bs.length) true = 0 := by
    rw [hb, touched_word, Dev.apertureCheck_word hw hk hd hdark hl hfence]
    simp [hright, hfull]
  obtain ⟨b, hwrite⟩ := Dev.apertureWrite_word hw hk hfull hb (apertureObs t [])
  refine .bar2Write ?_
  rw [hcase _ _ hr hf, hcheck, if_neg (by simp), Dev.apertureStore, if_neg (by simp [hsw]), hwrite]
  exact Dev.hostWord_frame ..

theorem bar2Write_held {bs : List Byte} (hb : bs.length = 32) (hright : s.dev.winWRemote t k = true) (hfull : (s.dev.tile t).full w = false)
    (hsw : (s.dev.tile t).swBusy = true) :
    Completes (.bar2Write p o bs []) s fun e => (e.tile t).heldWrites = (s.dev.tile t).heldWrites ++ [⟨32 * w, bs, []⟩]
      ∧ SameBytes s.dev e ∧ RegsBut [] s.dev e := by
  obtain ⟨-, -, hcase⟩ := doBar2Write_cases (d := s.dev) (p := p) (o := o.toNat) rfl bs
  have hcheck : s.dev.apertureCheck t (touched (32 * w) bs.length) true = 0 := by
    rw [hb, touched_word, Dev.apertureCheck_word hw hk hd hdark hl hfence]
    simp [hright, hfull]
  refine .bar2Write ?_
  rw [hcase _ _ hr hf, hcheck, if_neg (by simp), Dev.apertureStore, if_pos hsw]
  refine ⟨?_, .seal fun _ => rfl, .seal fun _ _ => rfl⟩
  rw [Dev.seal_tile, Dev.tile_upd_same]
  rfl

theorem bar2Write_full {bs : List Byte} (hb : bs.length = 32) (hright : s.dev.winWRemote t k = true) (hfull : (s.dev.tile t).full w = true)
    (htag : s.dev.winTagged t k = true) :
    Completes (.bar2Write p o bs []) s fun e =>
      s.dev.FailedWith e p (s.dev.bar2Addr p o.toNat) St.TAG_FULL ∧ SameBytes s.dev e := by
  obtain ⟨-, -, hcase⟩ := doBar2Write_cases (d := s.dev) (p := p) (o := o.toNat) rfl bs
  have hcheck : s.dev.apertureCheck t (touched (32 * w) bs.length) true = St.TAG_FULL := by
    rw [hb, touched_word, Dev.apertureCheck_word hw hk hd hdark hl hfence]
    simp [hright, hfull, htag]
  refine .bar2Write ?_
  rw [hcase _ _ hr hf, hcheck, if_pos (by decide)]
  exact ⟨Dev.winFail_failed _ _ _ (Dev.bar2Addr_lt ..) (by decide) fun _ _ => rfl, .seal fun _ => Dev.winFail_rdByte ..⟩

end

/-! ## Accesses to the tiers, to nothing, and to registers -/

section
variable {s : State} {p : Port} {o : BitVec 42} {k : Nat} (hr : reach (s.dev.bar2Addr p o.toNat) = .tier k)
include hr

theorem bar2Read_clean (n : BitVec 13) (hf : s.dev.hostFenced p = false) (hu : s.dev.stackUp k = true)
    (hp : ∀ x ∈ linesOf (s.dev.bar2Addr p o.toNat) n.toNat, (s.dev.lineAt x).poison = false) :
    Completes (.bar2Read p o n []) s fun e =>
      e.out = s.dev.out ++ [.readBytes p (s.dev.rdBytes (s.dev.bar2Addr p o.toNat) n.toNat)] ∧ RegsBut [] s.dev e ∧ SameBytes s.dev e := by
  obtain ⟨hcase, -⟩ := doBar2Read_cases (d := s.dev) (p := p) (o := o.toNat) rfl n.toNat
  have hany : ((linesOf (s.dev.bar2Addr p o.toNat) n.toNat).any fun x => (s.dev.lineAt x).poison) = false := by simpa using hp
  refine .bar2Read ?_
  rw [hcase k hr, if_neg (by simp [hf]), if_neg (by simp [hu]), hany]
  exact ⟨rfl, .seal fun _ _ => rfl, .seal fun _ => rfl⟩

theorem bar2Read_poisoned (n : BitVec 13) (hf : s.dev.hostFenced p = false) (hu : s.dev.stackUp k = true)
    (hp : ∃ x ∈ linesOf (s.dev.bar2Addr p o.toNat) n.toNat, (s.dev.lineAt x).poison = true) :
    Completes (.bar2Read p o n []) s fun e =>
      e.out = s.dev.out ++ [.readPoison p (s.dev.rdBytes (s.dev.bar2Addr p o.toNat) n.toNat)]
        ∧ s.dev.FailedWith e p (s.dev.bar2Addr p o.toNat) St.POISONED ∧ SameBytes s.dev e := by
  obtain ⟨hcase, -⟩ := doBar2Read_cases (d := s.dev) (p := p) (o := o.toNat) rfl n.toNat
  have hany : ((linesOf (s.dev.bar2Addr p o.toNat) n.toNat).any fun x => (s.dev.lineAt x).poison) = true := List.any_eq_true.mpr hp
  refine .bar2Read ?_
  rw [hcase k hr, if_neg (by simp [hf]), if_neg (by simp [hu]), hany, Dev.readGives, if_pos rfl]
  exact ⟨congrArg (· ++ _) (Dev.winFail_out ..), Dev.winFail_failed _ _ _ (Dev.bar2Addr_lt ..) (by decide) fun _ _ => Dev.emit_rd ..,
    .seal fun _ => (Dev.emit_rdByte ..).trans (Dev.winFail_rdByte ..)⟩

theorem bar2Read_fenced (n : BitVec 13) (hf : s.dev.hostFenced p = true) :
    Completes (.bar2Read p o n []) s fun e =>
      e.out = s.dev.out ++ [.readBytes p (ones n.toNat)] ∧ s.dev.FailedWith e p (s.dev.bar2Addr p o.toNat) St.FENCED := by
  obtain ⟨hcase, -⟩ := doBar2Read_cases (d := s.dev) (p := p) (o := o.toNat) rfl n.toNat
  refine .bar2Read ?_
  rw [hcase k hr, if_pos hf]
  exact readFails_failed _ _ _ _ (by decide)

theorem bar2Read_down (n : BitVec 13) (hf : s.dev.hostFenced p = false) (hu : s.dev.stackUp k = false) :
    Completes (.bar2Read p o n []) s fun e =>
      e.out = s.dev.out ++ [.readBytes p (ones n.toNat)] ∧ s.dev.FailedWith e p (s.dev.bar2Addr p o.toNat) St.TIER_BUSY := by
  obtain ⟨hcase, -⟩ := doBar2Read_cases (d := s.dev) (p := p) (o := o.toNat) rfl n.toNat
  refine .bar2Read ?_
  rw [hcase k hr, if_neg (by simp [hf]), if_pos (by simp [hu])]
  exact readFails_failed _ _ _ _ (by decide)

theorem bar2Write_tier (bs : List Byte) (hf : s.dev.hostFenced p = false) (hu : s.dev.stackUp k = true)
    (hb : s.dev.writeBarred (s.dev.bar2Addr p o.toNat) = false) :
    let a := s.dev.bar2Addr p o.toNat
    Completes (.bar2Write p o bs []) s fun e => e.rdBytes a bs.length = bs ∧ (∀ x, x < a ∨ a + bs.length ≤ x → e.rdByte x = s.dev.rdByte x)
      ∧ RegsBut ((List.range 16).map Reg.PKG) s.dev e ∧ e.out = s.dev.out := by
  obtain ⟨hcase, -⟩ := doBar2Write_cases (d := s.dev) (p := p) (o := o.toNat) rfl bs
  refine .bar2Write ?_
  rw [hcase k hr hf hu, if_neg (by simp [hb])]
  exact Dev.hostStore_frame ..

theorem bar2Write_barred (bs : List Byte) (hf : s.dev.hostFenced p = false) (hu : s.dev.stackUp k = true)
    (hb : s.dev.writeBarred (s.dev.bar2Addr p o.toNat) = true) : Completes (.bar2Write p o bs []) s fun e => OnlyRegs [] s.dev e := by
  obtain ⟨hcase, -⟩ := doBar2Write_cases (d := s.dev) (p := p) (o := o.toNat) rfl bs
  refine .bar2Write ?_
  rw [hcase k hr hf hu, if_pos hb]
  exact .refl ..

end

section
variable {s : State} {p : Port} {o : BitVec 42} (hr : reach (s.dev.bar2Addr p o.toNat) = .unmapped)
include hr

theorem bar2Read_unmapped (n : BitVec 13) : Completes (.bar2Read p o n []) s fun e =>
    .readBytes p (ones n.toNat) ∈ e.out ∧ s.dev.FailedWith e p (s.dev.bar2Addr p o.toNat) St.UNMAPPED := by
  obtain ⟨-, hcase, -⟩ := doBar2Read_cases (d := s.dev) (p := p) (o := o.toNat) rfl n.toNat
  refine .bar2Read ?_
  rw [hcase hr]
  exact ⟨Dev.varveLog_out _ _ _ _ _ _ _ (List.mem_append_right _ (List.mem_singleton.mpr rfl)),
    Dev.winFail_failed _ _ _ (Dev.bar2Addr_lt ..) (by decide) (Dev.unmappedEntry_rd _ _ _)⟩

theorem bar2Write_unmapped (bs : List Byte) : Completes (.bar2Write p o bs []) s fun e =>
    s.dev.FailedWith e p (s.dev.bar2Addr p o.toNat) St.UNMAPPED := by
  obtain ⟨-, hcase, -⟩ := doBar2Write_cases (d := s.dev) (p := p) (o := o.toNat) rfl bs
  refine .bar2Write ?_
  rw [hcase hr]
  exact Dev.winFail_failed _ _ _ (Dev.bar2Addr_lt ..) (by decide) (Dev.unmappedEntry_rd _ _ _)

end

theorem bar2Read_register {s : State} {p : Port} {o : BitVec 42} {off : Nat} (hr : reach (s.dev.bar2Addr p o.toNat) = .regs off)
    (h8 : off % 8 = 0) :
    Completes (.bar2Read p o 8 []) s fun e => .readBytes p (toBytes 8 (s.dev.regValue p off).toNat) ∈ e.out ∧ SameBytes s.dev e := by
  obtain ⟨-, -, hcase, -⟩ := doBar2Read_cases (d := s.dev) (p := p) (o := o.toNat) rfl 8
  refine .bar2Read ?_
  rw [show (8 : BitVec 13).toNat = 8 from rfl, hcase off hr rfl h8]
  exact ⟨List.mem_append_right _ (List.mem_singleton.mpr rfl), .seal fun _ => Dev.readEnds_rdByte ..⟩

/-- Settles O45: an access by what its address reaches, each with the lemma that says what it leaves. -/
theorem bar2ReachesTheMap : Obligations.Bar2ReachesTheMap := by
  intro p o s
  refine ⟨fun n k hr hf hu => ⟨bar2Read_clean hr n hf hu, bar2Read_poisoned hr n hf hu⟩,
    fun n k hr => ⟨bar2Read_fenced hr n, bar2Read_down hr n⟩, fun n bs hr => ⟨bar2Read_unmapped hr n, bar2Write_unmapped hr bs⟩,
    fun bs k hr hf hu => ⟨bar2Write_tier hr bs hf hu, bar2Write_barred hr bs hf hu⟩, fun off hr h8 => bar2Read_register hr h8,
    fun t w hr hw hf hd hdark hl k hk hfence => ⟨bar2Read_word hr hw hf hd hdark hl hk hfence, fun bs hb hright hfull =>
      ⟨bar2Write_word hr hw hf hd hdark hl hk hfence hb hright hfull, bar2Write_held hr hw hf hd hdark hl hk hfence hb hright hfull⟩,
      fun bs hb => bar2Write_full hr hw hf hd hdark hl hk hfence hb⟩⟩

end Sys2Proof.Machine
end

section
/-! PROOFS. Power and the first stages of bring-up (R39, R365, R480, R482, R484, R485, R488, R489, R507, R508, R544). -/

namespace Sys2Proof.Machine

/-! ## Bits and fields of a register that is written -/

theorem Dev.rb_wf (d : Dev) (o hi lo x i : Nat) (h : lo ≤ hi) (hh : hi < 64) :
    (d.wf o hi lo x).rb o i = if lo ≤ i ∧ i ≤ hi then x.testBit (i - lo) else d.rb o i := by
  unfold Dev.rb tst
  rw [Dev.rd_wf_same, getLsbD_put _ _ _ _ _ h hh]

theorem Dev.rf_wf_other (d : Dev) (o hi lo x hi' lo' : Nat) (h : lo ≤ hi) (hh : hi < 64) (hd : hi' < lo ∨ hi < lo') :
    (d.wf o hi lo x).rf o hi' lo' = d.rf o hi' lo' := by
  unfold Dev.rf
  rw [Dev.rd_wf_same, fld_put_other _ _ _ _ _ _ h hh hd]

theorem Dev.rb_congr {d e : Dev} {o : Nat} (h : e.rd o = d.rd o) (i : Nat) : e.rb o i = d.rb o i := congrArg (tst · i) h
theorem Dev.rf_congr {d e : Dev} {o : Nat} (h : e.rd o = d.rd o) (hi lo : Nat) : e.rf o hi lo = d.rf o hi lo := congrArg (fld · hi lo) h

theorem testBit_b2n (v : Bool) : (b2n v).testBit 0 = v := by cases v <;> rfl

/-- The last step of a fold that concerns a value settles it. -/
theorem Dev.each_settles {α β : Type} (v : Dev → β) {f : Dev → α → Dev} {l : List α} {x : α} {c : β} (hx : x ∈ l) (hset : ∀ d, v (f d x) = c)
    (hkeep : ∀ y ∈ l, y ≠ x → ∀ d, v (f d y) = v d) (d : Dev) : v (d.each l f) = c := by
  induction l generalizing d with
  | nil => cases hx
  | cons y ys ih =>
    have hkeep' : ∀ z ∈ ys, z ≠ x → ∀ d, v (f d z) = v d := fun z hz => hkeep z (List.mem_cons_of_mem _ hz)
    by_cases hmem : x ∈ ys
    · exact ih hmem hkeep' _
    · have hy : x = y := (List.mem_cons.mp hx).resolve_right hmem
      subst hy
      exact (Dev.each_keeps v (fun z hz => hkeep' z hz fun heq => hmem (heq ▸ hz)) _).trans (hset d)

/-! ## Readiness (R483, R499) -/

theorem readyOff_ne_event (n : Nat) : readyOff n ≠ Reg.EVENT := by unfold readyOff; split <;> decide

/-- A readiness bit that changes changes its register and DEV.EVENT. -/
theorem Dev.setReady_rd (d : Dev) (n : Nat) (v : Bool) {o : Nat} (h : o ≠ readyOff n) (h' : o ≠ Reg.EVENT) : (d.setReady n v).rd o = d.rd o := by
  unfold Dev.setReady
  split
  · rfl
  · rw [Dev.raiseEvent_rd _ _ h', Dev.rd_wf_ne _ _ _ _ h]
@[simp] theorem Dev.inner_setReady (d : Dev) (n : Nat) (v : Bool) : (d.setReady n v).inner = d.inner := by
  unfold Dev.setReady
  split
  · rfl
  · rw [Dev.inner_raiseEvent, Dev.inner_wf]

theorem Dev.setReady_ready (d : Dev) (n : Nat) (v : Bool) : (d.setReady n v).ready n = v := by
  unfold Dev.setReady
  split
  · next h => exact beq_iff_eq.mp h
  · unfold Dev.ready
    rw [Dev.rb_congr (Dev.raiseEvent_rd _ _ (readyOff_ne_event n)), Dev.rb_wf _ _ _ _ _ _ (Nat.le_refl _) (Nat.mod_lt _ (by decide)),
      if_pos ⟨Nat.le_refl _, Nat.le_refl _⟩, Nat.sub_self, testBit_b2n]

theorem Dev.setReady_ready_ne (d : Dev) {n m : Nat} (v : Bool) (h : readyOff m ≠ readyOff n ∨ m % 64 ≠ n % 64) :
    (d.setReady n v).ready m = d.ready m := by
  unfold Dev.setReady
  split
  · rfl
  · unfold Dev.ready
    rw [Dev.rb_congr (Dev.raiseEvent_rd _ _ (readyOff_ne_event m))]
    by_cases ho : readyOff m = readyOff n
    · rw [ho, Dev.rb_wf _ _ _ _ _ _ (Nat.le_refl _) (Nat.mod_lt _ (by decide)), if_neg (by omega)]
    · exact Dev.rb_congr (Dev.rd_wf_ne _ _ _ _ ho) _

/-- The registers that device readiness changes, once (R483). -/
def readyReg (o : Nat) : Prop := o ∈ [Reg.CAP_W, Reg.T_DONE, Reg.READY1, Reg.EVENT] ∨ countsFromReady o = true

theorem smGet_filter_key {α : Type} (r : Nat → α) (p : Nat → Bool) (m : SMap α) {k : Nat} (h : p k = true) :
    smGet r (m.filter fun e => p e.1) k = smGet r m k := by
  induction m with
  | nil => rfl
  | cons e es ih =>
    obtain ⟨k', v⟩ := e
    by_cases hp : p k' = true
    · rw [List.filter_cons_of_pos (by simpa using hp), smGet, smGet, ih]
    · have hne : k' ≠ k := fun heq => hp (heq ▸ h)
      rw [List.filter_cons_of_neg (by simpa using hp), ih, smGet, if_neg hne]

theorem Dev.startCounts_rd (d : Dev) {o : Nat} (h : countsFromReady o = false) (h' : o ≠ Reg.CAP_W) : d.startCounts.rd o = d.rd o := by
  unfold Dev.startCounts
  rw [Dev.rd_wf_ne _ _ _ _ h']
  exact smGet_filter_key regReset (fun k => !countsFromReady k) d.regs (by simp [h])

theorem Dev.checkReady_rd (d : Dev) {o : Nat} (h : ¬ readyReg o) : d.checkReady.rd o = d.rd o := by
  unfold readyReg at h
  simp only [List.mem_cons, List.not_mem_nil, or_false, not_or, Bool.not_eq_true] at h
  obtain ⟨⟨hcap, hdone, hready, hevent⟩, hcount⟩ := h
  unfold Dev.checkReady
  split
  · rw [Dev.startCounts_rd _ hcount hcap, Dev.rd_wr_ne _ _ hdone, Dev.setReady_rd _ _ _ hready hevent]
  · rfl

theorem Dev.checkReady_of_ready {d : Dev} (h : d.ready readyDevice = true) : d.checkReady = d := if_neg (by simp [h])

/-- A device without what reporting and device readiness may touch. -/
def Dev.offReady (d : Dev) : Dev := { d.inner with thermalCap := 0 }

theorem Dev.offReady_of_inner {d e : Dev} (h : e.inner = d.inner) : e.offReady = d.offReady :=
  congrArg (fun x : Dev => { x with thermalCap := 0 }) h
theorem Dev.offReady_boot {d e : Dev} (h : e.offReady = d.offReady) : e.boot = d.boot := show e.offReady.boot = d.offReady.boot by rw [h]
theorem Dev.offReady_l0 {d e : Dev} (h : e.offReady = d.offReady) : e.l0 = d.l0 := show e.offReady.l0 = d.offReady.l0 by rw [h]
theorem Dev.offReady_links {d e : Dev} (h : e.offReady = d.offReady) : e.links = d.links := show e.offReady.links = d.offReady.links by rw [h]

@[simp] theorem Dev.startCounts_offReady (d : Dev) : d.startCounts.offReady = d.offReady := rfl
@[simp] theorem Dev.checkReady_offReady (d : Dev) : d.checkReady.offReady = d.offReady := by
  unfold Dev.checkReady
  split
  · rw [Dev.startCounts_offReady]
    exact Dev.offReady_of_inner (by rw [Dev.inner_wr, Dev.inner_setReady])
  · rfl

theorem Dev.checkReady_ready (d : Dev) {m : Nat} (h : m < 127) : d.checkReady.ready m = d.ready m := by
  have hne : readyOff m ≠ readyOff readyDevice ∨ m % 64 ≠ readyDevice % 64 := by
    unfold readyOff readyDevice
    by_cases hm : m < 64
    · rw [if_pos hm]; exact .inl (by decide)
    · exact .inr (by omega)
  have hoff : readyOff m ≠ Reg.CAP_W ∧ readyOff m ≠ Reg.T_DONE ∧ countsFromReady (readyOff m) = false := by
    unfold readyOff; split <;> decide
  obtain ⟨hcap, hdone, hcount⟩ := hoff
  unfold Dev.checkReady
  split
  · rw [← Dev.setReady_ready_ne d true hne]
    exact Dev.rb_congr ((Dev.startCounts_rd _ hcount hcap).trans (Dev.rd_wr_ne _ _ hdone)) _
  · rfl

/-- A function that becomes ready changes its readiness and failed bits, DEV.EVENT, and what device readiness changes. -/
theorem Dev.nowReady_rd (d : Dev) (n : Nat) {o : Nat} (h : ¬ readyReg o) (hr : o ≠ readyOff n) (hf : o ≠ readyOff n + 0x10) :
    (d.nowReady n).rd o = d.rd o := by
  have hevent : o ≠ Reg.EVENT := fun heq => h (.inl (by simp [heq]))
  rw [Dev.nowReady, Dev.checkReady_rd _ h, Dev.rd_wf_ne _ _ _ _ hf, Dev.setReady_rd _ _ _ hr hevent]

@[simp] theorem Dev.nowReady_offReady (d : Dev) (n : Nat) : (d.nowReady n).offReady = d.offReady := by
  rw [Dev.nowReady, Dev.checkReady_offReady]
  exact Dev.offReady_of_inner (by rw [Dev.inner_wf, Dev.inner_setReady])

theorem Dev.nowReady_ready (d : Dev) {n : Nat} (h : n < 127) : (d.nowReady n).ready n = true := by
  have hne : readyOff n ≠ readyOff n + 0x10 := by omega
  rw [Dev.nowReady, Dev.checkReady_ready _ h]
  exact (Dev.rb_congr (Dev.rd_wf_ne _ _ _ _ hne) _).trans (Dev.setReady_ready ..)

/-- A readiness bit that exists reads in a meaning's answer as the meaning left it. -/
theorem Dev.seal_ready (d : Dev) {n : Nat} (h : (regImpl (readyOff n)).getLsbD (n % 64) = true) : d.seal.ready n = d.ready n :=
  Dev.seal_rb _ _ _ h

/-! ## Stages (R482) -/

theorem Dev.stageUp_rd (d : Dev) (n : Nat) {o : Nat} (h : o ≠ Reg.BOOT_STATUS) : (d.stageUp n).rd o = d.rd o := by
  unfold Dev.stageUp
  split
  · exact Dev.rd_wf_ne _ _ _ _ h
  · rfl
@[simp] theorem Dev.inner_stageUp (d : Dev) (n : Nat) : (d.stageUp n).inner = d.inner := by
  unfold Dev.stageUp; split <;> rfl
theorem Dev.stageUp_stage (d : Dev) {n : Nat} (h : n < 16) : (d.stageUp n).stage = max d.stage n := by
  unfold Dev.stageUp
  split
  · next hlt => rw [Dev.stage, Dev.rf_wf_same _ _ _ _ _ (by decide) (by decide)]; omega
  · next hge => omega
theorem Dev.stageUp_recovery (d : Dev) (n : Nat) : (d.stageUp n).recovery = d.recovery := by
  unfold Dev.stageUp Dev.recovery
  split
  · rw [Dev.rb_wf _ _ _ _ _ _ (by decide) (by decide), if_neg (by decide)]
  · rfl
theorem Dev.seal_stage (d : Dev) : d.seal.stage = d.stage := Dev.seal_rf _ _ _ _ (by decide) (by decide) (by decide)
theorem Dev.seal_recovery (d : Dev) : d.seal.recovery = d.recovery := Dev.seal_rb _ _ _ (by decide)
theorem Dev.nowReady_bootStatus (d : Dev) {n : Nat} : (d.nowReady n).rd Reg.BOOT_STATUS = d.rd Reg.BOOT_STATUS := by
  have hne : Reg.BOOT_STATUS ≠ readyOff n ∧ Reg.BOOT_STATUS ≠ readyOff n + 0x10 := by unfold readyOff; split <;> decide
  exact d.nowReady_rd n (by unfold readyReg; decide) hne.1 hne.2


/-! ## Power (R482, R507, R508, R544) -/

/-- Firn, and what has left, aside, e holds nothing but reset values: d has lost its power. -/
def Dev.ClearedTo (d e : Dev) : Prop :=
  (∀ o, e.rd o = regReset o &&& regImpl o) ∧ (∀ x, e.rdByte x = 0) ∧ e.tiles = [] ∧ e.firn = d.firn ∧ e.wear = d.wear ∧ e.out = d.out

theorem Dev.ClearedTo.seal {d e : Dev} (hr : e.regs = []) (hm : e.mem = []) (ht : e.tiles = []) (hf : e.firn = d.firn) (hw : e.wear = d.wear)
    (ho : e.out = d.out) : d.ClearedTo e.seal := by
  refine ⟨fun o => ?_, fun x => ?_, ?_, hf, hw, ho⟩
  · rw [Dev.seal_rd, Dev.rd, hr]; rfl
  · rw [Dev.seal_rdByte, Dev.rdByte, hm]; rfl
  · unfold Dev.seal; rw [ht]; rfl

/-- A lifetime counter's write joins the queue: the counters are ordinary words, which wear does not bar (R508, R510). -/
theorem Dev.firnCount_eq (d : Dev) {i : Nat} (h : i ≤ 5) :
    d.firnCount i = { d with firnQ := d.firnQ ++ [⟨[(0x40 + i, BitVec.ofNat 32 (d.firnView (0x40 + i) + 1))], false⟩] } := by
  have hword : firnOrdinary (0x40 + i) = true := by simp [firnOrdinary]; omega
  have hworn : ([(0x40 + i, d.firnView (0x40 + i) + 1)].any fun w => d.firnWorn w.1 && !firnOrdinary w.1) = false := by simp [hword]
  rw [Dev.firnCount, Dev.firnPut, hworn]
  rfl

theorem powerLoss_clears (s : State) : Completes .powerLoss s fun e => s.dev.ClearedTo e ∧ e.powered = false ∧ e.firnQ = [] :=
  .of (doPowerLoss s.dev) rfl ⟨.seal rfl rfl rfl rfl rfl rfl, rfl, rfl⟩

theorem powerGood_begins (s : State) (h : s.dev.powered = false) : Completes .powerGood s fun e =>
    s.dev.ClearedTo e ∧ e.powered = true ∧ e.firnView 0x40 = (s.dev.firnRd 0x40 + 1) % 2 ^ 32 := by
  refine .of (s.dev.fromPower.firnCount 0) (congrArg s.ok (if_neg (by simp [h]))) ?_
  rw [Dev.firnCount_eq _ (by decide)]
  exact ⟨.seal rfl rfl rfl rfl rfl rfl, rfl, BitVec.toNat_ofNat ..⟩

/-! ## What stage 1 shows of firn (R390, R417, R485, R508) -/

/-- Registers that the lists of firn do not reach: the identity, the operating points, and the blocks behind FIRN. -/
def offLists (o : Nat) : Prop := o < 0x1400 ∨ (0x300040 ≤ o ∧ o < 0x300100) ∨ 0x900000 ≤ o

theorem offLists_ne {o : Nat} (h : offLists o) : o ≠ Reg.PWR_CTL ∧ (∀ f, o ≠ Reg.PHMAP f ∧ o ≠ Reg.FIELD f ∧ o ≠ Reg.AVL f)
    ∧ (∀ k, o ≠ Reg.L_LANES k) ∧ ∀ s, o ≠ Reg.STACK s := by
  unfold offLists at h
  simp only [Reg.PWR_CTL, Reg.PHMAP, Reg.FIELD, Reg.AVL, Reg.L_LANES, Reg.STACK]
  exact ⟨by omega, fun f => ⟨by omega, by omega, by omega⟩, fun k => by omega, fun s => by omega⟩

theorem Dev.loadPhases_rd (d : Dev) (f : Nat) {o : Nat} (hp : o ≠ Reg.PHMAP f) (hf : o ≠ Reg.FIELD f) (ha : o ≠ Reg.AVL f) :
    (d.loadPhases f).rd o = d.rd o := by
  unfold Dev.loadPhases
  dsimp only
  rw [Dev.syncClamp_rd _ _ hf ha, Dev.rd_wf_ne _ _ _ _ hf, Dev.rd_wf_ne _ _ _ _ hf, Dev.rd_wr_ne _ _ hp]

theorem Dev.rd_congr {d e : Dev} (h : e.regs = d.regs) (o : Nat) : e.rd o = d.rd o := by unfold Dev.rd; rw [h]

theorem Dev.inner_subsys {d e : Dev} (h : d.inner = e.inner) : d.subsys = e.subsys := show d.inner.subsys = e.inner.subsys by rw [h]
theorem Dev.subsys_set (d : Dev) (v : BitVec 32) : ({ d with subsys := v } : Dev).subsys = v := rfl
theorem Dev.subsys_rd (d : Dev) (v : BitVec 32) (o : Nat) : ({ d with subsys := v } : Dev).rd o = d.rd o := rfl
theorem Dev.outFrames_rd (d : Dev) (l : List Nat) (o : Nat) : ({ d with outFrames := l } : Dev).rd o = d.rd o := rfl
theorem Dev.softUsed_rd (d : Dev) (l : List (Nat × Nat × Nat)) (o : Nat) : ({ d with softUsed := l } : Dev).rd o = d.rd o := rfl
theorem Dev.outFrames_subsys (d : Dev) (l : List Nat) : ({ d with outFrames := l } : Dev).subsys = d.subsys := rfl
theorem Dev.softUsed_subsys (d : Dev) (l : List (Nat × Nat × Nat)) : ({ d with softUsed := l } : Dev).subsys = d.subsys := rfl
@[simp] theorem Dev.inner_loadPhases (d : Dev) (f : Nat) : (d.loadPhases f).inner = d.inner := by
  unfold Dev.loadPhases Dev.syncClamp
  dsimp only
  rw [Dev.inner_wr, Dev.inner_wf, Dev.inner_wf, Dev.inner_wf, Dev.inner_wr]

/-- The operating points, as a fold over them writes them. -/
theorem Dev.each_points (d : Dev) (v j : Nat → Nat) {n : Nat} (h : n < 4) :
    let e := d.each (List.range 4) fun e m => (e.wf (Reg.OP m) 15 0 (v m)).wf (Reg.OP m) 47 32 (j m)
    e.rf (Reg.OP n) 15 0 = v n % 2 ^ 16 ∧ e.rf (Reg.OP n) 47 32 = j n % 2 ^ 16 := by
  have hkeep (hi lo : Nat) : ∀ m ∈ List.range 4, m ≠ n → ∀ e : Dev,
      ((e.wf (Reg.OP m) 15 0 (v m)).wf (Reg.OP m) 47 32 (j m)).rf (Reg.OP n) hi lo = e.rf (Reg.OP n) hi lo := by
    intro m hm hmn e
    have hm' := List.mem_range.mp hm
    have hne : Reg.OP n ≠ Reg.OP m := by unfold Reg.OP; omega
    exact Dev.rf_congr ((Dev.rd_wf_ne _ _ _ _ hne).trans (Dev.rd_wf_ne _ _ _ _ hne)) hi lo
  refine ⟨Dev.each_settles (fun e => e.rf (Reg.OP n) 15 0) (List.mem_range.mpr h) (fun e => ?_) (hkeep 15 0) d,
    Dev.each_settles (fun e => e.rf (Reg.OP n) 47 32) (List.mem_range.mpr h) (fun e => ?_) (hkeep 47 32) d⟩
  · rw [Dev.rf_wf_other _ _ _ _ _ _ _ (by decide) (by decide) (by decide), Dev.rf_wf_same _ _ _ _ _ (by decide) (by decide)]
  · rw [Dev.rf_wf_same _ _ _ _ _ (by decide) (by decide)]

theorem Dev.showFirn_shows (d : Dev) :
    d.showFirn.rd Reg.SERIAL = w64 (d.firnRd 0x38 + d.firnRd 0x39 * 2 ^ 32) ∧ d.showFirn.subsys = BitVec.ofNat 32 (d.firnRd 0x82)
      ∧ d.showFirn.rd Reg.BOOT_STATUS = d.rd Reg.BOOT_STATUS
      ∧ ∀ n < 4, d.showFirn.rf (Reg.OP n) 15 0 = d.firnRd (0x200 + n) % 2 ^ 16 ∧ d.showFirn.rf (Reg.OP n) 47 32 = d.firnRd (0x204 + n) % 2 ^ 16 := by
  unfold Dev.showFirn
  dsimp only
  generalize hi : Dev.wr _ Reg.DEV_ID _ = i
  generalize hx : i.each (List.range 4) _ = x
  generalize hy : Dev.each (Dev.each _ (List.range 16) _) (List.range 24) _ = y
  generalize hz : y.each _ _ = z
  have hlate (o : Nat) (h : offLists o) : z.rd o = x.rd o := by
    obtain ⟨hctl, hfield, hlink, hstack⟩ := offLists_ne h
    have hzy : z.rd o = y.rd o := by
      rw [← hz]
      refine Dev.each_keeps (fun e => e.rd o) (fun m _ e => ?_) y
      split
      · exact (Dev.outFrames_rd ..).trans (e.rd_wf_ne _ _ _ (hstack _))
      · exact Dev.softUsed_rd ..
    rw [hzy, ← hy]
    refine (Dev.each_keeps (fun e => e.rd o) (fun k _ e => e.rd_wf_ne _ _ _ (hlink k)) _).trans ?_
    refine (Dev.each_keeps (fun e => e.rd o) (fun f _ e => e.loadPhases_rd f (hfield f).1 (hfield f).2.1 (hfield f).2.2) _).trans ?_
    exact (Dev.subsys_rd ..).trans (x.rd_wf_ne _ _ _ hctl)
  have hpoint {o : Nat} (h : ∀ n, o ≠ Reg.OP n) : x.rd o = i.rd o := by
    rw [← hx]
    exact Dev.each_keeps (fun e => e.rd o) (fun n _ e => (Dev.rd_wf_ne _ _ _ _ (h n)).trans (Dev.rd_wf_ne _ _ _ _ (h n))) i
  refine ⟨?_, ?_, ?_, fun n hn => ?_⟩
  · rw [hlate _ (by unfold offLists; decide), hpoint fun n => by unfold Reg.OP Reg.SERIAL; omega, ← hi, Dev.rd_wr_ne _ _ (by decide), Dev.rd_wr_same]
  · rw [← hz]
    refine (Dev.each_keeps Dev.subsys (fun m _ e => ?_) y).trans ?_
    · split
      · exact (Dev.outFrames_subsys ..).trans (Dev.inner_subsys (Dev.inner_wf ..))
      · exact Dev.softUsed_subsys ..
    · rw [← hy]
      refine (Dev.each_keeps Dev.subsys (fun k _ e => Dev.inner_subsys (Dev.inner_wf ..)) _).trans ?_
      exact (Dev.each_keeps Dev.subsys (fun f _ e => Dev.inner_subsys (Dev.inner_loadPhases ..)) _).trans (Dev.subsys_set ..)
  · rw [hlate _ (by unfold offLists; decide), hpoint fun n => by unfold Reg.OP Reg.BOOT_STATUS; omega, ← hi, Dev.rd_wr_ne _ _ (by decide), Dev.rd_wr_ne _ _ (by decide)]
  · have hoff : offLists (Reg.OP n) := by unfold offLists Reg.OP; omega
    rw [Dev.rf_congr (hlate _ hoff), Dev.rf_congr (hlate _ hoff), ← hx]
    exact i.each_points _ _ hn

/-- Stage 1 ends with what firn shows, and stage 2 begins. -/
theorem firstStageDone_begins (a b : List Byte) (s : State) (hp : s.dev.powered = true) (h : s.dev.stage = 1) :
    Completes (.firstStageDone a b) s fun e => e.stage = 2 ∧ e.boot.slotA = a ∧ e.boot.slotB = b
      ∧ e.rd Reg.SERIAL = w64 (s.dev.firnRd 0x38 + s.dev.firnRd 0x39 * 2 ^ 32) ∧ e.subsys = BitVec.ofNat 32 (s.dev.firnRd 0x82)
      ∧ ∀ n < 4, e.rf (Reg.OP n) 15 0 = s.dev.firnRd (0x200 + n) % 2 ^ 16 ∧ e.rf (Reg.OP n) 47 32 = s.dev.firnRd (0x204 + n) % 2 ^ 16 := by
  obtain ⟨hserial, hsubsys, hstatus, hpoints⟩ := s.dev.showFirn_shows
  have hup {o : Nat} (ho : o ≠ Reg.BOOT_STATUS) (v : Boot) : ({ s.dev.showFirn.stageUp 2 with boot := v } : Dev).rd o = s.dev.showFirn.rd o :=
    (Dev.rd_congr rfl o).trans (Dev.stageUp_rd _ _ ho)
  have himpl : ∀ n < 4, regImpl (Reg.OP n) &&& maskOf 15 0 = maskOf 15 0 ∧ regImpl (Reg.OP n) &&& maskOf 47 32 = maskOf 47 32 := by decide
  refine .of { s.dev.showFirn.stageUp 2 with boot := { s.dev.boot with slotA := a, slotB := b } } (congrArg s.ok (if_neg (by simp [hp, h])))
    ⟨?_, rfl, rfl, ?_, ?_, fun n hn => ?_⟩
  · have hstage : s.dev.showFirn.stage = 1 := (congrArg (fld · 59 56) hstatus).trans h
    rw [Dev.seal_stage]
    calc _ = (s.dev.showFirn.stageUp 2).stage := Dev.rf_congr (Dev.rd_congr rfl _) 59 56
      _ = 2 := by rw [Dev.stageUp_stage _ (by decide), hstage]; rfl
  · rw [Dev.seal_rd_all _ _ (by decide), hup (by decide), hserial]
  · calc _ = (s.dev.showFirn.stageUp 2).subsys := rfl
      _ = s.dev.showFirn.subsys := Dev.inner_subsys (Dev.inner_stageUp ..)
      _ = _ := hsubsys
  · have hne : Reg.OP n ≠ Reg.BOOT_STATUS := by unfold Reg.OP Reg.BOOT_STATUS; omega
    rw [Dev.seal_rf _ _ _ _ (himpl n hn).1 (by decide) (by decide), Dev.seal_rf _ _ _ _ (himpl n hn).2 (by decide) (by decide),
      Dev.rf_congr (hup hne _), Dev.rf_congr (hup hne _)]
    exact hpoints n hn

theorem firstStageDone_other (a b : List Byte) (s : State) (h : s.dev.powered = false ∨ s.dev.stage ≠ 1) :
    Completes (.firstStageDone a b) s fun e => OnlyRegs [] s.dev e :=
  .of s.dev (congrArg s.ok (if_pos (by simpa using h))) (.refl ..)

/-! ## The boot bundle (R485, R488, R489) -/

theorem Dev.keyed_rd (d : Dev) (k : BitVec 256) (v : Boot) (o : Nat) : ({ d with ownerPub := k, boot := v } : Dev).rd o = d.rd o := rfl

/-- A bundle that is taken is held with its slot, ends recovery, makes the boot function ready, and leaves the stage. -/
theorem Dev.takeBundle_takes (d : Dev) (b : List Byte) (slot : Nat) (pushed : Bool) :
    let e := d.takeBundle b slot pushed
    e.boot = { d.boot with bundle := b, lastSlot := slot, scriptRan := false } ∧ e.stage = d.stage ∧ e.recovery = false ∧ e.ready 0 = true := by
  unfold Dev.takeBundle
  dsimp only
  refine ⟨(Dev.offReady_boot (Dev.nowReady_offReady ..)).trans rfl, ?_, ?_, Dev.nowReady_ready _ (by decide)⟩
  · rw [Dev.stage, Dev.rf_congr (Dev.nowReady_bootStatus _), Dev.rf_wf_other _ _ _ _ _ _ _ (by decide) (by decide) (by decide),
      Dev.rf_wf_other _ _ _ _ _ _ _ (by decide) (by decide) (by decide), Dev.rf_wf_other _ _ _ _ _ _ _ (by decide) (by decide) (by decide),
      Dev.rf_wf_other _ _ _ _ _ _ _ (by decide) (by decide) (by decide)]
    exact Dev.rf_congr (Dev.keyed_rd ..) _ _
  · rw [Dev.recovery, Dev.rb_congr (Dev.nowReady_bootStatus _), Dev.rb_wf _ _ _ _ _ _ (by decide) (by decide)]
    rfl

/-- What a flash slot held as stage 2 began. -/
def Dev.slotBytes (d : Dev) (k : Nat) : List Byte := if k = 0 then d.boot.slotA else d.boot.slotB

/-- The slot that is verified first. -/
def Dev.firstSlot (d : Dev) : Nat := if bundleSvn d.boot.slotB > bundleSvn d.boot.slotA then 1 else 0

theorem doBundleVerified_eq {d : Dev} (h : d.stage = 2) : doBundleVerified d =
    (if d.checkBundle (d.slotBytes d.firstSlot) = 0 then d.takeBundle (d.slotBytes d.firstSlot) d.firstSlot false
      else if d.checkBundle (d.slotBytes (1 - d.firstSlot)) = 0 then d.takeBundle (d.slotBytes (1 - d.firstSlot)) (1 - d.firstSlot) false
      else (d.wf Reg.BOOT_STATUS 63 63 1).firnCount 4).stageUp 3 := by
  unfold doBundleVerified Dev.slotBytes Dev.firstSlot
  rw [if_neg (by simp [h])]

/-- The end of stage 2 with the bundle of slot k taken. -/
theorem takeBundle_stageUp_seal {d : Dev} (h : d.stage = 2) (b : List Byte) (k : Nat) :
    let e := ((d.takeBundle b k false).stageUp 3).seal
    e.stage = 3 ∧ e.boot.bundle = b ∧ e.boot.lastSlot = k ∧ e.recovery = false ∧ e.ready 0 = true := by
  obtain ⟨hboot, hstage, hrec, hready⟩ := d.takeBundle_takes b k false
  have hboot' : ((d.takeBundle b k false).stageUp 3).boot = { d.boot with bundle := b, lastSlot := k, scriptRan := false } :=
    (Dev.inner_boot (Dev.inner_stageUp ..)).trans hboot
  refine ⟨?_, congrArg Boot.bundle hboot', congrArg Boot.lastSlot hboot', ?_, ?_⟩
  · rw [Dev.seal_stage, Dev.stageUp_stage _ (by decide), hstage, h]; rfl
  · rw [Dev.seal_recovery, Dev.stageUp_recovery, hrec]
  · rw [Dev.seal_ready _ (by decide)]
    exact (Dev.rb_congr (Dev.stageUp_rd _ _ (by decide)) _).trans hready

/-- The end of stage 2 without a bundle. -/
theorem recovery_stageUp_seal {d : Dev} (h : d.stage = 2) :
    let e := (((d.wf Reg.BOOT_STATUS 63 63 1).firnCount 4).stageUp 3).seal
    e.stage = 3 ∧ e.recovery = true ∧ e.boot = d.boot := by
  have hregs (x : Dev) : (x.firnCount 4).rd Reg.BOOT_STATUS = x.rd Reg.BOOT_STATUS := by rw [Dev.firnCount_eq _ (by decide)]; rfl
  have hboot (x : Dev) : (x.firnCount 4).boot = x.boot := by rw [Dev.firnCount_eq _ (by decide)]
  refine ⟨?_, ?_, ?_⟩
  · have hs : ((d.wf Reg.BOOT_STATUS 63 63 1).firnCount 4).stage = 2 := by
      rw [Dev.stage, Dev.rf_congr (hregs _), Dev.rf_wf_other _ _ _ _ _ _ _ (by decide) (by decide) (by decide)]; exact h
    rw [Dev.seal_stage, Dev.stageUp_stage _ (by decide), hs]; rfl
  · rw [Dev.seal_recovery, Dev.stageUp_recovery, Dev.recovery, Dev.rb_congr (hregs _), Dev.rb_wf _ _ _ _ _ _ (by decide) (by decide)]; rfl
  · calc _ = (((d.wf Reg.BOOT_STATUS 63 63 1).firnCount 4).stageUp 3).boot := rfl
      _ = ((d.wf Reg.BOOT_STATUS 63 63 1).firnCount 4).boot := Dev.inner_boot (Dev.inner_stageUp ..)
      _ = d.boot := (hboot _).trans (Dev.wr_boot ..)

/-- Stage 2 ends: the verdicts of the two slots' bundles decide which is taken, or that the device is in recovery. -/
theorem bundleVerified_ends (s : State) (h : s.dev.stage = 2) :
    let takes (k : Nat) (e : Dev) : Prop := e.boot.bundle = s.dev.slotBytes k ∧ e.boot.lastSlot = k ∧ e.recovery = false ∧ e.ready 0 = true
    Completes .bundleVerified s fun e => e.stage = 3
      ∧ (s.dev.checkBundle (s.dev.slotBytes s.dev.firstSlot) = 0 → takes s.dev.firstSlot e)
      ∧ (s.dev.checkBundle (s.dev.slotBytes s.dev.firstSlot) ≠ 0 → s.dev.checkBundle (s.dev.slotBytes (1 - s.dev.firstSlot)) = 0 →
        takes (1 - s.dev.firstSlot) e)
      ∧ (s.dev.checkBundle (s.dev.slotBytes s.dev.firstSlot) ≠ 0 → s.dev.checkBundle (s.dev.slotBytes (1 - s.dev.firstSlot)) ≠ 0 →
        e.recovery = true ∧ e.boot = s.dev.boot) := by
  intro takes
  refine .of (doBundleVerified s.dev) rfl ?_
  rw [doBundleVerified_eq h]
  split
  · next h1 =>
    obtain ⟨hstage, htakes⟩ := takeBundle_stageUp_seal h (s.dev.slotBytes s.dev.firstSlot) s.dev.firstSlot
    exact ⟨hstage, fun _ => htakes, fun hn => absurd h1 hn, fun hn => absurd h1 hn⟩
  · next h1 =>
    split
    · next h2 =>
      obtain ⟨hstage, htakes⟩ := takeBundle_stageUp_seal h (s.dev.slotBytes (1 - s.dev.firstSlot)) (1 - s.dev.firstSlot)
      exact ⟨hstage, fun hp => absurd hp h1, fun _ _ => htakes, fun _ hn => absurd h2 hn⟩
    · next h2 =>
      obtain ⟨hstage, hrec⟩ := recovery_stageUp_seal h
      exact ⟨hstage, fun hp => absurd hp h1, fun _ hp => absurd hp h2, fun _ _ => hrec⟩

theorem bundleVerified_other (s : State) (h : s.dev.stage ≠ 2) : Completes .bundleVerified s fun e => OnlyRegs [] s.dev e :=
  .of s.dev (congrArg s.ok (if_pos h)) (.refl ..)

/-! ## The clock mesh (R365, R482) -/

theorem clockMeshLock_locks (s : State) (h : 3 ≤ s.dev.stage) (hr : s.dev.ready 1 = false) : Completes .clockMeshLock s fun e =>
    e.ready 1 = true ∧ e.rb Reg.CLK_STATUS 63 = true ∧ e.rb Reg.CLK_STATUS 62 = true
      ∧ e.stage = max s.dev.stage (if s.dev.recovery then 4 else 5) := by
  let x := (s.dev.wf Reg.CLK_STATUS 63 62 3).nowReady 1
  have hstage : x.stage = s.dev.stage :=
    (Dev.rf_congr (Dev.nowReady_bootStatus _) _ _).trans (Dev.rf_congr (Dev.rd_wf_ne _ _ _ _ (by decide)) _ _)
  have hup {o : Nat} (ho : o ≠ Reg.BOOT_STATUS) : ((x.stageUp 4).when (!s.dev.recovery) (·.stageUp 5)).rd o = x.rd o := by
    unfold Dev.when
    split
    · rw [Dev.stageUp_rd _ _ ho, Dev.stageUp_rd _ _ ho]
    · rw [Dev.stageUp_rd _ _ ho]
  have hclk (i : Nat) (h : 62 ≤ i ∧ i ≤ 63) : x.rb Reg.CLK_STATUS i = true := by
    have hrd := (s.dev.wf Reg.CLK_STATUS 63 62 3).nowReady_rd 1 (o := Reg.CLK_STATUS) (by unfold readyReg; decide) (by decide) (by decide)
    rw [Dev.rb_congr hrd, Dev.rb_wf _ _ _ _ _ _ (by decide) (by decide), if_pos h]
    obtain rfl | rfl : i = 62 ∨ i = 63 := by omega
    · rfl
    · rfl
  refine .of ((x.stageUp 4).when (!s.dev.recovery) (·.stageUp 5)) (congrArg s.ok (if_neg (by simp [hr]; omega))) ⟨?_, ?_, ?_, ?_⟩
  · rw [Dev.seal_ready _ (by decide)]
    exact (Dev.rb_congr (hup (by decide)) _).trans (Dev.nowReady_ready _ (by decide))
  · rw [Dev.seal_rb _ _ _ (by decide), Dev.rb_congr (hup (by decide)), hclk _ (by decide)]
  · rw [Dev.seal_rb _ _ _ (by decide), Dev.rb_congr (hup (by decide)), hclk _ (by decide)]
  · rw [Dev.seal_stage, Dev.when]
    cases hrec : s.dev.recovery
    · simp [Dev.stageUp_stage, hstage]
    · simp [Dev.stageUp_stage, hstage]

theorem clockMeshLock_other (s : State) (h : s.dev.stage < 3 ∨ s.dev.ready 1 = true) : Completes .clockMeshLock s fun e => OnlyRegs [] s.dev e :=
  .of s.dev (congrArg s.ok (if_pos (by simpa using h))) (.refl ..)

/-! ## Host ports (R39, R480, R482) -/

theorem getLsbD_or_bit (x : BitVec 2) (p : Port) : (x ||| BitVec.ofNat 2 (2 ^ p.val)).getLsbD p = true := by
  rw [BitVec.getLsbD_or]
  have : (BitVec.ofNat 2 (2 ^ p.val)).getLsbD p = true := by revert p; decide
  rw [this, Bool.or_true]

theorem perstDeassert_notes (p : Port) (s : State) : Completes (.perstDeassert p) s fun e =>
    e.boot = { s.dev.boot with perstOff := e.boot.perstOff } ∧ e.boot.perstOff.getLsbD p = true ∧ RegsBut [] s.dev e ∧ SameBytes s.dev e :=
  .of (doPerst p.val s.dev) rfl ⟨rfl, getLsbD_or_bit .., .seal fun _ _ => rfl, .seal fun _ => rfl⟩

/-- The width of a bridge's port (R39). -/
def bridgeWidth (m : Modules) (w : Nat) : Nat := if m.rate < 144 then min 8 w else w

/-- A device with the attachment of a port's bridge as it trained. -/
def Dev.attached (d : Dev) (p : Nat) (m : Modules) (w : Nat) : Dev :=
  { d.setUcie (24 + p) m with boot := { d.boot with width := smSet noWidth d.boot.width p (bridgeWidth m w) } }

theorem Dev.attached_rd (d : Dev) (p : Nat) (m : Modules) (w o : Nat) : (d.attached p m w).rd o = d.rd o := rfl
theorem Dev.draw_rd (d : Dev) (o : Nat) : d.draw.2.rd o = d.rd o := rfl
theorem Dev.draw_boot (d : Dev) : d.draw.2.boot = d.boot := rfl

theorem Dev.widthLimit_eq (d : Dev) (p : Nat) (m : Modules) (w : Nat) : d.widthLimit p m w =
    if 144 ≤ m.rate then d.attached p m w
    else (d.attached p m w).draw.2.varveLog 31 2 6 p { port := some p } 2 (d.attached p m w).draw.1 := rfl

/-- A bridge's limit is entered in the log, and nothing else of the registers changes. -/
theorem Dev.widthLimit_rd (d : Dev) (p : Nat) (m : Modules) (w : Nat) {o : Nat} (h : ¬ vrvReg o ∨ 144 ≤ m.rate) : (d.widthLimit p m w).rd o = d.rd o := by
  rw [Dev.widthLimit_eq]
  split
  · exact Dev.attached_rd ..
  · next hlt => rw [Dev.varveLog_rd _ _ _ _ _ _ _ _ (h.resolve_right hlt), Dev.draw_rd, Dev.attached_rd]
theorem Dev.attached_killed (d : Dev) (p : Nat) (m : Modules) (w : Nat) : (d.attached p m w).killed = d.killed := rfl
theorem Dev.draw_killed (d : Dev) : d.draw.2.killed = d.killed := rfl
theorem Dev.widthLimit_entry (d : Dev) (p : Nat) {m : Modules} (w : Nat) (h : m.rate < 144) (hk : d.killed = false) :
    (d.widthLimit p m w).rd (Reg.VRV_EV 31) = d.rd (Reg.VRV_EV 31) + 1 := by
  have hk' : (d.attached p m w).draw.2.killed = false := by rw [Dev.draw_killed, Dev.attached_killed, hk]
  rw [Dev.widthLimit_eq, if_neg (by omega), Dev.varveLog_rd_ev _ _ _ _ _ _ _ _ hk', Dev.draw_rd, Dev.attached_rd]
theorem Dev.widthLimit_boot (d : Dev) (p : Nat) (m : Modules) (w : Nat) : (d.widthLimit p m w).boot = (d.attached p m w).boot := by
  rw [Dev.widthLimit_eq]
  split
  · rfl
  · rw [Dev.inner_boot (Dev.inner_varveLog ..), Dev.draw_boot]

section
variable {s : State} {p : Port} {full half : BitVec 4} {w : Fin 5}

theorem hostPortTrained_other (h : s.dev.ready 1 = false ∨ s.dev.boot.perstOff.getLsbD p = false
    ∨ Modules.rate ⟨full.setWidth 8, half.setWidth 8⟩ = 0) :
    Completes (.hostPortTrained ⟨p, full, half, w⟩) s fun e => OnlyRegs [] s.dev e :=
  .of s.dev (congrArg s.ok (if_pos (by simpa [or_assoc] using h))) (.refl ..)

/-- A bridge trains: the port is in L0, and ready unless it is fenced. -/
theorem hostPortTrained_trains (hr : s.dev.ready 1 = true) (hp : s.dev.boot.perstOff.getLsbD p = true)
    (hm : Modules.rate ⟨full.setWidth 8, half.setWidth 8⟩ ≠ 0) :
    let rate := Modules.rate ⟨full.setWidth 8, half.setWidth 8⟩
    Completes (.hostPortTrained ⟨p, full, half, w⟩) s fun e => e.inL0 p = true ∧ (s.dev.portFenced p = false → e.ready (readyPort p) = true)
      ∧ smGet noWidth e.boot.width p = (if rate < 144 then min 8 (2 ^ w.val) else 2 ^ w.val)
      ∧ (s.dev.portFenced p = true → RegsLog [] s.dev e ∧ (144 ≤ rate → RegsBut [] s.dev e))
      ∧ (rate < 144 → s.dev.killed = false → e.rd (Reg.VRV_EV 31) = s.dev.rd (Reg.VRV_EV 31) + 1) := by
  intro rate
  have himpl : ∀ p : Port, (regImpl (readyOff (readyPort p))).getLsbD (readyPort p % 64) = true ∧ readyPort p < 127
      ∧ readyOff (readyPort p) = Reg.READY1 := by decide
  obtain ⟨hport, hlt, hoff⟩ := himpl p
  let m : Modules := ⟨full.setWidth 8, half.setWidth 8⟩
  let x := (s.dev.widthLimit p m (2 ^ w.val)).setL0 p true
  have hx (o : Nat) : x.rd o = (s.dev.widthLimit p m (2 ^ w.val)).rd o := rfl
  let y := x.when (!s.dev.portFenced p) (·.nowReady (readyPort p))
  have hy : y.offReady = x.offReady := by
    unfold y Dev.when
    split
    · exact Dev.nowReady_offReady ..
    · rfl
  have hev : y.rd (Reg.VRV_EV 31) = x.rd (Reg.VRV_EV 31) := by
    unfold y Dev.when
    split
    · exact x.nowReady_rd _ (by unfold readyReg; decide) (by rw [hoff]; decide) (by rw [hoff]; decide)
    · rfl
  have hfenced (hf : s.dev.portFenced p = true) : y = x := if_neg (by simp [hf])
  refine .of y (congrArg s.ok (if_neg (by simp [hr, hp, hm]))) ⟨?_, fun hf => ?_, ?_, fun hf => ⟨fun o _ hv => ?_, fun hge => ?_⟩, fun hlt hk => ?_⟩
  · calc y.l0.getLsbD p = x.l0.getLsbD p := by rw [Dev.offReady_l0 hy]
      _ = true := getLsbD_or_bit ..
  · rw [Dev.seal_ready _ hport]
    have hready : y = x.nowReady (readyPort p) := if_pos (by simp [hf])
    rw [hready]
    exact Dev.nowReady_ready _ hlt
  · calc smGet noWidth y.boot.width p = smGet noWidth (s.dev.widthLimit p m (2 ^ w.val)).boot.width p := by rw [Dev.offReady_boot hy]; rfl
      _ = _ := by rw [Dev.widthLimit_boot]; exact smGet_smSet_same ..
  · rw [Dev.seal_rd, hfenced hf, hx, Dev.widthLimit_rd _ _ _ _ (.inl hv)]
  · rw [hfenced hf]
    exact .seal fun o _ => (hx o).trans (Dev.widthLimit_rd _ _ _ _ (.inr hge))
  · rw [Dev.seal_rd_all _ _ (by decide), hev, hx]
    exact Dev.widthLimit_entry _ _ _ hlt hk

end

/-- Settles O51: each clause is the completion of one command of the first stages, as the lemmas above give it. -/
theorem powerAndFirstStages : Obligations.PowerAndFirstStages := by
  intro p a b s
  refine ⟨powerLoss_clears s, powerGood_begins s, fun h => .of s.dev (congrArg s.ok (if_pos h)) (.refl ..), firstStageDone_begins a b s,
    firstStageDone_other a b s, ?_, bundleVerified_other s, clockMeshLock_locks s, clockMeshLock_other s, perstDeassert_notes p s,
    fun full half w => ⟨hostPortTrained_trains, hostPortTrained_other⟩⟩
  rintro n rfl h
  exact bundleVerified_ends s h

end Sys2Proof.Machine
end

section
/-! PROOFS. Neori links: taking a link out of use, training, and authentication (R39, R425 to R429). -/

namespace Sys2Proof.Machine

/-! ## Records of copies that end (R434, R472 to R474) -/

/-- A register that the records of operations that end do not reach: those show in the DEV block, and in the log. -/
def offRecs (o : Nat) : Prop := 0x100000 ≤ o ∧ ¬ vrvReg o

/-- The links, and those whose lasers are off. -/
def Dev.linkSide (d : Dev) : SMap LinkSt × List Nat := (d.links, d.laserOff)

theorem Dev.inner_linkSide {d e : Dev} (h : d.inner = e.inner) : d.linkSide = e.linkSide := show d.inner.linkSide = e.inner.linkSide by rw [h]
theorem Dev.linkSide_lnk {d e : Dev} (h : e.linkSide = d.linkSide) (k : Nat) : e.lnk k = d.lnk k := by
  unfold Dev.lnk; rw [show e.links = d.links from congrArg Prod.fst h]
theorem Dev.linkSide_laserOff {d e : Dev} (h : e.linkSide = d.linkSide) : e.laserOff = d.laserOff := congrArg Prod.snd h

theorem offRecs_ne {o : Nat} (h : offRecs o) (p : Nat) : o ≠ Reg.P_CQ_WR p ∧ o ≠ Reg.P_LOST p ∧ o ≠ Reg.P_CTL p := by
  unfold offRecs at h
  unfold Reg.P_CQ_WR Reg.P_LOST Reg.P_CTL
  omega

theorem Dev.wrote_rd (d : Dev) (v : BitVec 2) (o : Nat) : ({ d with wrote := v } : Dev).rd o = d.rd o := rfl
theorem Dev.putRec_rd (d : Dev) (r : Rec) {o : Nat} (h : offRecs o) : (d.putRec r).rd o = d.rd o := by
  unfold Dev.putRec
  dsimp only
  rw [Dev.wrote_rd, Dev.inc, Dev.rd_add_ne _ _ (offRecs_ne h _).1, Dev.emit_rd]
theorem Dev.putRec_linkSide (d : Dev) (r : Rec) : (d.putRec r).linkSide = d.linkSide := rfl

theorem Dev.giveRec_rd (d : Dev) (r : Rec) {o : Nat} (h : offRecs o) : (d.giveRec r).rd o = d.rd o := by
  obtain ⟨-, hlost, hctl⟩ := offRecs_ne h r.port
  unfold Dev.giveRec
  dsimp only
  split
  · exact d.putRec_rd r h
  · split
    · rfl
    · rw [Dev.varveLog_rd _ _ _ _ _ _ _ _ h.2, Dev.rd_wf_ne _ _ _ _ hctl]
      exact d.rd_add_ne _ hlost
theorem Dev.giveRec_linkSide (d : Dev) (r : Rec) : (d.giveRec r).linkSide = d.linkSide := by
  unfold Dev.giveRec
  dsimp only
  split
  · exact d.putRec_linkSide r
  · split
    · rfl
    · exact Dev.inner_linkSide (by rw [Dev.inner_varveLog, Dev.inner_wf, Dev.inner_inc])

theorem Dev.control_rd (d : Dev) (port tag op ctx status w3 : Nat) {o : Nat} (h : offRecs o) :
    (d.control port tag op ctx status w3).rd o = d.rd o := by
  unfold Dev.control
  dsimp only
  split
  · rfl
  · split
    · rfl
    · exact d.giveRec_rd _ h
theorem Dev.control_linkSide (d : Dev) (port tag op ctx status w3 : Nat) : (d.control port tag op ctx status w3).linkSide = d.linkSide := by
  unfold Dev.control
  dsimp only
  split
  · rfl
  · split
    · rfl
    · exact d.giveRec_linkSide _

theorem Dev.endCopy_rd (d : Dev) (c : Copy) (status units : Nat) {o : Nat} (h : offRecs o) : (d.endCopy c status units).rd o = d.rd o :=
  Dev.control_rd _ _ _ _ _ _ _ h
theorem Dev.endCopy_linkSide (d : Dev) (c : Copy) (status units : Nat) : (d.endCopy c status units).linkSide = d.linkSide :=
  Dev.control_linkSide ..

theorem Dev.cause_rd (d : Dev) (n o : Nat) : (d.cause n).rd o = d.rd o := by unfold Dev.cause; split <;> rfl
theorem Dev.cause_linkSide (d : Dev) (n : Nat) : (d.cause n).linkSide = d.linkSide := by unfold Dev.cause; split <;> rfl
theorem Dev.childGone_linkSide (d : Dev) (k : Nat) : (d.childGone k).linkSide = d.linkSide := by unfold Dev.childGone; split <;> rfl

/-! ## STATE of a link (R452, R476, R499) -/

theorem Reg.lStatus_ne (k : Nat) : Reg.L_STATUS k ≠ Reg.EVENT ∧ Reg.L_STATUS k ≠ Reg.READY1 ∧ ∀ j, Reg.L_STATUS k ≠ Reg.L_LANES j
    ∧ Reg.L_STATUS k ≠ Reg.ATTEMPTS j := by
  unfold Reg.L_STATUS Reg.EVENT Reg.READY1 Reg.L_LANES Reg.ATTEMPTS
  exact ⟨by omega, by omega, fun j => ⟨by omega, by omega⟩⟩
theorem not_vrvReg_lStatus (k : Nat) : ¬ vrvReg (Reg.L_STATUS k) := by unfold vrvReg Reg.L_STATUS; omega
theorem readyOff_link (k : Nat) : readyOff (readyLink k) = Reg.READY1 := if_neg (by unfold readyLink; omega)

theorem Dev.linkState_congr {d e : Dev} {k : Nat} (h : e.rd (Reg.L_STATUS k) = d.rd (Reg.L_STATUS k)) : e.linkState k = d.linkState k :=
  Dev.rf_congr h 63 61
/-- The bits of LNK.Lk_STATUS below 61 are not STATE. -/
theorem Dev.linkState_wf (d : Dev) {k hi lo x : Nat} (h : lo ≤ hi) (hh : hi < 61) : (d.wf (Reg.L_STATUS k) hi lo x).linkState k = d.linkState k :=
  d.rf_wf_other _ _ _ _ _ _ h (by omega) (.inr hh)

/-- STATE that changes changes its register, DEV.EVENT and READY1. -/
theorem Dev.setLink_rd (d : Dev) (k v : Nat) {o : Nat} (hs : o ≠ Reg.L_STATUS k) (he : o ≠ Reg.EVENT) (hr : o ≠ Reg.READY1) :
    (d.setLink k v).rd o = d.rd o := by
  unfold Dev.setLink
  split
  · rfl
  · rw [Dev.setReady_rd _ _ _ (by rwa [readyOff_link]) he, Dev.raiseEvent_rd _ _ he, Dev.rd_wf_ne _ _ _ _ hs]
@[simp] theorem Dev.inner_setLink (d : Dev) (k v : Nat) : (d.setLink k v).inner = d.inner := by
  unfold Dev.setLink
  split
  · rfl
  · rw [Dev.inner_setReady, Dev.inner_raiseEvent, Dev.inner_wf]

/-- LNK.Lk_STATUS with a new STATE: but for STATE it stays. -/
theorem Dev.setLink_status (d : Dev) (k v : Nat) : (d.setLink k v).rd (Reg.L_STATUS k) = d.rd (Reg.L_STATUS k) ∧ d.linkState k = v
    ∨ (d.setLink k v).rd (Reg.L_STATUS k) = put (d.rd (Reg.L_STATUS k)) 63 61 v := by
  obtain ⟨hevent, hready, -⟩ := Reg.lStatus_ne k
  unfold Dev.setLink
  split
  · next h => exact .inl ⟨rfl, h⟩
  · rw [Dev.setReady_rd _ _ _ (by rwa [readyOff_link]) hevent, Dev.raiseEvent_rd _ _ hevent, Dev.rd_wf_same]
    exact .inr rfl
theorem Dev.setLink_linkState (d : Dev) (k : Nat) {v : Nat} (h : v < 8) : (d.setLink k v).linkState k = v := by
  rcases d.setLink_status k v with ⟨hrd, hv⟩ | hrd
  · exact (Dev.linkState_congr hrd).trans hv
  · unfold Dev.linkState Dev.rf
    rw [hrd, fld_put_same _ _ _ _ (by decide) (by decide)]
    exact Nat.mod_eq_of_lt h
theorem Dev.setLink_rb (d : Dev) (k v : Nat) {i : Nat} (h : i < 61) : (d.setLink k v).rb (Reg.L_STATUS k) i = d.rb (Reg.L_STATUS k) i := by
  rcases d.setLink_status k v with ⟨hrd, -⟩ | hrd
  · exact Dev.rb_congr hrd i
  · unfold Dev.rb tst
    rw [hrd, getLsbD_put _ _ _ _ _ (by decide) (by decide), if_neg (by omega)]
theorem Dev.setLink_rf (d : Dev) (k v : Nat) {hi : Nat} (lo : Nat) (h : hi < 61) :
    (d.setLink k v).rf (Reg.L_STATUS k) hi lo = d.rf (Reg.L_STATUS k) hi lo :=
  fld_congr fun _ _ hi' => d.setLink_rb k v (by omega)

theorem Dev.setLink_ready (d : Dev) (k : LinkId) (v : Nat) : (d.setLink k v).ready readyDevice = d.ready readyDevice := by
  unfold Dev.setLink
  split
  · rfl
  · rw [Dev.setReady_ready_ne _ _ (.inr (by unfold readyDevice readyLink; omega))]
    have hs : readyOff readyDevice ≠ Reg.L_STATUS k := (Reg.lStatus_ne k).2.1.symm
    exact Dev.rb_congr ((Dev.raiseEvent_rd _ _ (readyOff_ne_event _)).trans (Dev.rd_wf_ne _ _ _ _ hs)) _

/-- Whether a link may train rests on its control register, the device ID, the stage of bring-up and its lasers. -/
theorem Dev.mayTrain_congr {d e : Dev} {k : Nat} (hc : e.rd (Reg.L_CTL k) = d.rd (Reg.L_CTL k)) (hi : e.rd Reg.DEVID = d.rd Reg.DEVID)
    (hb : e.rd Reg.BOOT_STATUS = d.rd Reg.BOOT_STATUS) (hl : e.laserOff = d.laserOff) : e.mayTrain k = d.mayTrain k := by
  unfold Dev.mayTrain Dev.idLocked
  rw [Dev.rb_congr hc, Dev.rb_congr hi, Dev.rf_congr hb, hl]

/-! ## Taking a link out of use (R434, R516) -/

/-- A link's replay buffer, credits and queue are cleared. -/
def Dev.clearLnk (d : Dev) (k : Nat) : Dev :=
  let e := (d.lnk k).queue.foldl Dev.freeBuffer (d.setLnk k {})
  ({ e with links := e.links.map fun (x : Nat × LinkSt) => (x.1, x.2.orphan k) } : Dev).setLnk k {}
/-- A link's registers out of use. -/
def Dev.leaveUse (d : Dev) (k st : Nat) : Dev := ((d.setLink k st).wf (Reg.L_STATUS k) 60 59 0).wf (Reg.L_LANES k) 16 0 0
/-- The parent of the time base is gone with its link. -/
def Dev.leaveParent (d : Dev) (k : Nat) : Dev := if d.parent == some k then { d with parent := none } else d
/-- What rests on a link lost: the copies with cells there, the parent, the child of a vote, the frame's verdict. -/
def Dev.settleLoss (d : Dev) (k : Nat) (lost : List Nat) (wasUp : Bool) : Dev :=
  let d := d.each (d.copies.filter fun c => lost.contains c.id) fun d c => d.endCopy c St.LINK_DOWN 0
  let d := (d.leaveParent k).childGone k
  d.when (wasUp && d.rf (Reg.INPUT k) 63 32 != 0) (·.cause 10)

theorem Dev.dropLink_eq (d : Dev) (k st : Nat) : d.dropLink k st = ((d.clearLnk k).leaveUse k st).settleLoss k
    ((((d.lnk k).sent.map (·.cell) ++ (d.lnk k).queue).filterMap (·.copy)).eraseDups) (d.linkUp k) := rfl

theorem Dev.when_keeps {β : Type} (v : Dev → β) {f : Dev → Dev} (h : ∀ d, v (f d) = v d) (d : Dev) (b : Bool) : v (d.when b f) = v d := by
  unfold Dev.when
  split
  · exact h d
  · rfl

theorem Dev.clearLnk_off (d : Dev) (k : Nat) : (d.clearLnk k).offLinks = d.offLinks := by
  unfold Dev.clearLnk
  rw [Dev.setLnk_off]
  exact (Dev.foldl_off _ _ Dev.freeBuffer_off _).trans (Dev.setLnk_off ..)
theorem Dev.clearLnk_lnk (d : Dev) (k : Nat) : (d.clearLnk k).lnk k = {} := Dev.lnk_setLnk_same ..

theorem Dev.leaveUse_rd (d : Dev) (k st : Nat) {o : Nat} (hs : o ≠ Reg.L_STATUS k) (hl : o ≠ Reg.L_LANES k) (he : o ≠ Reg.EVENT) (hr : o ≠ Reg.READY1) :
    (d.leaveUse k st).rd o = d.rd o := by
  rw [Dev.leaveUse, Dev.rd_wf_ne _ _ _ _ hl, Dev.rd_wf_ne _ _ _ _ hs, Dev.setLink_rd _ _ _ hs he hr]
theorem Dev.leaveUse_linkState (d : Dev) (k : Nat) {st : Nat} (h : st < 8) : (d.leaveUse k st).linkState k = st := by
  have hl : Reg.L_STATUS k ≠ Reg.L_LANES k := ((Reg.lStatus_ne k).2.2 k).1
  rw [Dev.leaveUse, Dev.linkState_congr (Dev.rd_wf_ne _ _ _ _ hl), Dev.linkState_wf _ (by decide) (by decide), d.setLink_linkState k h]
theorem Dev.leaveUse_ready (d : Dev) (k : LinkId) (st : Nat) : (d.leaveUse k st).ready readyDevice = d.ready readyDevice := by
  have hl : Reg.READY1 ≠ Reg.L_LANES k := by unfold Reg.READY1 Reg.L_LANES; omega
  have hs : Reg.READY1 ≠ Reg.L_STATUS k := (Reg.lStatus_ne k).2.1.symm
  exact (Dev.rb_congr ((Dev.rd_wf_ne _ _ _ _ hl).trans (Dev.rd_wf_ne _ _ _ _ hs)) _).trans (d.setLink_ready k st)
theorem Dev.leaveUse_inner (d : Dev) (k st : Nat) : (d.leaveUse k st).inner = d.inner := by
  rw [Dev.leaveUse, Dev.inner_wf, Dev.inner_wf, Dev.inner_setLink]

theorem Dev.settleLoss_keeps {β : Type} (v : Dev → β) (hcopy : ∀ (d : Dev) c, v (d.endCopy c St.LINK_DOWN 0) = v d)
    (hparent : ∀ d : Dev, v { d with parent := none } = v d) (hchild : ∀ (d : Dev) k, v (d.childGone k) = v d)
    (hcause : ∀ d : Dev, v (d.cause 10) = v d) (d : Dev) (k : Nat) (l : List Nat) (b : Bool) : v (d.settleLoss k l b) = v d := by
  have hleave (e : Dev) : v (e.leaveParent k) = v e := by
    unfold Dev.leaveParent
    split
    · exact hparent e
    · rfl
  unfold Dev.settleLoss
  exact (Dev.when_keeps v hcause _ _).trans <| (hchild _ k).trans <| (hleave _).trans <| Dev.each_keeps v (fun c _ e => hcopy e c) d
theorem Dev.settleLoss_rd (d : Dev) (k : Nat) (l : List Nat) (b : Bool) {o : Nat} (h : offRecs o) : (d.settleLoss k l b).rd o = d.rd o :=
  Dev.settleLoss_keeps (fun e => e.rd o) (fun e c => e.endCopy_rd c _ _ h) (fun _ => rfl) (fun e j => Dev.off_rd (e.childGone_off j) o)
    (fun e => e.cause_rd _ _) d k l b
theorem Dev.settleLoss_linkSide (d : Dev) (k : Nat) (l : List Nat) (b : Bool) : (d.settleLoss k l b).linkSide = d.linkSide :=
  Dev.settleLoss_keeps Dev.linkSide (fun e c => e.endCopy_linkSide c _ _) (fun _ => rfl) Dev.childGone_linkSide (fun e => e.cause_linkSide _) d k l b

theorem Dev.dropLink_lnk (d : Dev) (k st : Nat) : (d.dropLink k st).lnk k = {} := by
  rw [Dev.dropLink_eq, Dev.linkSide_lnk (Dev.settleLoss_linkSide ..), Dev.inner_lnk (Dev.leaveUse_inner ..), Dev.clearLnk_lnk]

theorem Dev.dropLink_rd (d : Dev) (k st : Nat) {o : Nat} (h : offRecs o) (hs : o ≠ Reg.L_STATUS k) (hl : o ≠ Reg.L_LANES k) (hr : o ≠ Reg.READY1) :
    (d.dropLink k st).rd o = d.rd o := by
  have he : o ≠ Reg.EVENT := by have := h.1; unfold Reg.EVENT; omega
  rw [Dev.dropLink_eq, Dev.settleLoss_rd _ _ _ _ h, Dev.leaveUse_rd _ _ _ hs hl he hr, Dev.off_rd (d.clearLnk_off k)]

theorem offRecs_lStatus (k : Nat) : offRecs (Reg.L_STATUS k) := ⟨by unfold Reg.L_STATUS; omega, not_vrvReg_lStatus k⟩
theorem offRecs_ready1 : offRecs Reg.READY1 := by unfold offRecs vrvReg; decide

theorem Dev.dropLink_linkState (d : Dev) (k : Nat) {st : Nat} (h : st < 8) : (d.dropLink k st).linkState k = st := by
  rw [Dev.dropLink_eq, Dev.linkState_congr (Dev.settleLoss_rd _ _ _ _ (offRecs_lStatus k)), Dev.leaveUse_linkState _ _ h]
theorem Dev.dropLink_ready (d : Dev) (k : LinkId) (st : Nat) : (d.dropLink k st).ready readyDevice = d.ready readyDevice := by
  rw [Dev.dropLink_eq]
  exact (Dev.rb_congr (Dev.settleLoss_rd _ _ _ _ offRecs_ready1) _).trans <| (Dev.leaveUse_ready _ k st).trans <|
    Dev.rb_congr (Dev.off_rd (d.clearLnk_off k) _) _
theorem Dev.inner_laserOff {d e : Dev} (h : d.inner = e.inner) : d.laserOff = e.laserOff := show d.inner.laserOff = e.inner.laserOff by rw [h]
theorem Dev.off_laserOff {d e : Dev} (h : d.offLinks = e.offLinks) : d.laserOff = e.laserOff :=
  show d.offLinks.laserOff = e.offLinks.laserOff by rw [h]
theorem Dev.dropLink_laserOff (d : Dev) (k st : Nat) : (d.dropLink k st).laserOff = d.laserOff := by
  rw [Dev.dropLink_eq, Dev.linkSide_laserOff (Dev.settleLoss_linkSide ..), Dev.inner_laserOff (Dev.leaveUse_inner ..),
    Dev.off_laserOff (d.clearLnk_off k)]

/-- Whether a link may train does not rest on its being in use. -/
theorem Dev.dropLink_mayTrain (d : Dev) (k st : Nat) : (d.dropLink k st).mayTrain k = d.mayTrain k := by
  have hkeep {o : Nat} (h : offRecs o) (hs : o ≠ Reg.L_STATUS k) (hl : o ≠ Reg.L_LANES k) (hr : o ≠ Reg.READY1) :=
    d.dropLink_rd k st h hs hl hr
  refine Dev.mayTrain_congr (hkeep ?_ ?_ ?_ ?_) (hkeep ?_ ?_ ?_ ?_) (hkeep ?_ ?_ ?_ ?_) (d.dropLink_laserOff k st)
  all_goals simp only [offRecs, vrvReg, Reg.L_CTL, Reg.L_STATUS, Reg.L_LANES, Reg.READY1, Reg.DEVID, Reg.BOOT_STATUS]; omega

/-! ## A link that goes down, and an attempt that fails (R427, R428, R434) -/

theorem Dev.linkEntry_rd (d : Dev) (k sev a b : Nat) {o : Nat} (h : ¬ vrvReg o) : (d.linkEntry k sev a b).rd o = d.rd o :=
  Dev.varveLog_rd _ _ _ _ _ _ _ _ h
@[simp] theorem Dev.inner_linkEntry (d : Dev) (k sev a b : Nat) : (d.linkEntry k sev a b).inner = d.inner := Dev.inner_varveLog ..
theorem Dev.linkEntry_linkState (d : Dev) (k sev a b j : Nat) : (d.linkEntry k sev a b).linkState j = d.linkState j :=
  Dev.linkState_congr (Dev.linkEntry_rd _ _ _ _ _ (not_vrvReg_lStatus j))
theorem Dev.linkEntry_mayTrain (d : Dev) (k sev a b j : Nat) : (d.linkEntry k sev a b).mayTrain j = d.mayTrain j := by
  refine Dev.mayTrain_congr (Dev.linkEntry_rd _ _ _ _ _ ?_) (Dev.linkEntry_rd _ _ _ _ _ ?_) (Dev.linkEntry_rd _ _ _ _ _ ?_)
    (Dev.inner_laserOff (Dev.inner_linkEntry ..))
  all_goals simp only [vrvReg, Reg.L_CTL, Reg.DEVID, Reg.BOOT_STATUS]; omega

theorem Dev.startAttempt_linkState (d : Dev) (k : Nat) : (d.startAttempt k).linkState k = if d.mayTrain k then 1 else d.linkState k := by
  have hne : Reg.L_STATUS k ≠ Reg.ATTEMPTS k := ((Reg.lStatus_ne k).2.2 k).2
  unfold Dev.startAttempt
  split
  · exact (Dev.linkState_congr (Dev.rd_add_ne _ _ hne)).trans (d.setLink_linkState k (by decide))
  · rfl
@[simp] theorem Dev.inner_startAttempt (d : Dev) (k : Nat) : (d.startAttempt k).inner = d.inner := by
  unfold Dev.startAttempt
  split
  · rw [Dev.inner_inc, Dev.inner_setLink]
  · rfl

theorem Dev.linkDown_lnk (d : Dev) (k : Nat) : (d.linkDown k).lnk k = {} := by
  unfold Dev.linkDown
  rw [Dev.inner_lnk (Dev.inner_startAttempt ..), Dev.inner_lnk (Dev.inner_linkEntry ..), Dev.dropLink_lnk]
/-- A link that goes down begins to train again where it may. -/
theorem Dev.linkDown_linkState (d : Dev) (k : Nat) : (d.linkDown k).linkState k = if d.mayTrain k then 1 else 0 := by
  unfold Dev.linkDown
  rw [Dev.startAttempt_linkState, Dev.linkEntry_mayTrain, Dev.dropLink_mayTrain, Dev.linkEntry_linkState, Dev.dropLink_linkState _ _ (by decide)]

/-- A link's function is marked as failed, with an entry the first time. -/
def Dev.failMark (d : Dev) (k : Nat) : Dev :=
  (d.setFailed (readyLink k)).when (!d.failedBit (readyLink k) && !d.ready readyDevice) (·.varveLog 36 3 5 k {} (w64 (readyLink k)) 9)
theorem Dev.linkFail_eq (d : Dev) (k : Nat) : d.linkFail k = ((d.dropLink k 5).failMark k).checkReady := rfl

theorem Dev.failMark_rd (d : Dev) (k : Nat) {o : Nat} (h : ¬ vrvReg o) (hf : o ≠ Reg.READY1 + 0x10) : (d.failMark k).rd o = d.rd o := by
  refine (Dev.when_keeps (fun e => e.rd o) (fun e => Dev.varveLog_rd _ _ _ _ _ _ _ _ h) _ _).trans ?_
  exact Dev.rd_wf_ne _ _ _ _ (by rwa [readyOff_link])
@[simp] theorem Dev.inner_failMark (d : Dev) (k : Nat) : (d.failMark k).inner = d.inner :=
  Dev.when_keeps Dev.inner (fun _ => Dev.inner_varveLog ..) _ _

theorem not_readyReg_lStatus (k : LinkId) : ¬ readyReg (Reg.L_STATUS k) := by
  have hcount : countsFromReady (Reg.L_STATUS k) = false := by revert k; decide
  obtain ⟨hevent, hready, -⟩ := Reg.lStatus_ne k
  unfold readyReg
  rw [hcount]
  simp only [List.mem_cons, List.not_mem_nil, or_false, Bool.false_eq_true, not_or]
  exact ⟨by unfold Reg.L_STATUS Reg.CAP_W; omega, by unfold Reg.L_STATUS Reg.T_DONE; omega, hready, hevent⟩

theorem Dev.linkFail_linkState (d : Dev) (k : LinkId) : (d.linkFail k).linkState k = 5 := by
  have hf : Reg.L_STATUS k ≠ Reg.READY1 + 0x10 := by unfold Reg.L_STATUS Reg.READY1; omega
  rw [Dev.linkFail_eq, Dev.linkState_congr (Dev.checkReady_rd _ (not_readyReg_lStatus k)),
    Dev.linkState_congr (Dev.failMark_rd _ _ (not_vrvReg_lStatus k) hf), Dev.dropLink_linkState _ _ (by decide)]
theorem Dev.linkFail_lnk (d : Dev) (k : Nat) : (d.linkFail k).lnk k = {} := by
  have hlinks : (d.linkFail k).links = (d.dropLink k 5).links :=
    Dev.offReady_links ((Dev.checkReady_offReady _).trans (Dev.offReady_of_inner (Dev.inner_failMark ..)))
  rw [← d.dropLink_lnk k 5, Dev.lnk, Dev.lnk, hlinks]
/-- On a device that is ready nothing starts anew when a link fails. -/
theorem Dev.linkFail_rd (d : Dev) (k : LinkId) {o : Nat} (hd : d.ready readyDevice = true) (h : offRecs o) (hs : o ≠ Reg.L_STATUS k)
    (hl : o ≠ Reg.L_LANES k) (hr : o ≠ Reg.READY1) (hf : o ≠ Reg.READY1 + 0x10) : (d.linkFail k).rd o = d.rd o := by
  have hready : ((d.dropLink k 5).failMark k).ready readyDevice = true := by
    have hkeep : ((d.dropLink k 5).failMark k).rd (readyOff readyDevice) = (d.dropLink k 5).rd (readyOff readyDevice) :=
      Dev.failMark_rd _ _ offRecs_ready1.2 (by decide)
    rw [← hd, ← d.dropLink_ready k 5]
    exact Dev.rb_congr hkeep _
  rw [Dev.linkFail_eq, Dev.checkReady_of_ready hready, Dev.failMark_rd _ _ h.2 hf, Dev.dropLink_rd _ _ _ h hs hl hr]

/-! ## The bits of the registers of a link (R452) -/

theorem regImpl_lStatus (k : LinkId) : regImpl (Reg.L_STATUS k) = w64 (mk 63 56 + mk 49 28 + mk 15 0) := by revert k; decide
theorem regImpl_lLanes (k : LinkId) : regImpl (Reg.L_LANES k) = w64 (mk 33 0) := by revert k; decide
theorem lLanes_bit (k : LinkId) {i : Nat} (h : i < 34) : (regImpl (Reg.L_LANES k)).getLsbD i = true := by
  rw [regImpl_lLanes]
  exact (by decide : ∀ j < 34, (w64 (mk 33 0)).getLsbD j = true) i h
theorem regImpl_attempts (k : LinkId) : regImpl (Reg.ATTEMPTS k) = BitVec.allOnes 64 := by revert k; decide
theorem Dev.seal_linkState (d : Dev) (k : LinkId) : d.seal.linkState k = d.linkState k :=
  Dev.seal_rf _ _ _ _ (by rw [regImpl_lStatus]; decide) (by decide) (by decide)
theorem Dev.seal_width (d : Dev) (k : LinkId) : d.seal.rf (Reg.L_STATUS k) 60 59 = d.rf (Reg.L_STATUS k) 60 59 :=
  Dev.seal_rf _ _ _ _ (by rw [regImpl_lStatus]; decide) (by decide) (by decide)
theorem Dev.seal_retries (d : Dev) (k : LinkId) : d.seal.rf (Reg.L_STATUS k) 15 0 = d.rf (Reg.L_STATUS k) 15 0 :=
  Dev.seal_rf _ _ _ _ (by rw [regImpl_lStatus]; decide) (by decide) (by decide)
theorem Dev.seal_lane (d : Dev) (k : LinkId) {i : Nat} (h : i < 34) : d.seal.rb (Reg.L_LANES k) i = d.rb (Reg.L_LANES k) i :=
  Dev.seal_rb _ _ _ (lLanes_bit k h)

/-! ## Sending on a link leaves its authentication -/

/-- The nonce that a link has sent, and the hello that it has taken. -/
def LinkSt.auth (x : LinkSt) : Option (BitVec 256) × Option Hello := (x.nonce, x.hello)
def Dev.authOf (d : Dev) (k : Nat) : Option (BitVec 256) × Option Hello := (d.lnk k).auth

theorem Dev.setLnk_authOf {d : Dev} {k : Nat} {x : LinkSt} (h : x.auth = d.authOf k) (j : Nat) : (d.setLnk k x).authOf j = d.authOf j := by
  by_cases hj : j = k
  · subst hj; rw [Dev.authOf, Dev.lnk_setLnk_same, h]
  · unfold Dev.authOf; rw [Dev.lnk_setLnk_ne _ _ hj]
theorem Dev.updLnk_authOf {d : Dev} {k : Nat} {f : LinkSt → LinkSt} (h : ∀ x, (f x).auth = x.auth) (j : Nat) :
    (d.updLnk k f).authOf j = d.authOf j := Dev.setLnk_authOf (h _) j
theorem Dev.emit_authOf (d : Dev) (o : Out) (j : Nat) : (d.emit o).authOf j = d.authOf j := rfl
theorem LinkSt.takeOwed_auth (x : LinkSt) : x.takeOwed.2.auth = x.auth := by
  unfold LinkSt.takeOwed; split <;> rfl

theorem Dev.sendIdle_authOf (d : Dev) (k j : Nat) : (d.sendIdle k).authOf j = d.authOf j := by
  unfold Dev.sendIdle
  dsimp only
  rw [Dev.emit_authOf]
  exact Dev.setLnk_authOf (LinkSt.takeOwed_auth _) j
theorem Dev.sendNow_authOf (d : Dev) (k : Nat) (c : QCell) (j : Nat) : (d.sendNow k c).authOf j = d.authOf j := by
  unfold Dev.sendNow
  dsimp only
  rw [Dev.emit_authOf]
  refine Dev.setLnk_authOf ?_ j
  exact LinkSt.takeOwed_auth (d.lnk k)
theorem Dev.sendCell_authOf (d : Dev) (k : Nat) (c : QCell) (j : Nat) : (d.sendCell k c).authOf j = d.authOf j := by
  unfold Dev.sendCell
  split
  · exact Dev.updLnk_authOf (by intro x; rfl) j
  · exact d.sendNow_authOf k c j
theorem Dev.freeBuffer_authOf (d : Dev) (c : QCell) (j : Nat) : (d.freeBuffer c).authOf j = d.authOf j := by
  unfold Dev.freeBuffer
  split
  · split
    · rw [Dev.sendIdle_authOf]
      exact Dev.updLnk_authOf (by intro x; rfl) j
    · rfl
  · rfl
theorem Dev.drainQueue_authOf (d : Dev) (k j : Nat) : (d.drainQueue k).authOf j = d.authOf j := by
  refine Dev.each_keeps (fun e => e.authOf j) (fun c _ e => ?_) d
  split
  · rfl
  · rw [Dev.sendNow_authOf, Dev.freeBuffer_authOf]
    exact Dev.updLnk_authOf (by intro x; rfl) j
theorem Dev.takeAck_authOf (d : Dev) (k : Nat) (h : CellHdr) (j : Nat) : (d.takeAck k h).authOf j = d.authOf j := by
  have hchild (e : Dev) : (e.childGone k).authOf j = e.authOf j := by
    unfold Dev.authOf; rw [Dev.linkSide_lnk (e.childGone_linkSide k)]
  unfold Dev.takeAck
  rw [Dev.drainQueue_authOf]
  exact (Dev.when_keeps (fun e => e.authOf j) hchild _ _).trans (Dev.setLnk_authOf (by rfl) j)
/-- Taking a cell leaves what its link has authenticated. -/
theorem Dev.atCell_authOf (d : Dev) (k : Nat) (h : CellHdr) (c j : Nat) : (d.atCell k h c).authOf j = d.authOf j := by
  unfold Dev.atCell
  rw [Dev.updLnk_authOf (by intro x; rfl), Dev.takeAck_authOf]
  rfl

/-! ## Training (R39, R425, R508) -/

theorem Dev.firnPut_rd (d : Dev) (l : List (Nat × Nat)) (o : Nat) : (d.firnPut l).1.rd o = d.rd o := by
  unfold Dev.firnPut; split <;> rfl
theorem Dev.setUcie_rd (d : Dev) (n : Nat) (m : Modules) (o : Nat) : (d.setUcie n m).rd o = d.rd o := rfl

theorem Dev.loseLanes_lanes (d : Dev) (k mask : Nat) :
    (d.loseLanes k mask).rd (Reg.L_LANES k) = put (d.rd (Reg.L_LANES k)) 33 17 (d.badLanes k ||| mask) := by
  unfold Dev.loseLanes
  dsimp only
  rw [Dev.rd_wf_same]
  split
  · rfl
  · rw [Dev.firnPut_rd]
theorem Dev.loseLanes_rd (d : Dev) (k mask : Nat) {o : Nat} (h : o ≠ Reg.L_LANES k) : (d.loseLanes k mask).rd o = d.rd o := by
  unfold Dev.loseLanes
  dsimp only
  rw [Dev.rd_wf_ne _ _ _ _ h]
  split
  · rfl
  · rw [Dev.firnPut_rd]

theorem laneMask_lt {l : List Nat} {n : Nat} (h : ∀ i ∈ l, i < n) : laneMask l < 2 ^ n := by
  unfold laneMask
  suffices hgen : ∀ m < 2 ^ n, l.foldl (fun m i => m ||| 2 ^ i) m < 2 ^ n from hgen 0 (Nat.two_pow_pos n)
  induction l with
  | nil => exact fun m hm => hm
  | cons x xs ih =>
    intro m hm
    have hx : 2 ^ x < 2 ^ n := Nat.pow_lt_pow_right (by decide) (h x List.mem_cons_self)
    exact ih (fun i hi => h i (List.mem_cons_of_mem _ hi)) _ (Nat.or_lt_two_pow hm hx)

theorem widthCode_lt (w : Nat) : widthCode w < 2 ^ 2 := by unfold widthCode; split_ifs <;> decide

/-- A link as its lanes have been tested: those that failed are lost, and WIDTH_LIMITED shows whether the attachment bounds its width. -/
def Dev.testLanes (d : Dev) (k lost : Nat) (m : Modules) (limited : Bool) : Dev :=
  let d := (d.loseLanes k lost).setUcie k m
  (d.wf (Reg.L_STATUS k) 57 57 (b2n limited)).when limited (·.linkEntry k 0 4 (d.peerId k))
/-- A link begins to authenticate over some of its lanes. -/
def Dev.trainOver (d : Dev) (k : Nat) (lanes : List Nat) (w : Nat) : Dev :=
  ((((d.wf (Reg.L_LANES k) 16 0 (laneMask lanes)).wf (Reg.L_STATUS k) 60 59 (widthCode w)).setLink k 2).sendHello k)

theorem Dev.testLanes_limited (d : Dev) (k lost : Nat) (m : Modules) (limited : Bool) :
    (d.testLanes k lost m limited).rb (Reg.L_STATUS k) 57 = limited := by
  have hentry := Dev.when_keeps (fun e => e.rb (Reg.L_STATUS k) 57)
    (fun e => Dev.rb_congr (e.linkEntry_rd k 0 4 (((d.loseLanes k lost).setUcie k m).peerId k) (not_vrvReg_lStatus k)) 57)
    (((d.loseLanes k lost).setUcie k m).wf (Reg.L_STATUS k) 57 57 (b2n limited)) limited
  refine hentry.trans ?_
  rw [Dev.rb_wf _ _ _ _ _ _ (by decide) (by decide), if_pos (by decide), Nat.sub_self, testBit_b2n]

theorem Dev.nonce_rd (d : Dev) (o : Nat) : d.nonce.2.rd o = d.rd o := rfl
theorem Dev.sendHello_eq (d : Dev) (k : Nat) : ∃ c : QCell, d.sendHello k = (d.nonce.2.updLnk k fun x => { x with nonce := some d.nonce.1, hello := none }).sendCell k c :=
  ⟨_, rfl⟩
theorem Dev.sendHello_rd (d : Dev) (k o : Nat) : (d.sendHello k).rd o = d.rd o := by
  obtain ⟨c, hc⟩ := d.sendHello_eq k
  rw [hc, Dev.off_rd (Dev.sendCell_off ..), Dev.off_rd (Dev.updLnk_off ..), Dev.nonce_rd]
/-- A hello sent leaves its nonce, and waits for the peer's. -/
theorem Dev.sendHello_auth (d : Dev) (k : Nat) : ((d.sendHello k).lnk k).nonce = some d.nonce.1 ∧ ((d.sendHello k).lnk k).hello = none := by
  have hauth : (d.sendHello k).authOf k = (some d.nonce.1, none) := by
    obtain ⟨c, hc⟩ := d.sendHello_eq k
    rw [hc, Dev.sendCell_authOf, Dev.authOf, Dev.lnk_updLnk_same, LinkSt.auth]
  unfold Dev.authOf LinkSt.auth at hauth
  exact Prod.mk.inj hauth

theorem Dev.trainOver_trains (d : Dev) (k w : Nat) {lanes : List Nat} (h : ∀ i ∈ lanes, i < 17) :
    let e := d.trainOver k lanes w
    e.linkState k = 2 ∧ e.rb (Reg.L_STATUS k) 57 = d.rb (Reg.L_STATUS k) 57 ∧ e.rf (Reg.L_LANES k) 16 0 = laneMask lanes
      ∧ e.rf (Reg.L_STATUS k) 60 59 = widthCode w ∧ (e.lnk k).nonce.isSome = true ∧ (e.lnk k).hello = none := by
  have hne : Reg.L_STATUS k ≠ Reg.L_LANES k := ((Reg.lStatus_ne k).2.2 k).1
  have hlanes : Reg.L_LANES k ≠ Reg.EVENT ∧ Reg.L_LANES k ≠ Reg.READY1 := by unfold Reg.L_LANES Reg.EVENT Reg.READY1; omega
  intro e
  have hauth : (e.lnk k).nonce = some _ ∧ (e.lnk k).hello = none := Dev.sendHello_auth _ k
  have he (o : Nat) : e.rd o = (((d.wf (Reg.L_LANES k) 16 0 (laneMask lanes)).wf (Reg.L_STATUS k) 60 59 (widthCode w)).setLink k 2).rd o :=
    Dev.sendHello_rd _ k o
  refine ⟨?_, ?_, ?_, ?_, ?_, ?_⟩
  · rw [Dev.linkState_congr (he _), Dev.setLink_linkState _ _ (by decide)]
  · rw [Dev.rb_congr (he _), Dev.setLink_rb _ _ _ (by decide), Dev.rb_wf _ _ _ _ _ _ (by decide) (by decide), if_neg (by decide),
      Dev.rb_congr (Dev.rd_wf_ne _ _ _ _ hne)]
  · rw [Dev.rf_congr (he _), Dev.rf_congr (Dev.setLink_rd _ _ _ hne.symm hlanes.1 hlanes.2), Dev.rf_congr (Dev.rd_wf_ne _ _ _ _ hne.symm),
      Dev.rf_wf_same _ _ _ _ _ (by decide) (by decide), Nat.mod_eq_of_lt (laneMask_lt h)]
  · rw [Dev.rf_congr (he _), Dev.setLink_rf _ _ _ _ (by decide), Dev.rf_wf_same _ _ _ _ _ (by decide) (by decide),
      Nat.mod_eq_of_lt (widthCode_lt w)]
  · rw [hauth.1, Option.isSome_some]
  · exact hauth.2

/-- An attempt tests the lanes that firn does not list; the good ones among them and the attachment bound the width. -/
theorem doAttempt_trains {d : Dev} {k : Nat} (good : Nat) (m : Modules) (hs : d.linkState k = 1) (hm : d.mayTrain k = true)
    (hn : (findAll 24 fun j => d.linkState j == 2).length < 8) :
    let tested := findAll 17 fun i => !bit (d.badLanes k) i
    let lanes := tested.filter (bit good)
    let w := widest (min lanes.length m.lanes)
    let e := d.testLanes k (laneMask (tested.filter fun i => !bit good i)) m (decide (w < widest lanes.length))
    doAttempt k good m d = if w = 0 then e.linkFail k else e.trainOver k (lanes.take w) w := by
  have hstart : d.when (d.linkState k == 0) (·.startAttempt k) = d := if_neg (by simp [hs])
  unfold doAttempt
  rw [hstart]
  exact if_neg (by simp [hs, hm]; omega)

theorem linkTrainingAttempt_trains (s : State) (k : LinkId) (good : BitVec 17) (m : LinkModules) (hs : s.dev.linkState k = 1)
    (hm : s.dev.mayTrain k = true) (hn : (findAll 24 fun j => s.dev.linkState j == 2).length < 8) :
    let lanes := (findAll 17 fun i => !bit (s.dev.badLanes k) i).filter (bit good.toNat)
    let w := widest (min lanes.length (Modules.lanes ⟨m.full, m.half⟩))
    Completes (.linkTrainingAttempt k good m) s fun e =>
      (w ≠ 0 → e.linkState k = 2 ∧ e.rb (Reg.L_STATUS k) 57 = decide (w < widest lanes.length) ∧ e.rf (Reg.L_LANES k) 16 0 = laneMask (lanes.take w)
        ∧ e.rf (Reg.L_STATUS k) 60 59 = widthCode w ∧ (e.lnk k).nonce.isSome = true ∧ (e.lnk k).hello = none)
      ∧ (w = 0 → e.linkState k = 5 ∧ e.lnk k = {}) := by
  intro lanes w
  have hexec : exec (.linkTrainingAttempt k good m) s = s.ok (doAttempt k good.toNat ⟨m.full, m.half⟩ s.dev) := rfl
  rw [doAttempt_trains good.toNat ⟨m.full, m.half⟩ hs hm hn] at hexec
  refine .of _ hexec ⟨fun hw => ?_, fun hw => ?_⟩
  · have hlanes : ∀ i ∈ lanes.take w, i < 17 := fun i hi =>
      List.mem_range.mp (List.mem_filter.mp (List.mem_filter.mp (List.mem_of_mem_take hi)).1).1
    rw [if_neg hw]
    obtain ⟨hstate, hlimited, hmask, hwidth, hnonce, hhello⟩ := Dev.trainOver_trains (s.dev.testLanes k
      (laneMask ((findAll 17 fun i => !bit (s.dev.badLanes k) i).filter fun i => !bit good.toNat i)) ⟨m.full, m.half⟩
      (decide (w < widest lanes.length))) k w hlanes
    rw [Dev.seal_linkState, Dev.seal_width, Dev.seal_lnk]
    refine ⟨hstate, ?_, ?_, hwidth, hnonce, hhello⟩
    · rw [Dev.seal_rb _ _ _ (by rw [regImpl_lStatus]; decide), hlimited, Dev.testLanes_limited]
    · rw [Dev.seal_rf _ _ _ _ (by rw [regImpl_lLanes]; decide) (by decide) (by decide), hmask]
  · rw [if_pos hw]
    exact ⟨(Dev.seal_linkState _ k).trans (Dev.linkFail_linkState _ k), Dev.linkFail_lnk _ k⟩

/-! ## A retry, and a lane that fails (R427, R428) -/

theorem linkRetry_counts (s : State) (k : LinkId) (hs : s.dev.linkState k = 5 ∨ s.dev.linkState k = 0) (hm : s.dev.mayTrain k = true) :
    Completes (.linkRetry k) s fun e => e.linkState k = 1 ∧ e.rd (Reg.ATTEMPTS k) = s.dev.rd (Reg.ATTEMPTS k) + 1
      ∧ e.rf (Reg.L_STATUS k) 15 0 = min 0xFFFF (s.dev.rf (Reg.L_STATUS k) 15 0 + 1) := by
  let n := min 0xFFFF (s.dev.rf (Reg.L_STATUS k) 15 0 + 1)
  let x := s.dev.wf (Reg.L_STATUS k) 15 0 n
  have hne : ∀ o, o ≠ Reg.L_STATUS k → x.rd o = s.dev.rd o := fun o ho => Dev.rd_wf_ne _ _ _ _ ho
  have hatt : Reg.L_STATUS k ≠ Reg.ATTEMPTS k := ((Reg.lStatus_ne k).2.2 k).2
  have hx : x.mayTrain k = true := by
    rw [← hm]
    refine Dev.mayTrain_congr (hne _ ?_) (hne _ ?_) (hne _ ?_) rfl
    all_goals simp only [Reg.L_CTL, Reg.L_STATUS, Reg.DEVID, Reg.BOOT_STATUS]; omega
  have hstart : x.startAttempt k = (x.setLink k 1).inc (Reg.ATTEMPTS k) := if_pos hx
  refine .of (x.startAttempt k) (congrArg s.ok (if_pos ⟨hs, hm⟩)) ⟨?_, ?_, ?_⟩
  · rw [Dev.seal_linkState, Dev.startAttempt_linkState, if_pos hx]
  · have he : Reg.ATTEMPTS k ≠ Reg.EVENT ∧ Reg.ATTEMPTS k ≠ Reg.READY1 := by unfold Reg.ATTEMPTS Reg.EVENT Reg.READY1; omega
    rw [Dev.seal_rd_all _ _ (regImpl_attempts k), hstart, Dev.inc, Dev.rd_add_same, Dev.setLink_rd _ _ _ hatt.symm he.1 he.2, hne _ hatt.symm]
    rfl
  · rw [Dev.seal_retries, hstart, Dev.inc, Dev.rf_congr (Dev.rd_add_ne _ _ hatt), Dev.setLink_rf _ _ _ _ (by decide),
      Dev.rf_wf_same _ _ _ _ _ (by decide) (by decide)]
    exact Nat.mod_eq_of_lt (by omega)

/-- A lane's place is taken by the spare, and the lane is in the firn lists. -/
theorem Dev.steer_lanes (d : Dev) (k : Nat) (lane : Fin 17) (ha : d.rb (Reg.L_LANES k) lane = true) (h16 : d.rb (Reg.L_LANES k) 16 = false) :
    let e := (d.loseLanes k (2 ^ lane.val)).swapLane k lane 16
    e.rb (Reg.L_LANES k) lane = false ∧ e.rb (Reg.L_LANES k) 16 = true ∧ e.rb (Reg.L_LANES k) (17 + lane) = true
      ∧ ∀ o, o ≠ Reg.L_LANES k → e.rd o = d.rd o := by
  have hlane : lane.val ≠ 16 := fun heq => by rw [heq, h16] at ha; cases ha
  have hlost (i : Nat) : (d.loseLanes k (2 ^ lane.val)).rb (Reg.L_LANES k) i =
      if 17 ≤ i ∧ i ≤ 33 then (d.badLanes k ||| 2 ^ lane.val).testBit (i - 17) else d.rb (Reg.L_LANES k) i := by
    unfold Dev.rb tst
    rw [Dev.loseLanes_lanes, getLsbD_put _ _ _ _ _ (by decide) (by decide)]
  have hold : (d.loseLanes k (2 ^ lane.val)).rb (Reg.L_LANES k) lane = true ∧ (d.loseLanes k (2 ^ lane.val)).rb (Reg.L_LANES k) 16 = false := by
    rw [hlost, hlost, if_neg (by omega), if_neg (by omega)]
    exact ⟨ha, h16⟩
  intro e
  have he : e = ((d.loseLanes k (2 ^ lane.val)).wf (Reg.L_LANES k) lane lane 0).wf (Reg.L_LANES k) 16 16 1 := if_pos (by simp [hold])
  have hbit (i : Nat) : e.rb (Reg.L_LANES k) i = if 16 ≤ i ∧ i ≤ 16 then Nat.testBit 1 (i - 16) else
      if lane ≤ i ∧ i ≤ lane then Nat.testBit 0 (i - lane) else (d.loseLanes k (2 ^ lane.val)).rb (Reg.L_LANES k) i := by
    rw [he, Dev.rb_wf _ _ _ _ _ _ (by decide) (by decide), Dev.rb_wf _ _ _ _ _ _ (Nat.le_refl _) (by omega)]
  refine ⟨?_, ?_, ?_, fun o ho => ?_⟩
  · rw [hbit, if_neg (by omega), if_pos (by omega), Nat.zero_testBit]
  · rw [hbit, if_pos (by omega)]; rfl
  · rw [hbit, if_neg (by omega), if_neg (by omega), hlost, if_pos (by omega), Nat.add_sub_cancel_left, Nat.testBit_or, Nat.testBit_two_pow_self,
      Bool.or_true]
  · rw [he, Dev.rd_wf_ne _ _ _ _ ho, Dev.rd_wf_ne _ _ _ _ ho, Dev.loseLanes_rd _ _ _ ho]

theorem lane_bne_spare (lane : Fin 17) : (lane != 16) = (lane.val != 16) := by revert lane; decide

theorem laneFault_steers (s : State) (k : LinkId) (lane : Fin 17) (hu : s.dev.linkUp k = true) (ha : s.dev.rb (Reg.L_LANES k) lane = true)
    (hs : (lane != 16 && !s.dev.rb (Reg.L_LANES k) 16 && !bit (s.dev.badLanes k) 16) = true) :
    Completes (.laneFault k lane) s fun e => e.rb (Reg.L_LANES k) lane = false ∧ e.rb (Reg.L_LANES k) 16 = true
      ∧ e.rb (Reg.L_LANES k) (17 + lane) = true ∧ e.linkState k = s.dev.linkState k ∧ e.rd Reg.STEERED = s.dev.rd Reg.STEERED + 1 := by
  rw [lane_bne_spare] at hs
  have h16 : s.dev.rb (Reg.L_LANES k) 16 = false := by
    simp only [Bool.and_eq_true, Bool.not_eq_true'] at hs
    exact hs.1.2
  obtain ⟨hbad, hnew, hlost, hrest⟩ := s.dev.steer_lanes k lane ha h16
  let x := (s.dev.loseLanes k (2 ^ lane.val)).swapLane k lane 16
  let y := x.sendCell k { typ := 14, cls := 0, out := some (.lane k lane 16) }
  have hexec : doLaneFault k lane s.dev = (y.inc Reg.STEERED).linkEntry k 0 2 lane := by
    unfold doLaneFault
    rw [if_neg (by simp [hu, ha]), if_pos hs]
  have hy (o : Nat) : y.rd o = x.rd o := Dev.off_rd (Dev.sendCell_off ..) o
  have hrd {o : Nat} (hv : ¬ vrvReg o) (ho : o ≠ Reg.STEERED) : ((y.inc Reg.STEERED).linkEntry k 0 2 lane).rd o = x.rd o := by
    rw [Dev.linkEntry_rd _ _ _ _ _ hv, Dev.inc, Dev.rd_add_ne _ _ ho, hy]
  have hlanes : ∀ i, ((y.inc Reg.STEERED).linkEntry k 0 2 lane).rb (Reg.L_LANES k) i = x.rb (Reg.L_LANES k) i :=
    Dev.rb_congr (hrd (by unfold vrvReg Reg.L_LANES; omega) (by unfold Reg.L_LANES Reg.STEERED; omega))
  refine .of _ (congrArg s.ok hexec) ⟨?_, ?_, ?_, ?_, ?_⟩
  · rw [Dev.seal_lane _ _ (by omega), hlanes, hbad]
  · rw [Dev.seal_lane _ _ (by omega), hlanes, hnew]
  · rw [Dev.seal_lane _ _ (by omega), hlanes, hlost]
  · rw [Dev.seal_linkState, Dev.linkState_congr (hrd (not_vrvReg_lStatus k) (by unfold Reg.L_STATUS Reg.STEERED; omega))]
    exact Dev.linkState_congr (hrest _ ((Reg.lStatus_ne k).2.2 k).1)
  · have hne : Reg.STEERED ≠ Reg.L_LANES k := by unfold Reg.L_LANES Reg.STEERED; omega
    rw [Dev.seal_rd_all _ _ (by decide), Dev.linkEntry_rd _ _ _ _ _ (by unfold vrvReg; decide), Dev.inc, Dev.rd_add_same, hy, hrest _ hne]
    rfl

theorem laneFault_drops (s : State) (k : LinkId) (lane : Fin 17) (hu : s.dev.linkUp k = true) (ha : s.dev.rb (Reg.L_LANES k) lane = true)
    (hs : (lane != 16 && !s.dev.rb (Reg.L_LANES k) 16 && !bit (s.dev.badLanes k) 16) = false) :
    Completes (.laneFault k lane) s fun e => e.lnk k = {} ∧ e.linkState k = if s.dev.mayTrain k then 1 else 0 := by
  rw [lane_bne_spare] at hs
  have hexec : doLaneFault k lane s.dev = s.dev.linkDown k := by
    unfold doLaneFault
    rw [if_neg (by simp [hu, ha]), if_neg (Bool.eq_false_iff.mp hs)]
  exact .of _ (congrArg s.ok hexec) ⟨Dev.linkDown_lnk _ k, (Dev.seal_linkState _ k).trans (Dev.linkDown_linkState _ k)⟩

/-! ## Authentication (R429) -/

/-- Of a device on which the authentication of a link is refused. -/
def Dev.AuthRefused (d : Dev) (k : LinkId) (e : Dev) : Prop :=
  e.linkState k = 5 ∧ e.rb (Reg.L_STATUS k) 56 = true ∧ (d.ready readyDevice = true → e.rd Reg.AUTHFAIL = d.rd Reg.AUTHFAIL + 1) ∧ e.lnk k = {}

theorem Dev.AuthRefused.seal {d e : Dev} {k : LinkId} (h : d.AuthRefused k e) : d.AuthRefused k e.seal := by
  obtain ⟨hstate, hbit, hcount, hlnk⟩ := h
  refine ⟨(Dev.seal_linkState _ k).trans hstate, ?_, fun hd => ?_, hlnk⟩
  · rw [Dev.seal_rb _ _ _ (by rw [regImpl_lStatus]; decide), hbit]
  · rw [Dev.seal_rd_all _ _ (by decide), hcount hd]

theorem Dev.authFail_refuses (d : Dev) (k : LinkId) (peer : Nat) : d.AuthRefused k (d.authFail k peer) := by
  have hcount : Reg.L_STATUS k ≠ Reg.AUTHFAIL := by unfold Reg.L_STATUS Reg.AUTHFAIL; omega
  have hrd {o : Nat} (hv : ¬ vrvReg o) : (d.authFail k peer).rd o = (((d.linkFail k).wf (Reg.L_STATUS k) 56 56 1).inc Reg.AUTHFAIL).rd o :=
    Dev.linkEntry_rd _ _ _ _ _ hv
  have hstatus : (d.authFail k peer).rd (Reg.L_STATUS k) = ((d.linkFail k).wf (Reg.L_STATUS k) 56 56 1).rd (Reg.L_STATUS k) :=
    (hrd (not_vrvReg_lStatus k)).trans (Dev.rd_add_ne _ _ hcount)
  refine ⟨?_, ?_, fun hd => ?_, ?_⟩
  · rw [Dev.linkState_congr hstatus, Dev.linkState_wf _ (by decide) (by decide), Dev.linkFail_linkState]
  · rw [Dev.rb_congr hstatus, Dev.rb_wf _ _ _ _ _ _ (by decide) (by decide), if_pos (by decide)]
    rfl
  · have hlanes : Reg.AUTHFAIL ≠ Reg.L_LANES k := by unfold Reg.L_LANES Reg.AUTHFAIL; omega
    rw [hrd (by unfold vrvReg; decide), Dev.inc, Dev.rd_add_same, Dev.rd_wf_ne _ _ _ _ hcount.symm,
      Dev.linkFail_rd _ _ hd (by unfold offRecs vrvReg; decide) hcount.symm hlanes (by decide) (by decide)]
    rfl
  · rw [← Dev.linkFail_lnk d k]
    exact Dev.inner_lnk (Dev.inner_linkEntry ..) k

/-! ### The device at the cell -/

theorem Dev.off_firn {d e : Dev} (h : d.offLinks = e.offLinks) : d.firn = e.firn := show d.offLinks.firn = e.offLinks.firn by rw [h]
theorem Dev.off_ownerPub {d e : Dev} (h : d.offLinks = e.offLinks) : d.ownerPub = e.ownerPub :=
  show d.offLinks.ownerPub = e.offLinks.ownerPub by rw [h]

section
variable (d : Dev) (k : LinkId) (h : CellHdr)

theorem Dev.atCell_rd {o : Nat} (ho : o ≠ Reg.FEC_CORR k) : (d.atCell k h 0).rd o = d.rd o :=
  (Dev.off_rd (Dev.atCell_off ..) o).trans (Dev.rd_add_ne _ _ ho)
theorem Dev.atCell_status : (d.atCell k h 0).rd (Reg.L_STATUS k) = d.rd (Reg.L_STATUS k) :=
  d.atCell_rd k h (by unfold Reg.L_STATUS Reg.FEC_CORR; omega)
theorem Dev.atCell_linkState : (d.atCell k h 0).linkState k = d.linkState k := Dev.linkState_congr (d.atCell_status k h)
theorem Dev.atCell_myId : (d.atCell k h 0).myId = d.myId := Dev.rf_congr (d.atCell_rd k h (by unfold Reg.DEVID Reg.FEC_CORR; omega)) 16 0
theorem Dev.atCell_firn : (d.atCell k h 0).firn = d.firn := (Dev.off_firn (d.atCell_off k h 0)).trans rfl
theorem Dev.atCell_ownerPub : (d.atCell k h 0).ownerPub = d.ownerPub := (Dev.off_ownerPub (d.atCell_off k h 0)).trans rfl
theorem Dev.atCell_ownerHash : (d.atCell k h 0).ownerHash = d.ownerHash := by unfold Dev.ownerHash Dev.firnRd; rw [Dev.atCell_firn]
theorem Dev.atCell_idSeed : (d.atCell k h 0).idSeed = d.idSeed := by unfold Dev.idSeed Dev.firnRd; rw [Dev.atCell_firn]

end

theorem Dev.AuthRefused.of_atCell {d e : Dev} {k : LinkId} {h : CellHdr} (hr : (d.atCell k h 0).AuthRefused k e) : d.AuthRefused k e := by
  obtain ⟨hstate, hbit, hcount, hlnk⟩ := hr
  have hready : (d.atCell k h 0).ready readyDevice = d.ready readyDevice :=
    Dev.rb_congr (d.atCell_rd k h (by unfold readyOff readyDevice Reg.FEC_CORR Reg.READY0 Reg.READY1; split <;> omega)) _
  have hfail : (d.atCell k h 0).rd Reg.AUTHFAIL = d.rd Reg.AUTHFAIL := d.atCell_rd k h (by unfold Reg.AUTHFAIL Reg.FEC_CORR; omega)
  rw [hready, hfail] at hcount
  exact ⟨hstate, hbit, hcount, hlnk⟩

section
variable {s : State} {k : LinkId} {h : CellHdr}

theorem doAuth_hello {d : Dev} (hs : d.linkState k = 2) (id : BitVec 17) (link : BitVec 5) (pub : BitVec 256) (ser : BitVec 64) (cert : BitVec 512)
    (nonce : BitVec 256) : doAuth k (.hello id link pub ser cert nonce) d = d.takeHello k ⟨id.toNat, link.toNat, pub, ser, cert, nonce⟩ :=
  if_neg (by simp [hs])
theorem doAuth_answer {d : Dev} (hs : d.linkState k = 2) (sig : BitVec 512) : doAuth k (.answer sig) d = d.takeAnswer k sig :=
  if_neg (by simp [hs])

theorem Completes.mono {i : Instr} {P Q : Dev → Prop} (hp : Completes i s P) (h : ∀ e, P e → Q e) : Completes i s Q := by
  obtain ⟨t, hexec, hpend, ht⟩ := hp
  exact ⟨t, hexec, hpend, h _ ht⟩

/-- An AUTH cell that is taken acts on the device at the cell. -/
theorem Completes.auth {m : AuthMsg} {P : Dev → Prop} {e : Dev} (hc : s.dev.CellTaken k h 13 0) (hact : doAuth k m (s.dev.atCell k h 0) = e)
    (hP : P (e.when (e.receives k) (·.sendIdle k)).seal) : Completes (.auth k h m) s P := by
  refine .of _ (congrArg s.ok ?_) hP
  rw [hc.recv (by decide), hact]

/-- A link whose authentication is refused takes no more cells in, and sends no acknowledgement. -/
theorem auth_refused {m : AuthMsg} {peer : Nat} (hc : s.dev.CellTaken k h 13 0)
    (hact : doAuth k m (s.dev.atCell k h 0) = (s.dev.atCell k h 0).authFail k peer) : Completes (.auth k h m) s (s.dev.AuthRefused k) := by
  have hr := Dev.authFail_refuses (s.dev.atCell k h 0) k peer
  have hrec : ((s.dev.atCell k h 0).authFail k peer).receives k = false := by unfold Dev.receives; rw [hr.1]; rfl
  refine .auth hc hact ?_
  rw [hrec]
  exact hr.of_atCell.seal

end

/-! ### A hello -/

/-- Whether the owner key of the device signed the certificate of a hello. -/
def Dev.certified (d : Dev) (p : Hello) : Bool := (Config.sha512 (toBytes 32 d.ownerPub.toNat)).toNat == d.ownerHash
  && Config.ed25519Verify d.ownerPub (toBytes 32 p.pub.toNat ++ toBytes 8 p.serial.toNat) p.cert
/-- The answer to a hello, which binds the two nonces, IDs and link numbers (log entry 49). -/
def Dev.answerTo (d : Dev) (k : Nat) (p : Hello) (n : BitVec 256) : QCell :=
  { typ := 13, cls := 0, out := some (.answer k (Config.ed25519Sign d.idSeed (authMsg p.nonce n d.myId k p.id p.link))) }

theorem Dev.takeHello_refuses {d : Dev} {k : Nat} {p : Hello} (h : d.certified p = false ∨ p.id = d.myId) : d.takeHello k p = d.authFail k p.id := by
  have hok : (d.certified p && p.id != d.myId) = false := by
    rcases h with hv | hid
    · rw [hv, Bool.false_and]
    · simp [hid]
  unfold Dev.certified at hok
  unfold Dev.takeHello
  dsimp only
  rw [hok]
theorem Dev.takeHello_answers {d : Dev} {k : Nat} {p : Hello} {n : BitVec 256} (hv : d.certified p = true) (hid : p.id ≠ d.myId)
    (hn : (d.lnk k).nonce = some n) :
    d.takeHello k p = (d.updLnk k fun x => { x with hello := some p }).sendCell k (d.answerTo k p n) := by
  have hok : (d.certified p && p.id != d.myId) = true := by simp [hv, hid]
  unfold Dev.certified at hok
  unfold Dev.takeHello
  dsimp only
  rw [hok, hn]
  rfl

theorem Dev.canSend_hello (d : Dev) (k : Nat) (p : Hello) (cls : Nat) :
    (d.updLnk k fun x => { x with hello := some p }).canSend k cls = d.canSend k cls := by
  unfold Dev.canSend
  rw [Dev.lnk_updLnk_same]
  rfl
theorem Dev.when_idle_out {d : Dev} {x : Out} (h : x ∈ d.out) (b : Bool) (k : Nat) : x ∈ (d.when b (·.sendIdle k)).out := by
  unfold Dev.when
  split
  · exact List.mem_append_left _ h
  · exact h
/-- A hello answered is noted, and its answer leaves while there is room. -/
theorem Dev.answer_leaves (d : Dev) (k : Nat) (p : Hello) (n : BitVec 256) :
    let y := (d.updLnk k fun x => { x with hello := some p }).sendCell k (d.answerTo k p n)
    let e := y.when (y.receives k) (·.sendIdle k)
    (e.lnk k).hello = some p ∧ (d.canSend k 0 = true →
      Out.answer k (Config.ed25519Sign d.idSeed (authMsg p.nonce n d.myId k p.id p.link)) ∈ e.out) := by
  intro y e
  have hauth : e.authOf k = ((d.lnk k).nonce, some p) := by
    have hidle : e.authOf k = y.authOf k := Dev.when_keeps (fun e => e.authOf k) (fun e => e.sendIdle_authOf k k) _ _
    rw [hidle, Dev.sendCell_authOf, Dev.authOf, Dev.lnk_updLnk_same, LinkSt.auth]
  refine ⟨congrArg Prod.snd hauth, fun hsend => Dev.when_idle_out ?_ _ _⟩
  rw [← d.canSend_hello k p] at hsend
  exact (Dev.sendCell_sends (c := d.answerTo k p n) hsend).1

section
variable {s : State} {k : LinkId} {h : CellHdr} {id : BitVec 17} {link : BitVec 5} {pub : BitVec 256} {ser : BitVec 64} {cert : BitVec 512}
  {nonce : BitVec 256}

theorem Dev.atCell_certified (d : Dev) (k : LinkId) (h : CellHdr) (p : Hello) : (d.atCell k h 0).certified p = d.certified p := by
  unfold Dev.certified
  rw [Dev.atCell_ownerPub, Dev.atCell_ownerHash]
theorem Dev.atCell_auth (d : Dev) (k : LinkId) (h : CellHdr) :
    ((d.atCell k h 0).lnk k).nonce = (d.lnk k).nonce ∧ ((d.atCell k h 0).lnk k).hello = (d.lnk k).hello := by
  have hauth := d.atCell_authOf k h 0 k
  unfold Dev.authOf LinkSt.auth at hauth
  exact Prod.mk.inj hauth

theorem auth_hello_refused (hc : s.dev.CellTaken k h 13 0) (hs : s.dev.linkState k = 2)
    (hno : s.dev.certified ⟨id.toNat, link.toNat, pub, ser, cert, nonce⟩ = false ∨ id.toNat = s.dev.myId) :
    Completes (.auth k h (.hello id link pub ser cert nonce)) s (s.dev.AuthRefused k) := by
  rw [← s.dev.atCell_certified k h, ← s.dev.atCell_myId k h] at hno
  rw [← s.dev.atCell_linkState k h] at hs
  exact auth_refused hc ((doAuth_hello hs ..).trans (Dev.takeHello_refuses hno))

theorem auth_hello_answered {n : BitVec 256} (hc : s.dev.CellTaken k h 13 0) (hs : s.dev.linkState k = 2) (hn : (s.dev.lnk k).nonce = some n)
    (hid : id.toNat ≠ s.dev.myId) (hv : s.dev.certified ⟨id.toNat, link.toNat, pub, ser, cert, nonce⟩ = true) :
    Completes (.auth k h (.hello id link pub ser cert nonce)) s fun e =>
      (e.lnk k).hello = some ⟨id.toNat, link.toNat, pub, ser, cert, nonce⟩
      ∧ ((s.dev.atCell k h 0).canSend k 0 = true →
        Out.answer k (Config.ed25519Sign s.dev.idSeed (authMsg nonce n s.dev.myId k id.toNat link.toNat)) ∈ e.out) := by
  rw [← s.dev.atCell_linkState k h] at hs
  rw [← (s.dev.atCell_auth k h).1] at hn
  rw [← s.dev.atCell_certified k h] at hv
  rw [← s.dev.atCell_myId k h] at hid ⊢
  rw [← s.dev.atCell_idSeed k h]
  have hact := (doAuth_hello hs id link pub ser cert nonce).trans (Dev.takeHello_answers hv hid hn)
  obtain ⟨hhello, hout⟩ := Dev.answer_leaves (s.dev.atCell k h 0) k ⟨id.toNat, link.toNat, pub, ser, cert, nonce⟩ n
  exact .auth hc hact ⟨hhello, hout⟩

end

/-! ### An answer -/

/-- Both ends are authenticated: the link is up, in the scheduled set at full width unless it is held. -/
theorem Dev.linkComesUp_up (d : Dev) (k : LinkId) {p : Hello} (hid : p.id < 2 ^ 17) (hlink : p.link < 2 ^ 5) :
    let e := d.linkComesUp k p
    e.linkState k = (if d.rf (Reg.L_STATUS k) 60 59 = 3 ∧ d.rb (Reg.L_CTL k) 61 = false then 4 else 3)
      ∧ e.rf (Reg.L_STATUS k) 49 33 = p.id ∧ e.rf (Reg.L_STATUS k) 32 28 = p.link ∧ e.rf (Reg.L_STATUS k) 15 0 = 0 := by
  let x := (((d.wf (Reg.L_STATUS k) 49 33 p.id).wf (Reg.L_STATUS k) 32 28 p.link).wf (Reg.L_STATUS k) 56 56 0).wf (Reg.L_STATUS k) 15 0 0
  let st := if (x.rf (Reg.L_STATUS k) 60 59 == 3 && !x.rb (Reg.L_CTL k) 61) = true then 4 else 3
  have hfield (v hi lo a b : Nat) (e : Dev) (hh : lo ≤ hi) (h64 : hi < 64) (hd : a < lo ∨ hi < b) :
      (e.wf (Reg.L_STATUS k) hi lo v).rf (Reg.L_STATUS k) a b = e.rf (Reg.L_STATUS k) a b := e.rf_wf_other _ _ _ _ _ _ hh h64 hd
  have hctl : x.rb (Reg.L_CTL k) 61 = d.rb (Reg.L_CTL k) 61 := by
    have hne : Reg.L_CTL k ≠ Reg.L_STATUS k := by unfold Reg.L_CTL Reg.L_STATUS; omega
    refine Dev.rb_congr ?_ 61
    rw [Dev.rd_wf_ne _ _ _ _ hne, Dev.rd_wf_ne _ _ _ _ hne, Dev.rd_wf_ne _ _ _ _ hne, Dev.rd_wf_ne _ _ _ _ hne]
  intro e
  have he : e.rd (Reg.L_STATUS k) = (x.setLink k st).rd (Reg.L_STATUS k) := by
    have hne : Reg.L_STATUS k ≠ readyOff (readyLink k) + 0x10 := by rw [readyOff_link]; unfold Reg.L_STATUS Reg.READY1; omega
    exact (Dev.checkReady_rd _ (not_readyReg_lStatus k)).trans (Dev.rd_wf_ne _ _ _ _ hne)
  have hst : st < 8 := by unfold st; split <;> decide
  refine ⟨?_, ?_, ?_, ?_⟩
  · rw [Dev.linkState_congr he, Dev.setLink_linkState _ _ hst]
    unfold st
    rw [hctl, hfield _ _ _ _ _ _ (by decide) (by decide) (by decide), hfield _ _ _ _ _ _ (by decide) (by decide) (by decide),
      hfield _ _ _ _ _ _ (by decide) (by decide) (by decide), hfield _ _ _ _ _ _ (by decide) (by decide) (by decide)]
    simp only [Bool.and_eq_true, beq_iff_eq, Bool.not_eq_true']
  · rw [Dev.rf_congr he, Dev.setLink_rf _ _ _ _ (by decide), hfield _ _ _ _ _ _ (by decide) (by decide) (by decide),
      hfield _ _ _ _ _ _ (by decide) (by decide) (by decide), hfield _ _ _ _ _ _ (by decide) (by decide) (by decide),
      Dev.rf_wf_same _ _ _ _ _ (by decide) (by decide)]
    exact Nat.mod_eq_of_lt hid
  · rw [Dev.rf_congr he, Dev.setLink_rf _ _ _ _ (by decide), hfield _ _ _ _ _ _ (by decide) (by decide) (by decide),
      hfield _ _ _ _ _ _ (by decide) (by decide) (by decide), Dev.rf_wf_same _ _ _ _ _ (by decide) (by decide)]
    exact Nat.mod_eq_of_lt hlink
  · rw [Dev.rf_congr he, Dev.setLink_rf _ _ _ _ (by decide), Dev.rf_wf_same _ _ _ _ _ (by decide) (by decide), Nat.zero_mod]

theorem Dev.takeAnswer_eq {d : Dev} {k : Nat} {p : Hello} {n : BitVec 256} (sig : BitVec 512) (hp : (d.lnk k).hello = some p)
    (hn : (d.lnk k).nonce = some n) : d.takeAnswer k sig =
      if Config.ed25519Verify p.pub (authMsg n p.nonce d.myId k p.id p.link) sig then d.linkComesUp k p else d.authFail k p.id := by
  unfold Dev.takeAnswer
  rw [hp, hn]

section
variable {s : State} {k : LinkId} {h : CellHdr} {p : Hello} {n : BitVec 256} {sig : BitVec 512}

theorem auth_answer_refused (hc : s.dev.CellTaken k h 13 0) (hs : s.dev.linkState k = 2) (hn : (s.dev.lnk k).nonce = some n)
    (hp : (s.dev.lnk k).hello = some p) (hv : Config.ed25519Verify p.pub (authMsg n p.nonce s.dev.myId k p.id p.link) sig = false) :
    Completes (.auth k h (.answer sig)) s (s.dev.AuthRefused k) := by
  rw [← s.dev.atCell_myId k h] at hv
  rw [← s.dev.atCell_linkState k h] at hs
  rw [← (s.dev.atCell_auth k h).1] at hn
  rw [← (s.dev.atCell_auth k h).2] at hp
  refine auth_refused hc ((doAuth_answer hs sig).trans ((Dev.takeAnswer_eq sig hp hn).trans (if_neg ?_)))
  simp [hv]

theorem auth_answer_up (hc : s.dev.CellTaken k h 13 0) (hs : s.dev.linkState k = 2) (hn : (s.dev.lnk k).nonce = some n)
    (hp : (s.dev.lnk k).hello = some p) (hid : p.id < 2 ^ 17) (hlink : p.link < 2 ^ 5)
    (hv : Config.ed25519Verify p.pub (authMsg n p.nonce s.dev.myId k p.id p.link) sig = true) :
    Completes (.auth k h (.answer sig)) s fun e =>
      e.linkState k = (if s.dev.rf (Reg.L_STATUS k) 60 59 = 3 ∧ s.dev.rb (Reg.L_CTL k) 61 = false then 4 else 3)
      ∧ e.rf (Reg.L_STATUS k) 49 33 = p.id ∧ e.rf (Reg.L_STATUS k) 32 28 = p.link ∧ e.rf (Reg.L_STATUS k) 15 0 = 0 := by
  have hctl : (s.dev.atCell k h 0).rb (Reg.L_CTL k) 61 = s.dev.rb (Reg.L_CTL k) 61 :=
    Dev.rb_congr (s.dev.atCell_rd k h (by unfold Reg.L_CTL Reg.FEC_CORR; omega)) 61
  have hwidth : (s.dev.atCell k h 0).rf (Reg.L_STATUS k) 60 59 = s.dev.rf (Reg.L_STATUS k) 60 59 := Dev.rf_congr (s.dev.atCell_status k h) 60 59
  rw [← s.dev.atCell_myId k h] at hv
  rw [← s.dev.atCell_linkState k h] at hs
  rw [← (s.dev.atCell_auth k h).1] at hn
  rw [← (s.dev.atCell_auth k h).2] at hp
  have hact := (doAuth_answer hs sig).trans ((Dev.takeAnswer_eq sig hp hn).trans (if_pos hv))
  have hup := Dev.linkComesUp_up (s.dev.atCell k h 0) k hid hlink
  rw [hctl, hwidth] at hup
  obtain ⟨hstate, hpeer, hplink, hretries⟩ := hup
  let e := (s.dev.atCell k h 0).linkComesUp k p
  have hidle : (e.when (e.receives k) (·.sendIdle k)).rd (Reg.L_STATUS k) = e.rd (Reg.L_STATUS k) :=
    Dev.when_keeps (fun e => e.rd (Reg.L_STATUS k)) (fun e => Dev.off_rd (e.sendIdle_off k) _) _ _
  refine .auth hc hact ⟨?_, ?_, ?_, ?_⟩
  · rw [Dev.seal_linkState, Dev.linkState_congr hidle, hstate]
  · rw [Dev.seal_rf _ _ _ _ (by rw [regImpl_lStatus]; decide) (by decide) (by decide), Dev.rf_congr hidle, hpeer]
  · rw [Dev.seal_rf _ _ _ _ (by rw [regImpl_lStatus]; decide) (by decide) (by decide), Dev.rf_congr hidle, hplink]
  · rw [Dev.seal_retries, Dev.rf_congr hidle, hretries]

end

/-! ## The obligation -/

/-- Settles O22: each clause is the completion of one command, as the lemmas above give it; a hello and an answer that fail both end in
authFail. -/
theorem linksTrainAndAuthenticate : Obligations.LinksTrainAndAuthenticate := by
  intro k s
  refine ⟨linkTrainingAttempt_trains s k, ?_, ?_, ?_, linkRetry_counts s k, fun lane hu ha =>
    ⟨laneFault_steers s k lane hu ha, laneFault_drops s k lane hu ha⟩⟩
  · intro h id link pub ser cert nonce n a verified hc hs hn hid
    cases hv : verified
    · exact (auth_hello_refused hc hs (.inl hv)).mono fun e he => ⟨nofun, fun _ => he⟩
    · exact (auth_hello_answered hc hs hn hid hv).mono fun e he => ⟨fun _ => he, nofun⟩
  · intro h id link pub ser cert nonce hc hs hid
    exact auth_hello_refused hc hs (.inr hid)
  · intro h p n sig verified hc hs hn hp hid hlink
    cases hv : verified
    · exact (auth_answer_refused hc hs hn hp hv).mono fun e he => ⟨nofun, fun _ => he⟩
    · exact (auth_answer_up hc hs hn hp hid hlink hv).mono fun e he => ⟨fun _ => he, nofun⟩

end Sys2Proof.Machine
end

section
/-! PROOFS. The issue of a bundle and what the CTRL slot makes of the sequencer (R48, R49, R54 to R62, R71, R74 to R76, R188, R190, R196). -/

namespace Sys2Proof.Machine

/-- A command whose bundle issues completes with the device that the issue leaves, sealed. -/
theorem Completes.issues {i : Instr} {s : State} {t : TileId} {w : Word256} {o : Obs} {b : Bundle} {p : SlotPlan} {P : Dev → Prop}
    (h : bundleOf i = some (t, w, o)) (hi : s.dev.Issues t w o b p) (hP : P (s.dev.issued t o b p).seal) : Completes i s P :=
  .of _ (exec_issues h hi) hP

theorem regImpl_issue (t : TileId) : regImpl (Reg.tile t Reg.ISSUE) = BitVec.allOnes 64 := by
  rw [regImpl_tile t _ t.isLt (by decide) (by decide)]; decide

theorem Dev.seal_issue (d : Dev) (t : TileId) : d.seal.trd t Reg.ISSUE = d.trd t Reg.ISSUE :=
  Dev.seal_rd_all _ _ (regImpl_issue t)

/-- The registers that the CTRL slot starts from when its bundle issues, `r` being those the slots found: what the other slots may have
changed stays out of the sequencer's, and a squash is one bundle shorter (R61). -/
structure Regs.SlotsFrom (r q : Regs) : Prop where
  pc : r.pc = q.pc
  loops : r.loops = q.loops
  lc : r.lc = q.lc
  calls : r.calls = q.calls
  rtn : r.rtn = q.rtn
  squash : q.squash = r.squash - 1

/-- The sequencer of the tile after the issue: the CTRL slot moves it on from where the other slots leave it. -/
theorem Dev.issued_regs (d : Dev) (t : Nat) (o : Obs) (b : Bundle) (p : SlotPlan) :
    ∃ q : Regs, ((d.atBundle t o).tile t).regs.SlotsFrom q
      ∧ ((d.issued t o b p).tile t).regs = ctrlNext b.ctrl b.fin false ((d.atBundle t o).tile t).regs q := by
  have h := d.issued_tile t o b p
  have hregs := h.regs
  obtain ⟨hpc, hrtn, hloops, hcalls, -, hlc, -, -, -⟩ := h.seq.trans (Regs.sameSeq_uses p.uses _)
  rw [d.atIssue_regs] at hregs hpc hrtn hloops hcalls hlc
  refine ⟨_, ?_, hregs⟩
  exact ⟨hpc.symm, hloops.symm, hlc.symm, hcalls.symm, hrtn.symm, rfl⟩

/-- Settles O6: the command is its tile's beat, and the laws of the issue say what that beat leaves. -/
theorem selkuBundleIssues : Obligations.SelkuBundleIssues := by
  intro i s t w o b p hb hi
  have h := s.dev.issued_tile t o b p
  obtain ⟨q, ⟨hpc, hloops, hlc, hcalls, hrtn, hsquash⟩, hregs⟩ := s.dev.issued_regs t o b p
  refine .issues hb hi ⟨?_, ?_⟩
  · rw [Dev.seal_issue, Dev.issued_issue _ _ t.isLt]
  rw [Dev.seal_tile]
  refine ⟨⟨q, hpc, hloops, hlc, hcalls, hrtn, hsquash, hregs⟩, h.infl, ?_, ?_⟩
  · rw [h.bankq, Dev.atIssue_bankq]
  · rw [h.mvq, Dev.atIssue_mvq]


/-! ## The operation of a CTRL slot that a command names (R196) -/

/-- The fields of a CTRL slot that a command fills. -/
theorem putCtrl_fields (w : Word256) {op e a : Nat} (ho : op < 32) (he : e < 16) (ha : a < 2 ^ 23) :
    bits (slotCtrl (putCtrl w (encCtrl op e a))) 31 27 = op ∧ bits (slotCtrl (putCtrl w (encCtrl op e a))) 26 23 = e
      ∧ bits (slotCtrl (putCtrl w (encCtrl op e a))) 22 0 = a := by
  rw [slotCtrl_putCtrl _ _ (by unfold encCtrl; omega)]
  simp only [encCtrl, bits_eq]
  omega

theorem encSlot_lt (a : SlotArg) : encSlot a < 2 ^ 23 := by
  cases a with
  | imm w i => have := w.isLt; have := i.isLt; simp only [encSlot]; omega
  | gen g => have := g.isLt; simp only [encSlot]; omega

section
variable (w : Word256)

theorem decCtrl_nop {e : Nat} (he : e ≤ 8) : decCtrl (slotCtrl (putCtrl w (encCtrl 0 e 0))) = some (.nop, e) := by
  obtain ⟨h1, h2, h3⟩ := putCtrl_fields w (op := 0) (e := e) (a := 0) (by omega) (by omega) (by omega)
  simp [decCtrl, h1, h2, h3, he]

theorem decCtrl_loop_imm (m : BitVec 16) : decCtrl (slotCtrl (putCtrl w (encCtrl 1 0 (encLoop (.imm m))))) = some (.loop (.imm m), 0) := by
  have hm := m.isLt
  obtain ⟨h1, h2, h3⟩ := putCtrl_fields w (op := 1) (e := 0) (a := m.toNat) (by omega) (by omega) (by omega)
  have hres : bits m.toNat 21 16 = 0 := by rw [bits_eq]; omega
  have hreg : bit m.toNat 22 = false := by rw [bit_eq, decide_eq_false_iff_not]; omega
  simp [decCtrl, encLoop, h1, h2, h3, hres, hreg]

theorem decCtrl_loop_reg (v : BitVec 6) : decCtrl (slotCtrl (putCtrl w (encCtrl 1 0 (encLoop (.reg v))))) = some (.loop (.reg v), 0) := by
  have hv := v.isLt
  obtain ⟨h1, h2, h3⟩ := putCtrl_fields w (op := 1) (e := 0) (a := 2 ^ 22 + v.toNat) (by omega) (by omega) (by omega)
  have hres : bits (2 ^ 22 + v.toNat) 21 16 = 0 := by rw [bits_eq]; omega
  have hres' : bits (2 ^ 22 + v.toNat) 15 6 = 0 := by rw [bits_eq]; omega
  have hreg : bit (2 ^ 22 + v.toNat) 22 = true := by rw [bit_eq, decide_eq_true_eq]; omega
  have hval : BitVec.ofNat 6 (2 ^ 22 + v.toNat) = v := BitVec.eq_of_toNat_eq (by rw [BitVec.toNat_ofNat]; omega)
  simp only [decCtrl, encLoop, h1, h2, h3, hres, hres', hreg, hval]
  rfl

theorem decCtrl_skip (x : BitVec 2) (q : BitVec 4) (m : BitVec 10) :
    decCtrl (slotCtrl (putCtrl w (encCtrl 2 0 (x.toNat * 2 ^ 21 + q.toNat * 2 ^ 17 + m.toNat)))) = some (.skip x.toNat q.toNat (m.toNat + 1), 0) := by
  have hx := x.isLt
  have hq := q.isLt
  have hm := m.isLt
  obtain ⟨h1, h2, h3⟩ := putCtrl_fields w (op := 2) (e := 0) (a := x.toNat * 2 ^ 21 + q.toNat * 2 ^ 17 + m.toNat) (by omega) (by omega) (by omega)
  have hres : bits (x.toNat * 2 ^ 21 + q.toNat * 2 ^ 17 + m.toNat) 16 10 = 0 := by rw [bits_eq]; omega
  have htest : bits (x.toNat * 2 ^ 21 + q.toNat * 2 ^ 17 + m.toNat) 22 21 = x.toNat := by rw [bits_eq]; omega
  have hp : bits (x.toNat * 2 ^ 21 + q.toNat * 2 ^ 17 + m.toNat) 20 17 = q.toNat := by rw [bits_eq]; omega
  have hn : bits (x.toNat * 2 ^ 21 + q.toNat * 2 ^ 17 + m.toNat) 9 0 = m.toNat := by rw [bits_eq]; omega
  simp only [decCtrl, h1, h2, h3, hres, htest, hp, hn]
  rfl

theorem decCtrl_wait {w : Word256} {full : Bool} {a : SlotArg} {op : CtrlOp} {fin : Nat}
    (h : decCtrl (slotCtrl (putCtrl w (encCtrl (if full then 3 else 4) 0 (encSlot a)))) = some (op, fin)) : (∃ x, op = .wait full x) ∧ fin = 0 := by
  obtain ⟨h1, h2, h3⟩ := putCtrl_fields w (op := if full then 3 else 4) (e := 0) (a := encSlot a) (by split <;> omega) (by omega) (encSlot_lt a)
  rw [decCtrl, h1, h2, h3] at h
  cases full <;> simp at h <;> obtain ⟨x, -, hx, hf⟩ := h <;> exact ⟨⟨x, hx.symm⟩, hf.symm⟩

theorem decCtrl_bar (n : BitVec 4) : decCtrl (slotCtrl (putCtrl w (encCtrl 5 0 n.toNat))) = some (.bar n.toNat, 0) := by
  have hn := n.isLt
  obtain ⟨h1, h2, h3⟩ := putCtrl_fields w (op := 5) (e := 0) (a := n.toNat) (by omega) (by omega) (by omega)
  have h : n.toNat < 16 := hn
  simp [decCtrl, h1, h2, h3, h]

theorem decCtrl_phase (x : BitVec 8) : decCtrl (slotCtrl (putCtrl w (encCtrl 6 0 x.toNat))) = some (.phase x.toNat, 0) := by
  have h : x.toNat < 256 := x.isLt
  obtain ⟨h1, h2, h3⟩ := putCtrl_fields w (op := 6) (e := 0) (a := x.toNat) (by omega) (by omega) (by omega)
  simp [decCtrl, h1, h2, h3, h]

theorem decCtrl_fsync {e : Nat} (he : e < 16) (k : BitVec 1) {w : Word256} {op : CtrlOp} {fin : Nat}
    (h : decCtrl (slotCtrl (putCtrl w (encCtrl 7 e k.toNat))) = some (op, fin)) : op = .fsync := by
  have hk : k.toNat < 2 := k.isLt
  obtain ⟨h1, h2, h3⟩ := putCtrl_fields w (op := 7) (e := e) (a := k.toNat) (by omega) he (by omega)
  simp only [decCtrl, h1, h2, h3, hk, if_true] at h
  split at h
  · cases h
  · cases h; rfl

theorem decCtrl_call (k : BitVec 6) : decCtrl (slotCtrl (putCtrl w (encCtrl 8 0 k.toNat))) = some (.call k.toNat, 0) := by
  have h : k.toNat < 64 := k.isLt
  obtain ⟨h1, h2, h3⟩ := putCtrl_fields w (op := 8) (e := 0) (a := k.toNat) (by omega) (by omega) (by omega)
  simp [decCtrl, h1, h2, h3, h]

theorem decCtrl_ret : decCtrl (slotCtrl (putCtrl w (encCtrl 9 0 0))) = some (.ret, 0) := by
  obtain ⟨h1, h2, h3⟩ := putCtrl_fields w (op := 9) (e := 0) (a := 0) (by omega) (by omega) (by omega)
  simp [decCtrl, h1, h2, h3]

theorem decCtrl_halt : decCtrl (slotCtrl (putCtrl w (encCtrl 10 0 0))) = some (.halt, 0) := by
  obtain ⟨h1, h2, h3⟩ := putCtrl_fields w (op := 10) (e := 0) (a := 0) (by omega) (by omega) (by omega)
  simp [decCtrl, h1, h2, h3]

end

/-- A bundle that is reached has in its CTRL slot the operation that the slot decodes to. -/
theorem Dev.Reaches.ctrl_eq {d : Dev} {t : Nat} {w : Word256} {o : Obs} {b : Bundle} {op : CtrlOp} {fin : Nat} (h : d.Reaches t w o b)
    (hd : decCtrl (slotCtrl w) = some (op, fin)) : b.ctrl = op ∧ b.fin = fin :=
  Prod.mk.inj (Option.some.inj ((decBundle_slots h.decodes).1.symm.trans hd))

/-! ## What each operation makes of the sequencer (R56 to R62) -/

@[simp] theorem Regs.rlc_wlc_same (r : Regs) (n x : Nat) : (r.wlc n x).rlc n = x % 2 ^ 32 := by
  unfold Regs.rlc Regs.wlc
  rw [smGet_smSet_same, BitVec.toNat_ofNat]

/-- Where a bundle that only passes leads: the next bundle, nothing else of the sequencer changed. -/
structure Regs.Passes (r x : Regs) : Prop where
  pc : x.pc = r.pc + 1
  loops : x.loops = r.loops
  calls : x.calls = r.calls
  rtn : x.rtn = r.rtn
  squash : x.squash = r.squash - 1

/-- How often a LOOP runs its body, before a count of 0 is raised to 1 (R56, R58). -/
def Regs.loopCount (r : Regs) : LoopArg → Nat
  | .imm m => m.toNat + 1
  | .reg v => (lane (r.rv v.toNat) 0).toNat

theorem Regs.loopCount_lt (r : Regs) (a : LoopArg) : r.loopCount a < 2 ^ 32 := by
  cases a with
  | imm m => have := m.isLt; simp only [Regs.loopCount]; omega
  | reg v => exact BitVec.isLt _

section
variable {r q : Regs} (h : r.SlotsFrom q)
include h

/-- An operation that moves the sequencer to the next bundle only. -/
theorem Regs.SlotsFrom.passes {op : CtrlOp} (ho : ctrlNext op 0 false r q = { q with pc := q.pc + 1 }) : r.Passes (ctrlNext op 0 false r q) := by
  obtain ⟨hpc, hloops, -, hcalls, hrtn, hsquash⟩ := h
  rw [ho]
  exact ⟨by rw [hpc], hloops.symm, hcalls.symm, hrtn.symm, hsquash⟩

/-- END of one loop (R57): another iteration from its body, or on past its last. -/
theorem Regs.SlotsFrom.endl {l : LoopLevel} (hl : r.loops.getLast? = some l) :
    let x := ctrlNext .nop 1 false r q
    let k := r.loops.length - 1
    (r.rlc k > 1 → x.pc = l.body ∧ x.rtn = l.rtn ∧ x.loops = r.loops ∧ x.rlc k = r.rlc k - 1)
    ∧ (r.rlc k ≤ 1 → x.pc = r.pc + 1 ∧ x.rtn = r.rtn ∧ x.loops = r.loops.dropLast ∧ x.rlc k = 0) := by
  obtain ⟨hpc, hloops, hlc, -, hrtn, -⟩ := h
  have hlt : r.rlc (r.loops.length - 1) < 2 ^ 32 := BitVec.isLt _
  have hrlc : ∀ n, q.rlc n = r.rlc n := fun n => by unfold Regs.rlc; rw [hlc]
  have hsame : ∀ n, ({ q with pc := q.pc + 1 } : Regs).rlc n = r.rlc n := hrlc
  rw [hloops] at hl
  dsimp only
  rw [hloops] at hlt ⊢
  constructor <;> intro hn
  · have hpos : r.rlc (q.loops.length - 1) - 1 > 0 := by omega
    have hnext : ctrlNext .nop 1 false r q = { ({ q with pc := q.pc + 1 } : Regs).wlc (q.loops.length - 1) (r.rlc (q.loops.length - 1) - 1) with
        rtn := l.rtn, pc := l.body } := by
      simp only [ctrlNext, closeLoops, hl, hsame, if_pos hpos]
      rfl
    rw [hnext]
    refine ⟨rfl, rfl, rfl, (Regs.rlc_wlc_same ..).trans (Nat.mod_eq_of_lt (by omega))⟩
  · have hpos : ¬ r.rlc (q.loops.length - 1) - 1 > 0 := by omega
    have hnext : ctrlNext .nop 1 false r q = { ({ q with pc := q.pc + 1 } : Regs).wlc (q.loops.length - 1) 0 with
        loops := q.loops.dropLast } := by
      simp only [ctrlNext, closeLoops, hl, hsame, if_neg hpos]
      rfl
    rw [hnext]
    exact ⟨by rw [hpc]; rfl, by rw [hrtn]; rfl, rfl, Regs.rlc_wlc_same q _ 0⟩

theorem Regs.SlotsFrom.loop {a : LoopArg} (hd : r.loops.length < 8) :
    let x := ctrlNext (.loop a) 0 false r q
    let n := r.loopCount a
    x.pc = r.pc + 1 ∧ x.loops = r.loops ++ [⟨r.rtn, r.pc + 1, max n 1, n == 0⟩] ∧ x.rlc r.loops.length = max n 1 := by
  have hn := r.loopCount_lt a
  obtain ⟨hpc, hloops, -, -, hrtn, -⟩ := h
  have hd' : ¬ q.loops.length ≥ 8 := by rw [← hloops]; omega
  have hnext : ctrlNext (.loop a) 0 false r q = { q.wlc q.loops.length (max (r.loopCount a) 1) with
      loops := q.loops ++ [⟨q.rtn, q.pc + 1, max (r.loopCount a) 1, r.loopCount a == 0⟩], pc := q.pc + 1 } := by
    simp only [ctrlNext, if_neg hd']
    cases a <;> rfl
  dsimp only
  rw [hnext, hpc, hloops, hrtn]
  exact ⟨rfl, rfl, (Regs.rlc_wlc_same ..).trans (Nat.mod_eq_of_lt (by omega))⟩

theorem Regs.SlotsFrom.skip (x p n : Nat) :
    (ctrlNext (.skip x p n) 0 false r q).pc = r.pc + 1
    ∧ (ctrlNext (.skip x p n) 0 false r q).squash = if testHolds x (r.rp p) then n else r.squash - 1 := by
  obtain ⟨hpc, -, -, -, -, hsquash⟩ := h
  by_cases ht : testHolds x (r.rp p) = true <;> simp [ctrlNext, ht, hpc, hsquash]

theorem Regs.SlotsFrom.call (k : Nat) :
    let x := ctrlNext (.call k) 0 false r q
    x.pc = 0 ∧ x.rtn = some k ∧ x.calls = r.calls ++ [⟨r.rtn, r.pc + 1, r.loops.length⟩] ∧ x.loops = r.loops := by
  obtain ⟨hpc, hloops, -, hcalls, hrtn, -⟩ := h
  rw [hpc, hloops, hcalls, hrtn]
  exact ⟨rfl, rfl, rfl, rfl⟩

theorem Regs.SlotsFrom.ret {c : RetPoint} (hc : r.calls.getLast? = some c) :
    let x := ctrlNext .ret 0 false r q
    x.pc = c.pc ∧ x.rtn = c.rtn ∧ x.calls = r.calls.dropLast ∧ x.loops = r.loops := by
  obtain ⟨-, hloops, -, hcalls, -, -⟩ := h
  rw [hcalls] at hc
  have hnext : ctrlNext .ret 0 false r q = { q with calls := q.calls.dropLast, rtn := c.rtn, pc := c.pc } := by
    simp only [ctrlNext, hc]
    rfl
  dsimp only
  rw [hnext, hloops, hcalls]
  exact ⟨rfl, rfl, rfl, rfl⟩

end

/-- A LOOP that issues finds a loop level free (R59). -/
theorem Dev.Issues.depth {d : Dev} {t : Nat} {w : Word256} {o : Obs} {b : Bundle} {p : SlotPlan} (h : d.Issues t w o b p) {a : LoopArg}
    (hc : b.ctrl = .loop a) : ((d.atBundle t o).tile t).regs.loops.length < 8 := by
  have hf := (Dev.planBundle_ok h.planned).1
  by_contra hd
  simp [Dev.ctrlFault, hc, not_lt.mp hd, Option.orElse] at hf

/-! ## The operations as commands -/

theorem regImpl_ctxState (t : TileId) (n : Nat) : regImpl (Reg.tile t (Reg.CTXSTATE n)) = w64 (mk 47 40 + mk 36 24 + mk 23 0) := by
  obtain ⟨hlt, h8⟩ := Reg.CTXSTATE_lt n
  rw [regImpl_tile t _ t.isLt (by omega) (by omega)]
  have hrow : ∀ k < 4, findRow rowsTile (Reg.CTXSTATE k) = some { base := 0x018, stride := 0x20, count := 4, ro := mk 47 40 + mk 36 24 + mk 23 0 } := by
    decide
  rw [show Reg.CTXSTATE n = Reg.CTXSTATE (n % 4) by unfold Reg.CTXSTATE; omega, hrow _ (Nat.mod_lt _ (by decide))]
  rfl

theorem regImpl_waitFrame (t : TileId) : regImpl (Reg.tile t Reg.WAIT_FRAME) = BitVec.allOnes 64 := by
  rw [regImpl_tile t _ t.isLt (by decide) (by decide)]; decide

theorem plainTileReg_waitFrame (t : Nat) : plainTileReg t (Reg.tile t Reg.WAIT_FRAME) := by
  unfold plainTileReg Reg.tile Reg.WAIT_FRAME Reg.CTXSTATE
  exact ⟨by omega, fun n => by omega⟩

/-- The end of an entry leaves the registers of the tile. -/
theorem Dev.proceed_regs (d : Dev) (t left : Nat) (f : Option Nat) : ((d.proceed t left f).tile t).regs = (d.tile t).regs := by
  obtain ⟨m, c, l, r, w, h⟩ := d.proceed_tile t left f
  rw [h]

/-- The device after a cadence context has been parked (R74). -/
def Dev.parked (a : Dev) (t : Nat) : Dev := (((a.tinc t Reg.WAIT_FRAME).proceed t 79 none).syncSeq t 4).notePeaks t

/-- A counter or TILE register that parking reads through, if it is none of WAIT_FRAME, SEQ and a context's STATE. -/
theorem Dev.parked_rd (a : Dev) (t : Nat) {o : Nat} (h : plainTileReg t o) (hs : o ≠ Reg.tile t Reg.SEQ) :
    (a.parked t).rd o = (a.tinc t Reg.WAIT_FRAME).rd o := by
  unfold Dev.parked
  rw [Dev.notePeaks_rd _ _ h.1, Dev.syncSeq, Dev.twr, Dev.rd_wr_ne _ _ hs, Dev.proceed_rd _ _ _ _ h]

theorem fsync_parks {t : TileId} {s : State} {b : Bundle} {w : Word256} {o : Obs} {i : Instr} (hb : bundleOf i = some (t, w, o))
    (h : s.dev.Reaches t w o b) (hc : b.ctrl = .fsync)
    (hk : (s.dev.atBundle t o).isCad t ((s.dev.atBundle t o).tile t).slot = true) :
    Completes i s fun e => (e.tile t).mode ≠ .running ∧ e.trd t Reg.ISSUE = (s.dev.atBundle t o).trd t Reg.ISSUE
      ∧ e.trd t Reg.WAIT_FRAME = (s.dev.atBundle t o).trd t Reg.WAIT_FRAME + 1 ∧ (e.tile t).regs = ((s.dev.atBundle t o).tile t).regs := by
  let a := s.dev.atBundle t o
  have hseq {x : Nat} (hx : x ≠ Reg.SEQ) : Reg.tile t x ≠ Reg.tile t Reg.SEQ := Reg.tile_ne t hx
  refine .of (a.parked t) (by rw [exec_bundle i s t w o hb, h.fsync hc hk]; rfl) ⟨?_, ?_, ?_, ?_⟩
  · rw [Dev.seal_tile]
    unfold Dev.parked
    rw [Dev.notePeaks_tile, Dev.syncSeq_tile]
    exact Dev.proceed_mode _ _ _ _
  · rw [Dev.seal_issue]
    unfold Dev.trd
    rw [Dev.parked_rd a t (plainTileReg_issue t) (hseq (by decide))]
    exact Dev.rd_add_ne _ _ (Reg.tile_ne t (by decide))
  · unfold Dev.trd
    rw [Dev.seal_rd_all _ _ (regImpl_waitFrame t), Dev.parked_rd a t (plainTileReg_waitFrame t) (hseq (by decide))]
    exact Dev.rd_add_same ..
  · rw [Dev.seal_tile]
    unfold Dev.parked
    rw [Dev.notePeaks_tile, Dev.syncSeq_tile, Dev.proceed_regs, Dev.tinc_tile]

section
variable {i : Instr} {s : State} {t : TileId} {w : Word256} {o : Obs} {b : Bundle} {p : SlotPlan} (hb : bundleOf i = some (t, w, o))
  (hi : s.dev.Issues t w o b p)
include hb hi

/-- A bundle that issues leaves the sequencer where its CTRL slot's operation moves it. -/
theorem Completes.ctrl {op : CtrlOp} {fin : Nat} {P : Dev → Prop} (hc : b.ctrl = op) (hf : b.fin = fin)
    (hP : ∀ q e, ((s.dev.atBundle t o).tile t).regs.SlotsFrom q →
      (e.tile t).regs = ctrlNext op fin false ((s.dev.atBundle t o).tile t).regs q → P e) : Completes i s P := by
  obtain ⟨q, hq, hregs⟩ := s.dev.issued_regs t o b p
  refine .issues hb hi (hP q _ hq ?_)
  rw [Dev.seal_tile, hregs, hc, hf]

theorem Completes.passes (hf : b.fin = 0) (ho : ∀ r q : Regs, ctrlNext b.ctrl 0 false r q = { q with pc := q.pc + 1 }) :
    Completes i s fun e => ((s.dev.atBundle t o).tile t).regs.Passes (e.tile t).regs := by
  refine .ctrl hb hi rfl hf fun q e hq he => ?_
  rw [he]
  exact hq.passes (ho _ q)

theorem phase_marks {id : Nat} (hid : id < 256) (hc : b.ctrl = .phase id) (hf : b.fin = 0) :
    Completes i s fun e => (e.tile t).regs.pc = ((s.dev.atBundle t o).tile t).regs.pc + 1
      ∧ e.trf t (Reg.CTXSTATE ((s.dev.atBundle t o).tile t).slot) 23 16 = id := by
  obtain ⟨q, hq, hregs⟩ := s.dev.issued_regs t o b p
  refine .issues hb hi ⟨?_, ?_⟩
  · rw [Dev.seal_tile, hregs, hc, hf]
    exact congrArg (· + 1) hq.pc.symm
  · unfold Dev.trf
    rw [Dev.seal_rf _ _ _ _ (by rw [regImpl_ctxState]; decide) (by decide) (by decide)]
    exact s.dev.issued_phase t t.isLt o b p id hid hc

end

/-- Settles O7: what the command's bundle decodes to in its CTRL slot, and where that operation moves the sequencer. -/
theorem ctrlOperationsSequence : Obligations.CtrlOperationsSequence := by
  intro t rest o s b p w
  refine ⟨?_, ?_, ?_, ?_, ?_, ?_, ?_, ?_, ?_, ?_⟩
  · rintro m n i hmem ⟨hb, hi⟩
    have hpass : b.fin = 0 ∧ ∀ r q : Regs, ctrlNext b.ctrl 0 false r q = { q with pc := q.pc + 1 } := by
      simp only [List.mem_cons, List.not_mem_nil, or_false] at hmem
      rcases hmem with rfl | rfl | rfl | rfl <;> cases hb
      · obtain ⟨hc, hf⟩ := hi.ctrl_eq (decCtrl_nop rest (by decide))
        exact ⟨hf, fun r q => by rw [hc]; rfl⟩
      · obtain ⟨⟨x, hc⟩, hf⟩ := decCtrl_wait (full := true) (decBundle_slots hi.decodes).1
        exact ⟨hf, fun r q => by rw [hc]; rfl⟩
      · obtain ⟨⟨x, hc⟩, hf⟩ := decCtrl_wait (full := false) (decBundle_slots hi.decodes).1
        exact ⟨hf, fun r q => by rw [hc]; rfl⟩
      · obtain ⟨hc, hf⟩ := hi.ctrl_eq (decCtrl_bar rest n)
        exact ⟨hf, fun r q => by rw [hc]; rfl⟩
    obtain ⟨hf, ho⟩ := hpass
    exact (Completes.passes hb hi hf ho).mono fun e he => ⟨he.pc, he.loops, he.calls, he.rtn, he.squash⟩
  · rintro l hl ⟨⟨⟩, hi⟩
    obtain ⟨hc, hf⟩ := hi.ctrl_eq (decCtrl_nop rest (by decide))
    refine .ctrl rfl hi hc hf fun q e hq he => ?_
    dsimp only
    rw [he]
    exact hq.endl hl
  · rintro m ⟨⟨⟩, hi⟩
    obtain ⟨hc, hf⟩ := hi.ctrl_eq (decCtrl_loop_imm rest m)
    refine .ctrl rfl hi hc hf fun q e hq he => ?_
    have hx := hq.loop (a := .imm m) (hi.depth hc)
    simp [Regs.loopCount, he] at hx ⊢
    exact hx
  · rintro v ⟨⟨⟩, hi⟩
    obtain ⟨hc, hf⟩ := hi.ctrl_eq (decCtrl_loop_reg rest v)
    refine .ctrl rfl hi hc hf fun q e hq he => ?_
    have hx := hq.loop (a := .reg v) (hi.depth hc)
    simp [Regs.loopCount, he] at hx ⊢
    exact hx
  · rintro x q m ⟨⟨⟩, hi⟩
    obtain ⟨hc, hf⟩ := hi.ctrl_eq (decCtrl_skip rest x q m)
    refine .ctrl rfl hi hc hf fun q e hq he => ?_
    rw [he]
    exact hq.skip ..
  · rintro x ⟨⟨⟩, hi⟩
    obtain ⟨hc, hf⟩ := hi.ctrl_eq (decCtrl_phase rest x)
    exact phase_marks rfl hi x.isLt hc hf
  · rintro k ⟨⟨⟩, hi⟩
    obtain ⟨hc, hf⟩ := hi.ctrl_eq (decCtrl_call rest k)
    refine .ctrl rfl hi hc hf fun q e hq he => ?_
    dsimp only
    rw [he]
    exact hq.call k.toNat
  · rintro c hl ⟨⟨⟩, hi⟩
    obtain ⟨hc, hf⟩ := hi.ctrl_eq (decCtrl_ret rest)
    refine .ctrl rfl hi hc hf fun q e hq he => ?_
    dsimp only
    rw [he]
    exact hq.ret hl
  · rintro ⟨⟨⟩, hi⟩
    have hc := (hi.ctrl_eq (decCtrl_halt rest)).1
    refine .issues rfl hi ?_
    rw [Dev.seal_tile]
    exact s.dev.issued_halt t o b p hc
  · rintro x k ⟨⟩ hr hk
    exact fsync_parks rfl hr (decCtrl_fsync x.isLt k (decBundle_slots hr.decodes).1) hk

end Sys2Proof.Machine
end

section
/-! PROOFS. What the registers read right after reset (R84, R117, R118, R145, R182, R253, R304, R335, R336, R363, R388, R421, R453). -/

namespace Sys2Proof.Machine

/-- The reset value of a tile's register is that of its row, whichever tile (R28). -/
theorem regReset_tile (t off : Nat) (ht : t < 1664) (ho : off < 0x1000) (h8 : off % 8 = 0) :
    regReset (Reg.tile t off) = ((findRow rowsTile off).map fun r => w64 r.reset).getD 0 := by
  unfold regReset regRow Reg.tile
  rw [if_neg (by omega), if_neg (by omega), if_pos (by omega), if_pos (by omega)]
  rw [show (0x1000000 + 0x1000 * t + off - 0x1000000) % 0x1000 = off by omega]
  cases findRow rowsTile off <;> rfl

/-- At reset no register is listed, so each reads its reset value. -/
theorem reset_rd (o : Nat) : State.reset.dev.rd o = regReset o := rfl

/-- The offsets of a tile's counters (R84, R117, R118, R145, R182, R253). -/
def tileCounters : List Nat := [Reg.BEAT, Reg.ISSUE, Reg.STALL_BANK, Reg.STALL_WARM, Reg.STALL_ROUTE, Reg.STALL_MOVE, Reg.WAIT_TAG,
  Reg.WAIT_BAR, Reg.WAIT_FRAME, Reg.CUBE_MISMATCH, Reg.CUBE_ACTIVE, Reg.VEC_MISMATCH, Reg.SP_CORR, Reg.SP_DOUBLE, Reg.SP_SHADOW,
  Reg.SP_WINREFUSE, Reg.SP_HOLD, Reg.RT_CORR, Reg.RT_DOUBLE, Reg.RT_FWDHOLD]

theorem tileCounters_reset : ∀ o ∈ tileCounters, o < 0x1000 ∧ o % 8 = 0 ∧ ((findRow rowsTile o).map fun r => w64 r.reset).getD 0 = 0 := by
  decide

theorem reset_tileCounter (t : TileId) {o : Nat} (h : o ∈ tileCounters) : State.reset.dev.trd t o = 0 := by
  obtain ⟨hlt, h8, hrow⟩ := tileCounters_reset o h
  exact (reset_rd _).trans ((regReset_tile t o t.isLt hlt h8).trans hrow)

/-- The quota and the use of every context and class of the memory tiers (R335, R336). -/
theorem reset_quotas : (∀ c : CtxId, regReset (Reg.QCTX c) = BitVec.allOnes 64 ∧ regReset (Reg.UCTX c) = 0)
    ∧ ∀ n : Fin 8, regReset (Reg.QCLS n) = BitVec.allOnes 64 ∧ regReset (Reg.UCLS n) = 0 := by decide

theorem reset_links : ∀ k : LinkId, regReset (Reg.FEC_UNCORR k) = 0 ∧ regReset (Reg.RESENT k) = 0 ∧ regReset (Reg.ATTEMPTS k) = 0
    ∧ regReset (Reg.L_STATUS k) = 0 := by decide

/-- The blocks of consecutive counters outside the tiles: first offset and number. -/
def counterBlocks : List (Nat × Nat) := [(0x200098, 7), (0x300400, 6), (0x400200, 7), (0x500100, 4), (0x600500, 9), (0xA00300, 5)]

theorem counterBlocks_reset : ∀ b ∈ counterBlocks, ∀ k < b.2, regReset (b.1 + 8 * k) = 0 := by decide

/-- Settles O60: each register named reads the reset value of its row of the register map. -/
theorem resetLeavesTheGivenValues : Obligations.ResetLeavesTheGivenValues := by
  obtain ⟨hctx, hcls⟩ := reset_quotas
  refine ⟨rfl, fun t o ho => reset_tileCounter t ho, hctx, hcls, fun k => ?_, fun o ho h8 => ?_⟩
  · obtain ⟨hu, hr, ha, hs⟩ := reset_links k
    exact ⟨hu, hr, ha, congrArg (fld · 63 61) hs⟩
  · have hblock : ∃ b ∈ counterBlocks, ∃ k < b.2, o = b.1 + 8 * k := by
      rcases ho with h | h | h | h | h | h
      · exact ⟨(0x200098, 7), by decide, (o - 0x200098) / 8, by omega, by omega⟩
      · exact ⟨(0x300400, 6), by decide, (o - 0x300400) / 8, by omega, by omega⟩
      · exact ⟨(0x400200, 7), by decide, (o - 0x400200) / 8, by omega, by omega⟩
      · exact ⟨(0x500100, 4), by decide, (o - 0x500100) / 8, by omega, by omega⟩
      · exact ⟨(0x600500, 9), by decide, (o - 0x600500) / 8, by omega, by omega⟩
      · exact ⟨(0xA00300, 5), by decide, (o - 0xA00300) / 8, by omega, by omega⟩
    obtain ⟨b, hb, k, hk, rfl⟩ := hblock
    exact counterBlocks_reset b hb k hk

end Sys2Proof.Machine
end

section
/-! PROOFS. The events of a tile: the switch to a launch whose context has become FAULTED meanwhile (R72, R75, R78). -/

namespace Sys2Proof.Machine

/-- A tile in the last beats of the switch to a launch; the launch's context, in slot 0, is FAULTED (6) on the tile. -/
def faultedLaunch : Dev :=
  { regs := [(Reg.tile 0 (Reg.CTXSTATE 0), 6)], tiles := [(0, { mode := .switch 5 (.launch ⟨0, 1⟩) })] }

/-- Such a launch never starts: the tile is left idle (R78). -/
theorem faultedLaunch_ends : ((doSwitchEnd 0 faultedLaunch).tile 0).mode = .idle := by decide +kernel

/-- Refutes O14: the switch to a launch ends with the tile idle, not running, where the launch's context has become FAULTED on the tile by then
(R78); the clause for launches has no premise that rules this out. -/
theorem not_tileEventsAct : ¬ Obligations.TileEventsAct := by
  intro h
  obtain ⟨-, -, hlaunch, -, -⟩ := h 0 { pending := [], dev := faultedLaunch }
  obtain ⟨u, hexec, -, hmode, -⟩ := hlaunch 5 ⟨0, 1⟩ rfl rfl rfl rfl
  cases hexec
  rw [Dev.seal_tile] at hmode
  exact absurd (faultedLaunch_ends.symm.trans hmode) (by decide)

end Sys2Proof.Machine
end

section
/-! PROOFS. The commit point: a pending member that leaves its group as frames stop (R269, R454). -/

namespace Sys2Proof.Machine

/-- A member past the commit point of its 64th frame without an outcome, with a register write queued for the frame boundary. The queue of
R454 names FRAME_NOW, with ACTIVE set, where a stream's register is meant. -/
def leavingMember : Dev :=
  { awaited := some 0, awaitedFor := 64, ended := true, streamPend := [(Reg.FRAME_NOW, BitVec.ofNat 64 (2 ^ 63))] }

/-- As frames stop, the queued write is made last, and ACTIVE reads 1 again. -/
theorem leavingMember_runs : (doPendingExpiry leavingMember).framesRun = true := by decide +kernel

/-- Refutes O57: a member that leaves at its commit point stops frames and then makes the writes queued for the frame boundary (R454); the clause
has no premise that these name stream registers, and one that names FRAME_NOW leaves `framesRun` true. -/
theorem not_commitPointAppliesTheOutcome : ¬ Obligations.CommitPointAppliesTheOutcome := by
  intro h
  obtain ⟨-, -, -, -, -, -, -, -, hleaves⟩ := h { pending := [], dev := leavingMember }
  obtain ⟨u, hexec, -, -, -, hstopped, -⟩ := hleaves (by decide) rfl (by decide) rfl
  cases hexec
  have hruns : (doPendingExpiry leavingMember).seal.framesRun = true :=
    (Dev.seal_rb _ _ _ (by decide)).trans leavingMember_runs
  exact absurd (hruns.symm.trans hstopped) (by decide)

end Sys2Proof.Machine
end


section
/-! PROOFS. What the running frame's number, vote and tile set rest on, and that the device's shared operations leave it. -/

namespace Sys2Proof.Machine

/-! ## The cadence side of the device -/

/-- The registers that a frame start sets, and RECOV.CTL. -/
def cadRegs : List Nat :=
  [Reg.FRAME_NOW, Reg.MEM_TICK, Reg.TB_TIME, Reg.FRAME_CFG, Reg.FRAME_EPOCH, Reg.FRAME_BASE, Reg.RECOV_CTL]
def offCad (o : Nat) : Prop := o ∉ cadRegs

/-- What a running frame is known by: those registers, its vote, and a switch of the parameters to come. -/
structure CadDev where
  regs : List W64
  ended : Bool
  joining : Bool
  voted : Bool
  own : Option Bool
  outcome : Option Bool
  switchAt : Option (Nat × W64)
/-- With it, which tiles are fenced and in the group, the episode, and the ticks that launches have stalled. -/
structure CadSide where
  dev : CadDev
  tiles : Nat → Bool × Bool
  episode : Option Episode
  stalled : SMap (Nat × Nat)
def Dev.cadDev (d : Dev) : CadDev := ⟨cadRegs.map d.rd, d.ended, d.joining, d.voted, d.own, d.outcome, d.switchAt⟩
def Dev.tileSet (d : Dev) (t : Nat) : Bool × Bool := ((d.tile t).fenced, (d.tile t).inGroup)
def Dev.cadSide (d : Dev) : CadSide := ⟨d.cadDev, d.tileSet, d.episode, d.stalled⟩

theorem Dev.cadSide_cadDev {d e : Dev} (h : e.cadSide = d.cadSide) : e.cadDev = d.cadDev := congrArg CadSide.dev h
theorem Dev.cadSide_tileSet {d e : Dev} (h : e.cadSide = d.cadSide) : e.tileSet = d.tileSet := congrArg CadSide.tiles h
theorem Dev.cadSide_episode {d e : Dev} (h : e.cadSide = d.cadSide) : e.episode = d.episode := congrArg CadSide.episode h
theorem Dev.cadSide_stalled {d e : Dev} (h : e.cadSide = d.cadSide) : e.stalled = d.stalled := congrArg CadSide.stalled h
theorem Dev.cadDev_rd {d e : Dev} (h : e.cadDev = d.cadDev) {o : Nat} (ho : o ∈ cadRegs) : e.rd o = d.rd o :=
  List.map_inj_left.mp (congrArg CadDev.regs h) o ho

theorem offCad_iff {o : Nat} : offCad o ↔ o ≠ 0x100070 ∧ o ≠ 0x400058 ∧ o ≠ 0x100010 ∧ o ≠ 0x100048 ∧ o ≠ 0x100060 ∧ o ≠ 0x100068
    ∧ o ≠ 0x320 := by
  simp [offCad, cadRegs, Reg.FRAME_NOW, Reg.MEM_TICK, Reg.TB_TIME, Reg.FRAME_CFG, Reg.FRAME_EPOCH, Reg.FRAME_BASE, Reg.RECOV_CTL]
theorem offCad_of_vrv {o : Nat} (h : vrvReg o) : offCad o := by unfold vrvReg at h; rw [offCad_iff]; omega
theorem not_vrvReg_of_cad {o : Nat} (h : o ∈ cadRegs) : ¬ vrvReg o := fun hv => offCad_of_vrv hv h
@[simp] theorem offCad_tile (t o : Nat) : offCad (Reg.tile t o) := by unfold Reg.tile; rw [offCad_iff]; omega
@[simp] theorem offCad_INPUT (k : Nat) : offCad (Reg.INPUT k) := by unfold Reg.INPUT; rw [offCad_iff]; omega
@[simp] theorem offCad_AVL (k : Nat) : offCad (Reg.AVL k) := by unfold Reg.AVL; rw [offCad_iff]; omega
@[simp] theorem offCad_STACK (k : Nat) : offCad (Reg.STACK k) := by unfold Reg.STACK; rw [offCad_iff]; omega
@[simp] theorem offCad_UCTX (k : Nat) : offCad (Reg.UCTX k) := by unfold Reg.UCTX; rw [offCad_iff]; omega
@[simp] theorem offCad_UCLS (k : Nat) : offCad (Reg.UCLS k) := by unfold Reg.UCLS; rw [offCad_iff]; omega
@[simp] theorem offCad_HSEAM (k : Nat) : offCad (Reg.HSEAM k) := by unfold Reg.HSEAM; rw [offCad_iff]; omega
@[simp] theorem offCad_VSEAM (k : Nat) : offCad (Reg.VSEAM k) := by unfold Reg.VSEAM; rw [offCad_iff]; omega
@[simp] theorem offCad_CTX (k : Nat) : offCad (Reg.CTX k) := by unfold Reg.CTX; rw [offCad_iff]; omega
@[simp] theorem offCad_SCH_OUT (k : Nat) : offCad (Reg.SCH_OUT k) := by unfold Reg.SCH_OUT; rw [offCad_iff]; omega
@[simp] theorem offCad_SCH_STEP (k : Nat) : offCad (Reg.SCH_STEP k) := by unfold Reg.SCH_STEP; rw [offCad_iff]; omega
@[simp] theorem offCad_P_CQ_WR (k : Nat) : offCad (Reg.P_CQ_WR k) := by unfold Reg.P_CQ_WR; rw [offCad_iff]; omega
@[simp] theorem offCad_P_LOST (k : Nat) : offCad (Reg.P_LOST k) := by unfold Reg.P_LOST; rw [offCad_iff]; omega
@[simp] theorem offCad_P_CTL (k : Nat) : offCad (Reg.P_CTL k) := by unfold Reg.P_CTL; rw [offCad_iff]; omega
@[simp] theorem offCad_P_CTRL_DONE (k : Nat) : offCad (Reg.P_CTRL_DONE k) := by unfold Reg.P_CTRL_DONE; rw [offCad_iff]; omega
@[simp] theorem offCad_L_STATUS (k : Nat) : offCad (Reg.L_STATUS k) := by unfold Reg.L_STATUS; rw [offCad_iff]; omega
@[simp] theorem offCad_EVENT : offCad Reg.EVENT := by unfold offCad; decide
@[simp] theorem offCad_readyOff (n : Nat) : offCad (readyOff n) := by unfold offCad readyOff; split <;> decide
@[simp] theorem offCad_EMPTY_PLANS : offCad Reg.EMPTY_PLANS := by unfold offCad; decide
@[simp] theorem offCad_PLAN_ID : offCad Reg.PLAN_ID := by unfold offCad; decide
@[simp] theorem offCad_PLAN_SHAPE : offCad Reg.PLAN_SHAPE := by unfold offCad; decide
@[simp] theorem offCad_PLAN_E : offCad Reg.PLAN_E := by unfold offCad; decide
@[simp] theorem offCad_QUOTA_HIT : offCad Reg.QUOTA_HIT := by unfold offCad; decide
@[simp] theorem offCad_RETIRED : offCad Reg.RETIRED := by unfold offCad; decide
@[simp] theorem offCad_ITG_STATUS : offCad Reg.ITG_STATUS := by unfold offCad; decide
@[simp] theorem offCad_RETIRE_CMD : offCad Reg.RETIRE_CMD := by unfold offCad; decide
@[simp] theorem offCad_RETIRE_STATUS : offCad Reg.RETIRE_STATUS := by unfold offCad; decide

/-! ## The operations over registers, tiles, memory and reports -/

/-- Two devices that differ in nothing but what reporting touches, and no register of the cadence side. -/
theorem Dev.cadSide_of_inner {d e : Dev} (h : e.inner = d.inner) (hr : ∀ o ∈ cadRegs, e.rd o = d.rd o) : e.cadSide = d.cadSide := by
  have hregs : cadRegs.map e.rd = cadRegs.map d.rd := List.map_inj_left.mpr hr
  have htiles : e.tileSet = d.tileSet := funext fun t => by unfold Dev.tileSet; rw [Dev.inner_tile h t]
  have hdev : ∀ {β : Type} (f : Dev → β), f e.inner = f d.inner := fun f => congrArg f h
  have hended : e.ended = d.ended := hdev Dev.ended
  have hjoin : e.joining = d.joining := hdev Dev.joining
  have hvoted : e.voted = d.voted := hdev Dev.voted
  have hown : e.own = d.own := hdev Dev.own
  have hout : e.outcome = d.outcome := hdev Dev.outcome
  have hsw : e.switchAt = d.switchAt := hdev Dev.switchAt
  have hep : e.episode = d.episode := hdev Dev.episode
  have hst : e.stalled = d.stalled := hdev Dev.stalled
  unfold Dev.cadSide Dev.cadDev
  rw [hregs, htiles, hended, hjoin, hvoted, hown, hout, hsw, hep, hst]

@[simp] theorem Dev.cadSide_wr (d : Dev) {o : Nat} (v : W64) (h : offCad o) : (d.wr o v).cadSide = d.cadSide :=
  Dev.cadSide_of_inner rfl fun _ hr => d.rd_wr_ne v fun e => h (e ▸ hr)
@[simp] theorem Dev.cadSide_wf (d : Dev) {o : Nat} (hi lo x : Nat) (h : offCad o) : (d.wf o hi lo x).cadSide = d.cadSide := d.cadSide_wr _ h
@[simp] theorem Dev.cadSide_add (d : Dev) {o : Nat} (n : Nat) (h : offCad o) : (d.add o n).cadSide = d.cadSide := d.cadSide_wr _ h
@[simp] theorem Dev.cadSide_inc (d : Dev) {o : Nat} (h : offCad o) : (d.inc o).cadSide = d.cadSide := d.cadSide_wr _ h
@[simp] theorem Dev.cadSide_twr (d : Dev) (t o : Nat) (v : W64) : (d.twr t o v).cadSide = d.cadSide := d.cadSide_wr _ (offCad_tile t o)
@[simp] theorem Dev.cadSide_twf (d : Dev) (t o hi lo x : Nat) : (d.twf t o hi lo x).cadSide = d.cadSide := d.cadSide_wr _ (offCad_tile t o)
@[simp] theorem Dev.cadSide_latch (d : Dev) (l : List Nat) : (d.latch l).cadSide = d.cadSide := by
  unfold Dev.latch; rfl
@[simp] theorem Dev.cadSide_emit (d : Dev) (o : Out) : (d.emit o).cadSide = d.cadSide := by
  unfold Dev.emit; rfl
@[simp] theorem Dev.cadSide_draw (d : Dev) : d.draw.2.cadSide = d.cadSide := by
  unfold Dev.draw; rfl
@[simp] theorem Dev.cadSide_setLine (d : Dev) (a : Nat) (l : Line) : (d.setLine a l).cadSide = d.cadSide := by
  unfold Dev.setLine; rfl
@[simp] theorem Dev.cadSide_setKind (d : Dev) (a k : Nat) : (d.setKind a k).cadSide = d.cadSide := by
  unfold Dev.setKind; rfl
@[simp] theorem Dev.cadSide_clearRange (d : Dev) (a n : Nat) : (d.clearRange a n).cadSide = d.cadSide := by
  unfold Dev.clearRange; rfl
@[simp] theorem Dev.cadSide_wrBytes (d : Dev) (a : Nat) (l : List Byte) : (d.wrBytes a l).cadSide = d.cadSide :=
  Dev.cadSide_of_inner (Dev.inner_wrBytes ..) fun _ _ => Dev.wrBytes_rd ..
@[simp] theorem Dev.cadSide_varveLog (d : Dev) (cls sev kind idx : Nat) (who : Who) (a b : W64) :
    (d.varveLog cls sev kind idx who a b).cadSide = d.cadSide :=
  Dev.cadSide_of_inner (Dev.inner_varveLog ..) fun _ hr => d.varveLog_rd _ _ _ _ _ _ _ (not_vrvReg_of_cad hr)
@[simp] theorem Dev.cadSide_msix (d : Dev) (p v : Nat) : (d.msix p v).cadSide = d.cadSide :=
  Dev.cadSide_of_inner (Dev.inner_msix ..) fun _ _ => Dev.msix_rd ..
@[simp] theorem Dev.cadSide_raiseEvent (d : Dev) (i : Nat) : (d.raiseEvent i).cadSide = d.cadSide :=
  Dev.cadSide_of_inner (Dev.inner_raiseEvent ..) fun _ hr => d.raiseEvent_rd _ fun e => offCad_EVENT (e ▸ hr)
@[simp] theorem Dev.cadSide_setStatus (d : Dev) {o : Nat} (i ev : Nat) (h : offCad o) : (d.setStatus o i ev).cadSide = d.cadSide :=
  Dev.cadSide_of_inner (Dev.inner_setStatus ..) fun _ hr => d.setStatus_rd _ _ _ (fun e => h (e ▸ hr)) fun e => offCad_EVENT (e ▸ hr)
@[simp] theorem Dev.cadSide_setReady (d : Dev) (n : Nat) (v : Bool) : (d.setReady n v).cadSide = d.cadSide := by
  unfold Dev.setReady; split <;> simp
@[simp] theorem Dev.cadSide_setLink (d : Dev) (k v : Nat) : (d.setLink k v).cadSide = d.cadSide := by
  unfold Dev.setLink; split <;> simp

/-- A change of a tile that fences it not, and neither enters nor leaves the group. -/
theorem Dev.cadSide_upd (d : Dev) (t : Nat) (f : Tile → Tile) (hf : (f (d.tile t)).fenced = (d.tile t).fenced)
    (hg : (f (d.tile t)).inGroup = (d.tile t).inGroup) : (d.upd t f).cadSide = d.cadSide := by
  have htiles : (d.upd t f).tileSet = d.tileSet := funext fun u => by
    unfold Dev.tileSet
    by_cases h : u = t
    · subst h; rw [Dev.tile_upd_same, hf, hg]
    · rw [Dev.tile_upd_ne _ _ h]
  exact congrArg (fun x => CadSide.mk d.cadDev x d.episode d.stalled) htiles

@[simp] theorem Dev.cadSide_each {α : Type} {f : Dev → α → Dev} (h : ∀ x d, (f d x).cadSide = d.cadSide) (d : Dev) (l : List α) :
    (d.each l f).cadSide = d.cadSide := Dev.each_keeps Dev.cadSide (fun x _ d => h x d) d
@[simp] theorem Dev.cadSide_when {f : Dev → Dev} (h : ∀ d, (f d).cadSide = d.cadSide) (d : Dev) (b : Bool) :
    (d.when b f).cadSide = d.cadSide := Dev.when_keeps Dev.cadSide h d b

theorem Dev.cadSide_writeMem (n : Nat) (d : Dev) (a : Nat) (bs : List Byte) : (d.writeMem a bs [] n).cadSide = d.cadSide := by
  induction n generalizing d a bs with
  | zero => rfl
  | succ n ih =>
    unfold Dev.writeMem
    dsimp only
    split
    · rfl
    · rw [ih, Dev.cadSide_setKind]
      unfold Dev.writeLine Dev.readLine
      dsimp only [LineErrs.at', List.find?, Option.map]
      split <;> simp
@[simp] theorem Dev.cadSide_store (d : Dev) (a : Nat) (bs : List Byte) : (d.store a bs).cadSide = d.cadSide := Dev.cadSide_writeMem ..
@[simp] theorem Dev.cadSide_storeNum (d : Dev) (a n v : Nat) : (d.storeNum a n v).cadSide = d.cadSide := Dev.cadSide_store ..
@[simp] theorem Dev.cadSide_storeBlock (d : Dev) (a : Nat) (bs : List Byte) (kind cv : Nat) (p : Nat → Bool) :
    (d.storeBlock a bs kind cv p).cadSide = d.cadSide := by
  unfold Dev.storeBlock; simp

end Sys2Proof.Machine
end


section
/-! PROOFS. What memory, its page tables, firn and the retirements do leaves the cadence side. -/

namespace Sys2Proof.Machine

/-! ## Fields of the device beside the cadence side -/

@[simp] theorem Dev.cadSide_nodes (d : Dev) (x : List Node) : ({ d with nodes := x } : Dev).cadSide = d.cadSide := (rfl)
@[simp] theorem Dev.cadSide_pages (d : Dev) (x : List Page) : ({ d with pages := x } : Dev).cadSide = d.cadSide := (rfl)
@[simp] theorem Dev.cadSide_moves (d : Dev) (x : List Move) : ({ d with moves := x } : Dev).cadSide = d.cadSide := (rfl)
@[simp] theorem Dev.cadSide_repairs (d : Dev) (x : List Repair) : ({ d with repairs := x } : Dev).cadSide = d.cadSide := (rfl)
@[simp] theorem Dev.cadSide_outFrames (d : Dev) (x : List Nat) : ({ d with outFrames := x } : Dev).cadSide = d.cadSide := (rfl)
@[simp] theorem Dev.cadSide_hostRetire (d : Dev) (x : Option Retiree) : ({ d with hostRetire := x } : Dev).cadSide = d.cadSide := (rfl)
@[simp] theorem Dev.cadSide_wirePend (d : Dev) (x : List WireOrder) : ({ d with wirePend := x } : Dev).cadSide = d.cadSide := (rfl)

/-! ## Pages and stacks -/

@[simp] theorem Dev.cadSide_syncFrame (d : Dev) (f : Nat) : (d.syncFrame f).cadSide = d.cadSide := by
  unfold Dev.syncFrame Dev.syncStack; split <;> simp
@[simp] theorem Dev.cadSide_useAdd (d : Dev) (p : Page) (tier : Nat) (b : Bool) : (d.useAdd p tier b).cadSide = d.cadSide := by
  unfold Dev.useAdd; dsimp only; split <;> simp
@[simp] theorem Dev.cadSide_reLeaf (d : Dev) (p : Page) (f : Nat → Nat) : (d.reLeaf p f).cadSide = d.cadSide := by
  unfold Dev.reLeaf
  refine Dev.cadSide_each (fun m d => ?_) d _
  split <;> simp
@[simp] theorem Dev.cadSide_placeOn (d : Dev) (s : Nat) (b : Bool) : (d.placeOn s b).2.cadSide = d.cadSide := by
  unfold Dev.placeOn; dsimp only; split <;> simp
@[simp] theorem Dev.cadSide_placeIn (d : Dev) (tier : Nat) (b : Bool) : (d.placeIn tier b).2.cadSide = d.cadSide := by
  unfold Dev.placeIn; split <;> simp
@[simp] theorem Dev.cadSide_startMove (d : Dev) (p : Page) (dst : Nat) (why : MoveWhy) : (d.startMove p dst why).cadSide = d.cadSide := by
  unfold Dev.startMove; simp
theorem Dev.cadSide_moveTo (d : Dev) (p : Page) (tier : Nat) (why : MoveWhy) : (d.moveTo p tier why).1.cadSide = d.cadSide := by
  have h := d.cadSide_placeIn tier p.large
  unfold Dev.moveTo
  split
  all_goals rename_i heq; rw [heq] at h; simpa using h
@[simp] theorem Dev.cadSide_serveRepairs (d : Dev) : d.serveRepairs.cadSide = d.cadSide := by
  unfold Dev.serveRepairs
  refine Dev.cadSide_each (fun r d => ?_) d _
  split
  · split
    · rfl
    · exact Dev.cadSide_moveTo ..
  · rfl
@[simp] theorem Dev.cadSide_abandon (d : Dev) (m : Move) : (d.abandon m).cadSide = d.cadSide := by
  unfold Dev.abandon; dsimp only; split <;> simp
@[simp] theorem Dev.cadSide_dropMove (d : Dev) (m : Move) : (d.dropMove m).cadSide = d.cadSide := by
  unfold Dev.dropMove; simp

/-! ## Firn and retirements -/

@[simp] theorem Dev.cadSide_firnPut (d : Dev) (l : List (Nat × Nat)) (b : Bool) : (d.firnPut l b).1.cadSide = d.cadSide := by
  unfold Dev.firnPut; split <;> rfl
@[simp] theorem Dev.cadSide_firnList (d : Dev) (lo n step : Nat) (l : List Nat) : (d.firnList lo n step l).1.cadSide = d.cadSide := by
  unfold Dev.firnList
  split
  · simp
  · next w _ =>
    have h := d.cadSide_firnPut ((List.range l.length).map fun i => (w + i, nth l i 0)) false
    split
    all_goals rename_i heq; rw [heq] at h; exact h
@[simp] theorem Dev.cadSide_hostOrderEnd (d : Dev) : d.hostOrderEnd.cadSide = d.cadSide := by
  rw [Dev.hostOrderEnd, Dev.cadSide_hostRetire, Dev.cadSide_wr _ _ offCad_RETIRE_STATUS, Dev.cadSide_wf _ _ _ _ offCad_RETIRE_CMD]
@[simp] theorem Dev.cadSide_retired (d : Dev) (r : Retiree) (fin : FirnEnd) : (d.retired r fin).cadSide = d.cadSide := by
  have hnote (d : Dev) (b : Bool) : (d.retireNote r b).cadSide = d.cadSide := Dev.cadSide_varveLog ..
  unfold Dev.retired Dev.itgStatus
  simp [hnote]
theorem Dev.cadSide_softRepair (d : Dev) (s : Nat) (r : Repair) : (d.softRepair s r).2.cadSide = d.cadSide := by
  unfold Dev.softRepair
  split
  · rfl
  · split
    · rfl
    · dsimp only; rw [Dev.cadSide_retired, Dev.cadSide_firnList]; rfl
theorem Dev.cadSide_softRepairs (d : Dev) (s : Nat) (l : List Repair) : (d.softRepairs s l).2.cadSide = d.cadSide := by
  induction l generalizing d with
  | nil => rfl
  | cons r rs ih => exact (ih _).trans (d.cadSide_softRepair s r)
@[simp] theorem Dev.cadSide_finishRepair (d : Dev) (frame : Nat) : (d.finishRepair frame).cadSide = d.cadSide := by
  unfold Dev.finishRepair
  dsimp only
  split
  · rfl
  · split <;> simp [Dev.cadSide_softRepairs]
@[simp] theorem Dev.cadSide_freePage (d : Dev) (p : Page) : (d.freePage p).cadSide = d.cadSide := by
  unfold Dev.freePage; simp

/-! ## Page tables, and the pages of a sequence -/

@[simp] theorem Dev.cadSide_unmapPage (d : Dev) (c vpn : Nat) : (d.unmapPage c vpn).cadSide = d.cadSide := by
  unfold Dev.unmapPage
  dsimp only
  repeat' split
  all_goals simp
@[simp] theorem Dev.cadSide_kvRelease (d : Dev) (slot : Nat) : (d.kvRelease slot).cadSide = d.cadSide := by
  unfold Dev.kvRelease; simp
/-- The range of the page tables stands opaque here: its length would be computed in unary. -/
@[simp] theorem Dev.cadSide_newNode (d : Dev) (size c : Nat) (slot : Option Nat) : (d.newNode size c slot).2.cadSide = d.cadSide := by
  suffices hopaque : ∀ f, f = @Dev.newNode → ∀ r, f d size c slot = r → r.2.cadSide = d.cadSide from hopaque _ rfl _ rfl
  intro f hf r hr
  delta Dev.newNode at hf
  generalize @Dev.rangeOf = range at hf
  subst hf
  beta_reduce at hr
  generalize range d Reg.PT_POOL = q at hr
  obtain ⟨base, len⟩ := q
  dsimp only at hr
  split at hr
  · rw [← hr]; exact d.cadSide_draw
  · rw [← hr]; exact (Dev.cadSide_nodes ..).trans ((Dev.cadSide_clearRange ..).trans d.cadSide_draw)
/-- A step down the page tables ends, or goes on from a device with the same cadence side. What a node is taken from stands opaque. -/
theorem Dev.pathGo_succ (d : Dev) (c va stop l node : Nat) : ∃ e : Dev, e.cadSide = d.cadSide
    ∧ ((∃ o, d.pathGo c va stop (l + 1) node = (o, e)) ∨ ∃ n, d.pathGo c va stop (l + 1) node = e.pathGo c va stop l n) := by
  suffices hopaque : ∀ new, (∀ (d : Dev) size c slot, (new d size c slot).2.cadSide = d.cadSide) → new = @Dev.newNode →
      ∀ entry, entry = @Dev.entryAt → ∀ f, f = @Dev.pathGo → ∃ e : Dev, e.cadSide = d.cadSide
        ∧ ((∃ o, f d c va stop (l + 1) node = (o, e)) ∨ ∃ n, f d c va stop (l + 1) node = f e c va stop l n) from
    hopaque _ Dev.cadSide_newNode rfl _ rfl _ rfl
  intro new hnew hn entry he f hf
  delta Dev.pathGo Dev.pathGo._f at hf
  rw [← hn, ← he] at hf
  clear hn he
  rcases hentry : entry d (l + 1) node va with ⟨a, ea⟩
  rcases hnode : new d (if l = 0 then 256 else 4096) c none with ⟨o, e⟩
  have hside : e.cadSide = d.cadSide := by have h := hnew d (if l = 0 then 256 else 4096) c none; rwa [hnode] at h
  have hstep : f d c va stop (l + 1) node =
      if l + 1 = stop then (some a, d)
      else if bit ea 63 then (if bit ea 62 then (none, d) else f d c va stop l (bits ea 47 8 * 256))
      else o.elim (none, e) fun n => f (e.storeNum a 8 (2 ^ 63 + n)) c va stop l n := by
    subst hf
    dsimp only
    rw [hentry]
    dsimp only
    rw [hnode]
    cases o <;> rfl
  rw [hstep]
  split
  · exact ⟨d, rfl, .inl ⟨_, rfl⟩⟩
  · split
    · split
      · exact ⟨d, rfl, .inl ⟨_, rfl⟩⟩
      · exact ⟨d, rfl, .inr ⟨_, rfl⟩⟩
    · cases o with
      | none => exact ⟨e, hside, .inl ⟨_, rfl⟩⟩
      | some n => exact ⟨e.storeNum a 8 (2 ^ 63 + n), (Dev.cadSide_storeNum ..).trans hside, .inr ⟨_, rfl⟩⟩
theorem Dev.cadSide_pathGo (d : Dev) (c va stop n node : Nat) : (d.pathGo c va stop n node).2.cadSide = d.cadSide := by
  induction n generalizing d node with
  | zero => rfl
  | succ l ih =>
    obtain ⟨e, hside, ⟨o, hend⟩ | ⟨n, hgo⟩⟩ := d.pathGo_succ c va stop l node
    · rw [hend]; exact hside
    · rw [hgo, ih, hside]
theorem Dev.cadSide_mapAt {d e : Dev} {c vpn frame tier : Nat} {wr large moving : Bool} (h : d.mapAt c vpn frame tier wr large moving = some e) :
    e.cadSide = d.cadSide := by
  have hp := d.cadSide_pathGo c (vpn * 65536) (if large then 1 else 0) 3 (d.ptRoot c)
  unfold Dev.mapAt at h
  split at h
  · next heq => rw [heq] at hp; cases h; simpa using hp
  · cases h
theorem Dev.cadSide_allocate (d : Dev) (c : Nat) (cls : Option Nat) (tier : Nat) (b : Bool) : (d.allocate c cls tier b).2.cadSide = d.cadSide := by
  unfold Dev.allocate
  dsimp only
  split
  · next t _ =>
    have h := d.cadSide_placeIn t b
    split
    all_goals rename_i heq; rw [heq] at h; exact h
  · rfl
theorem Dev.cadSide_mapNew {d e : Dev} {c vpn tier : Nat} {wr large : Bool} {cls slot : Option Nat}
    (h : d.mapNew c vpn tier wr large cls slot = .ok e) : e.cadSide = d.cadSide := by
  have ha := d.cadSide_allocate c cls tier large
  unfold Dev.mapNew at h
  split at h
  · cases h
  · next heq =>
    rw [heq] at ha
    dsimp only at h
    split at h
    · cases h
    · next hm => cases h; simp [Dev.cadSide_mapAt hm, ha]
theorem Dev.cadSide_arenaFree (d : Dev) (c : Nat) : (d.arenaFree c).2.cadSide = d.cadSide := by
  unfold Dev.arenaFree; dsimp only; split <;> simp

end Sys2Proof.Machine
end


section
/-! PROOFS. What building, showing and choosing a plan does leaves the cadence side. -/

namespace Sys2Proof.Machine

/-! ## The pages a plan needs -/

theorem Dev.cadSide_kvLeaf {d e : Dev} {c slot root i : Nat} {o : Option Nat} (h : d.kvLeaf c slot root i = (o, e)) : e.cadSide = d.cadSide := by
  unfold Dev.kvLeaf at h
  extract_lets step at h
  have hstep : ∀ (d e : Dev) (a : Nat) (o : Option Nat), step d a = (o, e) → e.cadSide = d.cadSide := by
    intro d e a o hs
    have hn := d.cadSide_newNode 4096 c (some slot)
    unfold step at hs
    extract_lets w at hs
    clear_value w
    split at hs
    · cases hs; rfl
    · split at hs
      all_goals next hnew => rw [hnew] at hn; cases hs; simpa using hn
  clear_value step
  split at h
  · next h1 => cases h; exact hstep _ _ _ _ h1
  · next h1 =>
    split at h
    · next h2 => cases h; exact (hstep _ _ _ _ h2).trans (hstep _ _ _ _ h1)
    · next h2 => cases h; exact (hstep _ _ _ _ h2).trans (hstep _ _ _ _ h1)
theorem Dev.cadSide_kvPage {d e : Dev} {c slot cls root i : Nat} (h : d.kvPage c slot cls root i = some e) : e.cadSide = d.cadSide := by
  unfold Dev.kvPage at h
  split at h
  · cases h
  · next hl =>
    split at h
    · cases h
    · next _ _ e₁ _ v e₂ ha =>
      have harena := e₁.cadSide_arenaFree c
      rw [ha] at harena
      split at h
      · next hm => cases h; rw [Dev.cadSide_storeNum, Dev.cadSide_mapNew hm, harena, Dev.cadSide_kvLeaf hl]
      · cases h
theorem Dev.cadSide_needPage {d e : Dev} {q c cls root i : Nat} {o : Option Dev} (h : d.needPage q c cls root i = (o, e)) :
    e.cadSide = d.cadSide ∧ ∀ f, o = some f → f.cadSide = d.cadSide := by
  unfold Dev.needPage at h
  dsimp only at h
  split at h
  · cases h
    refine ⟨rfl, fun f hf => ?_⟩
    split at hf
    · cases hf; rfl
    · cases hf
  · split at h
    · next hp => cases h; exact ⟨Dev.cadSide_kvPage hp, fun f hf => by cases hf; exact Dev.cadSide_kvPage hp⟩
    · cases h; exact ⟨by simp, fun f hf => by cases hf⟩
theorem Dev.cadSide_needPages {d e : Dev} {q c cls root : Nat} {l : List Nat} {b : Bool} (h : d.needPages q c cls root l = (b, e)) :
    e.cadSide = d.cadSide := by
  induction l generalizing d with
  | nil => cases h; rfl
  | cons i is ih =>
    unfold Dev.needPages at h
    split at h
    · next hn => exact (ih h).trans ((Dev.cadSide_needPage hn).2 _ rfl)
    · next hn => cases h; exact (Dev.cadSide_needPage hn).1
theorem Dev.cadSide_kvRootOf {d e : Dev} {q c : Nat} {o : Option Nat} (h : d.kvRootOf q c = (o, e)) : e.cadSide = d.cadSide := by
  have hn := (d.kvRelease (nextSeq q)).cadSide_newNode 256 c (some (nextSeq q))
  unfold Dev.kvRootOf at h
  split at h
  · cases h; rfl
  · rw [h] at hn; exact hn.trans (Dev.cadSide_kvRelease ..)
theorem Dev.cadSide_rootFor {d p e : Dev} {q : Nat} {o : Option Nat} (h : d.rootFor p q = (o, e)) : e.cadSide = d.cadSide := by
  unfold Dev.rootFor at h
  split at h
  · exact Dev.cadSide_kvRootOf h
  · cases h; rfl
theorem Dev.cadSide_slotPages {d p e : Dev} {s : PSlot} {l : List Nat} {b : Bool} (h : d.slotPages p s l = (b, e)) : e.cadSide = d.cadSide := by
  unfold Dev.slotPages at h
  split at h
  · next hr => cases h; exact Dev.cadSide_rootFor hr
  · next hr => exact (Dev.cadSide_needPages h).trans (Dev.cadSide_rootFor hr)

/-! ## The plan in memory and in the registers -/

@[simp] theorem Dev.cadSide_planNext (d : Dev) (x : Option Plan) : ({ d with planNext := x } : Dev).cadSide = d.cadSide := (rfl)
@[simp] theorem Dev.cadSide_planRun (d : Dev) (x : Option Plan) : ({ d with planRun := x } : Dev).cadSide = d.cadSide := (rfl)
@[simp] theorem Dev.cadSide_planIn (d : Dev) (x : List (Nat × Nat × List Byte)) : ({ d with planIn := x } : Dev).cadSide = d.cadSide := (rfl)
@[simp] theorem Dev.cadSide_causes (d : Dev) (x : BitVec 16) : ({ d with causes := x } : Dev).cadSide = d.cadSide := (rfl)
theorem Dev.cadSide_pagesNamed (d : Dev) (x y : List (Nat × Nat)) : ({ d with handed := x, named := y } : Dev).cadSide = d.cadSide := (rfl)
theorem Dev.cadSide_choice (d : Dev) (p q : Option Plan) (l : List Nat) :
    ({ d with planRun := p, planNext := q, hdrPend := l } : Dev).cadSide = d.cadSide := (rfl)

@[simp] theorem Dev.cadSide_cause (d : Dev) (n : Nat) : (d.cause n).cadSide = d.cadSide := by unfold Dev.cause; split <;> simp
@[simp] theorem Dev.cadSide_touch (d : Dev) (a : Nat) : (d.touch a).cadSide = d.cadSide := by unfold Dev.touch; simp
@[simp] theorem Dev.cadSide_planStore (d : Dev) (c b off : Nat) (l : List Byte) : (d.planStore c b off l).cadSide = d.cadSide := by
  unfold Dev.planStore; split <;> simp
@[simp] theorem Dev.cadSide_listBlock (d : Dev) (c b off : Nat) (l : List Byte) : (d.listBlock c b off l).cadSide = d.cadSide := by
  unfold Dev.listBlock; split <;> simp
@[simp] theorem Dev.cadSide_writePlan (d tbl : Dev) (p : Plan) (l : List Planned) : (d.writePlan tbl p l).cadSide = d.cadSide := by
  unfold Dev.writePlan
  simp only [Dev.cadSide_each, Dev.cadSide_listBlock, Dev.cadSide_planStore, implies_true]
@[simp] theorem Dev.cadSide_showPlan (d : Dev) (p : Plan) (l : List Planned) : (d.showPlan p l).cadSide = d.cadSide := by
  unfold Dev.showPlan
  dsimp only
  rw [Dev.cadSide_pagesNamed, Dev.cadSide_each]
  · simp
  · intro m d; split <;> simp
@[simp] theorem Dev.cadSide_showEnergy (d : Dev) (x : Int) : (d.showEnergy x).cadSide = d.cadSide := by unfold Dev.showEnergy; simp
@[simp] theorem Dev.cadSide_writeLists (d : Dev) (p : Option Plan) : (d.writeLists p).cadSide = d.cadSide := by unfold Dev.writeLists; simp

/-- What is built item by item from a device, each item leaving the cadence side. -/
theorem Dev.cadSide_built {α β : Type} {f : Option (Dev × α) → β → Option (Dev × α)} {d : Dev}
    (hnone : ∀ i, f none i = none) (hf : ∀ e x i e' x', f (some (e, x)) i = some (e', x') → e'.cadSide = e.cadSide)
    {l : List β} {e : Dev} {x y : α} (h : l.foldl f (some (d, x)) = some (e, y)) : e.cadSide = d.cadSide := by
  induction l generalizing d x with
  | nil => cases h; rfl
  | cons i is ih =>
    rw [List.foldl_cons] at h
    match hi : f (some (d, x)) i with
    | none =>
      have hend (l : List β) : l.foldl f none = none := by
        induction l with
        | nil => rfl
        | cons i is ih => rw [List.foldl_cons, hnone, ih]
      rw [hi, hend] at h; cases h
    | some (d', x') => rw [hi] at h; exact (ih h).trans (hf _ _ _ _ _ hi)

theorem Dev.cadSide_followPlan (d : Dev) (frame : Nat) (m : List Byte) : (d.followPlan frame m).cadSide = d.cadSide := by
  unfold Dev.followPlan
  extract_lets w lanes nch v late t2 p segsOf items base build
  have hbuild : ∀ e x i e' x', build (some (e, x)) i = some (e', x') → e'.cadSide = e.cadSide := by
    intro e x i e' x' h
    unfold build at h
    dsimp only at h
    split at h
    · cases h
    · next hp => cases h; exact Dev.cadSide_slotPages hp
  have hnone : ∀ i, build none i = none := fun _ => rfl
  clear_value build
  split
  · split <;> simp
  · next e l hb =>
    have he : e.cadSide = d.cadSide := Dev.cadSide_built hnone hbuild hb
    extract_lets op own e0 none' dec plan shown built
    have hbuilt : built.cadSide = d.cadSide := by
      unfold built
      rw [Dev.cadSide_planIn, Dev.cadSide_showPlan, Dev.cadSide_writePlan]
      exact (Dev.cadSide_showEnergy ..).trans he
    clear_value built
    split
    · exact hbuilt
    · exact (Dev.cadSide_writeLists ..).trans hbuilt
theorem Dev.cadSide_retryPlan (d : Dev) : d.retryPlan.cadSide = d.cadSide := by
  unfold Dev.retryPlan
  split
  · split
    · exact Dev.cadSide_followPlan ..
    · rfl
  · rfl
theorem Dev.cadSide_replayed (d : Dev) (p : Plan) : (d.replayed p).2.cadSide = d.cadSide := by
  unfold Dev.replayed
  split
  · rfl
  · dsimp only; split <;> simp
theorem Dev.cadSide_choosePlan (d : Dev) (n : Nat) : (d.choosePlan n).cadSide = d.cadSide := by
  unfold Dev.choosePlan
  split
  next p e hr =>
  have he : e.cadSide = d.cadSide := by
    split at hr
    · rw [← d.cadSide_replayed, hr]
    · cases hr; rfl
  extract_lets e₁ e₂ e₃
  have h₁ : e₁.cadSide = d.cadSide := (Dev.cadSide_choice ..).trans he
  have h₂ : e₂.cadSide = d.cadSide := (Dev.cadSide_when (fun d => d.cadSide_inc offCad_EMPTY_PLANS) _ _).trans h₁
  have h₃ : e₃.cadSide = d.cadSide := (Dev.cadSide_when (fun d => d.cadSide_cause 7) _ _).trans h₂
  exact (Dev.cadSide_writeLists ..).trans h₃

end Sys2Proof.Machine
end


section
/-! PROOFS. What the wires, the links, the records and the tiles of a frame do leaves the cadence side. -/

namespace Sys2Proof.Machine

/-! ## Wires (R231 to R234) -/

@[simp] theorem Dev.cadSide_cutLink (d : Dev) (t p : Nat) : (d.cutLink t p).cadSide = d.cadSide := by
  unfold Dev.cutLink
  dsimp only
  split
  · split <;> simp
  · simp
@[simp] theorem Dev.cadSide_setSeamBypass (d : Dev) (v b : Nat) : (d.setSeamBypass v b).cadSide = d.cadSide := by
  unfold Dev.setSeamBypass; simp
@[simp] theorem Dev.cadSide_cutPort (d : Dev) (t p : Nat) : (d.cutPort t p).cadSide = d.cadSide := by
  unfold Dev.cutPort
  split
  · simp
  · split
    · simp
    · split
      · rfl
      · dsimp only; split <;> simp
theorem Dev.cadSide_steerWire (d : Dev) (t p w : Nat) : (d.steerWire t p w).1.cadSide = d.cadSide := by
  unfold Dev.steerWire; dsimp only; split <;> simp
@[simp] theorem Dev.cadSide_wireEffect (d : Dev) (x : WireOrder) : (d.wireEffect x).cadSide = d.cadSide := by
  unfold Dev.wireEffect; simp [Dev.cadSide_steerWire]

/-! ## The links at a frame boundary -/

@[simp] theorem Dev.cadSide_updLnk (d : Dev) (k : Nat) (f : LinkSt → LinkSt) : (d.updLnk k f).cadSide = d.cadSide := (rfl)
theorem Dev.cadSide_streamPend (d : Dev) (x : List (Nat × W64)) : ({ d with streamPend := x } : Dev).cadSide = d.cadSide := (rfl)
theorem Dev.cadSide_early1 (d : Dev) (x : List (Nat × Nat × Nat)) : ({ d with early1 := x } : Dev).cadSide = d.cadSide := (rfl)
theorem Dev.cadSide_formLedger (d : Dev) (n : Nat) : (d.formLedger n).cadSide = d.cadSide := by
  unfold Dev.formLedger
  dsimp only
  rw [Dev.cadSide_early1]
  simp

/-! ## Port records -/

@[simp] theorem Dev.cadSide_backlog (d : Dev) (x : List Rec) : ({ d with backlog := x } : Dev).cadSide = d.cadSide := (rfl)
@[simp] theorem Dev.cadSide_ctrlWait (d : Dev) (x : List Rec) : ({ d with ctrlWait := x } : Dev).cadSide = d.cadSide := (rfl)
@[simp] theorem Dev.cadSide_wrote (d : Dev) (x : BitVec 2) : ({ d with wrote := x } : Dev).cadSide = d.cadSide := (rfl)
@[simp] theorem Dev.cadSide_cqRead0 (d : Dev) (x : Nat) : ({ d with cqRead0 := x } : Dev).cadSide = d.cadSide := (rfl)
@[simp] theorem Dev.cadSide_cqRead1 (d : Dev) (x : Nat) : ({ d with cqRead1 := x } : Dev).cadSide = d.cadSide := (rfl)
@[simp] theorem Dev.cadSide_reqs (d : Dev) (x : List Req) : ({ d with reqs := x } : Dev).cadSide = d.cadSide := (rfl)
@[simp] theorem Dev.cadSide_putRec (d : Dev) (r : Rec) : (d.putRec r).cadSide = d.cadSide := by
  unfold Dev.putRec
  dsimp only
  rw [Dev.cadSide_wrote, Dev.cadSide_inc _ (offCad_P_CQ_WR _), Dev.cadSide_emit]
@[simp] theorem Dev.cadSide_giveRec (d : Dev) (r : Rec) : (d.giveRec r).cadSide = d.cadSide := by
  unfold Dev.giveRec
  dsimp only
  split
  · simp
  · split <;> simp
@[simp] theorem Dev.cadSide_control (d : Dev) (port tag op ctx status w3 : Nat) : (d.control port tag op ctx status w3).cadSide = d.cadSide := by
  unfold Dev.control
  dsimp only
  split
  · simp
  · split <;> simp
@[simp] theorem Dev.cadSide_drainBacklog (d : Dev) (p : Nat) : (d.drainBacklog p).cadSide = d.cadSide := by
  unfold Dev.drainBacklog
  refine Dev.cadSide_each (fun r d => ?_) d _
  split <;> simp
@[simp] theorem Dev.cadSide_runAhead (d : Dev) (p n : Nat) : (d.runAhead p n).cadSide = d.cadSide := Dev.cadSide_varveLog ..
@[simp] theorem Dev.cadSide_readRequests (d : Dev) (p : Nat) (pub : Option (BitVec 64)) (ring : List (List Byte)) :
    (d.readRequests p pub ring).cadSide = d.cadSide := by
  unfold Dev.readRequests
  split
  · split
    · rfl
    · dsimp only; split <;> simp
  · rfl
/-- CQ_CONSUMED of a port's record is kept (R474). -/
def Dev.seenRead (d : Dev) (p : Nat) (cq : BitVec 64) : Dev := if p = 0 then { d with cqRead0 := cq.toNat } else { d with cqRead1 := cq.toNat }
/-- The control entries that a port's record publishes are fetched, or it has run ahead (R464). -/
def Dev.fetchControl (d : Dev) (p : Nat) (ctrl : BitVec 64) : Dev := match d.ctrlSize p with
  | some size =>
    if ctrl.toNat < d.rn (Reg.P_CTRL_DONE p) || ctrl.toNat - d.rn (Reg.P_CTRL_DONE p) > size then d.runAhead p ctrl.toNat
    else d.add (Reg.P_CTRL_DONE p) (min 256 (ctrl.toNat - d.rn (Reg.P_CTRL_DONE p)))
  | none => d
theorem Dev.readRecord_fenced {d : Dev} {p : Nat} (rec : Option (BitVec 64 × BitVec 64)) (h : d.portFenced p = true) : d.readRecord p rec = d :=
  if_pos h
theorem Dev.readRecord_none {d : Dev} {p : Nat} (h : d.portFenced p = false) : d.readRecord p none = d.latch (portRegs p) :=
  if_neg (by rw [h]; exact Bool.false_ne_true)
theorem Dev.readRecord_off {d : Dev} {p : Nat} (ctrl cq : BitVec 64) (h : d.portFenced p = false)
    (h0 : (d.latch (portRegs p)).effRd (Reg.P_REC p) = 0) : d.readRecord p (some (ctrl, cq)) = d.latch (portRegs p) :=
  (if_neg (by rw [h]; exact Bool.false_ne_true)).trans (if_pos h0)
theorem Dev.readRecord_some {d : Dev} {p : Nat} (ctrl cq : BitVec 64) (h : d.portFenced p = false)
    (h0 : (d.latch (portRegs p)).effRd (Reg.P_REC p) ≠ 0) :
    d.readRecord p (some (ctrl, cq)) = (((d.latch (portRegs p)).seenRead p cq).fetchControl p ctrl).drainBacklog p :=
  (if_neg (by rw [h]; exact Bool.false_ne_true)).trans (if_neg h0)
@[simp] theorem Dev.cadSide_seenRead (d : Dev) (p : Nat) (cq : BitVec 64) : (d.seenRead p cq).cadSide = d.cadSide := by
  unfold Dev.seenRead; split <;> simp
@[simp] theorem Dev.cadSide_fetchControl (d : Dev) (p : Nat) (ctrl : BitVec 64) : (d.fetchControl p ctrl).cadSide = d.cadSide := by
  unfold Dev.fetchControl
  split
  · split <;> simp
  · rfl
@[simp] theorem Dev.cadSide_readRecord (d : Dev) (p : Nat) (rec : Option (BitVec 64 × BitVec 64)) : (d.readRecord p rec).cadSide = d.cadSide := by
  cases hf : d.portFenced p with
  | true => rw [Dev.readRecord_fenced rec hf]
  | false =>
    match rec with
    | none => rw [Dev.readRecord_none hf, Dev.cadSide_latch]
    | some (ctrl, cq) =>
      by_cases h0 : (d.latch (portRegs p)).effRd (Reg.P_REC p) = 0
      · rw [Dev.readRecord_off ctrl cq hf h0, Dev.cadSide_latch]
      · rw [Dev.readRecord_some ctrl cq hf h0]; simp

/-! ## Tiles and contexts at a frame start -/

@[simp] theorem Dev.cadSide_setSlotState (d : Dev) (t slot v : Nat) : (d.setSlotState t slot v).cadSide = d.cadSide := Dev.cadSide_twf ..
@[simp] theorem Dev.cadSide_setCtxState (d : Dev) (c v : Nat) : (d.setCtxState c v).cadSide = d.cadSide := Dev.cadSide_wf _ _ _ _ (offCad_CTX c)
@[simp] theorem Dev.cadSide_resident (d : Dev) (c : Nat) : (d.resident c).cadSide = d.cadSide := by unfold Dev.resident; simp
@[simp] theorem Dev.cadSide_suspendLaunch (d : Dev) (t : Nat) : (d.suspendLaunch t).cadSide = d.cadSide := by
  unfold Dev.suspendLaunch
  dsimp only
  rw [Dev.cadSide_upd _ _ _ (by rfl) (by rfl)]
  simp
@[simp] theorem Dev.cadSide_restartWindows (d : Dev) : d.restartWindows.cadSide = d.cadSide := by unfold Dev.restartWindows; simp
@[simp] theorem Dev.cadSide_schWrote (d : Dev) (x : List Nat) : ({ d with schWrote := x } : Dev).cadSide = d.cadSide := (rfl)
@[simp] theorem Dev.cadSide_latchSched (d : Dev) (c : Nat) : (d.latchSched c).cadSide = d.cadSide := by
  unfold Dev.latchSched; dsimp only; rw [Dev.cadSide_schWrote, Dev.cadSide_latch]
@[simp] theorem Dev.cadSide_emptyWindows (d : Dev) (t c : Nat) : (d.emptyWindows t c).cadSide = d.cadSide := by
  unfold Dev.emptyWindows
  exact Dev.cadSide_each (fun w d => Dev.cadSide_upd _ _ _ (by rfl) (by rfl)) d _
theorem Dev.cadSide_rateOf (d : Dev) (c : Nat) : (d.rateOf c).2.cadSide = d.cadSide := by unfold Dev.rateOf; split <;> simp
@[simp] theorem Dev.cadSide_latchLr (d : Dev) (t slot : Nat) : (d.latchLr t slot).cadSide = d.cadSide := by
  unfold Dev.latchLr
  dsimp only
  rw [Dev.cadSide_upd _ _ _ (by rfl) (by rfl), Dev.cadSide_rateOf]
@[simp] theorem Dev.cadSide_syncSeq (d : Dev) (t hold : Nat) : (d.syncSeq t hold).cadSide = d.cadSide := Dev.cadSide_twr ..
@[simp] theorem Dev.cadSide_applyRemaps (d : Dev) (t : Nat) : (d.applyRemaps t).cadSide = d.cadSide := by
  unfold Dev.applyRemaps
  dsimp only
  rw [Dev.cadSide_each]
  · split
    · rfl
    · exact Dev.cadSide_upd _ _ _ (by rfl) (by rfl)
  · intro k d
    split
    · rfl
    · rw [Dev.cadSide_retired, Dev.cadSide_when (fun d => Dev.cadSide_twf ..), Dev.cadSide_twf]
      exact Dev.cadSide_upd _ _ _ (by rfl) (by rfl)
@[simp] theorem Dev.cadSide_enterFrame (d : Dev) (t : Nat) : (d.enterFrame t).cadSide = d.cadSide := by
  unfold Dev.enterFrame
  dsimp only
  rw [Dev.cadSide_syncSeq, Dev.cadSide_upd _ _ _ (by rfl) (by rfl)]
  simp

end Sys2Proof.Machine
end


section
/-! PROOFS. Progress of launches, isolation, the tile set and a whole frame start, on the cadence side. -/

namespace Sys2Proof.Machine

/-! ## Progress of launches (R523 to R526) -/

@[simp] theorem Dev.cadSide_flits (d : Dev) (x : List Flit) : ({ d with flits := x } : Dev).cadSide = d.cadSide := (rfl)
@[simp] theorem Dev.cadSide_bars (d : Dev) (x : List BarLine) : ({ d with bars := x } : Dev).cadSide = d.cadSide := (rfl)
@[simp] theorem Dev.cadSide_launches (d : Dev) (x : List Launch) : ({ d with launches := x } : Dev).cadSide = d.cadSide := (rfl)
theorem Dev.cadSide_flits_bars (d : Dev) (x : List Flit) (y : List BarLine) :
    ({ d with flits := x, bars := y } : Dev).cadSide = d.cadSide := (rfl)
theorem Dev.cadSide_nextLaunch (d : Dev) (x : List Launch) (n : Nat) :
    ({ d with launches := x, nextLaunch := n } : Dev).cadSide = d.cadSide := (rfl)

@[simp] theorem Dev.cadSide_dropXfer (d : Dev) (t id : Nat) : (d.dropXfer t id).cadSide = d.cadSide := by
  unfold Dev.dropXfer
  dsimp only
  split
  · rw [Dev.cadSide_serveRepairs, Dev.cadSide_syncFrame, Dev.cadSide_flits]
    exact Dev.cadSide_upd _ _ _ (by rfl) (by rfl)
  · rw [Dev.cadSide_flits]
    exact Dev.cadSide_upd _ _ _ (by rfl) (by rfl)
@[simp] theorem Dev.cadSide_dropXfers (d : Dev) (t : Nat) (gone : Xfer → Bool) : (d.dropXfers t gone).cadSide = d.cadSide := by
  unfold Dev.dropXfers; simp
@[simp] theorem Dev.cadSide_stepSchedules (d : Dev) (c : Nat) : (d.stepSchedules c).cadSide = d.cadSide := by
  unfold Dev.stepSchedules; simp
@[simp] theorem Dev.cadSide_endLaunch (d : Dev) (l : Launch) (status : Nat) : (d.endLaunch l status).cadSide = d.cadSide := by
  unfold Dev.endLaunch
  dsimp only
  split
  · rw [Dev.cadSide_when (fun d => d.cadSide_stepSchedules _), Dev.cadSide_launches]
  · rw [Dev.cadSide_control, Dev.cadSide_when (fun d => d.cadSide_stepSchedules _), Dev.cadSide_launches]
@[simp] theorem Dev.cadSide_abortLaunches (d : Dev) (c : Nat) : (d.abortLaunches c).cadSide = d.cadSide := by
  unfold Dev.abortLaunches
  dsimp only
  rw [Dev.cadSide_each]
  · simp
  · intro e d
    refine Dev.cadSide_upd _ _ _ ?_ ?_
    all_goals
      split
      · split <;> rfl
      · rfl
@[simp] theorem Dev.cadSide_fastReset (d : Dev) (c : Nat) : (d.fastReset c).cadSide = d.cadSide := by
  unfold Dev.fastReset
  dsimp only
  rw [Dev.cadSide_each]
  · rw [Dev.cadSide_flits_bars, Dev.cadSide_abortLaunches]
  · intro e d
    rw [Dev.cadSide_when (fun d => by simp), Dev.cadSide_emptyWindows, Dev.cadSide_upd, Dev.cadSide_dropXfers]
    all_goals split <;> rfl
@[simp] theorem Dev.cadSide_hangEntry (d : Dev) (a : Nat) (l : List Nat) : (d.hangEntry a l).cadSide = d.cadSide := Dev.cadSide_varveLog ..
@[simp] theorem Dev.cadSide_suspect (d : Dev) (c : Nat) : (d.suspect c).cadSide = d.cadSide := Dev.cadSide_setCtxState ..
@[simp] theorem Dev.cadSide_innocent (d : Dev) (c : Nat) : (d.innocent c).cadSide = d.cadSide := by
  unfold Dev.innocent; split <;> simp
@[simp] theorem Dev.cadSide_hangCtx (d : Dev) (c : Nat) : (d.hangCtx c).cadSide = d.cadSide := by
  unfold Dev.hangCtx; dsimp only; split <;> simp
/-- What an episode of isolation leaves: the frame's registers and vote, and the ticks that launches have stalled. -/
def Dev.cadTick (d : Dev) : CadDev × SMap (Nat × Nat) := (d.cadDev, d.stalled)
theorem Dev.cadSide_cadTick {d e : Dev} (h : e.cadSide = d.cadSide) : e.cadTick = d.cadTick :=
  Prod.ext (Dev.cadSide_cadDev h) (Dev.cadSide_stalled h)
theorem Dev.cadTick_episode (d : Dev) (x : Option Episode) : ({ d with episode := x } : Dev).cadTick = d.cadTick := rfl
theorem Dev.cadTick_endEpisode (d : Dev) (e : Episode) : (d.endEpisode e).cadTick = d.cadTick := by
  have h : (d.endEpisode e).cadSide = { d with episode := none }.cadSide := by unfold Dev.endEpisode; simp
  exact (Dev.cadSide_cadTick h).trans (d.cadTick_episode none)
@[simp] theorem Dev.cadSide_isoLaunch (d : Dev) (c : Nat) (l : List Nat) : (d.isoLaunch c l).cadSide = d.cadSide := by
  unfold Dev.isoLaunch
  dsimp only
  rw [Dev.cadSide_each (fun e d => Dev.cadSide_upd _ _ _ (by rfl) (by rfl))]
  exact d.cadSide_nextLaunch _ _
theorem Dev.cadTick_isoNext (d : Dev) (e : Episode) (n : Nat) : (d.isoNext e n).cadTick = d.cadTick := by
  induction n generalizing e with
  | zero => exact d.cadTick_endEpisode e
  | succ k ih =>
    rw [Dev.isoNext]
    split
    · exact d.cadTick_endEpisode e
    · split
      · exact (Dev.cadSide_cadTick (Dev.cadSide_isoLaunch ..)).trans (d.cadTick_episode _)
      · exact ih _
/-- A tick leaves the frame's registers and vote, and the ticks that launches have stalled as it counted them. -/
theorem Dev.cadTick_progressTick (d : Dev) : d.progressTick.cadTick = (d.cadDev, d.countStalls.2.stalled) := by
  have hc : d.countStalls.2.cadTick = (d.cadDev, d.countStalls.2.stalled) := rfl
  unfold Dev.progressTick
  generalize d.countStalls = x at hc ⊢
  obtain ⟨bad, e⟩ := x
  dsimp only at hc ⊢
  split
  · exact hc
  · split
    · split
      · split
        · exact (Dev.cadTick_isoNext ..).trans ((Dev.cadSide_cadTick (Dev.cadSide_fastReset ..)).trans hc)
        · exact hc
      · exact hc
    · split
      · split
        · exact (Dev.cadSide_cadTick (Dev.cadSide_hangEntry ..)).trans hc
        · exact hc
      · rw [Dev.cadTick_isoNext, Dev.cadSide_cadTick (Dev.cadSide_each (fun c d => by simp) _ _), Dev.cadSide_cadTick (Dev.cadSide_hangEntry ..), hc]
theorem Dev.cadDev_progressTick (d : Dev) : d.progressTick.cadDev = d.cadDev := congrArg Prod.fst d.cadTick_progressTick
theorem Dev.cadDev_episode (d : Dev) (x : Option Episode) : ({ d with episode := x } : Dev).cadDev = d.cadDev := rfl

/-! ## The tile set and the suspect of a frame -/

theorem Dev.cadDev_upd (d : Dev) (t : Nat) (f : Tile → Tile) : (d.upd t f).cadDev = d.cadDev := rfl
theorem Dev.cadDev_each {α : Type} {f : Dev → α → Dev} (h : ∀ x d, (f d x).cadDev = d.cadDev) (d : Dev) (l : List α) :
    (d.each l f).cadDev = d.cadDev := Dev.each_keeps Dev.cadDev (fun x _ d => h x d) d
theorem Dev.cadDev_takeTileSet (d : Dev) : d.takeTileSet.cadDev = d.cadDev := by
  unfold Dev.takeTileSet
  dsimp only
  rw [Dev.cadDev_each, Dev.cadDev_each, Dev.cadSide_cadDev (Dev.cadSide_each (fun c d => d.cadSide_resident c) _ _)]
  · intro t d
    exact (Dev.cadDev_upd ..).trans (Dev.cadSide_cadDev (Dev.cadSide_twf ..))
  · intro t d
    exact (Dev.cadDev_upd ..).trans (Dev.cadSide_cadDev (Dev.cadSide_when (fun d => d.cadSide_suspendLaunch t) ..))
theorem Dev.cadDev_isolateFrame (d : Dev) : d.isolateFrame.cadDev = d.cadDev := by
  unfold Dev.isolateFrame
  split
  · split
    · rfl
    · split
      · rfl
      · exact (Dev.cadDev_each (fun t d => d.cadDev_upd t _) _ _).trans (d.cadDev_episode _)
  · rfl
theorem Dev.isolateFrame_none {d : Dev} (h : d.episode = none) : d.isolateFrame = d := by
  unfold Dev.isolateFrame; rw [h]

/-- What a frame boundary does on one link (R426). -/
def Dev.linkBound (d : Dev) (k : Nat) : Dev :=
  let hold := d.rb (Reg.L_CTL k) 61
  let e := if (d.lnk k).admitting then
      (d.when (d.linkState k == 3 && !hold) (·.setLink k 4)).updLnk k fun x => { x with admitting := false } else d
  e.when (hold && e.linkState k == 4) (·.setLink k 3)
theorem Dev.moveSet_eq (d : Dev) : d.moveSet =
    let e := d.each (List.range 24) Dev.linkBound
    ({ e with streamPend := [] }).each e.streamPend fun d w => d.wr w.1 w.2 := rfl
theorem Dev.cadSide_linkBound (d : Dev) (k : Nat) : (d.linkBound k).cadSide = d.cadSide := by
  unfold Dev.linkBound
  dsimp only
  rw [Dev.cadSide_when (fun d => d.cadSide_setLink k 3)]
  split
  · rw [Dev.cadSide_updLnk, Dev.cadSide_when (fun d => d.cadSide_setLink k 4)]
  · rfl

theorem Dev.linkBound_streamPend (d : Dev) (k : Nat) : (d.linkBound k).streamPend = d.streamPend := by
  have hset (d : Dev) (v : Nat) : (d.setLink k v).streamPend = d.streamPend := by
    have h : (d.setLink k v).inner.streamPend = d.inner.streamPend := by rw [Dev.inner_setLink]
    exact h
  unfold Dev.linkBound
  dsimp only
  rw [Dev.when_keeps Dev.streamPend (fun d => hset d 3)]
  split
  · exact Dev.when_keeps Dev.streamPend (fun d => hset d 4) _ _
  · rfl

/-- With no write of stream registers waiting, the links' boundary leaves the cadence side. -/
theorem Dev.cadSide_moveSet {d : Dev} (h : d.streamPend = []) : d.moveSet.cadSide = d.cadSide := by
  have hpend : (d.each (List.range 24) Dev.linkBound).streamPend = [] := by
    rw [Dev.each_keeps Dev.streamPend (fun k _ d => d.linkBound_streamPend k), h]
  rw [Dev.moveSet_eq]
  dsimp only
  rw [hpend]
  exact (Dev.cadSide_streamPend ..).trans (Dev.cadSide_each (fun k d => d.cadSide_linkBound k) _ _)

end Sys2Proof.Machine
end


section
/-! PROOFS. A frame start, cut into its parts: the frame's own registers, the tile set, the plan, the tiles, what the ports give. -/

namespace Sys2Proof.Machine

/-! ## The parts of a frame start (R258) -/

/-- The ended frame's vote is cleared, and the registers of the frame are set. -/
def Dev.frameHead (d : Dev) (n : Nat) : Dev :=
  let d := (((d.takeSwitch n).clearVote).wr Reg.FRAME_NOW (w64 (2 ^ 63 + n % 2 ^ 48))).inc Reg.MEM_TICK
  let d := d.wr Reg.TB_TIME (w64 (d.frameT n).toNat)
  { d with frameBeat := d.rn Reg.CLK_BEAT, joining := false }
/-- What is latched, the bypass changes, the links' boundary, the input ledger and the tile set. -/
def Dev.frameSet (d : Dev) (n : Nat) (first : Bool) : Dev :=
  let d := d.when first (·.latch intRegs)
  let d := d.each (d.restores.filter (·.done)) fun d r => d.applyRestore r
  (d.moveSet.formLedger n).takeTileSet
def Dev.frameWires (d : Dev) : Dev := d.each (d.wirePend.filter d.wireCad) fun d x => d.wireEffect x
/-- The plan is chosen, and the suspect of an isolation frame. -/
def Dev.framePlan (d : Dev) (n : Nat) (ts : List Nat) : Dev :=
  let d := d.when (d.restores.any fun r => (rowFrom r.field r.row r.col).any ts.contains) (·.cause 10)
  let d := (d.retryPlan.choosePlan n).isolateFrame
  { d with bars := updIf (fun b => d.ctxIsCad b.ctx) (fun b => { b with arrived := [], rel := [] }) d.bars }
def Dev.frameTiles (d : Dev) (ts : List Nat) : Dev := (d.each d.groupCtxs fun d c => d.latchSched c).each ts fun d t => d.enterFrame t
/-- What the ports give at the start of a frame. -/
def Dev.frameReads (d : Dev) (pubs : List (Option (BitVec 64) × List (List Byte))) (recs : List (Option (BitVec 64 × BitVec 64))) : Dev :=
  (d.restartWindows.each [0, 1] fun d p => d.readRequests p (nth pubs p (none, [])).1 (nth pubs p (none, [])).2).each [0, 1]
    fun d p => d.readRecord p (nth recs p none)

theorem Dev.takeSwitch_restores (d : Dev) (n : Nat) : (d.takeSwitch n).restores = d.restores := by
  unfold Dev.takeSwitch
  split
  · split <;> rfl
  · rfl
theorem Dev.frameHead_restores (d : Dev) (n : Nat) (first : Bool) :
    ((d.frameHead n).when first (·.latch intRegs)).restores = d.restores :=
  (Dev.when_keeps Dev.restores (f := (·.latch intRegs)) (fun _ => rfl) _ first).trans (d.takeSwitch_restores n)
/-- A frame start is its parts in turn. -/
theorem Dev.startFrame_eq (d : Dev) (n : Nat) (first : Bool) (pubs : List (Option (BitVec 64) × List (List Byte)))
    (recs : List (Option (BitVec 64 × BitVec 64))) : d.startFrame n first pubs recs =
      let w := ((d.frameHead n).frameSet n first).frameWires
      (((w.framePlan n w.groupTiles).frameTiles w.groupTiles).frameReads pubs recs).progressTick := rfl
/-- Where no restore is complete, no row changes. -/
theorem Dev.frameSet_eq {d : Dev} (n : Nat) (first : Bool) (h : ∀ r ∈ d.restores, r.done = false) :
    (d.frameHead n).frameSet n first = (((d.frameHead n).when first (·.latch intRegs)).moveSet.formLedger n).takeTileSet := by
  have hdone : ((d.frameHead n).when first (·.latch intRegs)).restores.filter (·.done) = [] := by
    rw [d.frameHead_restores n first, List.filter_eq_nil_iff]
    intro r hr; rw [h r hr]; exact Bool.false_ne_true
  unfold Dev.frameSet
  dsimp only
  rw [hdone]
  rfl

/-! ## The frame's registers and vote -/

theorem Dev.cadDev_framePlan (d : Dev) (n : Nat) (ts : List Nat) : (d.framePlan n ts).cadDev = d.cadDev := by
  unfold Dev.framePlan
  dsimp only
  rw [Dev.cadSide_cadDev (Dev.cadSide_bars ..), Dev.cadDev_isolateFrame, Dev.cadSide_cadDev (Dev.cadSide_choosePlan ..),
    Dev.cadSide_cadDev (Dev.cadSide_retryPlan ..), Dev.cadSide_cadDev (Dev.cadSide_when (fun d => d.cadSide_cause 10) ..)]
theorem Dev.cadSide_framePlan {d : Dev} (n : Nat) (ts : List Nat) (h : d.episode = none) : (d.framePlan n ts).cadSide = d.cadSide := by
  unfold Dev.framePlan
  extract_lets e₁ e₂
  have h₁ : (e₁.retryPlan.choosePlan n).cadSide = d.cadSide :=
    (Dev.cadSide_choosePlan ..).trans ((Dev.cadSide_retryPlan _).trans (Dev.cadSide_when (fun d => d.cadSide_cause 10) ..))
  have h₂ : e₂ = e₁.retryPlan.choosePlan n := Dev.isolateFrame_none ((Dev.cadSide_episode h₁).trans h)
  rw [Dev.cadSide_bars, h₂, h₁]
theorem Dev.cadSide_frameWires (d : Dev) : d.frameWires.cadSide = d.cadSide := by unfold Dev.frameWires; simp
theorem Dev.cadSide_frameTiles (d : Dev) (ts : List Nat) : (d.frameTiles ts).cadSide = d.cadSide := by unfold Dev.frameTiles; simp
theorem Dev.cadSide_frameReads (d : Dev) (pubs : List (Option (BitVec 64) × List (List Byte))) (recs : List (Option (BitVec 64 × BitVec 64))) :
    (d.frameReads pubs recs).cadSide = d.cadSide := by unfold Dev.frameReads; simp
theorem Dev.cadSide_boundary {d : Dev} (n : Nat) (first : Bool) (h : d.streamPend = []) :
    ((d.when first (·.latch intRegs)).moveSet.formLedger n).cadSide = d.cadSide := by
  rw [Dev.cadSide_formLedger, Dev.cadSide_moveSet, Dev.cadSide_when (fun d => d.cadSide_latch _)]
  exact (Dev.when_keeps Dev.streamPend (f := (·.latch intRegs)) (fun _ => rfl) d first).trans h
theorem Dev.frameHead_streamPend (d : Dev) (n : Nat) : (d.frameHead n).streamPend = d.streamPend := by
  have h : (d.takeSwitch n).streamPend = d.streamPend := by
    unfold Dev.takeSwitch
    split
    · split <;> rfl
    · rfl
  exact h

theorem Dev.cadDev_frameSet {d : Dev} (n : Nat) (first : Bool) (h : ∀ r ∈ d.restores, r.done = false) (hs : d.streamPend = []) :
    ((d.frameHead n).frameSet n first).cadDev = (d.frameHead n).cadDev := by
  rw [Dev.frameSet_eq n first h, Dev.cadDev_takeTileSet]
  exact Dev.cadSide_cadDev (Dev.cadSide_boundary n first ((d.frameHead_streamPend n).trans hs))

/-- After its head, a frame start leaves the frame's registers and its vote. -/
theorem Dev.cadDev_startFrame {d : Dev} (n : Nat) (first : Bool) (pubs : List (Option (BitVec 64) × List (List Byte)))
    (recs : List (Option (BitVec 64 × BitVec 64))) (h : ∀ r ∈ d.restores, r.done = false) (hs : d.streamPend = []) :
    (d.startFrame n first pubs recs).cadDev = (d.frameHead n).cadDev := by
  rw [Dev.startFrame_eq]
  dsimp only
  rw [Dev.cadDev_progressTick, Dev.cadSide_cadDev (Dev.cadSide_frameReads ..), Dev.cadSide_cadDev (Dev.cadSide_frameTiles ..),
    Dev.cadDev_framePlan, Dev.cadSide_cadDev (Dev.cadSide_frameWires _), Dev.cadDev_frameSet n first h hs]

end Sys2Proof.Machine
end


section
/-! PROOFS. What the registers and the vote of a frame read once it has started (R258, R260). -/

namespace Sys2Proof.Machine

/-! ## The head of a frame start -/

theorem Dev.frameHead_now (d : Dev) (n : Nat) : (d.frameHead n).rd Reg.FRAME_NOW = w64 (2 ^ 63 + n % 2 ^ 48) :=
  (Dev.rd_wr_ne _ _ (by decide : Reg.FRAME_NOW ≠ Reg.TB_TIME)).trans
    ((Dev.rd_add_ne _ _ (by decide : Reg.FRAME_NOW ≠ Reg.MEM_TICK)).trans (Dev.rd_wr_same ..))
theorem Dev.takeSwitch_rd (d : Dev) (n : Nat) {o : Nat} (h : o ≠ Reg.FRAME_EPOCH) (h' : o ≠ Reg.FRAME_BASE) (h'' : o ≠ Reg.FRAME_CFG) :
    (d.takeSwitch n).rd o = d.rd o := by
  unfold Dev.takeSwitch
  split
  · split
    · rfl
    · exact (Dev.rd_wr_ne _ _ h'').trans ((Dev.rd_wr_ne _ _ h').trans (Dev.rd_wr_ne _ _ h))
  · rfl
theorem Dev.frameHead_tick (d : Dev) (n : Nat) : (d.frameHead n).rd Reg.MEM_TICK = d.rd Reg.MEM_TICK + 1 := by
  have hset : (d.frameHead n).rd Reg.MEM_TICK = ((d.takeSwitch n).clearVote.wr Reg.FRAME_NOW (w64 (2 ^ 63 + n % 2 ^ 48))).rd Reg.MEM_TICK + w64 1 :=
    (Dev.rd_wr_ne _ _ (by decide : Reg.MEM_TICK ≠ Reg.TB_TIME)).trans (Dev.rd_add_same ..)
  have hold : ((d.takeSwitch n).clearVote.wr Reg.FRAME_NOW (w64 (2 ^ 63 + n % 2 ^ 48))).rd Reg.MEM_TICK = d.rd Reg.MEM_TICK :=
    (Dev.rd_wr_ne _ _ (by decide : Reg.MEM_TICK ≠ Reg.FRAME_NOW)).trans (d.takeSwitch_rd n (by decide) (by decide) (by decide))
  rw [hset, hold]; rfl
/-- Registers that the head of a frame start does not set. -/
theorem Dev.frameHead_rd (d : Dev) (n : Nat) {o : Nat} (h : o ≠ Reg.FRAME_NOW) (h' : o ≠ Reg.MEM_TICK) (h'' : o ≠ Reg.TB_TIME) :
    (d.frameHead n).rd o = (d.takeSwitch n).rd o :=
  (Dev.rd_wr_ne _ _ h'').trans ((Dev.rd_add_ne _ _ h').trans (Dev.rd_wr_ne _ _ h))
theorem Dev.takeSwitch_none {d : Dev} (n : Nat) (h : d.switchAt = none) : d.takeSwitch n = d := by
  unfold Dev.takeSwitch; rw [h]
theorem Dev.takeSwitch_at {d : Dev} {n : Nat} {v : W64} (h : d.switchAt = some (n, v)) :
    d.takeSwitch n =
      { ((d.wr Reg.FRAME_EPOCH (w64 (d.frameT n).toNat)).wr Reg.FRAME_BASE (w64 n)).wr Reg.FRAME_CFG v with switchAt := none } := by
  unfold Dev.takeSwitch
  rw [h]
  exact if_neg (by simp)
theorem Dev.frameT_congr {d e : Dev} (hs : e.switchAt = d.switchAt) (hepoch : e.rd Reg.FRAME_EPOCH = d.rd Reg.FRAME_EPOCH)
    (hbase : e.rd Reg.FRAME_BASE = d.rd Reg.FRAME_BASE) (hcfg : e.rd Reg.FRAME_CFG = d.rd Reg.FRAME_CFG) (n : Nat) : e.frameT n = d.frameT n := by
  have h0 (n : Nat) : e.frameT0 n = d.frameT0 n := by
    unfold Dev.frameT0 Dev.frameL Dev.rn Dev.rf; rw [hepoch, hbase, hcfg]
  unfold Dev.frameT
  rw [hs]
  split <;> simp only [h0]
theorem Dev.frameHead_time {d : Dev} (n : Nat) (h : d.switchAt = none) : (d.frameHead n).rd Reg.TB_TIME = w64 (d.frameT n).toNat := by
  have hset : (d.frameHead n).rd Reg.TB_TIME =
      w64 ((((d.takeSwitch n).clearVote.wr Reg.FRAME_NOW (w64 (2 ^ 63 + n % 2 ^ 48))).inc Reg.MEM_TICK).frameT n).toNat := Dev.rd_wr_same ..
  have hrd {o : Nat} (h₁ : o ≠ Reg.FRAME_NOW) (h₂ : o ≠ Reg.MEM_TICK) :
      (((d.takeSwitch n).clearVote.wr Reg.FRAME_NOW (w64 (2 ^ 63 + n % 2 ^ 48))).inc Reg.MEM_TICK).rd o = d.rd o := by
    have : (((d.takeSwitch n).clearVote.wr Reg.FRAME_NOW (w64 (2 ^ 63 + n % 2 ^ 48))).inc Reg.MEM_TICK).rd o = (d.takeSwitch n).rd o :=
      (Dev.rd_add_ne _ _ h₂).trans (Dev.rd_wr_ne _ _ h₁)
    rw [this, Dev.takeSwitch_none n h]
  rw [hset, Dev.frameT_congr (d := d) _ (hrd (by decide) (by decide)) (hrd (by decide) (by decide)) (hrd (by decide) (by decide))]
  have hsw : (d.takeSwitch n).switchAt = d.switchAt := by rw [Dev.takeSwitch_none n h]
  exact hsw

/-! ## The device once a frame has started -/

theorem w64_active (m : Nat) : fld (w64 (2 ^ 63 + m % 2 ^ 48)) 47 0 = m % 2 ^ 48 ∧ tst (w64 (2 ^ 63 + m % 2 ^ 48)) 63 = true := by
  have hm : m % 2 ^ 48 < 2 ^ 48 := Nat.mod_lt _ (Nat.two_pow_pos _)
  generalize m % 2 ^ 48 = x at hm ⊢
  have hn : (w64 (2 ^ 63 + x)).toNat = 2 ^ 63 + x := by
    unfold w64; rw [BitVec.toNat_ofNat]; omega
  constructor
  · unfold fld bits
    rw [hn, Nat.shiftRight_zero]
    omega
  · unfold tst
    rw [BitVec.getLsbD, hn, Nat.testBit_eq_decide_div_mod_eq]
    have : (2 ^ 63 + x) / 2 ^ 63 % 2 = 1 := by omega
    rw [this]; rfl

section
variable {d : Dev} {n : Nat} {first : Bool} {pubs : List (Option (BitVec 64) × List (List Byte))} {recs : List (Option (BitVec 64 × BitVec 64))}
  (h : ∀ r ∈ d.restores, r.done = false) (hs : d.streamPend = [])
include h hs

theorem Dev.startFrame_rd {o : Nat} (ho : o ∈ cadRegs) : (d.startFrame n first pubs recs).seal.rd o = (d.frameHead n).rd o &&& regImpl o := by
  rw [Dev.seal_rd, Dev.cadDev_rd (Dev.cadDev_startFrame n first pubs recs h hs) ho]
/-- A frame that has started runs, with its number, one more tick and nothing of a vote. -/
theorem Dev.startFrame_starts :
    let e := (d.startFrame n first pubs recs).seal
    e.framesRun = true ∧ e.rf Reg.FRAME_NOW 47 0 = n % 2 ^ 48 ∧ e.ended = false ∧ e.joining = false
      ∧ e.rd Reg.MEM_TICK = d.rd Reg.MEM_TICK + 1 ∧ e.voted = false ∧ e.own = none ∧ e.outcome = none := by
  have hc := Dev.cadDev_startFrame n first pubs recs h hs
  have hnow : (d.startFrame n first pubs recs).rd Reg.FRAME_NOW = w64 (2 ^ 63 + n % 2 ^ 48) :=
    (Dev.cadDev_rd hc (by decide)).trans (d.frameHead_now n)
  obtain ⟨hframe, hactive⟩ := w64_active n
  refine ⟨?_, ?_, congrArg CadDev.ended hc, congrArg CadDev.joining hc, ?_, congrArg CadDev.voted hc, congrArg CadDev.own hc,
    congrArg CadDev.outcome hc⟩
  · unfold Dev.framesRun
    rw [Dev.seal_rb _ _ _ (by decide)]
    unfold Dev.rb; rw [hnow]; exact hactive
  · rw [Dev.seal_rf _ _ _ _ (by decide) (by decide) (by decide)]
    unfold Dev.rf; rw [hnow]; exact hframe
  · rw [Dev.seal_rd_all _ _ (by decide), Dev.cadDev_rd hc (by decide)]
    exact d.frameHead_tick n
theorem Dev.startFrame_unswitched (hsw : d.switchAt = none) :
    let e := (d.startFrame n first pubs recs).seal
    e.rd Reg.TB_TIME = w64 (d.frameT n).toNat &&& regImpl Reg.TB_TIME ∧ e.rd Reg.FRAME_CFG = d.rd Reg.FRAME_CFG &&& regImpl Reg.FRAME_CFG := by
  refine ⟨?_, ?_⟩
  · rw [Dev.startFrame_rd h hs (by decide), Dev.frameHead_time n hsw]
  · rw [Dev.startFrame_rd h hs (by decide), Dev.frameHead_rd _ _ (by decide) (by decide) (by decide), Dev.takeSwitch_none n hsw]
/-- A switch of the parameters staged for the frame is in force (R260). -/
theorem Dev.startFrame_switched {v : W64} (hsw : d.switchAt = some (n, v)) :
    let e := (d.startFrame n first pubs recs).seal
    e.rd Reg.FRAME_CFG = v &&& regImpl Reg.FRAME_CFG ∧ e.switchAt = none
      ∧ e.rd Reg.FRAME_EPOCH = w64 (d.frameT n).toNat &&& regImpl Reg.FRAME_EPOCH
      ∧ e.rd Reg.FRAME_BASE = w64 n &&& regImpl Reg.FRAME_BASE := by
  have hsw' : (d.frameHead n).switchAt = none := congrArg Dev.switchAt (Dev.takeSwitch_at hsw)
  have hrd {o : Nat} (h₁ : o ≠ Reg.FRAME_NOW) (h₂ : o ≠ Reg.MEM_TICK) (h₃ : o ≠ Reg.TB_TIME) : (d.frameHead n).rd o =
      (((d.wr Reg.FRAME_EPOCH (w64 (d.frameT n).toNat)).wr Reg.FRAME_BASE (w64 n)).wr Reg.FRAME_CFG v).rd o := by
    rw [Dev.frameHead_rd _ _ h₁ h₂ h₃, Dev.takeSwitch_at hsw]; rfl
  refine ⟨?_, ?_, ?_, ?_⟩
  · rw [Dev.startFrame_rd h hs (by decide), hrd (by decide) (by decide) (by decide), Dev.rd_wr_same]
  · exact (congrArg CadDev.switchAt (Dev.cadDev_startFrame n first pubs recs h hs)).trans hsw'
  · rw [Dev.startFrame_rd h hs (by decide), hrd (by decide) (by decide) (by decide), Dev.rd_wr_ne _ _ (by decide),
      Dev.rd_wr_ne _ _ (by decide), Dev.rd_wr_same]
  · rw [Dev.startFrame_rd h hs (by decide), hrd (by decide) (by decide) (by decide), Dev.rd_wr_ne _ _ (by decide), Dev.rd_wr_same]

end

end Sys2Proof.Machine
end


section
/-! PROOFS. The tile set that a frame start takes (R68, R83), and the tiles at beat S (R69, R70). -/

namespace Sys2Proof.Machine

/-! ## Contexts and the maps of rows -/

/-- What the contexts of the group and their tiles are found by. -/
structure CtxSide where
  ctxs : SMap (Option CtxInfo)
  fences : List Domain
  ctxRegs : Nat → W64
  maps : Nat → W64
  absent : Nat → Nat → W64
def Dev.ctxSide (d : Dev) : CtxSide :=
  ⟨d.ctxs, d.fences, fun c => d.rd (Reg.CTX c), fun f => d.rd (Reg.ROWMAP f), fun f r => d.rd (Reg.ABSENT f r)⟩
def ctxReg (o : Nat) : Prop := 0x400 ≤ o ∧ o < 0x600 ∨ 0x1000 ≤ o ∧ o < 0x1080 ∨ 0x1500 ≤ o ∧ o < 0x1600
theorem ctxReg_CTX (c : Nat) : ctxReg (Reg.CTX c) := by unfold ctxReg Reg.CTX; omega
theorem ctxReg_ROWMAP (f : Nat) : ctxReg (Reg.ROWMAP f) := by unfold ctxReg Reg.ROWMAP; omega
theorem ctxReg_ABSENT (f r : Nat) : ctxReg (Reg.ABSENT f r) := by unfold ctxReg Reg.ABSENT; omega

section
variable {d e : Dev} (h : e.ctxSide = d.ctxSide)
include h

theorem Dev.ctxSide_ctxs : e.ctxs = d.ctxs := congrArg CtxSide.ctxs h
theorem Dev.ctxSide_fences : e.fences = d.fences := congrArg CtxSide.fences h
theorem Dev.ctxSide_CTX (c : Nat) : e.rd (Reg.CTX c) = d.rd (Reg.CTX c) := congrFun (congrArg CtxSide.ctxRegs h) c
theorem Dev.ctxSide_ROWMAP (f : Nat) : e.rd (Reg.ROWMAP f) = d.rd (Reg.ROWMAP f) := congrFun (congrArg CtxSide.maps h) f
theorem Dev.ctxSide_ABSENT (f r : Nat) : e.rd (Reg.ABSENT f r) = d.rd (Reg.ABSENT f r) := congrFun (congrFun (congrArg CtxSide.absent h) f) r
theorem Dev.groupCtxs_congr : e.groupCtxs = d.groupCtxs := by
  unfold Dev.groupCtxs Dev.ctxFencing Dev.ctxIsCad Dev.ctxState Dev.ctx Dev.rf
  rw [Dev.ctxSide_ctxs h, Dev.ctxSide_fences h]
  simp only [Dev.ctxSide_CTX h]
theorem Dev.ctxTiles_congr (c : Nat) : e.ctxTiles c = d.ctxTiles c := by
  have hphys (l : Nat) : e.physOf l = d.physOf l := by
    unfold Dev.physOf Dev.absentCol Dev.bypass Dev.rb Dev.rf
    simp only [Dev.ctxSide_ROWMAP h, Dev.ctxSide_ABSENT h]
  unfold Dev.ctxTiles Dev.ctx
  rw [Dev.ctxSide_ctxs h]
  simp only [hphys]

end

theorem Dev.ctxSide_of_inner {d e : Dev} (h : e.inner = d.inner) (hr : ∀ o, ctxReg o → e.rd o = d.rd o) : e.ctxSide = d.ctxSide := by
  have hctxs : e.inner.ctxs = d.inner.ctxs := by rw [h]
  have hfences : e.inner.fences = d.inner.fences := by rw [h]
  have hctxs' : e.ctxs = d.ctxs := hctxs
  have hfences' : e.fences = d.fences := hfences
  unfold Dev.ctxSide
  rw [hctxs', hfences', funext fun c => hr _ (ctxReg_CTX c), funext fun c => hr _ (ctxReg_ROWMAP c),
    funext fun f => funext fun r => hr _ (ctxReg_ABSENT f r)]
theorem Dev.ctxSide_wr (d : Dev) {o : Nat} (v : W64) (h : ¬ ctxReg o) : (d.wr o v).ctxSide = d.ctxSide :=
  Dev.ctxSide_of_inner rfl fun _ hr => d.rd_wr_ne v fun e => h (e ▸ hr)
theorem not_ctxReg_tile (t o : Nat) : ¬ ctxReg (Reg.tile t o) := by unfold ctxReg Reg.tile; omega
theorem Dev.ctxSide_setLink (d : Dev) (k v : Nat) : (d.setLink k v).ctxSide = d.ctxSide :=
  Dev.ctxSide_of_inner (Dev.inner_setLink ..) fun o ho => by
    refine d.setLink_rd k v ?_ ?_ ?_
    · unfold ctxReg at ho; unfold Reg.L_STATUS; omega
    · unfold ctxReg at ho; unfold Reg.EVENT; omega
    · unfold ctxReg at ho; unfold Reg.READY1; omega
theorem Dev.ctxSide_linkBound (d : Dev) (k : Nat) : (d.linkBound k).ctxSide = d.ctxSide := by
  have hupd (d : Dev) (f : LinkSt → LinkSt) : (d.updLnk k f).ctxSide = d.ctxSide := rfl
  unfold Dev.linkBound
  dsimp only
  rw [Dev.when_keeps Dev.ctxSide (fun d => d.ctxSide_setLink k 3)]
  split
  · rw [hupd, Dev.when_keeps Dev.ctxSide (fun d => d.ctxSide_setLink k 4)]
  · rfl
theorem Dev.ctxSide_formLedger (d : Dev) (n : Nat) : (d.formLedger n).ctxSide = d.ctxSide := by
  have hearly (d : Dev) (x : List (Nat × Nat × Nat)) : ({ d with early1 := x } : Dev).ctxSide = d.ctxSide := rfl
  unfold Dev.formLedger
  dsimp only
  rw [hearly, Dev.each_keeps Dev.ctxSide]
  exact fun k _ d => d.ctxSide_wr _ (by unfold ctxReg Reg.INPUT; omega)
theorem Dev.ctxSide_resident (d : Dev) (c : Nat) : (d.resident c).ctxSide = d.ctxSide := by
  have hset (d : Dev) (t n v : Nat) : (d.setSlotState t n v).ctxSide = d.ctxSide := d.ctxSide_wr _ (not_ctxReg_tile t _)
  unfold Dev.resident
  exact Dev.each_keeps Dev.ctxSide (fun e _ d => Dev.when_keeps Dev.ctxSide (fun d => hset d _ _ _) d _) d
theorem Dev.ctxSide_takeSwitch (d : Dev) (n : Nat) : (d.takeSwitch n).ctxSide = d.ctxSide := by
  have hsw (d : Dev) (x : Option (Nat × W64)) : ({ d with switchAt := x } : Dev).ctxSide = d.ctxSide := rfl
  have hepoch : ¬ ctxReg Reg.FRAME_EPOCH := by unfold ctxReg Reg.FRAME_EPOCH; omega
  have hbase : ¬ ctxReg Reg.FRAME_BASE := by unfold ctxReg Reg.FRAME_BASE; omega
  have hcfg : ¬ ctxReg Reg.FRAME_CFG := by unfold ctxReg Reg.FRAME_CFG; omega
  unfold Dev.takeSwitch
  split
  · dsimp only
    split
    · rfl
    · rw [hsw, Dev.ctxSide_wr _ _ hcfg, Dev.ctxSide_wr _ _ hbase, Dev.ctxSide_wr _ _ hepoch]
  · rfl
theorem Dev.ctxSide_frameHead (d : Dev) (n : Nat) : (d.frameHead n).ctxSide = d.ctxSide := by
  have hnow : ¬ ctxReg Reg.FRAME_NOW := by unfold ctxReg Reg.FRAME_NOW; omega
  have htick : ¬ ctxReg Reg.MEM_TICK := by unfold ctxReg Reg.MEM_TICK; omega
  have htime : ¬ ctxReg Reg.TB_TIME := by unfold ctxReg Reg.TB_TIME; omega
  have hvote (d : Dev) : d.clearVote.ctxSide = d.ctxSide := rfl
  have hjoin (d : Dev) (x : Nat) : ({ d with frameBeat := x, joining := false } : Dev).ctxSide = d.ctxSide := rfl
  unfold Dev.frameHead Dev.inc Dev.add
  dsimp only
  rw [hjoin, Dev.ctxSide_wr _ _ htime, Dev.ctxSide_wr _ _ htick, Dev.ctxSide_wr _ _ hnow, hvote, Dev.ctxSide_takeSwitch]
/-- The contexts of the group and their tiles are at the tile set what they were as the frame began to start. -/
theorem Dev.ctxSide_boundary {d : Dev} (n : Nat) (first : Bool) (h : d.streamPend = []) :
    ((d.when first (·.latch intRegs)).moveSet.formLedger n).ctxSide = d.ctxSide := by
  have hl : (d.when first (·.latch intRegs)).ctxSide = d.ctxSide := Dev.when_keeps Dev.ctxSide (f := (·.latch intRegs)) (fun _ => rfl) d first
  have hp : (d.when first (·.latch intRegs)).streamPend = [] :=
    (Dev.when_keeps Dev.streamPend (f := (·.latch intRegs)) (fun _ => rfl) d first).trans h
  generalize d.when first (·.latch intRegs) = e at hl hp
  have hpend : (e.each (List.range 24) Dev.linkBound).streamPend = [] := by
    rw [Dev.each_keeps Dev.streamPend (fun k _ d => d.linkBound_streamPend k), hp]
  rw [Dev.ctxSide_formLedger, Dev.moveSet_eq]
  dsimp only
  rw [hpend]
  exact (Dev.each_keeps Dev.ctxSide (fun k _ d => d.ctxSide_linkBound k) e).trans hl

/-! ## The tile set (R68) -/

/-- A tile of the group is among those that stand listed as its tiles. -/
theorem Dev.mem_groupTiles {d : Dev} {t : Nat} (h : (d.tile t).inGroup = true) : t ∈ d.groupTiles := by
  have hmem : ∀ m : SMap Tile, (smGet tileReset m t).inGroup = true → t ∈ (m.filter (·.2.inGroup)).map (·.1) := by
    intro m
    induction m with
    | nil => intro hm; cases hm
    | cons x r ih =>
      obtain ⟨k, v⟩ := x
      intro hm
      by_cases hk : k = t
      · rw [smGet, if_pos hk] at hm
        exact List.mem_map.mpr ⟨(k, v), List.mem_filter.mpr ⟨List.mem_cons_self, hm⟩, hk⟩
      · rw [smGet, if_neg hk] at hm
        obtain ⟨y, hy, hyt⟩ := List.mem_map.mp (ih hm)
        obtain ⟨hyr, hyg⟩ := List.mem_filter.mp hy
        exact List.mem_map.mpr ⟨y, List.mem_filter.mpr ⟨List.mem_cons_of_mem _ hyr, hyg⟩, hyt⟩
  exact hmem d.tiles h
/-- A view of one tile that an update keeps. -/
theorem Dev.upd_keeps {β : Type} (v : Tile → β) (d : Dev) (u t : Nat) {f : Tile → Tile} (h : ∀ x, v (f x) = v x) :
    v ((d.upd u f).tile t) = v (d.tile t) := by
  by_cases e : t = u
  · subst e; rw [Dev.tile_upd_same, h]
  · rw [Dev.tile_upd_ne _ _ e]
theorem Dev.setSlotState_tile (d : Dev) (u n v t : Nat) : (d.setSlotState u n v).tile t = d.tile t := Dev.twf_tile ..
theorem Dev.resident_tile (d : Dev) (c t : Nat) : (d.resident c).tile t = d.tile t := by
  unfold Dev.resident
  exact Dev.each_keeps (fun d => d.tile t) (fun e _ d => Dev.when_keeps (fun d => d.tile t) (fun d => d.setSlotState_tile _ _ _ t) d _) d
theorem Dev.suspendLaunch_keeps {β : Type} (v : Tile → β) (d : Dev) (u t : Nat)
    (h : ∀ x l, v { x with launches := l, cur := none } = v x) : v ((d.suspendLaunch u).tile t) = v (d.tile t) := by
  unfold Dev.suspendLaunch
  dsimp only
  rw [Dev.upd_keeps v _ _ _ (fun x => h x _)]
  exact congrArg v (Dev.when_keeps (fun d => d.tile t) (fun d => d.setSlotState_tile _ _ _ t) d _)
theorem Dev.takeTileSet_fenced (d : Dev) (t : Nat) : (d.takeTileSet.tile t).fenced = (d.tile t).fenced := by
  unfold Dev.takeTileSet
  dsimp only
  rw [Dev.each_keeps (fun d => (d.tile t).fenced), Dev.each_keeps (fun d => (d.tile t).fenced),
    Dev.each_keeps (fun d => (d.tile t).fenced) (fun c _ d => by rw [Dev.resident_tile])]
  · intro u _ d
    refine (Dev.upd_keeps Tile.fenced _ u t ?_).trans ?_
    · exact fun _ => rfl
    · exact congrArg Tile.fenced (Dev.twf_tile ..)
  · intro u _ d
    refine (Dev.upd_keeps Tile.fenced _ u t ?_).trans ?_
    · exact fun _ => rfl
    · exact Dev.when_keeps (fun d => (d.tile t).fenced) (fun d => d.suspendLaunch_keeps Tile.fenced u t fun _ _ => rfl) d _
theorem Dev.takeTileSet_episode (d : Dev) : d.takeTileSet.episode = d.episode := by
  have hr (d : Dev) (c : Nat) : (d.resident c).episode = d.episode := Dev.cadSide_episode (d.cadSide_resident c)
  have hs (d : Dev) (t : Nat) : (d.suspendLaunch t).episode = d.episode := Dev.cadSide_episode (d.cadSide_suspendLaunch t)
  unfold Dev.takeTileSet
  dsimp only
  rw [Dev.each_keeps Dev.episode, Dev.each_keeps Dev.episode, Dev.each_keeps Dev.episode (fun c _ d => hr d c)]
  · exact fun _ _ _ => rfl
  · exact fun t _ d => Dev.when_keeps Dev.episode (fun d => hs d t) d _
/-- A tile of a context of the group is in it once the set is taken. -/
theorem Dev.takeTileSet_inGroup {d : Dev} {c : Nat} (hc : c ∈ d.groupCtxs) {x : Nat × Nat} (hx : x ∈ d.ctxTiles c) :
    (d.takeTileSet.tile x.1).inGroup = true := by
  unfold Dev.takeTileSet
  extract_lets cs e ts e₂
  have he : e.ctxSide = d.ctxSide := Dev.each_keeps Dev.ctxSide (fun c _ d => d.ctxSide_resident c) d
  have hmem : x.1 ∈ ts := by
    unfold ts
    rw [List.mem_eraseDups, List.mem_flatMap]
    exact ⟨c, hc, List.mem_map.mpr ⟨x, by rw [Dev.ctxTiles_congr he]; exact hx, rfl⟩⟩
  refine Dev.each_settles (fun d => (d.tile x.1).inGroup) hmem (fun d => by rw [Dev.tile_upd_same]) (fun u _ hu d => ?_) e₂
  rw [Dev.tile_upd_ne _ _ (Ne.symm hu)]
  exact Dev.when_keeps (fun d => (d.tile x.1).inGroup) (fun d => d.suspendLaunch_keeps Tile.inGroup u x.1 fun _ _ => rfl) d _

end Sys2Proof.Machine
end


section
/-! PROOFS. The tiles of the group at beat S (R69, R70), and what is left of them as the frame has started. -/

namespace Sys2Proof.Machine

/-! ## What entering the frame does to a tile -/

theorem Dev.retired_tile (d : Dev) (r : Retiree) (fin : FirnEnd) (t : Nat) : (d.retired r fin).tile t = d.tile t := by
  have hnote (d : Dev) (b : Bool) : (d.retireNote r b).tile t = d.tile t := Dev.varveLog_tile ..
  unfold Dev.retired Dev.itgStatus
  dsimp only
  rw [Dev.when_keeps (fun d => d.tile t) (f := (·.hostOrderEnd)) (fun _ => rfl), Dev.setStatus_tile, Dev.inc_tile,
    Dev.when_keeps (fun d => d.tile t) (fun d => hnote d true), hnote]
theorem Dev.rateOf_tile {d e : Dev} {c : Nat} {v : W64} (h : d.rateOf c = (v, e)) (t : Nat) : e.tile t = d.tile t := by
  unfold Dev.rateOf at h
  split at h
  · cases h; rfl
  · obtain ⟨-, rfl⟩ := Prod.mk.inj h; exact Dev.wr_tile ..
theorem Dev.applyRemaps_tile_ne (d : Dev) {u t : Nat} (h : t ≠ u) : (d.applyRemaps u).tile t = d.tile t := by
  unfold Dev.applyRemaps
  dsimp only
  rw [Dev.each_keeps (fun d => d.tile t)]
  · split
    · rfl
    · exact Dev.tile_upd_ne _ _ h
  · intro k _ d
    split
    · rfl
    · rw [Dev.retired_tile, Dev.when_keeps (fun d => d.tile t) (fun d => Dev.twf_tile ..), Dev.twf_tile, Dev.tile_upd_ne _ _ h]
theorem Dev.emptyWindows_tile_ne (d : Dev) {u t : Nat} (c : Nat) (h : t ≠ u) : (d.emptyWindows u c).tile t = d.tile t := by
  unfold Dev.emptyWindows
  exact Dev.each_keeps (fun d => d.tile t) (fun w _ d => Dev.tile_upd_ne _ _ h) d
theorem Dev.latchLr_tile_ne (d : Dev) {u t : Nat} (n : Nat) (h : t ≠ u) : (d.latchLr u n).tile t = d.tile t := by
  unfold Dev.latchLr
  rcases hr : d.rateOf (d.ctxOf u n) with ⟨v, e⟩
  exact (Dev.tile_upd_ne _ _ h).trans (Dev.rateOf_tile hr t)
theorem Dev.enterFrame_tile_ne (d : Dev) {u t : Nat} (h : t ≠ u) : (d.enterFrame u).tile t = d.tile t := by
  unfold Dev.enterFrame
  dsimp only
  rw [Dev.syncSeq_tile, Dev.tile_upd_ne _ _ h, Dev.each_keeps (fun d => d.tile t), Dev.applyRemaps_tile_ne _ h]
  intro n _ d
  rw [Dev.when_keeps (fun d => d.tile t) (fun d => (Dev.twf_tile ..).trans (Dev.setSlotState_tile ..)), Dev.latchLr_tile_ne _ _ h,
    Dev.emptyWindows_tile_ne _ _ h]
/-- A tile at beat S: unless fenced, in the 16 beats of frame entry, with cleared registers and no verdict (R70). -/
def Tile.enters (x : Tile) : Prop := x.fenced = false → x.mode = .entry 16 ∧ x.regs = {} ∧ x.verdict = 0
theorem Dev.enterFrame_enters (d : Dev) (t : Nat) : ((d.enterFrame t).tile t).enters := by
  unfold Dev.enterFrame
  dsimp only
  rw [Dev.syncSeq_tile, Dev.tile_upd_same]
  exact fun hf => ⟨if_neg (by rw [show _ = false from hf]; exact Bool.false_ne_true), rfl, rfl⟩
theorem Dev.frameTiles_enters (d : Dev) {ts : List Nat} {t : Nat} (h : t ∈ ts) : ((d.frameTiles ts).tile t).enters := by
  have := Dev.each_settles (fun d => (d.tile t).enters) (c := True) (f := fun d u => d.enterFrame u) h
    (fun d => eq_true (d.enterFrame_enters t)) (fun u _ hu d => by rw [Dev.enterFrame_tile_ne _ (Ne.symm hu)])
    (d.each d.groupCtxs fun d c => d.latchSched c)
  exact of_eq_true this

/-! ## What the ports and the tick leave of the tiles -/

theorem Dev.drainBacklog_tile (d : Dev) (p t : Nat) : (d.drainBacklog p).tile t = d.tile t := by
  unfold Dev.drainBacklog
  refine Dev.each_keeps (fun d => d.tile t) (fun r _ d => ?_) d
  split <;> rfl
theorem Dev.readRecord_tile (d : Dev) (p : Nat) (rec : Option (BitVec 64 × BitVec 64)) (t : Nat) : (d.readRecord p rec).tile t = d.tile t := by
  have hseen (d : Dev) (cq : BitVec 64) : (d.seenRead p cq).tile t = d.tile t := by unfold Dev.seenRead; split <;> rfl
  have hfetch (d : Dev) (ctrl : BitVec 64) : (d.fetchControl p ctrl).tile t = d.tile t := by
    unfold Dev.fetchControl
    split
    · split
      · exact Dev.varveLog_tile ..
      · rfl
    · rfl
  cases hf : d.portFenced p with
  | true => rw [Dev.readRecord_fenced rec hf]
  | false =>
    match rec with
    | none => rw [Dev.readRecord_none hf]; rfl
    | some (ctrl, cq) =>
      by_cases h0 : (d.latch (portRegs p)).effRd (Reg.P_REC p) = 0
      · rw [Dev.readRecord_off ctrl cq hf h0]; rfl
      · rw [Dev.readRecord_some ctrl cq hf h0, Dev.drainBacklog_tile, hfetch, hseen]; rfl
theorem Dev.readRequests_tile (d : Dev) (p : Nat) (pub : Option (BitVec 64)) (ring : List (List Byte)) (t : Nat) :
    (d.readRequests p pub ring).tile t = d.tile t := by
  unfold Dev.readRequests
  split
  · split
    · rfl
    · dsimp only
      split
      · exact Dev.varveLog_tile ..
      · rfl
  · rfl
theorem Dev.frameReads_tile (d : Dev) (pubs : List (Option (BitVec 64) × List (List Byte))) (recs : List (Option (BitVec 64 × BitVec 64)))
    (t : Nat) : (d.frameReads pubs recs).tile t = d.tile t := by
  have hw (d : Dev) : d.restartWindows.tile t = d.tile t := by
    unfold Dev.restartWindows
    exact Dev.each_keeps (fun d => d.tile t) (fun _ _ _ => Dev.wr_tile ..) d
  unfold Dev.frameReads
  rw [Dev.each_keeps (fun d => d.tile t) (fun p _ d => d.readRecord_tile p _ t),
    Dev.each_keeps (fun d => d.tile t) (fun p _ d => d.readRequests_tile p _ _ t), hw]
/-- With no isolation to run, a tick counts, and may log. -/
theorem Dev.progressTick_quiet {d : Dev} (h : d.episode = none) (hi : d.isolates = false) :
    d.progressTick = d.countStalls.2 ∨ ∃ l, d.progressTick = d.countStalls.2.hangEntry 0 l := by
  have he : d.countStalls.2.episode = none := h
  have hi' : d.countStalls.2.isolates = false := hi
  unfold Dev.progressTick
  generalize d.countStalls = x at he hi' ⊢
  obtain ⟨bad, e⟩ := x
  dsimp only at he hi' ⊢
  rw [he]
  dsimp only
  rw [hi']
  split
  · exact .inl rfl
  · simp only [Bool.not_false, if_true]
    split
    · exact .inr ⟨_, rfl⟩
    · exact .inl rfl
theorem Dev.progressTick_tile {d : Dev} (h : d.episode = none) (hi : d.isolates = false) (t : Nat) : d.progressTick.tile t = d.tile t := by
  obtain he | ⟨l, he⟩ := Dev.progressTick_quiet h hi
  · rw [he]; rfl
  · rw [he]; exact Dev.varveLog_tile ..

/-! ## The tiles of a frame that has started -/

theorem Dev.frameHead_tile (d : Dev) (n t : Nat) : (d.frameHead n).tile t = d.tile t := by
  have hsw : (d.takeSwitch n).tile t = d.tile t := by
    unfold Dev.takeSwitch
    split
    · split <;> rfl
    · rfl
  exact hsw
theorem Dev.frameHead_episode (d : Dev) (n : Nat) : (d.frameHead n).episode = d.episode := by
  have hsw : (d.takeSwitch n).episode = d.episode := by
    unfold Dev.takeSwitch
    split
    · split <;> rfl
    · rfl
  exact hsw
theorem Dev.frameHead_isolates (d : Dev) (n : Nat) : (d.frameHead n).isolates = d.isolates :=
  Dev.rb_congr ((Dev.frameHead_rd _ _ (by decide) (by decide) (by decide)).trans (d.takeSwitch_rd n (by decide) (by decide) (by decide))) 63

/-- A tile that the set holds once it is taken is in the frame's entry as the frame has started, unless it is fenced. -/
theorem Dev.taken_enters {w : Dev} (n : Nat) (pubs : List (Option (BitVec 64) × List (List Byte)))
    (recs : List (Option (BitVec 64 × BitVec 64))) (hep : w.episode = none) (hi : w.isolates = false) {t : Nat}
    (hin : (w.tile t).inGroup = true) (hf : (w.tile t).fenced = false) :
    let y := ((((w.framePlan n w.groupTiles).frameTiles w.groupTiles).frameReads pubs recs).progressTick).tile t
    y.inGroup = true ∧ y.mode = .entry 16 ∧ y.regs = {} ∧ y.verdict = 0 := by
  have hplan := Dev.cadSide_framePlan n w.groupTiles hep
  have htiles := Dev.cadSide_frameTiles (w.framePlan n w.groupTiles) w.groupTiles
  have hreads := Dev.cadSide_frameReads ((w.framePlan n w.groupTiles).frameTiles w.groupTiles) pubs recs
  have henters := Dev.frameTiles_enters (w.framePlan n w.groupTiles) (Dev.mem_groupTiles hin)
  have hset := congrFun (Dev.cadSide_tileSet (htiles.trans hplan)) t
  generalize (w.framePlan n w.groupTiles).frameTiles w.groupTiles = e at hreads henters hset htiles
  have hquiet := (hreads.trans htiles).trans hplan
  have hep' : (e.frameReads pubs recs).episode = none := (Dev.cadSide_episode hquiet).trans hep
  have hi' : (e.frameReads pubs recs).isolates = false :=
    (Dev.rb_congr (Dev.cadDev_rd (Dev.cadSide_cadDev hquiet) (by decide)) 63).trans hi
  dsimp only
  rw [Dev.progressTick_tile hep' hi', Dev.frameReads_tile]
  have hgroup : (e.tile t).inGroup = true := (congrArg Prod.snd hset).trans hin
  have hfree : (e.tile t).fenced = false := (congrArg Prod.fst hset).trans hf
  exact ⟨hgroup, henters hfree⟩
/-- Every tile of the group's contexts that is not fenced is in the frame's entry (R70). -/
theorem Dev.startFrame_tiles {d : Dev} (n : Nat) (first : Bool) (pubs : List (Option (BitVec 64) × List (List Byte)))
    (recs : List (Option (BitVec 64 × BitVec 64))) (h : ∀ r ∈ d.restores, r.done = false) (hs : d.streamPend = [])
    (hep : d.episode = none) (hi : d.isolates = false) {c : Nat} (hc : c ∈ d.groupCtxs) {x : Nat × Nat} (hx : x ∈ d.ctxTiles c)
    (hf : (d.tile x.1).fenced = false) :
    let y := (d.startFrame n first pubs recs).seal.tile x.1
    y.inGroup = true ∧ y.mode = .entry 16 ∧ y.regs = {} ∧ y.verdict = 0 := by
  have hs' : (d.frameHead n).streamPend = [] := (d.frameHead_streamPend n).trans hs
  have hctx := (Dev.ctxSide_boundary n first hs').trans (d.ctxSide_frameHead n)
  have hside := Dev.cadSide_boundary n first hs'
  dsimp only
  rw [Dev.seal_tile, Dev.startFrame_eq, Dev.frameSet_eq n first h]
  generalize ((d.frameHead n).when first (·.latch intRegs)).moveSet.formLedger n = b at hctx hside
  have hfb : (b.tile x.1).fenced = false := by
    have hset := congrArg Prod.fst (congrFun (Dev.cadSide_tileSet hside) x.1)
    exact hset.trans ((congrArg Tile.fenced (d.frameHead_tile n x.1)).trans hf)
  have hin : (b.takeTileSet.tile x.1).inGroup = true :=
    Dev.takeTileSet_inGroup (c := c) (by rw [Dev.groupCtxs_congr hctx]; exact hc) (by rw [Dev.ctxTiles_congr hctx]; exact hx)
  have hw := b.takeTileSet.cadSide_frameWires
  have hset := congrFun (Dev.cadSide_tileSet hw) x.1
  have hdev := (Dev.cadSide_cadDev hw).trans (b.cadDev_takeTileSet.trans (Dev.cadSide_cadDev hside))
  refine Dev.taken_enters n pubs recs ?_ ?_ ((congrArg Prod.snd hset).trans hin)
    ((congrArg Prod.fst hset).trans ((b.takeTileSet_fenced x.1).trans hfb))
  · exact (Dev.cadSide_episode hw).trans (b.takeTileSet_episode.trans ((Dev.cadSide_episode hside).trans ((d.frameHead_episode n).trans hep)))
  · exact (Dev.rb_congr (Dev.cadDev_rd hdev (by decide)) 63).trans ((d.frameHead_isolates n).trans hi)

end Sys2Proof.Machine
end


section
/-! PROOFS. Frames stop (R473), and the clauses of a frame start. -/

namespace Sys2Proof.Machine

/-! ## Frames stop (R473) -/

/-- The running plan and the writes of stream registers that wait. -/
def Dev.planSide (d : Dev) : Option Plan × List (Nat × W64) := (d.planRun, d.streamPend)
theorem Dev.planSide_of_inner {d e : Dev} (h : e.inner = d.inner) : e.planSide = d.planSide := by
  have hplan : e.inner.planSide = d.inner.planSide := by rw [h]
  exact hplan
theorem Dev.planSide_giveRec (d : Dev) (r : Rec) : (d.giveRec r).planSide = d.planSide := by
  unfold Dev.giveRec
  dsimp only
  split
  · rfl
  · split
    · rfl
    · exact Dev.planSide_of_inner (by rw [Dev.inner_varveLog, Dev.inner_wf, Dev.inner_inc])
theorem Dev.planSide_flushControl (d : Dev) : d.flushControl.planSide = d.planSide := by
  unfold Dev.flushControl
  refine (Dev.each_keeps Dev.planSide (fun r _ d => ?_) _).trans rfl
  split
  · rfl
  · exact d.planSide_giveRec r
theorem Dev.cadSide_flushControl (d : Dev) : d.flushControl.cadSide = d.cadSide := by
  unfold Dev.flushControl
  dsimp only
  rw [Dev.cadSide_each, Dev.cadSide_ctrlWait]
  intro r d
  split
  · rfl
  · exact d.cadSide_giveRec r
theorem Dev.planSide_signalRecs (d : Dev) (p : Nat) : (d.signalRecs p).planSide = d.planSide := by
  have hmsix (d : Dev) : (d.msix p 0).planSide = d.planSide := Dev.planSide_of_inner (Dev.inner_msix ..)
  unfold Dev.signalRecs
  split
  · exact (hmsix _).trans rfl
  · rfl
theorem Dev.cadSide_signalRecs (d : Dev) (p : Nat) : (d.signalRecs p).cadSide = d.cadSide := by
  unfold Dev.signalRecs; split <;> simp
theorem Dev.linkBound_planRun (d : Dev) (k : Nat) : (d.linkBound k).planRun = d.planRun := by
  have hset (d : Dev) (v : Nat) : (d.setLink k v).planRun = d.planRun :=
    congrArg Prod.fst (Dev.planSide_of_inner (d.inner_setLink k v))
  unfold Dev.linkBound
  dsimp only
  rw [Dev.when_keeps Dev.planRun (fun d => hset d 3)]
  split
  · exact Dev.when_keeps Dev.planRun (fun d => hset d 4) _ _
  · rfl
theorem Dev.moveSet_planRun (d : Dev) : d.moveSet.planRun = d.planRun := by
  have hwrites (d : Dev) (l : List (Nat × W64)) : (d.each l fun d (w : Nat × W64) => d.wr w.1 w.2).planRun = d.planRun :=
    Dev.each_keeps Dev.planRun (f := fun d (w : Nat × W64) => d.wr w.1 w.2) (fun _ _ _ => rfl) d
  rw [Dev.moveSet_eq]
  exact (hwrites _ _).trans (Dev.each_keeps Dev.planRun (fun k _ d => d.linkBound_planRun k) d)
theorem Dev.dropTileSet_inGroup (d : Dev) (t : Nat) : (d.dropTileSet.tile t).inGroup = false := by
  unfold Dev.dropTileSet
  by_cases h : t ∈ d.groupTiles
  · refine Dev.each_settles (fun d => (d.tile t).inGroup) h (fun d => by rw [Dev.tile_upd_same]) (fun u _ hu d => ?_) d
    rw [Dev.tile_upd_ne _ _ (Ne.symm hu), Dev.twf_tile]
  · have hout : (d.tile t).inGroup = false := by
      cases hin : (d.tile t).inGroup with
      | false => rfl
      | true => exact absurd (Dev.mem_groupTiles hin) h
    refine (Dev.each_keeps (fun d => (d.tile t).inGroup) (fun u hu d => ?_) d).trans hout
    have hne : t ≠ u := fun e => h (by rw [e]; exact hu)
    rw [Dev.tile_upd_ne _ _ hne, Dev.twf_tile]
theorem Dev.dropTileSet_streamPend (d : Dev) : d.dropTileSet.streamPend = d.streamPend := by
  unfold Dev.dropTileSet
  rw [Dev.each_keeps Dev.streamPend]
  exact fun _ _ _ => rfl
/-- The device as frames stop: nothing of the group, of a vote or of a plan is left. -/
def Dev.stopHead (d : Dev) : Dev :=
  { d.clearVoids.dropTileSet.clearVote with planRun := none, planNext := none, replay := false, joining := false, hdrPend := [],
                                            switchAt := none, planIn := [] }
theorem Dev.stopFrames_eq (d : Dev) :
    d.stopFrames = ((d.stopHead.wf Reg.FRAME_NOW 63 63 0).flushControl.moveSet).each [0, 1] fun d p => d.signalRecs p := rfl
theorem Dev.stopHead_planSide (d : Dev) : d.stopHead.planSide = (none, d.streamPend) :=
  congrArg (Prod.mk none) d.clearVoids.dropTileSet_streamPend
theorem Dev.stopFrames_stops {d : Dev} (hs : d.streamPend = []) :
    let e := d.stopFrames.seal
    e.framesRun = false ∧ e.planRun = none ∧ ∀ t, (e.tile t).inGroup = false := by
  have hplan : (d.stopHead.wf Reg.FRAME_NOW 63 63 0).flushControl.planSide = (none, []) :=
    (Dev.planSide_flushControl _).trans (d.stopHead_planSide.trans (by rw [hs]))
  have hside : d.stopFrames.cadSide = (d.stopHead.wf Reg.FRAME_NOW 63 63 0).cadSide := by
    rw [Dev.stopFrames_eq, Dev.cadSide_each (fun p d => d.cadSide_signalRecs p), Dev.cadSide_moveSet (congrArg Prod.snd hplan),
      Dev.cadSide_flushControl]
  refine ⟨?_, ?_, fun t => ?_⟩
  · unfold Dev.framesRun
    rw [Dev.seal_rb _ _ _ (by decide), Dev.rb_congr (Dev.cadDev_rd (Dev.cadSide_cadDev hside) (by decide)) 63]
    unfold Dev.rb tst
    rw [Dev.rd_wf_same, getLsbD_put _ _ _ _ _ (Nat.le_refl _) (by decide)]
    rfl
  · have hrun : d.stopFrames.planRun = none := by
      rw [Dev.stopFrames_eq, Dev.each_keeps Dev.planRun (fun p _ d => congrArg Prod.fst (d.planSide_signalRecs p)), Dev.moveSet_planRun]
      exact congrArg Prod.fst hplan
    exact hrun
  · rw [Dev.seal_tile]
    exact (congrArg Prod.snd (congrFun (Dev.cadSide_tileSet hside) t)).trans (Dev.dropTileSet_inGroup _ t)

/-! ## FRAME_START -/

section
variable {s : State} {ns : BitVec 64} {r0 r1 : PortRead}

theorem Completes.frameStart {P : Dev → Prop} {e : Dev} (h : doFrameStart ns.toNat [r0, r1] s.dev = e) (hP : P e.seal) :
    Completes (.frameStart ns r0 r1) s P := .of e (by rw [← h]; rfl) hP
theorem doFrameStart_running {d : Dev} (n : Nat) (l : List PortRead) (hr : d.framesRun = true) (he : d.ended = false) :
    doFrameStart n l d = d := by
  unfold doFrameStart; rw [if_pos hr, he]; rfl
theorem doFrameStart_left {d : Dev} (n : Nat) (l : List PortRead) (hr : d.framesRun = true) (he : d.ended = true) (hg : d.rb Reg.GRP 63 = false) :
    doFrameStart n l d = d.stopFrames := by
  unfold doFrameStart; rw [if_pos hr, he, hg]; rfl
theorem doFrameStart_next {d : Dev} (n : Nat) (l : List PortRead) (hr : d.framesRun = true) (he : d.ended = true) (hg : d.rb Reg.GRP 63 = true) :
    doFrameStart n l d = d.startFrame (d.frame + 1) false (l.map fun r => (r.pub, r.ring)) (l.map (·.port)) := by
  unfold doFrameStart; rw [if_pos hr, he, hg]; rfl
theorem doFrameStart_alone {d : Dev} (n : Nat) (l : List PortRead) (hr : d.framesRun = false) (hj : d.joining = false) :
    doFrameStart n l d = d := by
  unfold doFrameStart
  rw [if_neg (by rw [hr]; exact Bool.false_ne_true)]
  dsimp only
  rw [hj]; rfl
/-- A member that has joined starts with the frame that the group time names (R257). -/
theorem doFrameStart_first {d : Dev} (n : Nat) (l : List PortRead) (hr : d.framesRun = false) (hj : d.joining = true)
    (hg : d.rb Reg.GRP 63 = true) (hl : 40 ≤ d.rf Reg.FRAME_CFG 13 0) (hn : d.rn Reg.FRAME_EPOCH ≤ n) :
    doFrameStart n l d = d.startFrame (d.rf Reg.FRAME_BASE 47 0 + (n - d.rn Reg.FRAME_EPOCH) / (d.rf Reg.FRAME_CFG 13 0 * 1000)) true
      (l.map fun r => (r.pub, r.ring)) (l.map (·.port)) := by
  have hnum : ((d.rf Reg.FRAME_BASE 47 0 : Nat) : Int) + ((n : Int) - (d.rn Reg.FRAME_EPOCH : Nat)) / ((d.frameL * 1000 : Nat) : Int)
      = ((d.rf Reg.FRAME_BASE 47 0 + (n - d.rn Reg.FRAME_EPOCH) / (d.rf Reg.FRAME_CFG 13 0 * 1000) : Nat) : Int) := by
    rw [Nat.cast_add, Int.natCast_ediv, Nat.cast_sub hn]; rfl
  unfold doFrameStart
  rw [if_neg (by rw [hr]; exact Bool.false_ne_true)]
  dsimp only
  rw [hnum, hj, hg]
  generalize d.rf Reg.FRAME_BASE 47 0 + (n - d.rn Reg.FRAME_EPOCH) / (d.rf Reg.FRAME_CFG 13 0 * 1000) = m
  have hlen : ¬ d.frameL < 40 := Nat.not_lt.mpr hl
  have hm : ¬ (m : Int) < 0 := Int.not_lt.mpr (Int.natCast_nonneg m)
  rw [if_neg (by simp [hlen, hm]), Int.toNat_natCast]

end

end Sys2Proof.Machine
end


section
/-! PROOFS. The end of frame entry (R70): what it does to each tile on its own. -/

namespace Sys2Proof.Machine

/-! ## One operation over a list, seen at one of its entries -/

/-- A view that only the operation at one entry changes, as it stands after an operation over a list without duplicates. -/
theorem Dev.each_at {α β : Type} (v : Dev → β) {f : Dev → α → Dev} {l : List α} {x : α} (hx : x ∈ l) (hnd : l.Nodup)
    (hkeep : ∀ y ∈ l, y ≠ x → ∀ d, v (f d y) = v d) (d : Dev) : ∃ e : Dev, v e = v d ∧ v (d.each l f) = v (f e x) := by
  induction l generalizing d with
  | nil => cases hx
  | cons y ys ih =>
    obtain ⟨hy, hys⟩ := List.nodup_cons.mp hnd
    by_cases h : x = y
    · subst h
      exact ⟨d, rfl, Dev.each_keeps v (fun z hz e => hkeep z (List.mem_cons_of_mem _ hz) (fun he => hy (by rw [← he]; exact hz)) e) _⟩
    · obtain ⟨e, he, hf⟩ := ih ((List.mem_cons.mp hx).resolve_left h) hys (fun z hz => hkeep z (List.mem_cons_of_mem _ hz)) (f d y)
      exact ⟨e, he.trans (hkeep y List.mem_cons_self (Ne.symm h) d), hf⟩
theorem Dev.canonical_nodup {d : Dev} (h : d.canonical = true) : (d.tiles.map (·.1)).Nodup := by
  unfold Dev.canonical at h
  obtain ⟨-, ht⟩ := Bool.and_eq_true_iff.mp h
  exact (List.pairwise_map.mpr (((smWf_iff _ _).mp ht).1)).imp fun hlt => Nat.ne_of_lt hlt
/-- A tile that is not as at reset stands listed. -/
theorem Dev.mem_tiles {d : Dev} {t : Nat} (h : d.tile t ≠ {}) : t ∈ d.tiles.map (·.1) := by
  have hmem : ∀ m : SMap Tile, smGet tileReset m t ≠ {} → t ∈ m.map (·.1) := by
    intro m
    induction m with
    | nil => intro hm; exact absurd rfl hm
    | cons x r ih =>
      obtain ⟨k, y⟩ := x
      intro hm
      by_cases hk : k = t
      · rw [hk]; exact List.mem_cons_self
      · rw [smGet, if_neg hk] at hm; exact List.mem_cons_of_mem _ (ih hm)
  exact hmem d.tiles h

/-! ## One tile with its registers -/

/-- A tile with the registers of its block. -/
def Dev.tileView (t : Nat) (d : Dev) : Tile × (Fin 0x1000 → W64) := (d.tile t, fun o => d.rd (Reg.tile t o.val))
theorem Dev.tileView_tile {d e : Dev} {t : Nat} (h : e.tileView t = d.tileView t) : e.tile t = d.tile t := congrArg Prod.fst h
theorem Dev.tileView_trd {d e : Dev} {t : Nat} (h : e.tileView t = d.tileView t) {o : Nat} (ho : o < 0x1000) : e.trd t o = d.trd t o :=
  congrFun (congrArg Prod.snd h) ⟨o, ho⟩
theorem Reg.tile_ne_tile {t u a b : Nat} (h : t ≠ u) (ha : a < 0x1000) (hb : b < 0x1000) : Reg.tile t a ≠ Reg.tile u b := by
  unfold Reg.tile; omega
theorem Dev.tileView_twr (d : Dev) {t u o : Nat} (v : W64) (h : t ≠ u) (ho : o < 0x1000) : (d.twr u o v).tileView t = d.tileView t :=
  congrArg (Prod.mk (d.tile t)) (funext fun a => d.rd_wr_ne v (Reg.tile_ne_tile h a.isLt ho))
theorem Dev.tileView_upd (d : Dev) {t u : Nat} (f : Tile → Tile) (h : t ≠ u) : (d.upd u f).tileView t = d.tileView t :=
  congrArg (fun x => (x, fun a : Fin 0x1000 => d.rd (Reg.tile t a.val))) (Dev.tile_upd_ne d f h)

/-! ## The end of one tile's entry -/

/-- The beats left of a tile's frame entry pass (R70). -/
def Dev.entryDone (d : Dev) (t n : Nat) : Dev := (((d.tadd t Reg.BEAT n).tadd t Reg.WAIT_FRAME n).finishEntry t).syncSeq t 4
def Dev.entryDoneAt (d : Dev) (t : Nat) : Dev := match (d.tile t).mode with
  | .entry n => d.entryDone t n
  | _ => d
theorem doFrameEntryEnd_eq (d : Dev) : doFrameEntryEnd d = d.each (d.tiles.map (·.1)) Dev.entryDoneAt := rfl
theorem Dev.entryDoneAt_entry {d : Dev} {t n : Nat} (h : (d.tile t).mode = .entry n) : d.entryDoneAt t = d.entryDone t n := by
  unfold Dev.entryDoneAt; rw [h]
theorem Dev.entryDoneAt_other {d : Dev} {t : Nat} (h : ∀ n, (d.tile t).mode ≠ .entry n) : d.entryDoneAt t = d := by
  unfold Dev.entryDoneAt
  split
  · next n hn => exact absurd hn (h n)
  · rfl
/-- Entering an entry of the list sets the state of its slot at most, and the tile. -/
theorem Dev.enterEntry_cases (d : Dev) (t i : Nat) : ∃ f : Tile → Tile,
    d.enterEntry t i = d.upd t f ∨ d.enterEntry t i = (d.setSlotState t (listSlot (d.tile t).list i) 2).upd t f := by
  unfold Dev.enterEntry
  dsimp only
  split
  · exact ⟨_, .inr rfl⟩
  · split
    · exact ⟨_, .inl rfl⟩
    · exact ⟨_, .inl rfl⟩
theorem Dev.finishEntry_cases (d : Dev) (t : Nat) : ∃ f : Tile → Tile,
    d.finishEntry t = d.upd t f ∨ d.finishEntry t = (d.setSlotState t (listSlot (d.tile t).list 0) 2).upd t f := by
  unfold Dev.finishEntry
  split
  · exact ⟨_, .inl rfl⟩
  · exact d.enterEntry_cases t 0
theorem Dev.finishEntry_view (d : Dev) {t u : Nat} (h : t ≠ u) : (d.finishEntry u).tileView t = d.tileView t := by
  obtain ⟨f, hf | hf⟩ := d.finishEntry_cases u
  · rw [hf, Dev.tileView_upd _ _ h]
  · rw [hf, Dev.tileView_upd _ _ h]
    exact d.tileView_twr _ h (Nat.lt_trans (Reg.CTXSTATE_lt _).1 (by decide))
/-- It leaves every register of the tile but CTXSTATE. -/
theorem Dev.finishEntry_rd (d : Dev) (t : Nat) {o : Nat} (h : plainTileReg t o) : (d.finishEntry t).rd o = d.rd o := by
  obtain ⟨f, hf | hf⟩ := d.finishEntry_cases t
  · rw [hf]; rfl
  · rw [hf]; exact Dev.rd_wf_ne _ _ _ _ (h.2 _)
theorem Dev.entryDone_view (d : Dev) {t u : Nat} (n : Nat) (h : t ≠ u) : (d.entryDone u n).tileView t = d.tileView t :=
  (Dev.tileView_twr (o := Reg.SEQ) _ _ h (by decide)).trans ((Dev.finishEntry_view _ h).trans
    ((Dev.tileView_twr (o := Reg.WAIT_FRAME) _ _ h (by decide)).trans (Dev.tileView_twr (o := Reg.BEAT) _ _ h (by decide))))
theorem Dev.entryDoneAt_view (d : Dev) {t u : Nat} (h : t ≠ u) : (d.entryDoneAt u).tileView t = d.tileView t := by
  unfold Dev.entryDoneAt
  split
  · exact d.entryDone_view _ h
  · rfl
theorem Dev.entryDoneAt_rdByte (d : Dev) (u a : Nat) : (d.entryDoneAt u).rdByte a = d.rdByte a := by
  have hfin (d : Dev) : (d.finishEntry u).rdByte a = d.rdByte a := by
    obtain ⟨f, hf | hf⟩ := d.finishEntry_cases u
    · rw [hf]; rfl
    · rw [hf]; rfl
  have hseq (d : Dev) : (d.syncSeq u 4).rdByte a = d.rdByte a := by unfold Dev.syncSeq Dev.twr; exact Dev.wr_rdByte ..
  have hadd (d : Dev) (o n : Nat) : (d.tadd u o n).rdByte a = d.rdByte a := by unfold Dev.tadd Dev.add; exact Dev.wr_rdByte ..
  unfold Dev.entryDoneAt
  split
  · unfold Dev.entryDone; rw [hseq, hfin, hadd, hadd]
  · rfl

/-! ## What the end of entry leaves on the tile itself -/

section
variable (d : Dev) (t n : Nat)

theorem Dev.entryDone_tile : (d.entryDone t n).tile t = (((d.tadd t Reg.BEAT n).tadd t Reg.WAIT_FRAME n).finishEntry t).tile t :=
  Dev.syncSeq_tile ..
theorem plainTileReg_beat : plainTileReg t (Reg.tile t Reg.BEAT) := by
  unfold plainTileReg Reg.tile Reg.BEAT Reg.CTXSTATE
  exact ⟨by omega, fun n => by omega⟩
theorem Dev.entryDone_counts : (d.entryDone t n).trd t Reg.BEAT = d.trd t Reg.BEAT + w64 n
    ∧ (d.entryDone t n).trd t Reg.WAIT_FRAME = d.trd t Reg.WAIT_FRAME + w64 n := by
  have hrest {o : Nat} (hp : plainTileReg t (Reg.tile t o)) (ho : o ≠ Reg.SEQ) :
      (d.entryDone t n).trd t o = ((d.tadd t Reg.BEAT n).tadd t Reg.WAIT_FRAME n).trd t o :=
    (Dev.rd_wr_ne _ _ (Reg.tile_ne t ho)).trans (Dev.finishEntry_rd _ _ hp)
  constructor
  · rw [hrest (plainTileReg_beat t) (by decide)]
    exact (Dev.rd_add_ne _ _ (Reg.tile_ne t (by decide))).trans (Dev.rd_add_same ..)
  · rw [hrest (plainTileReg_waitFrame t) (by decide)]
    exact (Dev.rd_add_same ..).trans (congrArg (· + w64 n) (Dev.rd_add_ne _ _ (Reg.tile_ne t (by decide))))
theorem Dev.entryDone_empty (h : listCount (d.tile t).list = 0) : ((d.entryDone t n).tile t).mode = .idle := by
  rw [Dev.entryDone_tile]
  unfold Dev.finishEntry
  have h' : listCount (((d.tadd t Reg.BEAT n).tadd t Reg.WAIT_FRAME n).tile t).list = 0 := h
  rw [if_pos h', Dev.tile_upd_same]
theorem Dev.slotRuns_tadd (o : Nat) (ho : 0x80 ≤ o) (slot : Nat) : (d.tadd t o n).slotRuns t slot = d.slotRuns t slot := by
  have hrd {a : Nat} (ha : a < 0x80) : (d.tadd t o n).rd (Reg.tile t a) = d.rd (Reg.tile t a) := Dev.rd_add_ne _ _ (Reg.tile_ne t (by omega))
  have hcs : (d.tadd t o n).rd (Reg.tile t (Reg.CS slot)) = d.rd (Reg.tile t (Reg.CS slot)) := hrd (by unfold Reg.CS; omega)
  have hst : (d.tadd t o n).rd (Reg.tile t (Reg.CTXSTATE slot)) = d.rd (Reg.tile t (Reg.CTXSTATE slot)) := hrd (Reg.CTXSTATE_lt _).1
  have htile : (d.tadd t o n).tile t = d.tile t := Dev.wr_tile ..
  unfold Dev.slotRuns Dev.slotState Dev.ctxOf Dev.trf Dev.rf Dev.rb
  rw [hcs, hst, htile]
/-- Entry 0's context issues next (R70). -/
theorem Dev.entryDone_runs (hc : listCount (d.tile t).list ≠ 0) (hr : d.slotRuns t (listSlot (d.tile t).list 0) = true) :
    ((d.entryDone t n).tile t).mode = .running ∧ ((d.entryDone t n).tile t).slot = listSlot (d.tile t).list 0
      ∧ ((d.entryDone t n).tile t).entry = 0 ∧ (d.entryDone t n).slotState t (listSlot (d.tile t).list 0) = 2 := by
  have htile : ((d.tadd t Reg.BEAT n).tadd t Reg.WAIT_FRAME n).tile t = d.tile t := rfl
  have hr' : ((d.tadd t Reg.BEAT n).tadd t Reg.WAIT_FRAME n).slotRuns t (listSlot (d.tile t).list 0) = true := by
    rw [Dev.slotRuns_tadd _ _ _ _ (by decide), Dev.slotRuns_tadd _ _ _ _ (by decide), hr]
  have hseq : (d.entryDone t n).slotState t (listSlot (d.tile t).list 0)
      = (((d.tadd t Reg.BEAT n).tadd t Reg.WAIT_FRAME n).finishEntry t).slotState t (listSlot (d.tile t).list 0) := by
    unfold Dev.slotState Dev.trf
    refine Dev.rf_congr (Dev.rd_wr_ne _ _ (Reg.tile_ne t ?_)) _ _
    unfold Reg.CTXSTATE Reg.SEQ; omega
  rw [hseq, Dev.entryDone_tile]
  unfold Dev.finishEntry
  generalize (d.tadd t Reg.BEAT n).tadd t Reg.WAIT_FRAME n = e at htile hr' ⊢
  rw [htile, if_neg hc]
  unfold Dev.enterEntry
  dsimp only
  rw [htile, if_pos hr']
  refine ⟨by rw [Dev.tile_upd_same], by rw [Dev.tile_upd_same], by rw [Dev.tile_upd_same], ?_⟩
  exact Dev.rf_wf_same _ _ _ _ _ (by decide) (by decide)

end

/-! ## FRAME_ENTRY_END -/

section
variable {d : Dev} (hcan : d.canonical = true)
include hcan

/-- Each tile in frame entry is at its end, as it would be alone. -/
theorem Dev.frameEntryEnd_entry {t n : Nat} (h : (d.tile t).mode = .entry n) :
    ∃ e : Dev, e.tileView t = d.tileView t ∧ (doFrameEntryEnd d).tileView t = (e.entryDone t n).tileView t := by
  have hmem : t ∈ d.tiles.map (·.1) := Dev.mem_tiles fun e => by rw [e] at h; cases h
  rw [doFrameEntryEnd_eq]
  obtain ⟨e, he, hv⟩ := Dev.each_at (Dev.tileView t) (f := Dev.entryDoneAt) hmem (Dev.canonical_nodup hcan)
    (fun u _ hu d => d.entryDoneAt_view (Ne.symm hu)) d
  exact ⟨e, he, hv.trans (congrArg (Dev.tileView t) (Dev.entryDoneAt_entry (by rw [Dev.tileView_tile he, h])))⟩
theorem Dev.frameEntryEnd_other {t : Nat} (h : ∀ n, (d.tile t).mode ≠ .entry n) : (doFrameEntryEnd d).tile t = d.tile t := by
  rw [doFrameEntryEnd_eq]
  by_cases hmem : t ∈ d.tiles.map (·.1)
  · obtain ⟨e, he, hv⟩ := Dev.each_at (Dev.tileView t) (f := Dev.entryDoneAt) hmem (Dev.canonical_nodup hcan)
      (fun u _ hu d => d.entryDoneAt_view (Ne.symm hu)) d
    rw [Dev.entryDoneAt_other (by rw [Dev.tileView_tile he]; exact h)] at hv
    exact Dev.tileView_tile (hv.trans he)
  · exact Dev.tileView_tile (Dev.each_keeps (Dev.tileView t)
      (fun u hu d => d.entryDoneAt_view fun e => hmem (by rw [e]; exact hu)) d)

end

end Sys2Proof.Machine
end


section
/-! PROOFS. The clauses of the commands at the other points of a frame (R70, R263, R464, R474). -/

namespace Sys2Proof.Machine

theorem regImpl_beat (t : TileId) : regImpl (Reg.tile t Reg.BEAT) = BitVec.allOnes 64 := by
  rw [regImpl_tile t _ t.isLt (by decide) (by decide)]; decide

/-- The end of frame entry (R70). -/
theorem frameEntryEnd_acts {s : State} (hcan : s.dev.canonical = true) (hlt : ∀ x ∈ s.dev.tiles, x.1 < 1664) :
    Completes .frameEntryEnd s fun e =>
      (∀ t n, (s.dev.tile t).mode = .entry n →
        e.trd t Reg.BEAT = s.dev.trd t Reg.BEAT + w64 n ∧ e.trd t Reg.WAIT_FRAME = s.dev.trd t Reg.WAIT_FRAME + w64 n
        ∧ (listCount (s.dev.tile t).list = 0 → (e.tile t).mode = .idle)
        ∧ (listCount (s.dev.tile t).list ≠ 0 → s.dev.slotRuns t (listSlot (s.dev.tile t).list 0) = true →
          (e.tile t).mode = .running ∧ (e.tile t).slot = listSlot (s.dev.tile t).list 0 ∧ (e.tile t).entry = 0
            ∧ e.slotState t (listSlot (s.dev.tile t).list 0) = 2))
      ∧ (∀ t, (∀ n, (s.dev.tile t).mode ≠ .entry n) → e.tile t = s.dev.tile t) ∧ SameBytes s.dev e := by
  refine .of (doFrameEntryEnd s.dev) rfl ⟨fun t n hm => ?_, fun t ht => ?_, .seal fun a => ?_⟩
  · obtain ⟨e, he, hv⟩ := Dev.frameEntryEnd_entry hcan hm
    have hmem : t ∈ s.dev.tiles.map (·.1) := Dev.mem_tiles fun e => by rw [e] at hm; cases hm
    obtain ⟨x, hx, hxt⟩ := List.mem_map.mp hmem
    have htlt : t < 1664 := by rw [← hxt]; exact hlt x hx
    have htile := Dev.tileView_tile he
    have hrd {o : Nat} (ho : o < 0x1000) : (doFrameEntryEnd s.dev).trd t o = (e.entryDone t n).trd t o := Dev.tileView_trd hv ho
    obtain ⟨hbeat, hwait⟩ := e.entryDone_counts t n
    have hruns : e.slotRuns t (listSlot (s.dev.tile t).list 0) = s.dev.slotRuns t (listSlot (s.dev.tile t).list 0) := by
      have hcs := Dev.tileView_trd he (o := Reg.CS (listSlot (s.dev.tile t).list 0)) (by unfold Reg.CS; omega)
      have hst := Dev.tileView_trd he (o := Reg.CTXSTATE (listSlot (s.dev.tile t).list 0)) (by unfold Reg.CTXSTATE; omega)
      unfold Dev.trd at hcs hst
      unfold Dev.slotRuns Dev.slotState Dev.ctxOf Dev.trf Dev.rf Dev.rb
      rw [hcs, hst, htile]
    refine ⟨?_, ?_, fun h0 => ?_, fun hc hr => ?_⟩
    · exact (Dev.seal_rd_all _ _ (regImpl_beat ⟨t, htlt⟩)).trans ((hrd (by decide)).trans
        (hbeat.trans (congrArg (· + w64 n) (Dev.tileView_trd he (by decide)))))
    · exact (Dev.seal_rd_all _ _ (regImpl_waitFrame ⟨t, htlt⟩)).trans ((hrd (by decide)).trans
        (hwait.trans (congrArg (· + w64 n) (Dev.tileView_trd he (by decide)))))
    · rw [Dev.seal_tile, Dev.tileView_tile hv]
      exact e.entryDone_empty t n (by rw [htile]; exact h0)
    · obtain ⟨hmode, hslot, hentry, hstate⟩ := e.entryDone_runs t n (by rw [htile]; exact hc) (by rw [htile, hruns]; exact hr)
      rw [htile] at hslot hstate
      have hsealed : (doFrameEntryEnd s.dev).seal.slotState t (listSlot (s.dev.tile t).list 0)
          = (doFrameEntryEnd s.dev).slotState t (listSlot (s.dev.tile t).list 0) :=
        Dev.seal_rf _ _ _ _ (by rw [regImpl_ctxState ⟨t, htlt⟩]; decide) (by decide) (by decide)
      refine ⟨?_, ?_, ?_, ?_⟩
      · rw [Dev.seal_tile, Dev.tileView_tile hv, hmode]
      · rw [Dev.seal_tile, Dev.tileView_tile hv, hslot]
      · rw [Dev.seal_tile, Dev.tileView_tile hv, hentry]
      · rw [hsealed, ← hstate]
        exact Dev.rf_congr (hrd (Nat.lt_trans (Reg.CTXSTATE_lt _).1 (by decide))) _ _
  · rw [Dev.seal_tile, Dev.frameEntryEnd_other hcan ht]
  · rw [doFrameEntryEnd_eq]
    exact Dev.each_keeps (fun d => d.rdByte a) (fun u _ d => d.entryDoneAt_rdByte u a) s.dev

/-! ## Port records between frames (R464, R474) -/

section
variable {s : State} {p : Port}

theorem doIdleRead_running {d : Dev} (p : Nat) (rec : Option (BitVec 64 × BitVec 64)) (h : d.framesRun = true) : doIdleRead p rec d = d := by
  unfold doIdleRead; rw [if_pos h]
theorem doIdleRead_idle {d : Dev} (p : Nat) (rec : Option (BitVec 64 × BitVec 64)) (h : d.framesRun = false) :
    doIdleRead p rec d = (d.readRecord p rec).signalRecs p := by
  unfold doIdleRead; rw [h]; rfl
theorem doIdleRead_fenced {d : Dev} {p : Nat} (rec : Option (BitVec 64 × BitVec 64)) (h : d.framesRun = false) (hf : d.portFenced p = true)
    (hw : d.wrote.getLsbD p = false) : doIdleRead p rec d = d := by
  rw [doIdleRead_idle p rec h, Dev.readRecord_fenced rec hf]
  unfold Dev.signalRecs
  rw [hw]; rfl

/-- What registers whose writes take effect later were last latched at, and the read indices of the completion rings. -/
def Dev.latched (d : Dev) : SMap W64 × Nat × Nat := (d.eff, d.cqRead0, d.cqRead1)
theorem Dev.latched_of_inner {d e : Dev} (h : e.inner = d.inner) : e.latched = d.latched := by
  have hl : e.inner.latched = d.inner.latched := by rw [h]
  exact hl
theorem Dev.latched_effRd {d e : Dev} (h : e.latched = d.latched) (o : Nat) : e.effRd o = d.effRd o := by
  unfold Dev.effRd; rw [show e.eff = d.eff from congrArg Prod.fst h]
theorem Dev.latched_cqRead {d e : Dev} (h : e.latched = d.latched) (p : Nat) : e.cqRead p = d.cqRead p := by
  unfold Dev.cqRead
  rw [show e.cqRead0 = d.cqRead0 from congrArg (·.2.1) h, show e.cqRead1 = d.cqRead1 from congrArg (·.2.2) h]
theorem Dev.latch_effRd {d : Dev} {l : List Nat} {o : Nat} (h : o ∈ l) : (d.latch l).effRd o = d.rd o := by
  have hset : ∀ (l : List Nat) (m : SMap W64), o ∈ l ∨ smGet regReset m o = d.rd o →
      smGet regReset (l.foldl (fun m o => smSet regReset m o (d.rd o)) m) o = d.rd o := by
    intro l
    induction l with
    | nil => exact fun m hm => hm.resolve_left List.not_mem_nil
    | cons x xs ih =>
      intro m hm
      refine ih _ ?_
      by_cases hx : o = x
      · subst hx; exact .inr (smGet_smSet_same ..)
      · rw [smGet_smSet_ne _ _ _ hx]
        exact hm.imp (fun hm => (List.mem_cons.mp hm).resolve_left hx) id
  exact hset l d.eff (.inl h)
theorem Dev.drainBacklog_latched (d : Dev) (p : Nat) : (d.drainBacklog p).latched = d.latched := by
  unfold Dev.drainBacklog
  refine Dev.each_keeps Dev.latched (fun r _ d => ?_) d
  split <;> rfl
theorem Dev.signalRecs_latched (d : Dev) (p : Nat) : (d.signalRecs p).latched = d.latched := by
  have hmsix (d : Dev) : (d.msix p 0).latched = d.latched := Dev.latched_of_inner (Dev.inner_msix ..)
  unfold Dev.signalRecs
  split
  · exact (hmsix _).trans rfl
  · rfl
theorem Dev.fetchControl_latched (d : Dev) (p : Nat) (ctrl : BitVec 64) : (d.fetchControl p ctrl).latched = d.latched := by
  unfold Dev.fetchControl
  split
  · split
    · exact Dev.latched_of_inner (Dev.inner_varveLog ..)
    · rfl
  · rfl
theorem Dev.seenRead_eff (d : Dev) (p : Nat) (cq : BitVec 64) : (d.seenRead p cq).eff = d.eff := by unfold Dev.seenRead; split <;> rfl
theorem Dev.readRecord_eff {d : Dev} {p : Nat} (rec : Option (BitVec 64 × BitVec 64)) (hf : d.portFenced p = false) :
    (d.readRecord p rec).eff = (d.latch (portRegs p)).eff := by
  match rec with
  | none => rw [Dev.readRecord_none hf]
  | some (ctrl, cq) =>
    by_cases h0 : (d.latch (portRegs p)).effRd (Reg.P_REC p) = 0
    · rw [Dev.readRecord_off ctrl cq hf h0]
    · rw [Dev.readRecord_some ctrl cq hf h0]
      exact (congrArg Prod.fst ((Dev.drainBacklog_latched ..).trans (Dev.fetchControl_latched ..))).trans (Dev.seenRead_eff ..)
/-- Between frames a port's record is read, and the writes of its registers take effect (R464, R481). -/
theorem doIdleRead_effRd {d : Dev} {p : Nat} (rec : Option (BitVec 64 × BitVec 64)) (hr : d.framesRun = false) (hf : d.portFenced p = false)
    {o : Nat} (ho : o ∈ portRegs p) : (doIdleRead p rec d).effRd o = d.rd o := by
  rw [doIdleRead_idle p rec hr, Dev.latched_effRd (Dev.signalRecs_latched ..), ← Dev.latch_effRd ho]
  unfold Dev.effRd
  rw [Dev.readRecord_eff rec hf]

/-! ### The control entries of a port's record -/

theorem regImpl_ctrlDone (p : Port) : regImpl (Reg.P_CTRL_DONE p) = BitVec.allOnes 64 := by revert p; decide
theorem Dev.putRec_ctrlDone (d : Dev) (r : Rec) (p : Nat) : (d.putRec r).rd (Reg.P_CTRL_DONE p) = d.rd (Reg.P_CTRL_DONE p) :=
  Dev.rd_add_ne _ _ (by unfold Reg.P_CTRL_DONE Reg.P_CQ_WR; omega)
theorem Dev.drainBacklog_ctrlDone (d : Dev) (p : Nat) : (d.drainBacklog p).rd (Reg.P_CTRL_DONE p) = d.rd (Reg.P_CTRL_DONE p) := by
  unfold Dev.drainBacklog
  refine Dev.each_keeps (fun d => d.rd (Reg.P_CTRL_DONE p)) (fun r _ d => ?_) d
  split
  · exact Dev.putRec_ctrlDone ..
  · rfl
theorem Dev.signalRecs_rd (d : Dev) (p o : Nat) : (d.signalRecs p).rd o = d.rd o := by
  unfold Dev.signalRecs
  split
  · exact Dev.msix_rd ..
  · rfl
theorem Dev.seenRead_rd (d : Dev) (p o : Nat) (cq : BitVec 64) : (d.seenRead p cq).rd o = d.rd o := by unfold Dev.seenRead; split <;> rfl
theorem Dev.seenRead_cqRead (d : Dev) (p : Nat) (cq : BitVec 64) : (d.seenRead p cq).cqRead p = cq.toNat := by
  unfold Dev.seenRead Dev.cqRead
  by_cases h : p = 0
  · rw [if_pos h, if_pos h]
  · rw [if_neg h, if_neg h]
section
variable {d : Dev} {p size : Nat} {ctrl : BitVec 64} (hs : d.ctrlSize p = some size)
include hs
theorem Dev.fetchControl_fetches (h : d.rn (Reg.P_CTRL_DONE p) ≤ ctrl.toNat) (h' : ctrl.toNat ≤ d.rn (Reg.P_CTRL_DONE p) + size) :
    (d.fetchControl p ctrl).rd (Reg.P_CTRL_DONE p)
      = d.rd (Reg.P_CTRL_DONE p) + w64 (min 256 (ctrl.toNat - d.rn (Reg.P_CTRL_DONE p))) := by
  unfold Dev.fetchControl
  rw [hs]
  dsimp only
  rw [if_neg]
  · exact Dev.rd_add_same ..
  · rw [Bool.or_eq_true, decide_eq_true_iff, decide_eq_true_iff]; omega
theorem Dev.fetchControl_ahead (h : ctrl.toNat < d.rn (Reg.P_CTRL_DONE p) ∨ d.rn (Reg.P_CTRL_DONE p) + size < ctrl.toNat) :
    (d.fetchControl p ctrl).rd (Reg.P_CTRL_DONE p) = d.rd (Reg.P_CTRL_DONE p) := by
  unfold Dev.fetchControl
  rw [hs]
  dsimp only
  rw [if_pos]
  · exact Dev.varveLog_rd _ _ _ _ _ _ _ _ (by unfold vrvReg Reg.P_CTRL_DONE; omega)
  · rw [Bool.or_eq_true, decide_eq_true_iff, decide_eq_true_iff]; omega
end
theorem Dev.seenRead_ctrlSize {d : Dev} {p : Nat} (cq : BitVec 64) (h : 4 ≤ fld (d.rd (Reg.P_CTRL p)) 3 0) (h' : fld (d.rd (Reg.P_CTRL p)) 3 0 ≤ 12) :
    ((d.latch (portRegs p)).seenRead p cq).ctrlSize p = some (2 ^ fld (d.rd (Reg.P_CTRL p)) 3 0) := by
  have heff : ((d.latch (portRegs p)).seenRead p cq).effRd (Reg.P_CTRL p) = d.rd (Reg.P_CTRL p) := by
    rw [← Dev.latch_effRd (l := portRegs p) (show Reg.P_CTRL p ∈ portRegs p from List.mem_cons_of_mem _ List.mem_cons_self)]
    unfold Dev.effRd
    rw [Dev.seenRead_eff]
  unfold Dev.ctrlSize
  rw [heff]
  exact if_pos ⟨h, h'⟩
/-- The entries that a record publishes are fetched, unless it has run ahead of its ring (R464). -/
theorem idleRead_fetches (ctrl cq : BitVec 64) (hr : s.dev.framesRun = false) (hf : s.dev.portFenced p.val = false)
    (h0 : s.dev.rd (Reg.P_REC p) ≠ 0) (h4 : 4 ≤ fld (s.dev.rd (Reg.P_CTRL p)) 3 0) (h12 : fld (s.dev.rd (Reg.P_CTRL p)) 3 0 ≤ 12) :
    Completes (.portRecordIdleRead p (some (ctrl, cq))) s fun e => e.cqRead p.val = cq.toNat
      ∧ (s.dev.rn (Reg.P_CTRL_DONE p) ≤ ctrl.toNat →
          ctrl.toNat ≤ s.dev.rn (Reg.P_CTRL_DONE p) + 2 ^ fld (s.dev.rd (Reg.P_CTRL p)) 3 0 →
        e.rd (Reg.P_CTRL_DONE p) = s.dev.rd (Reg.P_CTRL_DONE p) + w64 (min 256 (ctrl.toNat - s.dev.rn (Reg.P_CTRL_DONE p))))
      ∧ (ctrl.toNat < s.dev.rn (Reg.P_CTRL_DONE p) ∨
          s.dev.rn (Reg.P_CTRL_DONE p) + 2 ^ fld (s.dev.rd (Reg.P_CTRL p)) 3 0 < ctrl.toNat →
        e.rd (Reg.P_CTRL_DONE p) = s.dev.rd (Reg.P_CTRL_DONE p)) := by
  have h0' : (s.dev.latch (portRegs p.val)).effRd (Reg.P_REC p.val) ≠ 0 := by
    rw [Dev.latch_effRd (show Reg.P_REC p.val ∈ portRegs p.val from List.mem_cons_self)]; exact h0
  have hidle : doIdleRead p.val (some (ctrl, cq)) s.dev =
      ((((s.dev.latch (portRegs p.val)).seenRead p.val cq).fetchControl p.val ctrl).drainBacklog p.val).signalRecs p.val := by
    rw [doIdleRead_idle _ _ hr, Dev.readRecord_some ctrl cq hf h0']
  have hsize := Dev.seenRead_ctrlSize cq h4 h12
  have hseen : ((s.dev.latch (portRegs p.val)).seenRead p.val cq).rd (Reg.P_CTRL_DONE p.val) = s.dev.rd (Reg.P_CTRL_DONE p.val) :=
    Dev.seenRead_rd ..
  have hn : ((s.dev.latch (portRegs p.val)).seenRead p.val cq).rn (Reg.P_CTRL_DONE p.val) = s.dev.rn (Reg.P_CTRL_DONE p.val) :=
    congrArg BitVec.toNat hseen
  have hdone : (doIdleRead p.val (some (ctrl, cq)) s.dev).seal.rd (Reg.P_CTRL_DONE p)
      = (((s.dev.latch (portRegs p.val)).seenRead p.val cq).fetchControl p.val ctrl).rd (Reg.P_CTRL_DONE p.val) := by
    rw [Dev.seal_rd_all _ _ (regImpl_ctrlDone p), hidle, Dev.signalRecs_rd, Dev.drainBacklog_ctrlDone]
  refine .of (doIdleRead p.val (some (ctrl, cq)) s.dev) rfl ⟨?_, fun h h' => ?_, fun h => ?_⟩
  · have hread : (doIdleRead p.val (some (ctrl, cq)) s.dev).cqRead p.val = cq.toNat := by
      rw [hidle, Dev.latched_cqRead (Dev.signalRecs_latched ..), Dev.latched_cqRead (Dev.drainBacklog_latched ..),
        Dev.latched_cqRead (Dev.fetchControl_latched ..), Dev.seenRead_cqRead]
    exact hread
  · rw [hdone, Dev.fetchControl_fetches hsize (by rw [hn]; exact h) (by rw [hn]; exact h'), hseen, hn]
  · rw [hdone, Dev.fetchControl_ahead hsize (by rw [hn]; exact h), hseen]

/-! ## The backlog of a port (R474) -/

theorem Dev.cqSize_of_room {d : Dev} {p : Nat} (h : d.cqRoom p = true) : d.cqSize p = some (2 ^ fld (d.effRd (Reg.P_CQ p)) 4 0) := by
  unfold Dev.cqRoom at h
  split at h
  · next n hn =>
    rw [hn]
    unfold Dev.cqSize at hn
    dsimp only at hn
    split at hn
    · exact hn.symm
    · cases hn
  · cases h
/-- A record that is written stands at its number's place in the ring, with its number as its last word (R472). -/
theorem Dev.putRec_out {d : Dev} {r : Rec} (hroom : d.cqRoom r.port = true) :
    Out.host r.port (fld (d.effRd (Reg.P_CQ r.port)) 63 12 * 4096 + 64 * (d.rn (Reg.P_CQ_WR r.port) % 2 ^ fld (d.effRd (Reg.P_CQ r.port)) 4 0))
      ((r.words ++ [d.rd (Reg.P_CQ_WR r.port)]).flatMap fun w => toBytes 8 w.toNat) ∈ (d.putRec r).out := by
  have hword : w64 (d.rn (Reg.P_CQ_WR r.port)) = d.rd (Reg.P_CQ_WR r.port) := by
    unfold w64 Dev.rn; rw [BitVec.ofNat_toNat, BitVec.setWidth_eq]
  have hout : (d.putRec r).out = d.out ++ [.host r.port
      (fld (d.effRd (Reg.P_CQ r.port)) 63 12 * 4096 + 64 * (d.rn (Reg.P_CQ_WR r.port) % (d.cqSize r.port).getD 1))
      ((r.words ++ [w64 (d.rn (Reg.P_CQ_WR r.port))]).flatMap fun w => toBytes 8 w.toNat)] := rfl
  rw [hout, hword, Dev.cqSize_of_room hroom]
  exact List.mem_append_right _ (List.mem_singleton.mpr rfl)
theorem Dev.each_out_mono {α : Type} {f : Dev → α → Dev} {x : Out} (h : ∀ a d, x ∈ d.out → x ∈ (f d a).out) (l : List α) (d : Dev)
    (hx : x ∈ d.out) : x ∈ (d.each l f).out := by
  induction l generalizing d with
  | nil => exact hx
  | cons a l ih => exact ih _ (h a d hx)
/-- The first record that waits for a port is written while the ring has room. -/
theorem Dev.drainBacklog_out {d : Dev} {p : Nat} {r : Rec} (hfind : d.backlog.find? (·.port == p) = some r) (hroom : d.cqRoom p = true) :
    Out.host p (fld (d.effRd (Reg.P_CQ p)) 63 12 * 4096 + 64 * (d.rn (Reg.P_CQ_WR p) % 2 ^ fld (d.effRd (Reg.P_CQ p)) 4 0))
      ((r.words ++ [d.rd (Reg.P_CQ_WR p)]).flatMap fun w => toBytes 8 w.toNat) ∈ (d.drainBacklog p).out := by
  have hp : r.port = p := by
    have h := List.find?_some hfind
    exact eq_of_beq h
  obtain ⟨rest, hrest⟩ : ∃ rest, d.backlog.filter (·.port == p) = r :: rest := by
    rw [← List.head?_filter] at hfind
    exact ⟨_, (List.cons_head?_tail hfind).symm⟩
  unfold Dev.drainBacklog
  rw [hrest]
  refine Dev.each_out_mono (fun r' e he => ?_) rest _ ?_
  · split
    · exact List.mem_append_left _ he
    · exact he
  · dsimp only
    rw [if_pos (by rw [hroom, hfind]; simp)]
    subst hp
    exact Dev.putRec_out (d := { d with backlog := d.backlog.erase r }) hroom
theorem recordBacklogWrite_idle (h : s.dev.portFenced p.val = true ∨ s.dev.cqRoom p.val = false) :
    Completes (.recordBacklogWrite p) s fun e => OnlyRegs [] s.dev e := by
  have hdrain : s.dev.cqRoom p.val = false → s.dev.drainBacklog p.val = s.dev := by
    intro hroom
    unfold Dev.drainBacklog
    generalize s.dev.backlog.filter _ = l
    induction l with
    | nil => rfl
    | cons r rs ih =>
      rw [Dev.each, List.foldl_cons, if_neg (by rw [hroom]; simp)]
      exact ih
  refine .of s.dev ?_ (.refl _ _)
  have hact : (if s.dev.portFenced p.val then s.dev else s.dev.drainBacklog p.val) = s.dev := by
    split
    · rfl
    · next hf => exact hdrain (h.resolve_left hf)
  exact congrArg s.ok hact
theorem recordBacklogWrite_writes {r : Rec} (hf : s.dev.portFenced p.val = false) (hfind : s.dev.backlog.find? (·.port == p.val) = some r)
    (hroom : s.dev.cqRoom p.val = true) : Completes (.recordBacklogWrite p) s fun e =>
      Out.host p.val (fld (s.dev.effRd (Reg.P_CQ p.val)) 63 12 * 4096
          + 64 * (s.dev.rn (Reg.P_CQ_WR p) % 2 ^ fld (s.dev.effRd (Reg.P_CQ p.val)) 4 0))
        ((r.words ++ [s.dev.rd (Reg.P_CQ_WR p)]).flatMap fun w => toBytes 8 w.toNat) ∈ e.out :=
  .of (s.dev.drainBacklog p.val) (congrArg s.ok (if_neg (by rw [hf]; exact Bool.false_ne_true))) (Dev.drainBacklog_out hfind hroom)

end

/-! ## The input deadline and the tick (R263, R325) -/

theorem doInputDeadline_off {d : Dev} (h : d.framesRun = false ∨ d.ended = true) : doInputDeadline d = d := by
  unfold doInputDeadline
  exact if_pos (by rw [Bool.or_eq_true]; exact h.imp (fun h => by rw [h]; rfl) id)
theorem doInputDeadline_on {d : Dev} (hr : d.framesRun = true) (he : d.ended = false) : doInputDeadline d =
    { d.when ((List.range 24).any fun k => d.rf (Reg.INPUT k) 31 0 < d.rf (Reg.INPUT k) 63 32) (·.cause 7) with pastInput := true } := by
  unfold doInputDeadline
  exact if_neg (by rw [hr, he]; exact Bool.false_ne_true)
theorem inputDeadline_checks {s : State} (hr : s.dev.framesRun = true) (he : s.dev.ended = false) :
    Completes .inputDeadline s fun e => e.pastInput = true ∧ RegsBut [] s.dev e ∧ SameBytes s.dev e
      ∧ ((∃ k < 24, s.dev.rf (Reg.INPUT k) 31 0 < s.dev.rf (Reg.INPUT k) 63 32) → s.dev.voted = false → e.causes = s.dev.causes ||| 128#16)
      ∧ ((∀ k < 24, s.dev.rf (Reg.INPUT k) 63 32 ≤ s.dev.rf (Reg.INPUT k) 31 0) → e.causes = s.dev.causes) := by
  have hbyte (d : Dev) (a : Nat) : (d.cause 7).rdByte a = d.rdByte a := by unfold Dev.cause; split <;> rfl
  refine .of _ (congrArg s.ok (doInputDeadline_on hr he)) ⟨rfl, .seal fun o _ => ?_, .seal fun a => ?_, fun ⟨k, hk, hlt⟩ hv => ?_, fun hall => ?_⟩
  · exact Dev.when_keeps (fun d => d.rd o) (fun d => d.cause_rd 7 o) _ _
  · exact Dev.when_keeps (fun d => d.rdByte a) (fun d => hbyte d a) _ _
  · have hshort : (List.range 24).any (fun k => s.dev.rf (Reg.INPUT k) 31 0 < s.dev.rf (Reg.INPUT k) 63 32) = true :=
      List.any_eq_true.mpr ⟨k, List.mem_range.mpr hk, decide_eq_true hlt⟩
    have hcause : (s.dev.cause 7).causes = s.dev.causes ||| 128#16 := by
      unfold Dev.cause; rw [hr, hv]; rfl
    rw [hshort]
    exact hcause
  · have hshort : (List.range 24).any (fun k => s.dev.rf (Reg.INPUT k) 31 0 < s.dev.rf (Reg.INPUT k) 63 32) = false :=
      List.any_eq_false.mpr fun k hk => by rw [decide_eq_true_iff]; exact Nat.not_lt.mpr (hall k (List.mem_range.mp hk))
    rw [hshort]
    rfl

end Sys2Proof.Machine
end


section
/-! PROOFS. The tick of 1 ms between frames (R325, R523). -/

namespace Sys2Proof.Machine

/-- A map set once at every key of a list, read at one of them. -/
theorem smGet_foldl_smSet {α β : Type} [DecidableEq β] (dflt : Nat → β) (g : Nat × α → β) {l : List (Nat × α)} (hnd : (l.map (·.1)).Nodup)
    {x : Nat × α} (hx : x ∈ l) (m : SMap β) : smGet dflt (l.foldl (fun m e => smSet dflt m e.1 (g e)) m) x.1 = g x := by
  have hkeep : ∀ (l : List (Nat × α)) (m : SMap β), x.1 ∉ l.map (·.1) →
      smGet dflt (l.foldl (fun m e => smSet dflt m e.1 (g e)) m) x.1 = smGet dflt m x.1 := by
    intro l
    induction l with
    | nil => exact fun _ _ => rfl
    | cons y ys ih =>
      intro m hm
      rw [List.map_cons, List.mem_cons, not_or] at hm
      exact (ih _ hm.2).trans (smGet_smSet_ne _ _ _ hm.1)
  induction l generalizing m with
  | nil => cases hx
  | cons y ys ih =>
    rw [List.map_cons, List.nodup_cons] at hnd
    obtain ⟨hy, hys⟩ := hnd
    rcases List.mem_cons.mp hx with rfl | hmem
    · exact (hkeep ys _ hy).trans (smGet_smSet_same ..)
    · exact ih hys hmem _
/-- The entry of a tile that is not as at reset. -/
theorem Dev.tile_entry {d : Dev} {t : Nat} (h : d.tile t ≠ {}) : (t, d.tile t) ∈ d.tiles := by
  have hmem : ∀ m : SMap Tile, smGet tileReset m t ≠ {} → (t, smGet tileReset m t) ∈ m := by
    intro m
    induction m with
    | nil => intro hm; exact absurd rfl hm
    | cons x r ih =>
      obtain ⟨k, y⟩ := x
      intro hm
      by_cases hk : k = t
      · rw [smGet, if_pos hk, ← hk]; exact List.mem_cons_self
      · rw [smGet, if_neg hk] at hm ⊢; exact List.mem_cons_of_mem _ (ih hm)
  exact hmem d.tiles h

/-- A tile whose launch runs and has issued nothing since the last tick has stalled one more. -/
theorem Dev.countStalls_counts {d : Dev} (hcan : (d.tiles.map (·.1)).Nodup) {t : Nat} (hm : (d.tile t).mode = .running) (hc : (d.tile t).cur.isSome = true)
    (hi : (smGet noStall d.stalled t).2 = (d.trd t Reg.ISSUE).toNat) :
    smGet noStall d.countStalls.2.stalled t = ((smGet noStall d.stalled t).1 + 1, (d.trd t Reg.ISSUE).toNat) := by
  have hentry := Dev.tile_entry (d := d) (t := t) fun e => by rw [e] at hm; cases hm
  refine (smGet_foldl_smSet noStall (fun e => if (e.2.mode == .running && e.2.cur.isSome) && (smGet noStall d.stalled e.1).2 == (d.trd e.1 Reg.ISSUE).toNat
    then ((smGet noStall d.stalled e.1).1 + 1, (d.trd e.1 Reg.ISSUE).toNat) else (0, (d.trd e.1 Reg.ISSUE).toNat)) hcan hentry []).trans ?_
  exact if_pos (by rw [hm, hc, hi]; simp)
theorem memTick_running {s : State} (h : s.dev.framesRun = true) : Completes .memTick s fun e => OnlyRegs [] s.dev e :=
  .of s.dev (congrArg s.ok (if_pos h)) (.refl _ _)
theorem memTick_ticks {s : State} (hr : s.dev.framesRun = false) (hcan : s.dev.canonical = true) :
    Completes .memTick s fun e => e.rd Reg.MEM_TICK = s.dev.rd Reg.MEM_TICK + 1
      ∧ ∀ t, (s.dev.tile t).mode = .running → (s.dev.tile t).cur.isSome = true →
          (smGet noStall s.dev.stalled t).2 = (s.dev.trd t Reg.ISSUE).toNat →
        smGet noStall e.stalled t = ((smGet noStall s.dev.stalled t).1 + 1, (s.dev.trd t Reg.ISSUE).toNat) := by
  refine .of (s.dev.inc Reg.MEM_TICK).progressTick (congrArg s.ok (if_neg (by rw [hr]; exact Bool.false_ne_true))) ⟨?_, fun t hm hc hi => ?_⟩
  · rw [Dev.seal_rd_all _ _ (by decide), Dev.cadDev_rd (Dev.cadDev_progressTick _) (by decide)]
    exact Dev.rd_add_same ..
  · have hst : (s.dev.inc Reg.MEM_TICK).progressTick.stalled = (s.dev.inc Reg.MEM_TICK).countStalls.2.stalled :=
      congrArg Prod.snd (Dev.cadTick_progressTick _)
    have hissue : (s.dev.inc Reg.MEM_TICK).trd t Reg.ISSUE = s.dev.trd t Reg.ISSUE := Dev.rd_add_ne _ _ (Reg.tile_ne_low t _ (by decide))
    have hcount := Dev.countStalls_counts (d := s.dev.inc Reg.MEM_TICK) (Dev.canonical_nodup (d := s.dev) hcan) (t := t) hm hc (by rw [hissue]; exact hi)
    rw [hissue] at hcount
    exact (congrArg (smGet noStall · t) hst).trans hcount

end Sys2Proof.Machine
end


section
/-! PROOFS. The plan's headers (R298): what lands on each tile that waits for one. -/

namespace Sys2Proof.Machine

/-! ## Words of the scratchpads -/

theorem Dev.rdBytes_congr_on {d e : Dev} {n a : Nat} (h : ∀ x, a ≤ x → x < a + n → e.rdByte x = d.rdByte x) :
    e.rdBytes a n = d.rdBytes a n := by
  induction n generalizing a with
  | zero => rfl
  | succ n ih =>
    have hhead : e.rdByte a = d.rdByte a := h a (Nat.le_refl a) (by omega)
    have htail : e.rdBytes (a + 1) n = d.rdBytes (a + 1) n := ih fun x h₁ h₂ => h x (by omega) (by omega)
    rw [Dev.rdBytes, Dev.rdBytes, hhead, htail]
/-- A whole word written leaves every other word that a window can hold, on this tile and on every other. -/
theorem Dev.spRd_spWr_ne (d : Dev) {t u w a : Nat} (v : Word256) (hw : w ≤ 2 ^ 17) (ha : a ≤ 2 ^ 17) (h : t ≠ u ∨ w ≠ a) :
    (d.spWr u a v).spRd t w = d.spRd t w := by
  have hout : ∀ x, spAddr t w ≤ x → x < spAddr t w + 32 → (d.spWr u a v).rdByte x = d.rdByte x := by
    intro x h₁ h₂
    refine d.spWr_rdByte u a v ?_
    unfold spAddr apertureBase at *
    omega
  unfold Dev.spRd Dev.rdNum
  rw [Dev.rdBytes_congr_on hout]
theorem Dev.wrBytes_regs (d : Dev) (a : Nat) (l : List Byte) : (d.wrBytes a l).regs = d.regs := by
  induction l generalizing d a with
  | nil => rfl
  | cons b bs ih => exact ih _ _
theorem Dev.wrBytes_tile' (d : Dev) (a t : Nat) (l : List Byte) : (d.wrBytes a l).tile t = d.tile t := by
  induction l generalizing d a with
  | nil => rfl
  | cons b bs ih => exact (ih _ _).trans rfl

/-! ## A word that lands -/

theorem Dev.landWord_eq (d : Dev) (t a : Nat) (v : Word256) (b : Bool) : d.landWord t (a, v, b) =
    ((((d.upd t (·.setPoison a false)).spWr t a v).upd t (·.setCorr a false)).upd t (·.setTag a true)).upd t (·.setPoison a b) := by
  unfold Dev.landWord
  rw [Dev.spWrite_whole]

theorem Dev.spRd_congr {d e : Dev} (h : e.mem = d.mem) (t w : Nat) : e.spRd t w = d.spRd t w := by
  have hbyte (x : Nat) : e.rdByte x = d.rdByte x := by unfold Dev.rdByte; rw [h]
  unfold Dev.spRd Dev.rdNum
  rw [Dev.rdBytes_congr hbyte]

section
variable (d : Dev) (t a : Nat) (v : Word256) (b : Bool)

theorem Dev.landWord_mem : (d.landWord t (a, v, b)).mem = (d.spWr t a v).mem := by
  rw [Dev.landWord_eq, Dev.upd_mem, Dev.upd_mem, Dev.upd_mem]
  exact Dev.spWr_mem_congr (Dev.upd_mem ..) t a v
theorem Dev.landWord_regs : (d.landWord t (a, v, b)).regs = d.regs := by
  rw [Dev.landWord_eq, Dev.upd_regs, Dev.upd_regs, Dev.upd_regs]
  exact Dev.wrBytes_regs _ _ _
theorem Dev.landWord_tile_ne {u : Nat} (h : u ≠ t) : (d.landWord t (a, v, b)).tile u = d.tile u := by
  rw [Dev.landWord_eq, Dev.tile_upd_ne _ _ h, Dev.tile_upd_ne _ _ h, Dev.tile_upd_ne _ _ h]
  exact (Dev.wrBytes_tile' _ _ _ _).trans (Dev.tile_upd_ne _ _ h)
theorem Dev.landWord_spRd_same : (d.landWord t (a, v, b)).spRd t a = v :=
  (Dev.spRd_congr (d.landWord_mem t a v b) t a).trans (Dev.spRd_spWr ..)
theorem Dev.landWord_spRd_ne {u w : Nat} (hw : w ≤ 2 ^ 17) (ha : a ≤ 2 ^ 17) (h : u ≠ t ∨ w ≠ a) :
    (d.landWord t (a, v, b)).spRd u w = d.spRd u w :=
  (Dev.spRd_congr (d.landWord_mem t a v b) u w).trans (Dev.spRd_spWr_ne d v hw ha h)
theorem Dev.landWord_full_same : ((d.landWord t (a, v, b)).tile t).full a = true := by
  rw [Dev.landWord_eq, Dev.tile_upd_same, Dev.tile_upd_same]
  exact smGet_smSet_same noTag _ a true
theorem Dev.landWord_full_ne {w : Nat} (h : w ≠ a) : ((d.landWord t (a, v, b)).tile t).full w = (d.tile t).full w := by
  rw [Dev.landWord_eq, Dev.tile_upd_same, Dev.tile_upd_same, Dev.tile_upd_same]
  refine (smGet_smSet_ne noTag _ true h).trans ?_
  have htile : (((d.upd t (·.setPoison a false)).spWr t a v).tile t) = (d.upd t (·.setPoison a false)).tile t := Dev.wrBytes_tile' _ _ _ _
  have htags : (((d.upd t (·.setPoison a false)).spWr t a v).tile t).tags = (d.tile t).tags := by
    rw [htile, Dev.tile_upd_same]; rfl
  exact congrArg (smGet noTag · w) htags
theorem Dev.landWord_hdrPend : (d.landWord t (a, v, b)).hdrPend = d.hdrPend := by
  have hb (d : Dev) (a : Nat) (l : List Byte) : (d.wrBytes a l).hdrPend = d.hdrPend := by
    induction l generalizing d a with
    | nil => rfl
    | cons b bs ih => exact (ih _ _).trans rfl
  have hword (d : Dev) : (d.spWr t a v).hdrPend = d.hdrPend := by unfold Dev.spWr Dev.wrNum; exact hb ..
  have hupd (d : Dev) (f : Tile → Tile) : (d.upd t f).hdrPend = d.hdrPend := rfl
  rw [Dev.landWord_eq, hupd, hupd, hupd, hword, hupd]

end

/-- A tile, the words a window can hold, and the registers of the device. -/
structure LandView where
  tile : Tile
  words : Fin (2 ^ 17 + 1) → Word256
  regs : SMap W64
def Dev.landView (t : Nat) (d : Dev) : LandView := ⟨d.tile t, fun w => d.spRd t w.val, d.regs⟩
theorem Dev.landView_word (d : Dev) (t : Nat) (w : Fin (2 ^ 17 + 1)) : (d.landView t).words w = d.spRd t w.val := by
  unfold Dev.landView; dsimp only
theorem Dev.landView_tile {d e : Dev} {t : Nat} (h : e.landView t = d.landView t) : e.tile t = d.tile t := congrArg LandView.tile h
theorem Dev.landView_spRd {d e : Dev} {t w : Nat} (h : e.landView t = d.landView t) (hw : w ≤ 2 ^ 17) : e.spRd t w = d.spRd t w := by
  have he := e.landView_word t ⟨w, Nat.lt_succ_of_le hw⟩
  have hd := d.landView_word t ⟨w, Nat.lt_succ_of_le hw⟩
  rw [h, hd] at he
  exact he.symm
theorem Dev.landView_regs {d e : Dev} {t : Nat} (h : e.landView t = d.landView t) : e.regs = d.regs := congrArg LandView.regs h
theorem Dev.landView_mk {d e : Dev} {t : Nat} (ht : e.tile t = d.tile t) (hw : ∀ w ≤ 2 ^ 17, e.spRd t w = d.spRd t w) (hr : e.regs = d.regs) :
    e.landView t = d.landView t := by
  have hwords : (fun w : Fin (2 ^ 17 + 1) => e.spRd t w.val) = fun w => d.spRd t w.val := funext fun w => hw w.val (Nat.le_of_lt_succ w.isLt)
  unfold Dev.landView
  rw [ht, hwords, hr]

/-! ## A header that lands -/

theorem Dev.winBase_lt (d : Dev) (t w : Nat) : d.winBase t w < 2 ^ 17 := fld_lt ..
/-- The two words of a header land on a tile (R298). -/
def Dev.headerAt (d : Dev) (t w : Nat) (x₀ x₁ : Word256) : Dev :=
  let e := (d.landWord t (d.winBase t w, x₀, false)).landWord t (d.winBase t w + 1, x₁, false)
  { e with hdrPend := e.hdrPend.erase t }.upd t (·.tookNet [d.winBase t w, d.winBase t w + 1] true)

section
variable (d : Dev) (t w : Nat) (x₀ x₁ : Word256)

/-- The device with the words landed. -/
def Dev.headerLanded : Dev := (d.landWord t (d.winBase t w, x₀, false)).landWord t (d.winBase t w + 1, x₁, false)
theorem Dev.headerAt_eq : d.headerAt t w x₀ x₁ =
    { d.headerLanded t w x₀ x₁ with hdrPend := (d.headerLanded t w x₀ x₁).hdrPend.erase t }.upd t
      (·.tookNet [d.winBase t w, d.winBase t w + 1] true) := rfl
theorem Dev.headerAt_hdrPend : (d.headerAt t w x₀ x₁).hdrPend = d.hdrPend.erase t := by
  have h : (d.headerAt t w x₀ x₁).hdrPend = (d.headerLanded t w x₀ x₁).hdrPend.erase t := rfl
  rw [h, Dev.headerLanded, Dev.landWord_hdrPend, Dev.landWord_hdrPend]
theorem Dev.headerAt_regs : (d.headerAt t w x₀ x₁).regs = d.regs := by
  rw [Dev.headerAt_eq, Dev.upd_regs]
  dsimp only
  rw [Dev.headerLanded, Dev.landWord_regs, Dev.landWord_regs]
theorem Dev.headerAt_mem : (d.headerAt t w x₀ x₁).mem = (d.headerLanded t w x₀ x₁).mem := by rw [Dev.headerAt_eq, Dev.upd_mem]
theorem Dev.headerAt_tile_ne {u : Nat} (h : u ≠ t) : (d.headerAt t w x₀ x₁).tile u = d.tile u := by
  have hpend (e : Dev) (l : List Nat) : ({ e with hdrPend := l } : Dev).tile u = e.tile u := rfl
  rw [Dev.headerAt_eq, Dev.tile_upd_ne _ _ h, hpend, Dev.headerLanded, Dev.landWord_tile_ne _ _ _ _ _ h, Dev.landWord_tile_ne _ _ _ _ _ h]
theorem Dev.headerAt_full (a : Nat) : ((d.headerAt t w x₀ x₁).tile t).full a = ((d.headerLanded t w x₀ x₁).tile t).full a := by
  have hpend (e : Dev) (l : List Nat) : ({ e with hdrPend := l } : Dev).tile t = e.tile t := rfl
  have htook (x : Tile) (l : List Nat) : (x.tookNet l true).full a = x.full a := rfl
  rw [Dev.headerAt_eq, Dev.tile_upd_same, hpend, htook]
theorem Dev.headerAt_view {u : Nat} (h : u ≠ t) : (d.headerAt t w x₀ x₁).landView u = d.landView u := by
  have hb := d.winBase_lt t w
  refine Dev.landView_mk (d.headerAt_tile_ne t w x₀ x₁ h) (fun a ha => ?_) (d.headerAt_regs t w x₀ x₁)
  rw [Dev.spRd_congr (d.headerAt_mem t w x₀ x₁), Dev.headerLanded, Dev.landWord_spRd_ne _ _ _ _ _ ha (by omega) (.inl h),
    Dev.landWord_spRd_ne _ _ _ _ _ ha (by omega) (.inl h)]
/-- The words of the tile read as they have landed, and stand full. -/
theorem Dev.headerAt_lands : (d.headerAt t w x₀ x₁).spRd t (d.winBase t w) = x₀ ∧ (d.headerAt t w x₀ x₁).spRd t (d.winBase t w + 1) = x₁
    ∧ ((d.headerAt t w x₀ x₁).tile t).full (d.winBase t w) = true ∧ ((d.headerAt t w x₀ x₁).tile t).full (d.winBase t w + 1) = true := by
  have hb := d.winBase_lt t w
  have hne : d.winBase t w ≠ d.winBase t w + 1 := Nat.ne_of_lt (Nat.lt_succ_self _)
  refine ⟨?_, ?_, ?_, ?_⟩
  · rw [Dev.spRd_congr (d.headerAt_mem t w x₀ x₁), Dev.headerLanded,
      Dev.landWord_spRd_ne _ _ _ _ _ (by omega) (by omega) (.inr hne), Dev.landWord_spRd_same]
  · rw [Dev.spRd_congr (d.headerAt_mem t w x₀ x₁), Dev.headerLanded, Dev.landWord_spRd_same]
  · rw [Dev.headerAt_full, Dev.headerLanded, Dev.landWord_full_ne _ _ _ _ _ hne, Dev.landWord_full_same]
  · rw [Dev.headerAt_full, Dev.headerLanded, Dev.landWord_full_same]

end

/-! ## PLAN_HEADER_DELIVERY -/

/-- Tiles whose headers land no longer wait for them. -/
theorem Dev.each_hdrPend {f : Dev → Nat → Dev} (hf : ∀ d u, (f d u).hdrPend = d.hdrPend.erase u) (l : List Nat) (d : Dev) (t : Nat)
    (hnd : d.hdrPend.Nodup) : t ∈ (d.each l f).hdrPend ↔ t ∈ d.hdrPend ∧ t ∉ l := by
  induction l generalizing d with
  | nil => simp [Dev.each]
  | cons u us ih =>
    have hstep : t ∈ ((f d u).each us f).hdrPend ↔ t ∈ (f d u).hdrPend ∧ t ∉ us := ih (f d u) (by rw [hf]; exact hnd.erase u)
    rw [hf, hnd.mem_erase_iff] at hstep
    rw [List.mem_cons, not_or]
    exact hstep.trans ⟨fun ⟨⟨h₁, h₂⟩, h₃⟩ => ⟨h₂, h₁, h₃⟩, fun ⟨h₁, h₂, h₃⟩ => ⟨⟨h₂, h₁⟩, h₃⟩⟩

/-- The words of a plan's header. -/
def Dev.header0 (d : Dev) (q : Plan) : Word256 :=
  BitVec.ofNat 256 ((List.range 4).foldl (fun v i => v + (2 ^ 63 + (d.intf Reg.INT_JOB 47 24 * 2 ^ 24 + q.buf * 0x800000) + 65536 * i) * 2 ^ (64 * i)) 0)
def Dev.header1 (d : Dev) (q : Plan) : Word256 := BitVec.ofNat 256 (d.frame + q.id * 2 ^ 64 + (q.buf + b2n q.update * 2 + q.var * 4) * 2 ^ 128)
/-- Four limbs of 64 bits of a sum. -/
theorem limbs_of_sum {n y₀ y₁ y₂ y₃ : Nat} (hn : n = y₀ + y₁ * 2 ^ 64 + y₂ * 2 ^ 128 + y₃ * 2 ^ 192)
    (h₀ : y₀ < 2 ^ 64) (h₁ : y₁ < 2 ^ 64) (h₂ : y₂ < 2 ^ 64) (h₃ : y₃ < 2 ^ 64) :
    n < 2 ^ 256 ∧ n % 2 ^ 64 = y₀ ∧ n / 2 ^ 64 % 2 ^ 64 = y₁ ∧ n / 2 ^ 128 % 2 ^ 64 = y₂ ∧ n / 2 ^ 192 % 2 ^ 64 = y₃ := by
  refine ⟨?_, ?_, ?_, ?_, ?_⟩ <;> omega
/-- The lane of a word is the limb of its number. -/
theorem extractLsb'_ofNat_of_limb {n y : Nat} (j : Nat) (hn : n < 2 ^ 256) (h : n / 2 ^ (64 * j) % 2 ^ 64 = y) :
    (BitVec.ofNat 256 n).extractLsb' (64 * j) 64 = w64 y := by
  have hy : y < 2 ^ 64 := h ▸ Nat.mod_lt _ (Nat.two_pow_pos 64)
  unfold w64
  refine BitVec.eq_of_toNat_eq ?_
  rw [BitVec.extractLsb'_toNat, BitVec.toNat_ofNat, BitVec.toNat_ofNat, Nat.shiftRight_eq_div_pow, Nat.mod_eq_of_lt hn, h, Nat.mod_eq_of_lt hy]
theorem foldl_range_four (f : Nat → Nat → Nat) (v : Nat) : (List.range 4).foldl f v = f (f (f (f v 0) 1) 2) 3 := rfl
theorem sum_of_limbs (y₀ y₁ y₂ y₃ : Nat) : 0 + y₀ * 2 ^ (64 * 0) + y₁ * 2 ^ (64 * 1) + y₂ * 2 ^ (64 * 2) + y₃ * 2 ^ (64 * 3)
    = y₀ + y₁ * 2 ^ 64 + y₂ * 2 ^ 128 + y₃ * 2 ^ 192 := by
  rw [Nat.zero_add, Nat.mul_zero, Nat.pow_zero, Nat.mul_one]
/-- A word of four lanes from a number and a step holds it lane by lane. -/
theorem lanes_extract {x : Nat} (hx : x < 2 ^ 63 + 2 ^ 49) {j : Nat} (hj : j < 4) :
    (BitVec.ofNat 256 ((List.range 4).foldl (fun v i => v + (x + 65536 * i) * 2 ^ (64 * i)) 0)).extractLsb' (64 * j) 64 = w64 (x + 65536 * j) := by
  generalize hn : (List.range 4).foldl (fun v i => v + (x + 65536 * i) * 2 ^ (64 * i)) 0 = n
  have hsum : n = (x + 65536 * 0) + (x + 65536 * 1) * 2 ^ 64 + (x + 65536 * 2) * 2 ^ 128 + (x + 65536 * 3) * 2 ^ 192 :=
    hn.symm.trans ((foldl_range_four _ 0).trans (sum_of_limbs ..))
  have hlane (k : Nat) (hk : k < 4) : x + 65536 * k < 2 ^ 64 := by omega
  obtain ⟨hlt, hn₀, hn₁, hn₂, hn₃⟩ := limbs_of_sum hsum (hlane 0 (by decide)) (hlane 1 (by decide)) (hlane 2 (by decide)) (hlane 3 (by decide))
  refine extractLsb'_ofNat_of_limb j hlt ?_
  match j, hj with
  | 0, _ => rw [Nat.mul_zero, Nat.pow_zero, Nat.div_one, hn₀]
  | 1, _ => rw [Nat.mul_one, hn₁]
  | 2, _ => rw [show 64 * 2 = 128 from rfl, hn₂]
  | 3, _ => rw [show 64 * 3 = 192 from rfl, hn₃]
theorem Dev.header0_lane (d : Dev) {q : Plan} (hq : q.buf ≤ 1) {j : Nat} (hj : j < 4) :
    (d.header0 q).extractLsb' (64 * j) 64 = w64 (2 ^ 63 + (d.intf Reg.INT_JOB 47 24 * 2 ^ 24 + q.buf * 0x800000) + 65536 * j) := by
  have hva : d.intf Reg.INT_JOB 47 24 < 2 ^ 24 := fld_lt ..
  unfold Dev.header0
  exact lanes_extract (by omega) hj
theorem Dev.header1_toNat (d : Dev) {q : Plan} (hq : q.buf ≤ 1) (hid : q.id < 2 ^ 48) (hv : q.var < 4) :
    (d.header1 q).toNat = d.frame + q.id * 2 ^ 64 + (q.buf + 2 * b2n q.update + 4 * q.var) * 2 ^ 128 := by
  have hf : d.frame < 2 ^ 48 := fld_lt ..
  have hu : b2n q.update ≤ 1 := by unfold b2n; split <;> decide
  unfold Dev.header1
  rw [BitVec.toNat_ofNat]
  omega
theorem doHeaders_off {d : Dev} (h : d.planRun = none ∨ d.framesRun = false ∨ d.ended = true) : doHeaders d = d := by
  unfold doHeaders
  split
  · rfl
  · next q hq => exact if_pos (by rw [hq] at h; simpa using h)
theorem doHeaders_on {d : Dev} {q : Plan} (hq : d.planRun = some q) (hr : d.framesRun = true) (he : d.ended = false) :
    doHeaders d = d.each (d.hdrPend.filter (d.headerFree · d.planWin)) fun e t => e.headerAt t d.planWin (d.header0 q) (d.header1 q) := by
  unfold doHeaders
  rw [hq]
  exact if_neg (by rw [hr, he]; exact Bool.false_ne_true)
/-- Where a header can land: the window is there and its words empty, no switch is under way, and the tile's beat has a landing and the
words' banks to give (R173, R227, R298). -/
theorem Dev.headerFree_iff (d : Dev) (t w : Nat) : d.headerFree t w = true ↔ (d.tile t).fenced = false ∧ (d.tile t).swBusy = false
    ∧ d.winValid t w = true ∧ (d.tile t).full (d.winBase t w) = false ∧ (d.tile t).full (d.winBase t w + 1) = false
    ∧ (d.tile t).netCount < 2 ∧ (d.tile t).netBanks.getLsbD (d.winBase t w % 64) = false
    ∧ (d.tile t).netBanks.getLsbD ((d.winBase t w + 1) % 64) = false := by
  unfold Dev.headerFree
  simp only [Bool.and_eq_true, Bool.not_eq_true', decide_eq_true_iff, and_assoc]

section
variable {d : Dev} {q : Plan} (hq : d.planRun = some q) (hr : d.framesRun = true) (he : d.ended = false) (hnd : d.hdrPend.Nodup)
include hq hr he hnd

theorem doHeaders_hdrPend (t : Nat) : t ∈ (doHeaders d).hdrPend ↔ t ∈ d.hdrPend ∧ ¬ (t ∈ d.hdrPend ∧ d.headerFree t d.planWin = true) := by
  rw [doHeaders_on hq hr he, Dev.each_hdrPend (fun e u => e.headerAt_hdrPend u _ _ _) _ d t hnd, List.mem_filter]
/-- A tile that waits for a header and can take it has it. -/
theorem doHeaders_lands {t : Nat} (ht : t ∈ d.hdrPend) (hf : d.headerFree t d.planWin = true) :
    (doHeaders d).spRd t (d.winBase t d.planWin) = d.header0 q ∧ (doHeaders d).spRd t (d.winBase t d.planWin + 1) = d.header1 q
      ∧ ((doHeaders d).tile t).full (d.winBase t d.planWin) = true ∧ ((doHeaders d).tile t).full (d.winBase t d.planWin + 1) = true := by
  rw [doHeaders_on hq hr he]
  have hmem : t ∈ d.hdrPend.filter (d.headerFree · d.planWin) := List.mem_filter.mpr ⟨ht, hf⟩
  obtain ⟨e, hv, hland⟩ := Dev.each_at (Dev.landView t) (f := fun e t => e.headerAt t d.planWin (d.header0 q) (d.header1 q))
    hmem (hnd.filter _) (fun u _ hu e => e.headerAt_view u _ _ _ (Ne.symm hu)) d
  have hbase : e.winBase t d.planWin = d.winBase t d.planWin := by
    unfold Dev.winBase Dev.trf Dev.rf Dev.rd
    rw [Dev.landView_regs hv]
  have hlt := d.winBase_lt t d.planWin
  obtain ⟨h₀, h₁, hf₀, hf₁⟩ := e.headerAt_lands t d.planWin (d.header0 q) (d.header1 q)
  rw [hbase] at h₀ h₁ hf₀ hf₁
  rw [Dev.landView_spRd hland (by omega), Dev.landView_spRd hland (by omega), Dev.landView_tile hland]
  exact ⟨h₀, h₁, hf₀, hf₁⟩
omit hnd in
theorem doHeaders_waits {t : Nat} (hf : d.headerFree t d.planWin ≠ true) : (doHeaders d).tile t = d.tile t := by
  rw [doHeaders_on hq hr he]
  refine Dev.each_keeps (fun e => e.tile t) (fun u hu e => e.headerAt_tile_ne u _ _ _ fun h => hf ?_) d
  rw [h]; exact (List.mem_filter.mp hu).2
omit hnd in
theorem doHeaders_regs : (doHeaders d).regs = d.regs := by
  rw [doHeaders_on hq hr he]
  exact Dev.each_keeps Dev.regs (fun u _ e => e.headerAt_regs u _ _ _) d

end

end Sys2Proof.Machine
end


section
/-! PROOFS. Frames run in order (R70, R257, R258, R260, R263, R325, R464, R473, R474): the obligation, of the commands' lemmas. -/

namespace Sys2Proof.Machine

section
variable {s : State}

theorem Completes.unchanged {i : Instr} (h : exec i s = s.ok s.dev) : Completes i s fun e => OnlyRegs [] s.dev e := .of s.dev h (.refl _ _)

theorem Dev.seal_spRd (d : Dev) (t w : Nat) : d.seal.spRd t w = d.spRd t w := by
  unfold Dev.spRd Dev.rdNum
  rw [Dev.rdBytes_congr (d := d) d.seal_rdByte]

theorem planHeaderDelivery_delivers {q : Plan} (hq : s.dev.planRun = some q) (hr : s.dev.framesRun = true) (he : s.dev.ended = false)
    (hbuf : q.buf ≤ 1) (hid : q.id < 2 ^ 48) (hvar : q.var < 4) (hnd : s.dev.hdrPend.Nodup) :
    Completes .planHeaderDelivery s fun e => RegsBut [] s.dev e ∧ ∀ t ∈ s.dev.hdrPend,
      (s.dev.headerFree t s.dev.planWin = true → t ∉ e.hdrPend
        ∧ (∀ j < 4, (e.spRd t (s.dev.winBase t s.dev.planWin)).extractLsb' (64 * j) 64
            = w64 (2 ^ 63 + (s.dev.intf Reg.INT_JOB 47 24 * 2 ^ 24 + q.buf * 0x800000) + 65536 * j))
        ∧ (e.spRd t (s.dev.winBase t s.dev.planWin + 1)).toNat
            = s.dev.frame + q.id * 2 ^ 64 + (q.buf + 2 * b2n q.update + 4 * q.var) * 2 ^ 128
        ∧ (e.tile t).full (s.dev.winBase t s.dev.planWin) = true ∧ (e.tile t).full (s.dev.winBase t s.dev.planWin + 1) = true)
      ∧ (s.dev.headerFree t s.dev.planWin ≠ true → t ∈ e.hdrPend ∧ e.tile t = s.dev.tile t) := by
  have hpend (t : Nat) : t ∈ (doHeaders s.dev).seal.hdrPend ↔ _ := doHeaders_hdrPend hq hr he hnd t
  have hregs (o : Nat) : (doHeaders s.dev).rd o = s.dev.rd o := by unfold Dev.rd; rw [doHeaders_regs hq hr he]
  refine .of (doHeaders s.dev) rfl ⟨.seal fun o _ => hregs o, fun t ht => ⟨fun hf => ?_, fun hf => ?_⟩⟩
  · obtain ⟨h₀, h₁, hfull₀, hfull₁⟩ := doHeaders_lands hq hr he hnd ht hf
    refine ⟨fun h => ((hpend t).mp h).2 ⟨ht, hf⟩, fun j hj => ?_, ?_, ?_, ?_⟩
    · rw [Dev.seal_spRd, h₀, Dev.header0_lane _ hbuf hj]
    · rw [Dev.seal_spRd, h₁, Dev.header1_toNat _ hbuf hid hvar]
    · rw [Dev.seal_tile, hfull₀]
    · rw [Dev.seal_tile, hfull₁]
  · exact ⟨(hpend t).mpr ⟨ht, fun h => hf h.2⟩, (Dev.seal_tile ..).trans (doHeaders_waits hq hr he hf)⟩

end

/-- Settles O56, by the lemma of each command at and off its point of a frame. -/
theorem framesRunInOrder : Obligations.FramesRunInOrder := by
  unfold Obligations.FramesRunInOrder
  intro s p
  refine ⟨fun ns r0 r1 => ⟨?_, ?_, ?_, ?_, ?_⟩, frameEntryEnd_acts, fun rec => ⟨?_, ?_, ?_⟩, fun ctrl cq => idleRead_fetches ctrl cq,
    recordBacklogWrite_idle, fun r => recordBacklogWrite_writes, ?_, inputDeadline_checks, memTick_running, memTick_ticks, ?_, ?_⟩
  case refine_1 => exact fun hr he => .frameStart (doFrameStart_running _ _ hr he) (.refl _ _)
  case refine_2 => exact fun hr he hg hs => .frameStart (doFrameStart_left _ _ hr he hg) (Dev.stopFrames_stops hs)
  case refine_3 =>
    exact fun hr he hg hs h => .frameStart (doFrameStart_next _ _ hr he hg) ⟨Dev.startFrame_starts h hs,
      fun hsw => Dev.startFrame_unswitched h hs hsw, fun _ hsw => Dev.startFrame_switched h hs hsw,
      fun hep hi _ hc _ hx hf => Dev.startFrame_tiles _ _ _ _ h hs hep hi hc hx hf⟩
  case refine_4 =>
    exact fun hr hj hg hl hn hs _ h => .frameStart (doFrameStart_first _ _ hr hj hg hl hn) (Dev.startFrame_starts h hs)
  case refine_5 => exact fun hr hj => .frameStart (doFrameStart_alone _ _ hr hj) (.refl _ _)
  case refine_6 => exact fun hr => .unchanged (congrArg s.ok (doIdleRead_running _ _ hr))
  case refine_7 => exact fun hr hf hw => .unchanged (congrArg s.ok (doIdleRead_fenced _ hr hf hw))
  case refine_8 => exact fun hr hf => .of (doIdleRead p.val rec s.dev) rfl fun o ho => doIdleRead_effRd rec hr hf ho
  case refine_9 => exact fun h => .unchanged (congrArg s.ok (doInputDeadline_off h))
  case refine_10 => exact fun h => .unchanged (congrArg s.ok (doHeaders_off h))
  case refine_11 =>
    intro q hq hr he hbuf hid hvar hnd _
    refine (planHeaderDelivery_delivers hq hr he hbuf hid hvar hnd).mono fun e ⟨hregs, htiles⟩ => ⟨hregs, fun t ht => ?_⟩
    obtain ⟨hready, hwaits⟩ := htiles t ht
    have hfree := s.dev.headerFree_iff t s.dev.planWin
    exact ⟨fun h => hready (hfree.mpr h), fun h => hwaits fun hf => h (hfree.mp hf)⟩

end Sys2Proof.Machine
end


section
/-! PROOFS. The CUBE slot's operations at issue (R86, R87, R89, R95 to R97, R100, R104, R154, R201 to R204). -/

namespace Sys2Proof.Machine

/-! ## The operation of a CUBE slot that a command names (R201, R202) -/

/-- A field of one bit as a truth value. -/
theorem bit_of_field {v i : Nat} {k : BitVec 1} (h : v / 2 ^ i % 2 = k.toNat) : bit v i = decide (k = 1) := by
  rw [bit_eq, h]
  exact decide_eq_decide.mpr (BitVec.toNat_inj (y := 1))

section
variable (w : Word256)

theorem decCube_nop : decCube (slotCube (putCube w 0)) = some .nop := by
  rw [slotCube_putCube _ _ (by decide)]
  rfl

theorem decCube_mac (mul : Bool) (n ga gb : BitVec 3) :
    decCube (slotCube (putCube w ((if mul then 2 else 1) * 2 ^ 59 + n.toNat * 2 ^ 56 + ga.toNat * 2 ^ 53 + gb.toNat * 2 ^ 50)))
      = some (.mac mul n.toNat ga.toNat gb.toNat) := by
  have hn := n.isLt
  have ha := ga.isLt
  have hb := gb.isLt
  have hc : (if mul then 2 else 1) ≤ 2 := by split <;> omega
  generalize hv : (if mul then 2 else 1) * 2 ^ 59 + n.toNat * 2 ^ 56 + ga.toNat * 2 ^ 53 + gb.toNat * 2 ^ 50 = v
  have hop : bits v 63 59 = if mul then 2 else 1 := by rw [bits_eq]; omega
  have hn' : bits v 58 56 = n.toNat := by rw [bits_eq]; omega
  have ha' : bits v 55 53 = ga.toNat := by rw [bits_eq]; omega
  have hb' : bits v 52 50 = gb.toNat := by rw [bits_eq]; omega
  have hz : bits v 49 0 = 0 := by rw [bits_eq]; omega
  rw [slotCube_putCube _ _ (by omega)]
  cases mul <;> simp only [decCube, hop, hn', ha', hb', hz] <;> rfl

theorem decCube_zero (n : BitVec 3) : decCube (slotCube (putCube w (3 * 2 ^ 59 + n.toNat * 2 ^ 56))) = some (.zero n.toNat) := by
  have hn := n.isLt
  generalize hv : 3 * 2 ^ 59 + n.toNat * 2 ^ 56 = v
  have hop : bits v 63 59 = 3 := by rw [bits_eq]; omega
  have hn' : bits v 58 56 = n.toNat := by rw [bits_eq]; omega
  have hz : bits v 55 0 = 0 := by rw [bits_eq]; omega
  rw [slotCube_putCube _ _ (by omega)]
  simp only [decCube, hop, hn', hz]
  rfl

theorem decCube_fmt (fa fb : BitVec 4) (sa sb : BitVec 3) :
    decCube (slotCube (putCube w (5 * 2 ^ 59 + fa.toNat * 2 ^ 55 + fb.toNat * 2 ^ 51 + sa.toNat * 2 ^ 48 + sb.toNat * 2 ^ 45)))
      = some (.fmt fa.toNat fb.toNat sa.toNat sb.toNat) := by
  have h₁ := fa.isLt
  have h₂ := fb.isLt
  have h₃ := sa.isLt
  have h₄ := sb.isLt
  generalize hv : 5 * 2 ^ 59 + fa.toNat * 2 ^ 55 + fb.toNat * 2 ^ 51 + sa.toNat * 2 ^ 48 + sb.toNat * 2 ^ 45 = v
  have hop : bits v 63 59 = 5 := by rw [bits_eq]; omega
  have hfa : bits v 58 55 = fa.toNat := by rw [bits_eq]; omega
  have hfb : bits v 54 51 = fb.toNat := by rw [bits_eq]; omega
  have hsa : bits v 50 48 = sa.toNat := by rw [bits_eq]; omega
  have hsb : bits v 47 45 = sb.toNat := by rw [bits_eq]; omega
  have hz : bits v 44 0 = 0 := by rw [bits_eq]; omega
  rw [slotCube_putCube _ _ (by omega)]
  simp only [decCube, hop, hfa, hfb, hsa, hsb, hz]
  rfl

theorem decCube_drain (n : BitVec 3) (f : BitVec 4) (gd gs : BitVec 3) (sr : BitVec 1) (vr : BitVec 6) (cve : BitVec 1) (cv : BitVec 3)
    (cvs : BitVec 1) :
    decCube (slotCube (putCube w (4 * 2 ^ 59 + n.toNat * 2 ^ 56 + f.toNat * 2 ^ 52 + gd.toNat * 2 ^ 49 + gs.toNat * 2 ^ 46 + sr.toNat * 2 ^ 45
        + vr.toNat * 2 ^ 39 + cve.toNat * 2 ^ 38 + cv.toNat * 2 ^ 35 + cvs.toNat * 2 ^ 34)))
      = some (.drain ⟨n.toNat, f.toNat, gd.toNat, gs.toNat, decide (sr = 1), vr.toNat, decide (cve = 1), cv.toNat, decide (cvs = 1)⟩) := by
  have h₁ := n.isLt
  have h₂ := f.isLt
  have h₃ := gd.isLt
  have h₄ := gs.isLt
  have h₅ := sr.isLt
  have h₆ := vr.isLt
  have h₇ := cve.isLt
  have h₈ := cv.isLt
  have h₉ := cvs.isLt
  generalize hv : 4 * 2 ^ 59 + n.toNat * 2 ^ 56 + f.toNat * 2 ^ 52 + gd.toNat * 2 ^ 49 + gs.toNat * 2 ^ 46 + sr.toNat * 2 ^ 45
    + vr.toNat * 2 ^ 39 + cve.toNat * 2 ^ 38 + cv.toNat * 2 ^ 35 + cvs.toNat * 2 ^ 34 = v
  have hop : bits v 63 59 = 4 := by rw [bits_eq]; omega
  have hn : bits v 58 56 = n.toNat := by rw [bits_eq]; omega
  have hf : bits v 55 52 = f.toNat := by rw [bits_eq]; omega
  have hgd : bits v 51 49 = gd.toNat := by rw [bits_eq]; omega
  have hgs : bits v 48 46 = gs.toNat := by rw [bits_eq]; omega
  have hsr : bit v 45 = decide (sr = 1) := bit_of_field (by omega)
  have hvr : bits v 44 39 = vr.toNat := by rw [bits_eq]; omega
  have hcve : bit v 38 = decide (cve = 1) := bit_of_field (by omega)
  have hcv : bits v 37 35 = cv.toNat := by rw [bits_eq]; omega
  have hcvs : bit v 34 = decide (cvs = 1) := bit_of_field (by omega)
  have hz : bits v 33 0 = 0 := by rw [bits_eq]; omega
  rw [slotCube_putCube _ _ (by omega)]
  simp only [decCube, hop, hn, hf, hgd, hgs, hsr, hvr, hcve, hcv, hcvs, hz]
  rfl

end

/-- A bundle that is reached has in its CUBE slot the operation that the slot decodes to. -/
theorem Dev.Reaches.cube_eq {d : Dev} {t : Nat} {w : Word256} {o : Obs} {b : Bundle} {op : CubeOp} (h : d.Reaches t w o b)
    (hd : decCube (slotCube w) = some op) : b.cube = op :=
  Option.some.inj ((decBundle_slots h.decodes).2.1.symm.trans hd)

/-! ## What of a context's registers the CUBE slot alone changes at issue (R87, R97) -/

/-- The formats and the accumulator sets are the same. -/
structure Regs.SameCube (r x : Regs) : Prop where
  fa : x.fa = r.fa
  fb : x.fb = r.fb
  saga : x.saga = r.saga
  sagb : x.sagb = r.sagb
  acc : x.acc = r.acc

theorem Regs.SameCube.refl (r : Regs) : r.SameCube r := ⟨rfl, rfl, rfl, rfl, rfl⟩
theorem Regs.SameCube.trans {a b c : Regs} (h : a.SameCube b) (g : b.SameCube c) : a.SameCube c :=
  ⟨g.fa.trans h.fa, g.fb.trans h.fb, g.saga.trans h.saga, g.sagb.trans h.sagb, g.acc.trans h.acc⟩
theorem Regs.SameCube.rAcc {r x : Regs} (h : r.SameCube x) (n : Nat) : x.rAcc n = r.rAcc n := by unfold Regs.rAcc; rw [h.acc]

theorem Regs.sameCube_uses (l : List Nat) (r : Regs) : r.SameCube (l.foldl (fun r g => r.wAg g (agAdvance (r.rAg g))) r) := by
  induction l generalizing r with
  | nil => exact .refl r
  | cons g gs ih =>
    refine .trans ?_ (ih _)
    exact ⟨rfl, rfl, rfl, rfl, rfl⟩

theorem closeLoops_sameCube (n : Nat) (r : Regs) : r.SameCube (closeLoops n r).2 := by
  induction n generalizing r with
  | zero => exact .refl r
  | succ n ih =>
    unfold closeLoops
    split
    · exact .refl r
    · dsimp only
      split
      · exact ⟨rfl, rfl, rfl, rfl, rfl⟩
      · refine .trans ?_ (ih _)
        exact ⟨rfl, rfl, rfl, rfl, rfl⟩

theorem ctrlNext_sameCube (op : CtrlOp) (fin : Nat) (sq : Bool) (r₀ r : Regs) : r.SameCube (ctrlNext op fin sq r₀ r) := by
  unfold ctrlNext
  extract_lets nextPc r₁
  have h₁ : r.SameCube r₁ := by
    unfold r₁
    repeat' split
    all_goals exact ⟨rfl, rfl, rfl, rfl, rfl⟩
  split
  · exact h₁
  · have h₂ := h₁.trans (closeLoops_sameCube fin r₁)
    split
    · next h => rw [h] at h₂; exact h₂.trans ⟨rfl, rfl, rfl, rfl, rfl⟩
    · next h => rw [h] at h₂; exact h₂

/-! ## The tile as its CUBE slot finds it and as the issue leaves it -/

/-- The device as the CUBE slot of an issuing bundle finds it: MOVE has taken what it reads. -/
def Dev.beforeCube (d : Dev) (t : Nat) (o : Obs) (b : Bundle) : Dev := (d.atIssue t o b).issueMove t b.move

section
variable (d : Dev) (t : Nat) (o : Obs) (b : Bundle)

theorem Dev.beforeCube_regs : ((d.beforeCube t o b).tile t).regs = ((d.atBundle t o).tile t).regs := by
  obtain ⟨n, f, z, h⟩ := (d.atIssue t o b).issueMove_kept t b.move
  unfold Dev.beforeCube
  rw [h]
  exact d.atIssue_regs t o b

theorem Dev.beforeCube_rd {off : Nat} (h : off < Reg.tile t 0x328 ∨ Reg.tile t 0x368 ≤ off) :
    (d.beforeCube t o b).rd off = (d.atBundle t o).rd off := by
  unfold Dev.beforeCube
  rw [Dev.issueMove_rd, d.atIssue_rd t o b h]

theorem Dev.beforeCube_issueNo : (d.beforeCube t o b).issueNo t = (d.atBundle t o).issueNo t :=
  congrArg BitVec.toNat (d.beforeCube_rd t o b (by unfold Reg.tile Reg.ISSUE; omega))

theorem Dev.beforeCube_freshSet (n : Nat) : (d.beforeCube t o b).freshSet t n = (d.atBundle t o).freshSet t n := by
  have hbeat : (d.beforeCube t o b).trd t Reg.BEAT = (d.atBundle t o).trd t Reg.BEAT :=
    d.beforeCube_rd t o b (by unfold Reg.tile Reg.BEAT; omega)
  unfold Dev.freshSet Dev.drainOpen
  rw [d.beforeCube_regs, d.beforeCube_issueNo, hbeat]

/-- The formats and sets after the issue are those that the CUBE slot leaves. -/
theorem Dev.issued_sameCube (p : SlotPlan) :
    (((d.beforeCube t o b).issueCube t b.cube).tile t).regs.SameCube ((d.issued t o b p).tile t).regs := by
  rw [(d.issued_tile t o b p).regs]
  refine (Regs.sameCube_uses p.uses _).trans (.trans ?_ (ctrlNext_sameCube ..))
  exact ⟨rfl, rfl, rfl, rfl, rfl⟩

end

/-! ## What each operation makes of the engine's state (R87, R97) -/

section
variable (d : Dev) (t : Nat)

theorem Dev.issueCube_fmt_regs (fa fb sa sb : Nat) :
    ((d.issueCube t (.fmt fa fb sa sb)).tile t).regs = { (d.tile t).regs with fa := fa, fb := fb, saga := sa, sagb := sb } :=
  congrArg Tile.regs (Dev.tile_updRegs_same ..)

theorem Dev.issueCube_zero_tile (n : Nat) : (d.issueCube t (.zero n)).tile t =
    { d.tile t with
      regs := (d.tile t).regs.wAcc n (d.freshSet t n)
      inflight := insInflight ⟨d.issueNo t + 12, (d.tile t).regs.pc, .acc n 0⟩ (d.tile t).inflight } := by
  unfold Dev.issueCube
  dsimp only
  rw [Dev.addInflight_tile, Dev.tile_updRegs_same]
  rfl

/-- A set begun anew holds no elements, and zero (R97). -/
theorem Dev.freshSet_count (n : Nat) : (d.freshSet t n).count = 0 := rfl
theorem Dev.freshSet_vals (n : Nat) : (d.freshSet t n).vals = 0 := rfl

/-- A step counts its elements into its set and leaves the set's values (R86, R97): CMUL counts into the set begun anew. -/
theorem Dev.issueCube_mac_set (m : Bool) (n x y : Nat) :
    let r := (d.tile t).regs
    let s := if m then d.freshSet t n else r.rAcc n
    let z := ((d.issueCube t (.mac m n x y)).tile t).regs.rAcc n
    z.count = s.count + kPerStep r.fa r.fb ∧ z.vals = s.vals := by
  intro r s z
  have hset : ∃ u : AccSet, z = u ∧ u.count = s.count + kPerStep r.fa r.fb ∧ u.vals = s.vals := by
    unfold z Dev.issueCube
    dsimp only
    rw [Dev.tinc_tile, Dev.tile_upd_same, Dev.tile_updRegs_same]
    refine ⟨_, smGet_smSet_same .., ?_⟩
    split <;> exact ⟨rfl, rfl⟩
  obtain ⟨u, hz, hu⟩ := hset
  rw [hz]
  exact hu

end

theorem Regs.rAcc_wAcc (r : Regs) (n k : Nat) (x : AccSet) : (r.wAcc n x).rAcc k = if k = n then x else r.rAcc k := smGet_smSet ..

/-! ## The accesses that an operation starts (R96, R100, R154, R203, R204) -/

/-- What the CUBE slot of an issuing bundle wants is queued at the banks. -/
theorem Dev.Issues.cube_queued {d : Dev} {t : Nat} {w : Word256} {o : Obs} {b : Bundle} {p : SlotPlan} (h : d.Issues t w o b p) :
    ∃ q, (d.atBundle t o).planCube t b.cube o = .ok q ∧ ∀ z ∈ q.accs, z ∈ ((d.issued t o b p).tile t).bankq := by
  obtain ⟨-, q, va, vb, m, hq, -, -, -, rfl⟩ := Dev.planBundle_ok h.planned
  refine ⟨q, hq, fun z hz => ?_⟩
  rw [(d.issued_tile t o b _).bankq]
  exact List.mem_append_right _ (mem_joinPlans_accs List.mem_cons_self hz)

/-- A computation that may fail and gives a result is one whose first part gives one. -/
theorem bind_eq_ok {ε α β : Type} {x : Except ε α} {f : α → Except ε β} {z : β} (h : x >>= f = .ok z) : ∃ y, x = .ok y ∧ f y = .ok z := by
  cases x with
  | error e => cases h
  | ok y => exact ⟨y, rfl, h⟩

/-- A computation that fails on a condition and gives a result has not met it. -/
theorem ok_of_ite {ε α : Type} {c : Prop} [Decidable c] {e : ε} {x : Except ε α} {z : α} (h : (if c then .error e else x) = .ok z) : x = .ok z := by
  split at h
  · cases h
  · exact h

/-- A step reads its two operands in the next beat, each through its generator, at the rate of its formats (R86, R96, R203). -/
theorem Dev.planMac_ok {d : Dev} {t : Nat} {m : Bool} {n ga gb : Nat} {q : SlotPlan} (h : d.planMac t m n ga gb = .ok q) :
    let r := (d.tile t).regs
    ∃ x y z, d.agAccess t ga (aWords r.fa r.fb) false = .ok x ∧ d.agAccess t gb (bWords r.fa r.fb) false = .ok y
      ∧ z ∈ q.accs ∧ z.delay = 1 ∧ z.wr = false
      ∧ (∃ u ∈ z.parts, u.words = x.words ∧ u.win = x.win ∧ u.take = d.agTakes t ga)
      ∧ (∃ u ∈ z.parts, u.words = y.words ∧ u.win = y.win ∧ u.take = d.agTakes t gb)
      ∧ ∃ opens closes, z.kind = .cube n r.fa r.fb (kPerStep r.fa r.fb) opens closes (d.issueNo t + 12) := by
  unfold Dev.planMac at h
  extract_lets x r s count mx k opens part at h
  obtain ⟨a, ha, h⟩ := bind_eq_ok (ok_of_ite h)
  obtain ⟨c, hc, h⟩ := bind_eq_ok h
  extract_lets finish at h
  have hq : ∃ sc, finish sc = .ok q := by
    split at h
    · obtain ⟨sa, -, h⟩ := bind_eq_ok h
      obtain ⟨sb, -, h⟩ := bind_eq_ok h
      exact ⟨_, h⟩
    · exact ⟨_, h⟩
  obtain ⟨sc, hq⟩ := hq
  cases hq
  exact ⟨a, c, _, ha, hc, List.mem_singleton_self _, rfl, rfl, ⟨part 3 ga a, by simp, rfl, rfl, rfl⟩, ⟨part 2 gb c, by simp, rfl, rfl, rfl⟩,
    _, _, rfl⟩

/-- A drain without stochastic rounding whose rows the engine gives exactly writes them in 8 beats, two rows in each (R100, R104, R154, R204). -/
theorem Dev.planDrain_ok {d : Dev} {t : Nat} {f : DrainF} {o : Obs} {q : SlotPlan} (h : d.planDrain t f o = .ok q) (hsr : f.sr = false)
    (ho : o.cube = []) :
    let vals := smGet zeroAcc (d.tile t).regs.accOut f.acc
    ∃ x, d.agAccess t f.agd (16 * rowWords f.fmt) true = .ok x ∧ ∀ k < 8, ∃ z ∈ q.accs, z.delay = k + 1 ∧ z.wr = true
      ∧ (∃ u ∈ z.parts, u.words = (List.range (2 * rowWords f.fmt)).map (fun i => x.first + 2 * rowWords f.fmt * k + i)
        ∧ u.data = (rowToWords f.fmt (drainRow vals f.fmt (2 * k) none).1 ++ rowToWords f.fmt (drainRow vals f.fmt (2 * k + 1) none).1).map
            fun v => (v, 0xFF))
      ∧ ∃ inp want sc, z.kind = .drain k f.fmt inp want sc (if f.cve then some f.cv else none) := by
  unfold Dev.planDrain at h
  rw [hsr, ho] at h
  extract_lets x r s cad rw' vals sd vr rnd row l want out at h
  obtain ⟨a, ha, h⟩ := bind_eq_ok (ok_of_ite (ok_of_ite (ok_of_ite (ok_of_ite h))))
  extract_lets words data finish at h
  have hq : ∃ sc, finish sc = .ok q := by
    split at h <;> obtain ⟨sc, -, h⟩ := bind_eq_ok h <;> exact ⟨sc, h⟩
  obtain ⟨sc, hq⟩ := hq
  cases hq
  refine ⟨a, ha, fun k hk => ?_⟩
  refine ⟨_, List.mem_map.mpr ⟨k, List.mem_range.mpr hk, rfl⟩, rfl, rfl, ⟨_, List.mem_cons_self, rfl, rfl⟩, _, _, _, rfl⟩

/-! ## The operations as commands -/

section
variable (d : Dev) (t : Nat) (o : Obs) {b : Bundle} (p : SlotPlan)

theorem Dev.issued_cnop (h : b.cube = .nop) : ((d.atBundle t o).tile t).regs.SameCube ((d.issued t o b p).tile t).regs := by
  have hs := d.issued_sameCube t o b p
  rw [h] at hs
  rw [← d.beforeCube_regs t o b]
  exact hs

theorem Dev.issued_cfmt {fa fb sa sb : Nat} (h : b.cube = .fmt fa fb sa sb) :
    let x := ((d.issued t o b p).tile t).regs
    x.fa = fa ∧ x.fb = fb ∧ x.saga = sa ∧ x.sagb = sb ∧ ∀ n, x.rAcc n = ((d.atBundle t o).tile t).regs.rAcc n := by
  have hs := d.issued_sameCube t o b p
  rw [h, Dev.issueCube_fmt_regs, d.beforeCube_regs] at hs
  generalize ((d.atBundle t o).tile t).regs = r at hs ⊢
  exact ⟨hs.fa, hs.fb, hs.saga, hs.sagb, hs.rAcc⟩

theorem Dev.issued_czero {n : Nat} (h : b.cube = .zero n) :
    (((d.atBundle t o).tile t).regs.wAcc n ((d.atBundle t o).freshSet t n)).SameCube ((d.issued t o b p).tile t).regs
      ∧ (d.atBundle t o).Delivers (d.issued t o b p) t 12 (.acc n 0) := by
  have hs := d.issued_sameCube t o b p
  rw [h, Dev.issueCube_zero_tile, d.beforeCube_regs, d.beforeCube_freshSet] at hs
  refine ⟨hs, (d.issued_tile t o b p).cubeInfl _ ?_⟩
  have hq : ((d.atIssue t o b).atCube t b).tile t = ((d.beforeCube t o b).issueCube t (.zero n)).tile t := by rw [← h]; rfl
  rw [hq, Dev.issueCube_zero_tile, d.beforeCube_regs, d.beforeCube_issueNo]
  exact (mem_insInflight ..).mpr (.inl rfl)

theorem Dev.issued_mac {m : Bool} {n x y : Nat} (h : b.cube = .mac m n x y) :
    let r := ((d.atBundle t o).tile t).regs
    let s := if m then (d.atBundle t o).freshSet t n else r.rAcc n
    let z := ((d.issued t o b p).tile t).regs.rAcc n
    z.count = s.count + kPerStep r.fa r.fb ∧ z.vals = s.vals := by
  have hs := (d.beforeCube t o b).issueCube_mac_set t m n x y
  rw [d.beforeCube_regs, d.beforeCube_freshSet, ← h, ← (d.issued_sameCube t o b p).rAcc] at hs
  exact hs

end

theorem Dev.planCube_mac {d : Dev} {t : Nat} {o : Obs} {m : Bool} {n ga gb : Nat} {q : SlotPlan} (h : d.planCube t (.mac m n ga gb) o = .ok q) :
    d.planMac t m n ga gb = .ok q := by
  unfold Dev.planCube at h
  exact ok_of_ite h

theorem Dev.planCube_drain {d : Dev} {t : Nat} {o : Obs} {f : DrainF} {q : SlotPlan} (h : d.planCube t (.drain f) o = .ok q) :
    d.planDrain t f o = .ok q := by
  unfold Dev.planCube at h
  exact ok_of_ite h

/-- The word of the bundle that a command issues. -/
theorem bundleOf_word {i : Instr} {t : TileId} {v w : Word256} {o : Obs} (hv : bundleOf i = some (t, v, o)) (hw : bundleOf i = some (t, w, o)) :
    v = w :=
  (Prod.mk.inj (Prod.mk.inj (Option.some.inj (hv.symm.trans hw))).2).1

/-- Settles O12: what each operation's slot decodes to, what that operation makes of the engine's state, and what it queues at the banks. -/
theorem cubeOperationsStart : Obligations.CubeOperationsStart := by
  intro t rest o s w b p
  dsimp only
  refine ⟨?_, ?_, ?_, ?_, ?_, ?_⟩
  · rintro ⟨hb, hi⟩
    obtain rfl := bundleOf_word rfl hb
    refine .issues hb hi ?_
    simp only [Dev.seal_tile]
    have h := s.dev.issued_cnop t o p (hi.cube_eq (decCube_nop rest))
    exact ⟨h.fa, h.fb, h.saga, h.sagb, h.rAcc⟩
  · rintro fa fb sa sb ⟨hb, hi⟩
    obtain rfl := bundleOf_word rfl hb
    refine .issues hb hi ?_
    simp only [Dev.seal_tile]
    exact s.dev.issued_cfmt t o p (hi.cube_eq (decCube_fmt rest fa fb sa sb))
  · rintro n ⟨hb, hi⟩
    obtain rfl := bundleOf_word rfl hb
    refine .issues hb hi ?_
    obtain ⟨h, hdel⟩ := s.dev.issued_czero t o p (hi.cube_eq (decCube_zero rest n))
    unfold Dev.Delivers at *
    rw [Dev.seal_tile, h.rAcc, Regs.rAcc_wAcc, if_pos rfl]
    refine ⟨rfl, hdel, fun k hk => ?_⟩
    rw [h.rAcc, Regs.rAcc_wAcc, if_neg hk]
  · rintro n ga gb ⟨hb, hi⟩
    obtain rfl := bundleOf_word rfl hb
    refine .issues hb hi ?_
    have hc := hi.cube_eq (decCube_mac rest false n ga gb)
    obtain ⟨hcount, hvals⟩ := s.dev.issued_mac t o p hc
    obtain ⟨q, hq, hmem⟩ := hi.cube_queued
    rw [hc] at hq
    obtain ⟨x, y, z, hx, hy, hz, hread⟩ := Dev.planMac_ok (Dev.planCube_mac hq)
    simp only [Dev.seal_tile]
    rw [if_neg Bool.false_ne_true] at hcount hvals
    exact ⟨hcount, hvals, x, y, z, hx, hy, hmem z hz, hread⟩
  · rintro n ga gb ⟨hb, hi⟩
    obtain rfl := bundleOf_word rfl hb
    refine .issues hb hi ?_
    have hc := hi.cube_eq (decCube_mac rest true n ga gb)
    obtain ⟨hcount, hvals⟩ := s.dev.issued_mac t o p hc
    obtain ⟨q, hq, hmem⟩ := hi.cube_queued
    rw [hc] at hq
    obtain ⟨-, -, z, -, -, hz, -, -, -, -, hkind⟩ := Dev.planMac_ok (Dev.planCube_mac hq)
    simp only [Dev.seal_tile]
    rw [if_pos rfl, Dev.freshSet_count, Nat.zero_add] at hcount
    rw [if_pos rfl, Dev.freshSet_vals] at hvals
    exact ⟨hcount, hvals, z, hmem z hz, hkind⟩
  · rintro n f gd gs vr cve cv cvs ⟨hb, hi⟩ ho
    obtain rfl := bundleOf_word rfl hb
    refine .issues hb hi ?_
    obtain ⟨q, hq, hmem⟩ := hi.cube_queued
    rw [hi.cube_eq (decCube_drain rest n f gd gs 0 vr cve cv cvs)] at hq
    obtain ⟨x, hx, hrows⟩ := Dev.planDrain_ok (Dev.planCube_drain hq) rfl ho
    simp only [Dev.seal_tile]
    refine ⟨x, hx, fun k hk => ?_⟩
    obtain ⟨z, hz, hdelay, hwr, hdata, hkind⟩ := hrows k hk
    simp only [decide_eq_true_eq] at hkind
    exact ⟨z, hmem z hz, hdelay, hwr, hdata, hkind⟩

end Sys2Proof.Machine
end


section
/-! PROOFS. Captures: what a copy leaves in the ring, and the releases (R112, R146, R184, R350, R351). -/

namespace Sys2Proof.Machine

/-! ## Words as bytes in memory (R14) -/

/-- 64-bit words as they lie in memory. -/
def wordBytes (l : List W64) : List Byte := l.flatMap fun w => toBytes 8 w.toNat

theorem wordBytes_append (l m : List W64) : wordBytes (l ++ m) = wordBytes l ++ wordBytes m := List.flatMap_append
theorem length_wordBytes (l : List W64) : (wordBytes l).length = 8 * l.length := by
  induction l with
  | nil => rfl
  | cons w ws ih =>
    rw [wordBytes, List.flatMap_cons, List.length_append, length_toBytes, ← wordBytes, ih, List.length_cons]
    omega

/-- A part of what is written reads back as written. -/
theorem Dev.rdBytes_wrBytes_part (d : Dev) (a : Nat) (pre l post : List Byte) :
    (d.wrBytes a (pre ++ l ++ post)).rdBytes (a + pre.length) l.length = l := by
  rw [Dev.wrBytes_append, Dev.wrBytes_append, Dev.rdBytes_congr_on fun x _ hx => Dev.rdByte_wrBytes_out _ _ _ _ (.inl ?_)]
  · exact Dev.rdBytes_wrBytes ..
  · rw [List.length_append]
    omega

/-- Each word of a run of words that is written reads back. -/
theorem Dev.rdNum_wrBytes_word (d : Dev) (a : Nat) (pre : List Byte) (ws : List W64) (post : List Byte) {i : Nat} (h : i < ws.length) :
    (d.wrBytes a (pre ++ wordBytes ws ++ post)).rdNum (a + pre.length + 8 * i) 8 = ws[i].toNat := by
  have hws : wordBytes ws = wordBytes (ws.take i) ++ toBytes 8 ws[i].toNat ++ wordBytes (ws.drop (i + 1)) := by
    conv_lhs => rw [← List.take_append_drop i ws, List.drop_eq_getElem_cons h, wordBytes_append]
    rw [List.append_assoc]
    rfl
  have hat : a + pre.length + 8 * i = a + (pre ++ wordBytes (ws.take i)).length := by
    rw [List.length_append, length_wordBytes, List.length_take, Nat.min_eq_left (Nat.le_of_lt h)]
    omega
  have hread := d.rdBytes_wrBytes_part a (pre ++ wordBytes (ws.take i)) (toBytes 8 ws[i].toNat) (wordBytes (ws.drop (i + 1)) ++ post)
  rw [length_toBytes] at hread
  rw [hws, hat, Dev.rdNum]
  simp only [List.append_assoc] at hread ⊢
  rw [hread, ofBytes_toBytes]
  exact Nat.mod_eq_of_lt ws[i].isLt

/-! ## An entry of the ring (R351) -/

/-- The status register of a tile's capture buffer or of its lane captures. -/
def capReg (laneCap : Bool) : Nat := if laneCap then Reg.LCAP_STATUS else Reg.CAP_STATUS

/-- The first word of an entry: its number, what it is a capture of, and whether of a test. -/
def Dev.captureId (d : Dev) (t : Nat) (laneCap : Bool) : Nat :=
  d.rn Reg.CAP_WR % 2 ^ 48 + (if laneCap then 2 else 1) * 2 ^ 48 + b2n (if laneCap then (d.tile t).lcapTest else (d.tile t).capTest) * 2 ^ 63

theorem Dev.captureId_lt (d : Dev) (t : Nat) (laneCap : Bool) : d.captureId t laneCap < 2 ^ 64 := by
  have hb (x : Bool) : b2n x ≤ 1 := by cases x <;> decide
  have hflag := hb (if laneCap then (d.tile t).lcapTest else (d.tile t).capTest)
  have hkind : (if laneCap then 2 else 1) ≤ 2 := by split <;> omega
  unfold Dev.captureId
  omega

/-- The head of an entry: what it is, of which tile and device, the mismatches it missed, and when. -/
def Dev.captureHead (d : Dev) (t : Nat) (laneCap : Bool) : List W64 :=
  [w64 (d.captureId t laneCap), w64 (t + (if d.rb Reg.DEVID 63 then d.rf Reg.DEVID 16 0 * 2 ^ 32 + 2 ^ 49 else 0)),
    w64 (d.trf t (capReg laneCap) 47 32), d.rd Reg.ITG_CLOCK, d.rd Reg.DEV_ID]

theorem w64_toNat {n : Nat} (h : n < 2 ^ 64) : (w64 n).toNat = n := by rw [w64, BitVec.toNat_ofNat, Nat.mod_eq_of_lt h]
theorem Dev.length_captureHead (d : Dev) (t : Nat) (laneCap : Bool) : (d.captureHead t laneCap).length = 5 := rfl
theorem Dev.captureHead_id (d : Dev) (t : Nat) (laneCap : Bool) (h : 0 < (d.captureHead t laneCap).length) :
    (d.captureHead t laneCap)[0].toNat = d.captureId t laneCap := w64_toNat (d.captureId_lt t laneCap)
theorem Dev.captureHead_missed (d : Dev) (t : Nat) (laneCap : Bool) (h : 2 < (d.captureHead t laneCap).length) :
    (d.captureHead t laneCap)[2].toNat = d.trf t (capReg laneCap) 47 32 :=
  w64_toNat (Nat.lt_trans (fld_lt (d.trd t (capReg laneCap)) 47 32) (by decide))

/-- The words of the lane capture and of the capture of an entry; those of the other kind are zero. -/
def Dev.laneWords (d : Dev) (t : Nat) (laneCap : Bool) : List W64 :=
  if laneCap then (List.range 6).map fun i => d.trd t (0x338 + 8 * i) else List.replicate 6 0
def Dev.cubeWords (d : Dev) (t : Nat) (laneCap : Bool) : List W64 :=
  if laneCap then List.replicate 256 0 else (List.range 256).map fun i => d.trd t (0x800 + 8 * i)

/-- The 4,096 bytes of an entry. -/
def Dev.captureEntry (d : Dev) (t : Nat) (laneCap : Bool) : List Byte :=
  wordBytes (d.captureHead t laneCap) ++ List.replicate 0x310 0 ++ wordBytes (d.laneWords t laneCap) ++ List.replicate 0x498 0
    ++ wordBytes (d.cubeWords t laneCap)

/-- Where the next entry goes in a ring of n entries. -/
def Dev.captureAt (d : Dev) (n : Nat) : Nat := d.rf Reg.CAPRING 47 12 * 4096 + 4096 * (d.rn Reg.CAP_WR % n)

section
variable (d : Dev) (t : Nat) (laneCap : Bool)

theorem Dev.length_laneWords : (d.laneWords t laneCap).length = 6 := by
  unfold Dev.laneWords
  split
  · rw [List.length_map, List.length_range]
  · exact List.length_replicate
theorem Dev.length_cubeWords : (d.cubeWords t laneCap).length = 256 := by
  unfold Dev.cubeWords
  split
  · exact List.length_replicate
  · rw [List.length_map, List.length_range]
theorem Dev.length_captureHead_bytes : (wordBytes (d.captureHead t laneCap)).length = 0x28 := length_wordBytes _
theorem Dev.length_captureEntry : (d.captureEntry t laneCap).length = 4096 := by
  simp only [Dev.captureEntry, List.length_append, List.length_replicate, d.length_captureHead_bytes, length_wordBytes, d.length_laneWords,
    d.length_cubeWords]

/-! ### Its words as they read in memory -/

variable (e : Dev) (a : Nat)

theorem Dev.entry_head {i : Nat} (h : i < (d.captureHead t laneCap).length) :
    (e.wrBytes a (d.captureEntry t laneCap)).rdNum (a + 8 * i) 8 = ((d.captureHead t laneCap)[i]).toNat := by
  have hread := e.rdNum_wrBytes_word a [] _ (List.replicate 0x310 0 ++ (wordBytes (d.laneWords t laneCap) ++ (List.replicate 0x498 0
    ++ wordBytes (d.cubeWords t laneCap)))) h
  rw [List.nil_append, List.length_nil, Nat.add_zero] at hread
  rw [Dev.captureEntry, List.append_assoc, List.append_assoc, List.append_assoc]
  exact hread

theorem Dev.entry_lane {i : Nat} (h : i < 6) :
    (e.wrBytes a (d.captureEntry t laneCap)).rdNum (a + 0x338 + 8 * i) 8 = ((d.laneWords t laneCap)[i]'(by rwa [d.length_laneWords])).toNat := by
  have hread := e.rdNum_wrBytes_word a (wordBytes (d.captureHead t laneCap) ++ List.replicate 0x310 0) (d.laneWords t laneCap)
    (List.replicate 0x498 0 ++ wordBytes (d.cubeWords t laneCap)) (i := i) (by rwa [d.length_laneWords])
  rw [List.length_append, d.length_captureHead_bytes, List.length_replicate] at hread
  simpa only [Dev.captureEntry, List.append_assoc] using hread

theorem Dev.entry_cube {i : Nat} (h : i < 256) :
    (e.wrBytes a (d.captureEntry t laneCap)).rdNum (a + 0x800 + 8 * i) 8 = ((d.cubeWords t laneCap)[i]'(by rwa [d.length_cubeWords])).toNat := by
  have hread := e.rdNum_wrBytes_word a (wordBytes (d.captureHead t laneCap) ++ List.replicate 0x310 0 ++ wordBytes (d.laneWords t laneCap)
    ++ List.replicate 0x498 0) (d.cubeWords t laneCap) [] (i := i) (by rwa [d.length_cubeWords])
  simp only [List.length_append, d.length_captureHead_bytes, List.length_replicate, length_wordBytes, d.length_laneWords, List.append_nil] at hread
  exact hread

end

/-! ## The copy (R350) -/

/-- The device once an entry is in the ring and its buffer released. -/
def Dev.captured (d : Dev) (t : Nat) (laneCap : Bool) (n : Nat) : Dev :=
  (((d.store (d.captureAt n) (d.captureEntry t laneCap)).inc Reg.CAP_WR).itgStatus 0).twr t (capReg laneCap) 0

theorem Dev.copyCapture_eq {d : Dev} {t : Nat} {laneCap : Bool} {n : Nat} (hn : d.capSize = some n) (hctl : d.rb Reg.ITG_CTL 63 = true)
    (hheld : d.rb (Reg.tile t (capReg laneCap)) 63 = true) (hroom : d.rn Reg.CAP_WR - d.rn Reg.CAP_RD < n) :
    d.copyCapture t laneCap = d.captured t laneCap n := by
  unfold capReg at hheld
  unfold Dev.copyCapture
  simp only [hn, hctl, hheld, ge_iff_le, Nat.not_le.mpr hroom, Bool.not_true, Bool.or_self, Bool.false_eq_true, if_false]
  rfl

theorem Dev.store_rd (d : Dev) (a o : Nat) (l : List Byte) : (d.store a l).rd o = d.rd o := by
  unfold Dev.rd Dev.store
  rw [(Dev.writeMem_frame ..).1]
theorem Dev.store_rdByte (d : Dev) (a b : Nat) (l : List Byte) : (d.store a l).rdByte b = (d.wrBytes a l).rdByte b := by
  unfold Dev.rdByte Dev.store
  rw [Dev.writeMem_mem _ _ _ _ (Nat.lt_succ_self _)]

/-- The bit of a status register that is set reads 1. -/
theorem Dev.setStatus_bit (d : Dev) {off i : Nat} (ev : Nat) (h : i < 64) (ho : off ≠ Reg.EVENT) : (d.setStatus off i ev).rb off i = true := by
  have hbit : (d.wf off i i 1).rb off i = true := by
    rw [Dev.rb_wf _ _ _ _ _ _ (Nat.le_refl i) h, if_pos ⟨Nat.le_refl i, Nat.le_refl i⟩, Nat.sub_self]
    rfl
  unfold Dev.setStatus
  dsimp only
  split
  · rw [Dev.rb_congr (Dev.raiseEvent_rd _ _ ho), hbit]
  · exact hbit

section
variable (d : Dev) (t : TileId) (laneCap : Bool) (n : Nat)

theorem capReg_ne_low {o : Nat} (h : o < 0x1000000) : o ≠ Reg.tile t (capReg laneCap) := fun e => Reg.tile_ne_low _ _ h e.symm

theorem Dev.captured_seal_rdByte (b : Nat) :
    (d.captured t laneCap n).seal.rdByte b = (d.wrBytes (d.captureAt n) (d.captureEntry t laneCap)).rdByte b := by
  rw [Dev.seal_rdByte, ← Dev.store_rdByte]
  exact Dev.setStatus_rdByte ..
theorem Dev.captured_seal_rdNum (b k : Nat) :
    (d.captured t laneCap n).seal.rdNum b k = (d.wrBytes (d.captureAt n) (d.captureEntry t laneCap)).rdNum b k := by
  unfold Dev.rdNum
  rw [Dev.rdBytes_congr (d.captured_seal_rdByte t laneCap n)]

theorem Dev.captured_written : (d.captured t laneCap n).seal.rd Reg.CAP_WR = d.rd Reg.CAP_WR + 1 := by
  rw [Dev.seal_rd_all _ _ (by decide), Dev.captured, Dev.twr, Dev.rd_wr_ne _ _ (capReg_ne_low t laneCap (by decide)), Dev.itgStatus,
    Dev.setStatus_rd _ _ _ _ (by decide) (by decide), Dev.inc, Dev.rd_add_same, Dev.store_rd]
  rfl
theorem Dev.captured_released : (d.captured t laneCap n).seal.trd t (capReg laneCap) = 0 := by
  rw [Dev.trd, Dev.seal_rd, Dev.captured, Dev.twr, Dev.rd_wr_same]
  exact BitVec.zero_and
theorem Dev.captured_told : (d.captured t laneCap n).seal.rb Reg.ITG_STATUS 0 = true := by
  rw [Dev.seal_rb _ _ _ (by decide), Dev.captured, Dev.twr, Dev.rb_congr (Dev.rd_wr_ne _ _ (capReg_ne_low t laneCap (by decide)))]
  exact Dev.setStatus_bit _ _ (by decide) (by decide)

end

/-! ## The clock of milliseconds that the copy comes with -/

section
variable (d : Dev) (ms : Nat)

theorem Dev.atMs_rd {o : Nat} (h : o ≠ Reg.ITG_CLOCK) (h' : o ≠ Reg.STEWARD) : (d.atMs ms).rd o = d.rd o := by
  unfold Dev.atMs
  dsimp only
  split
  · rw [Dev.rd_wf_ne _ _ _ _ h', Dev.rd_wr_ne _ _ h]
  · rfl
theorem Dev.atMs_trd (t o : Nat) : (d.atMs ms).trd t o = d.trd t o :=
  d.atMs_rd ms (Reg.tile_ne_low t o (by decide)) (Reg.tile_ne_low t o (by decide))
theorem Dev.atMs_tile (t : Nat) : (d.atMs ms).tile t = d.tile t := by
  unfold Dev.atMs
  dsimp only
  split <;> rfl
theorem Dev.atMs_rdByte (b : Nat) : (d.atMs ms).rdByte b = d.rdByte b := by
  unfold Dev.atMs
  dsimp only
  split <;> rfl

theorem Dev.atMs_rn_capWr : (d.atMs ms).rn Reg.CAP_WR = d.rn Reg.CAP_WR := congrArg BitVec.toNat (d.atMs_rd ms (by decide) (by decide))
theorem Dev.atMs_captureAt (n : Nat) : (d.atMs ms).captureAt n = d.captureAt n := by
  unfold Dev.captureAt
  rw [d.atMs_rn_capWr, Dev.rf_congr (d.atMs_rd ms (by decide) (by decide))]
theorem Dev.atMs_captureId (t : Nat) (laneCap : Bool) : (d.atMs ms).captureId t laneCap = d.captureId t laneCap := by
  unfold Dev.captureId
  rw [d.atMs_rn_capWr, d.atMs_tile]
theorem Dev.atMs_copyCapture {t : Nat} {laneCap : Bool} {n : Nat} (hn : d.capSize = some n) (hctl : d.rb Reg.ITG_CTL 63 = true)
    (hheld : d.rb (Reg.tile t (capReg laneCap)) 63 = true) (hroom : d.rn Reg.CAP_WR - d.rn Reg.CAP_RD < n) :
    (d.atMs ms).copyCapture t laneCap = (d.atMs ms).captured t laneCap n := by
  refine Dev.copyCapture_eq ?_ ?_ ?_ ?_
  · unfold Dev.capSize
    rw [Dev.rf_congr (d.atMs_rd ms (by decide) (by decide))]
    exact hn
  · rwa [Dev.rb_congr (d.atMs_rd ms (by decide) (by decide))]
  · rwa [Dev.rb_congr (d.atMs_trd ms ..)]
  · rwa [d.atMs_rn_capWr, show (d.atMs ms).rn Reg.CAP_RD = d.rn Reg.CAP_RD from congrArg BitVec.toNat (d.atMs_rd ms (by decide) (by decide))]

end

/-- A held capture is copied: the number written rises, the buffer is released, and the ring's next entry holds the capture. -/
theorem captureCopy_copies (t : TileId) (ms : BitVec 64) {s : State} {laneCap : Bool} {n : Nat} (hn : s.dev.capSize = some n)
    (hctl : s.dev.rb Reg.ITG_CTL 63 = true) (hheld : s.dev.rb (Reg.tile t (capReg laneCap)) 63 = true)
    (hroom : s.dev.rn Reg.CAP_WR - s.dev.rn Reg.CAP_RD < n) :
    let d := s.dev
    let a := d.captureAt n
    Completes (.captureCopy t laneCap ms) s fun e =>
      e.rd Reg.CAP_WR = d.rd Reg.CAP_WR + 1 ∧ e.trd t (capReg laneCap) = 0 ∧ e.rb Reg.ITG_STATUS 0 = true
      ∧ e.rdNum a 8 = d.captureId t laneCap ∧ e.rdNum (a + 0x10) 8 = d.trf t (capReg laneCap) 47 32
      ∧ (laneCap = false → ∀ i < 256, e.rdNum (a + 0x800 + 8 * i) 8 = (d.trd t (0x800 + 8 * i)).toNat)
      ∧ (laneCap = true → ∀ i < 6, e.rdNum (a + 0x338 + 8 * i) 8 = (d.trd t (0x338 + 8 * i)).toNat)
      ∧ ∀ b, b < a ∨ a + 4096 ≤ b → e.rdByte b = d.rdByte b := by
  intro d a
  let x := d.atMs ms.toNat
  have ha : x.captureAt n = a := d.atMs_captureAt _ n
  have hlen := x.length_captureHead t laneCap
  have hnum (b k : Nat) : (x.captured t laneCap n).seal.rdNum b k = (x.wrBytes a (x.captureEntry t laneCap)).rdNum b k :=
    ha ▸ x.captured_seal_rdNum t laneCap n b k
  refine .of (x.captured t laneCap n) (congrArg s.ok (d.atMs_copyCapture _ hn hctl hheld hroom)) ⟨?_, ?_, ?_, ?_, ?_, ?_, ?_, ?_⟩
  · rw [Dev.captured_written, d.atMs_rd _ (by decide) (by decide)]
  · exact x.captured_released t laneCap n
  · exact x.captured_told t laneCap n
  · have hword := x.entry_head t laneCap x a (i := 0) (by omega)
    rw [Nat.mul_zero, Nat.add_zero] at hword
    rw [hnum, hword, x.captureHead_id, d.atMs_captureId]
  · rw [hnum, show a + 0x10 = a + 8 * 2 from rfl, x.entry_head t laneCap x a (by omega), x.captureHead_missed, Dev.trf,
      Dev.rf_congr (d.atMs_trd ..)]
    rfl
  · rintro rfl i hi
    rw [hnum, x.entry_cube t false x a hi]
    simp only [Dev.cubeWords, Bool.false_eq_true, if_false, List.getElem_map, List.getElem_range]
    rw [d.atMs_trd]
  · rintro rfl i hi
    rw [hnum, x.entry_lane t true x a hi]
    simp only [Dev.laneWords, if_true, List.getElem_map, List.getElem_range]
    rw [d.atMs_trd]
  · intro b hb
    rw [x.captured_seal_rdByte t laneCap n, ha, Dev.rdByte_wrBytes_out _ _ _ _ (by rwa [x.length_captureEntry]), d.atMs_rdByte]

/-! ## The read index (R350) -/

theorem capRdWrite_steward {p : Port} {v : BitVec 64} {s : State} (hp : s.dev.isSteward p = true) (hv : v.toNat ≤ s.dev.rn Reg.CAP_WR) :
    Completes (.capRdWrite p v) s fun e => e.rd Reg.CAP_RD = v ∧ OnlyRegs [Reg.CAP_RD] s.dev e := by
  refine .of (s.dev.wr Reg.CAP_RD v) (congrArg s.ok ?_) ⟨?_, .wr _ _ (List.mem_singleton_self _)⟩
  · exact if_pos (by simp [hp, hv])
  · rw [Dev.seal_rd_all _ _ (by decide), Dev.rd_wr_same]

theorem capRdWrite_refused {p : Port} {v : BitVec 64} {s : State} (h : s.dev.isSteward p = false ∨ s.dev.rn Reg.CAP_WR < v.toNat) :
    Completes (.capRdWrite p v) s fun e => OnlyRegs [] s.dev e := by
  refine .unchanged (congrArg s.ok (if_neg ?_))
  rcases h with h | h
  · simp [h]
  · simp [Nat.not_le.mpr h]

/-! ## Releases (R112, R146, R184) -/

/-- A release writes one register of a tile, which then reads 0 in bit 63, from either port while BAR0 is served. -/
theorem release_clears {i : Instr} {s : State} {t o : Nat} {f : Dev → Dev} (hi : exec i s = s.ok (s.dev.when s.dev.served f)) {v : W64}
    (hf : f s.dev = s.dev.wr (Reg.tile t o) v) (hv : v.getLsbD 63 = false) :
    (s.dev.served = true → Completes i s fun e => e.rb (Reg.tile t o) 63 = false ∧ OnlyRegs [Reg.tile t o] s.dev e)
      ∧ (s.dev.served = false → Completes i s fun e => OnlyRegs [] s.dev e) := by
  constructor <;> intro h <;> rw [h] at hi
  · refine .of (s.dev.wr (Reg.tile t o) v) (hi.trans (congrArg s.ok hf)) ⟨?_, .wr _ _ (List.mem_singleton_self _)⟩
    rw [Dev.rb, tst, Dev.seal_rd, Dev.rd_wr_same, BitVec.getLsbD_and, hv, Bool.false_and]
  · exact .unchanged hi

/-- Settles O32: the copy of a held capture, the steward's read index, and each release, by the lemmas above. -/
theorem capturesAreCopiedAndReleased : Obligations.CapturesAreCopiedAndReleased := by
  intro t p v ms s
  refine ⟨?_, capRdWrite_steward, capRdWrite_refused, fun x hx => ?_⟩
  · exact fun laneCap n hn hctl hheld hroom => captureCopy_copies t ms hn hctl hheld hroom
  · simp only [List.mem_cons, List.not_mem_nil, or_false] at hx
    rcases hx with rfl | rfl | rfl
    · exact release_clears rfl rfl rfl
    · exact release_clears rfl rfl rfl
    · refine release_clears rfl rfl ?_
      rw [getLsbD_put _ _ _ _ _ (by decide) (by decide)]
      rfl

end Sys2Proof.Machine
end

section
/-! PROOFS. The register-form operations of the VEC slots at issue (R121 to R132, R188, R205 to R208). -/

namespace Sys2Proof.Machine

/-! ## The operation of a VEC slot that a command names (R206, R207) -/

/-- The opcodes of a VEC slot with the register form: those of R207 without NOP, VIMM, VLD, VST and VAGLD. -/
def vecFormOp (op : Nat) : Bool := op < 64 && op ∉ [0x00, 0x0B, 0x3C, 0x3D, 0x3E]

theorem vecFormOp_iff {op : Nat} : vecFormOp op = true ↔ op < 64 ∧ op ∉ [0x00, 0x0B, 0x3C, 0x3D, 0x3E] := by
  rw [vecFormOp, Bool.and_eq_true, decide_eq_true_eq, decide_eq_true_eq]

/-- A register-form VEC slot that decodes at all decodes to the operation it was encoded from. -/
theorem decVec_encVec_eq {op : Nat} {f : VecF} {x : VecOp} (hop : vecFormOp op = true) (h : decVec (encVec op f) = some x) : x = .reg op f := by
  obtain ⟨hlt, hreg⟩ := vecFormOp_iff.mp hop
  have hok : vecRegOk op f = true := by
    by_contra hbad
    simp only [List.mem_cons, List.not_mem_nil, or_false, not_or] at hreg
    unfold decVec at h
    rw [bits_encVec_op op f hlt, decVecF_encVec] at h
    dsimp only at h
    split at h
    case h_6 => rw [if_neg hbad] at h; cases h
    all_goals omega
  rw [decVec_encVec op f hlt hreg hok] at h
  exact (Option.some.inj h).symm

/-- A bundle that is reached has in a unit's VEC slot the operation that the slot decodes to. -/
theorem Dev.Reaches.vec_decodes {d : Dev} {t : Nat} {w : Word256} {o : Obs} {b : Bundle} (h : d.Reaches t w o b) (u : VUnit) :
    decVec (slotVec u w) = some (b.vec u) := by
  obtain ⟨-, -, ha, hb, -⟩ := decBundle_slots h.decodes
  cases u
  · exact ha
  · exact hb

/-- What a command of the register form puts into its unit's VEC slot is what the bundle it reaches has there. -/
theorem Dev.Reaches.vec_reg {d : Dev} {t : Nat} {u : VUnit} {op : Nat} {f : VecF} {rest : Word256} {o : Obs} {b : Bundle} (hop : vecFormOp op = true)
    (h : d.Reaches t (putVec u rest (encVec op f)) o b) : b.vec u = .reg op f := by
  have hd := h.vec_decodes u
  rw [slotVec_putVec u rest _ (encVec_lt op f (vecFormOp_iff.mp hop).1)] at hd
  exact decVec_encVec_eq hop hd

/-! ## What such an operation delivers (R49, R188) -/

/-- A unit whose main lanes give the exact results plans nothing but the results. -/
theorem Dev.Issues.vec_planned {d : Dev} {t : Nat} {w : Word256} {o : Obs} {b : Bundle} {p : SlotPlan} (h : d.Issues t w o b p) {u : VUnit}
    (hobs : obsLane o u = none) :
    ∃ q, (d.atBundle t o).planVec t u (b.vec u) none (slotVec u w) = .ok q ∧ ∀ z ∈ q.infl, z ∈ p.infl := by
  obtain ⟨-, q, va, vb, m, -, ha, hb, -, rfl⟩ := Dev.planBundle_ok h.planned
  cases u
  · exact ⟨va, hobs ▸ ha, fun z => mem_joinPlans_infl (by simp)⟩
  · exact ⟨vb, hobs ▸ hb, fun z => mem_joinPlans_infl (by simp)⟩

/-- A command of the register form whose slot has operation `op`, and the latency of that operation. -/
structure VecCommand (i : Instr) (t : TileId) (u : VUnit) (op : Nat) (f : VecF) (rest : Word256) (o : Obs) (lat : Nat) : Prop where
  bundle : bundleOf i = some (t, putVec u rest (encVec op f), o)
  form : vecFormOp op = true
  latency : (vInfo op f.fn.toNat).map VInfo.lat = some lat

section
variable {i : Instr} {s : State} {t : TileId} {u : VUnit} {op lat : Nat} {f : VecF} {rest w : Word256} {o : Obs} {b : Bundle} {p : SlotPlan}
  (hc : VecCommand i t u op f rest o lat) (hb : bundleOf i = some (t, w, o)) (hi : s.dev.Issues t w o b p) (hobs : obsLane o u = none)
include hc hb hi hobs

/-- What the operation makes of its sources is under way once the bundle has issued. -/
theorem VecCommand.delivers {z : Deliver} (hz : z ∈ vecResult op f.fn.toNat f.d.toNat ((s.dev.atBundle t o).vsrc t f)) :
    (s.dev.atBundle t o).Delivers (s.dev.issued t o b p).seal t lat z := by
  obtain ⟨hbundle, hform, hlat⟩ := hc
  obtain ⟨inf, hinf, rfl⟩ := Option.map_eq_some_iff.mp hlat
  obtain rfl : putVec u rest (encVec op f) = w := by cases hbundle.symm.trans hb; rfl
  obtain ⟨q, hplan, hmem⟩ := hi.vec_planned hobs
  rw [hi.vec_reg hform] at hplan
  rw [Dev.Delivers, Dev.seal_tile]
  exact (s.dev.issued_tile t o b p).infl _ (hmem _ (Dev.planVec_reg hinf hplan hz))

/-- An operation whose one result is a vector delivers it, lane by lane. -/
theorem VecCommand.vector {g : Nat → W32} {m : BitVec 64}
    (hr : vecResult op f.fn.toNat f.d.toNat ((s.dev.atBundle t o).vsrc t f) = [.v f.d.toNat (mkVec g) m]) :
    Completes i s fun e => ∃ y, (s.dev.atBundle t o).Delivers e t lat (.v f.d.toNat y m) ∧ ∀ j < 64, lane y j = g j :=
  .issues hb hi ⟨mkVec g, hc.delivers hb hi hobs (hr ▸ List.mem_singleton_self _), lane_mkVec g⟩

/-- An operation whose one result is a predicate delivers it, bit by bit. -/
theorem VecCommand.predicate {g : Nat → Bool} {m : BitVec 64}
    (hr : vecResult op f.fn.toNat f.d.toNat ((s.dev.atBundle t o).vsrc t f) = [.p f.d.toNat (mkPred g) m]) :
    Completes i s fun e => ∃ y, (s.dev.atBundle t o).Delivers e t lat (.p f.d.toNat y m) ∧ ∀ j < 64, y.getLsbD j = g j :=
  .issues hb hi ⟨mkPred g, hc.delivers hb hi hobs (hr ▸ List.mem_singleton_self _), getLsbD_mkPred g⟩

/-- An operation on entries of two registers delivers both results. -/
theorem VecCommand.pair {x y : BitVec 2048} {m : BitVec 64}
    (hr : vecResult op f.fn.toNat f.d.toNat ((s.dev.atBundle t o).vsrc t f) = [.v f.d.toNat x m, .v (f.d.toNat + 1) y m]) :
    Completes i s fun e =>
      (s.dev.atBundle t o).Delivers e t lat (.v f.d.toNat x m) ∧ (s.dev.atBundle t o).Delivers e t lat (.v (f.d.toNat + 1) y m) :=
  .issues hb hi ⟨hc.delivers hb hi hobs (hr ▸ List.mem_cons_self), hc.delivers hb hi hobs (hr ▸ List.mem_cons_of_mem _ (List.mem_singleton_self _))⟩

end

/-- Settles O8: the opcode of each command, its latency, and that its result is the manual's value in every lane under its mask. -/
theorem vectorLanesDeliver : Obligations.VectorLanesDeliver := by
  intro t u f rest o s a v fn A B sh x hx w b p
  simp only [List.mem_cons, List.not_mem_nil, or_false] at hx
  rcases hx with rfl | rfl | rfl | rfl | rfl | rfl | rfl | rfl | rfl | rfl | rfl | rfl | rfl | rfl | rfl | rfl | rfl | rfl | rfl | rfl | rfl | rfl
    | rfl | rfl | rfl | rfl | rfl | rfl
  all_goals exact fun hb hi hobs => VecCommand.vector ⟨rfl, rfl, rfl⟩ hb hi hobs rfl

/-- V2P takes the 64 bits of lanes 0 and 1 (R207). -/
theorem vecResult_v2p (fn n : Nat) (v : VSrc) :
    vecResult 0x25 fn n v = [.p n (mkPred fun j => (lane v.a (j / 32)).getLsbD (j % 32)) (BitVec.allOnes 64)] := by
  have hbit : (fun j => predBit 0x25 fn j v) = fun j => (lane v.a (j / 32)).getLsbD (j % 32) := funext fun j => by
    rw [getLsbD_lane _ _ _ (Nat.mod_lt j (by decide)), Nat.div_add_mod]
    rfl
  rw [← hbit]
  rfl

/-- Settles O9: the opcode of each command, its latency, and that its result is the manual's bit of every lane, under the mask or whole. -/
theorem vectorPredicatesDeliver : Obligations.VectorPredicatesDeliver := by
  intro t u f rest o s a v full x hx w b p
  simp only [List.mem_cons, List.not_mem_nil, or_false] at hx
  rcases hx with rfl | rfl | rfl | rfl | rfl | rfl | rfl
  iterate 6 exact fun hb hi hobs => VecCommand.predicate ⟨rfl, rfl, rfl⟩ hb hi hobs rfl
  exact fun hb hi hobs => VecCommand.predicate ⟨rfl, rfl, rfl⟩ hb hi hobs (vecResult_v2p ..)

/-- Settles O10: the opcode of each command, its latency, and what it makes of the lanes of its sources. -/
theorem vectorCrossLaneDeliver : Obligations.VectorCrossLaneDeliver := by
  intro t u f rest o s a v fn full masked
  refine ⟨fun x hx w b p => ?_, fun w b p => ?_, fun w b p => ?_⟩
  · simp only [List.mem_cons, List.not_mem_nil, or_false] at hx
    rcases hx with rfl | rfl | rfl | rfl | rfl | rfl | rfl | rfl | rfl
    all_goals exact fun hb hi hobs => VecCommand.vector ⟨rfl, rfl, rfl⟩ hb hi hobs rfl
  · exact fun hb hi hobs => VecCommand.pair ⟨rfl, rfl, rfl⟩ hb hi hobs rfl
  · exact fun hb hi hobs => VecCommand.pair ⟨rfl, rfl, rfl⟩ hb hi hobs rfl

end Sys2Proof.Machine
end

section
/-! PROOFS. Figures on their way to the leader: the credits that the parent's link owes as they leave (R302, R434 to R436, R448). -/

namespace Sys2Proof.Machine

/-- A cell of class 2 in transit: it came on link 1 and waits for a credit of link 0 in the guaranteed slot it came in (R436). -/
def transitCell : QCell := { typ := 10, cls := 2, slot := some (1, false) }

/-- A device whose parent is on link 1, which owes that peer a slot of class 0; on link 0, which has no credit of class 2, a cell in transit
waits. -/
def owingRelay : Dev :=
  { regs := [(Reg.VOTE_TREE, BitVec.ofNat 64 (2 ^ 32)), (Reg.L_STATUS 0, BitVec.ofNat 64 (4 * 2 ^ 61)),
      (Reg.L_STATUS 1, BitVec.ofNat 64 (4 * 2 ^ 61))]
    links := [(0, { queue := [transitCell], credits := [128, 1024, 0, 384] }), (1, { owed := [1, 0, 0, 0] })] }

/-- The header of the FIGURES cell that comes on link 0: it brings a credit of class 2. -/
def creditHdr : CellHdr := ⟨0, 0, 2, 1, none, 0⟩

theorem owingRelay_takes : owingRelay.CellTaken (0 : LinkId) creditHdr 12 0 := ⟨by decide +kernel, rfl, rfl⟩

/-- The FIGURES cell with the bytes it would have while link 1 owes a slot of class 0 does not leave: the credit sends the waiting cell on, the slot
that cell held goes back to link 1's peer, and the IDLE cell of that return takes the credit of class 0 along (R434, R436). -/
theorem owingRelay_returns :
    owingRelay.cellOf 1 { typ := 12, cls := 0, w1 := word1 false 0 0 0 (owingRelay.peerId 1) 0, payload := List.replicate 40 0 }
      ∉ (owingRelay.recvCell 0 creditHdr 12 0 (doFigures 0 0 0 0 0 0)).out := by decide +kernel

/-- Refutes O59: figures passed on to the parent return the credits that the parent's link owes as they leave, and the cell that brought them may
first let a cell in transit go on, with whose slot the credits owed before are returned. The clause names the cell as it would have left before
that, and has no premise about cells that wait or slots that are owed. -/
theorem not_groupRegistersAndPlans : ¬ Obligations.GroupRegistersAndPlans := by
  intro h
  obtain ⟨-, -, -, -, -, -, -, -, -, -, hfigures, -⟩ := h { pending := [], dev := owingRelay }
  obtain ⟨u, hexec, -, -, hout, -⟩ := (hfigures 0 creditHdr 0 0 0 0 0 0 owingRelay_takes).2 1 (by decide +kernel) (by decide +kernel)
    (by decide) (by decide +kernel)
  cases hexec
  exact owingRelay_returns hout

end Sys2Proof.Machine
end

section
/-! PROOFS. NOP, VIMM, VLD, VST and VAGLD of the VEC slots at issue (R154, R155, R191, R194, R207, R208). -/

namespace Sys2Proof.Machine

/-! ## The operation of a VEC slot that a command names (R206, R207) -/

section
variable (u : VUnit) (w : Word256)

theorem decVec_imm (d : BitVec 6) (v : BitVec 32) :
    decVec (slotVec u (putVec u w (0x0B * 2 ^ 42 + d.toNat * 2 ^ 36 + v.toNat))) = some (.imm d.toNat v) := by
  have hd := d.isLt
  have hv := v.isLt
  generalize hx : 0x0B * 2 ^ 42 + d.toNat * 2 ^ 36 + v.toNat = x
  have hop : bits x 47 42 = 0x0B := by rw [bits_eq]; omega
  have hz : bits x 35 32 = 0 := by rw [bits_eq]; omega
  have hd' : bits x 41 36 = d.toNat := by rw [bits_eq]; omega
  have hv' : BitVec.ofNat 32 x = v := BitVec.eq_of_toNat_eq (by rw [BitVec.toNat_ofNat]; omega)
  rw [slotVec_putVec _ _ _ (by omega)]
  simp only [decVec, hop, hz, hd', hv']
  rfl

/-- VLD and VST decode to themselves where they decode at all. -/
theorem decVec_mem {u : VUnit} {w : Word256} {store : Bool} {d : BitVec 6} {g : BitVec 3} {m : BitVec 1} {q : BitVec 4} {op : VecOp}
    (h : decVec (slotVec u (putVec u w (encVecMem (if store then 0x3D else 0x3C) d g m q))) = some op) :
    op = .mem store d.toNat g.toNat (decide (m = 1)) q.toNat := by
  have hd := d.isLt
  have hg := g.isLt
  have hm := m.isLt
  have hq := q.isLt
  have hc : (if store then 0x3D else 0x3C) ≤ 0x3D := by split <;> omega
  unfold encVecMem at h
  generalize hx : (if store then 0x3D else 0x3C) * 2 ^ 42 + d.toNat * 2 ^ 36 + g.toNat * 2 ^ 33 + m.toNat * 2 ^ 15 + q.toNat * 2 ^ 11 = x at h
  have hop : bits x 47 42 = if store then 0x3D else 0x3C := by rw [bits_eq]; omega
  have hd' : bits x 41 36 = d.toNat := by rw [bits_eq]; omega
  have hg' : bits x 35 33 = g.toNat := by rw [bits_eq]; omega
  have hm' : bit x 15 = decide (m = 1) := bit_of_field (by omega)
  have hq' : bits x 14 11 = q.toNat := by rw [bits_eq]; omega
  rw [slotVec_putVec _ _ _ (by omega)] at h
  cases store <;> simp only [decVec, hop, hd', hg', hm', hq', if_true, if_false, Bool.false_eq_true] at h <;> split at h <;> cases h <;> rfl

theorem decVec_agld (g : BitVec 3) (k : BitVec 17) :
    decVec (slotVec u (putVec u w (0x3E * 2 ^ 42 + g.toNat * 2 ^ 39 + k.toNat))) = some (.agld g.toNat k.toNat) := by
  have hg := g.isLt
  have hk := k.isLt
  generalize hx : 0x3E * 2 ^ 42 + g.toNat * 2 ^ 39 + k.toNat = x
  have hop : bits x 47 42 = 0x3E := by rw [bits_eq]; omega
  have hz : bits x 38 17 = 0 := by rw [bits_eq]; omega
  have hg' : bits x 41 39 = g.toNat := by rw [bits_eq]; omega
  have hk' : bits x 16 0 = k.toNat := by rw [bits_eq]; omega
  rw [slotVec_putVec _ _ _ (by omega)]
  simp only [decVec, hop, hz, hg', hk']
  rfl

end

/-- A bundle that is reached has in a unit's VEC slot the operation that the slot decodes to. -/
theorem Dev.Reaches.vec_eq {d : Dev} {t : Nat} {w : Word256} {o : Obs} {b : Bundle} {u : VUnit} {op : VecOp} (h : d.Reaches t w o b)
    (hd : decVec (slotVec u w) = some op) : b.vec u = op :=
  Option.some.inj ((h.vec_decodes u).symm.trans hd)

/-! ## The vector and predicate files at issue (R49) -/

/-- Closing loops changes the open loops and their counters only. -/
theorem closeLoops_kept (n : Nat) (r : Regs) : ∃ ls lc, (closeLoops n r).2 = { r with loops := ls, lc := lc } := by
  induction n generalizing r with
  | zero => exact ⟨_, _, rfl⟩
  | succ n ih =>
    unfold closeLoops
    split
    · exact ⟨_, _, rfl⟩
    · dsimp only
      split
      · exact ⟨_, _, rfl⟩
      · obtain ⟨ls, lc, h⟩ := ih _
        exact ⟨ls, lc, h⟩

/-- The CTRL slot changes the sequencer only. -/
theorem ctrlNext_kept (op : CtrlOp) (fin : Nat) (sq : Bool) (r₀ r : Regs) : ∃ pc rt ls cs n lc,
    ctrlNext op fin sq r₀ r = { r with pc := pc, rtn := rt, loops := ls, calls := cs, squash := n, lc := lc } := by
  unfold ctrlNext
  extract_lets nextPc r₁
  have h₁ : ∃ pc rt ls cs n lc, r₁ = { r with pc := pc, rtn := rt, loops := ls, calls := cs, squash := n, lc := lc } := by
    unfold r₁
    repeat' split
    all_goals exact ⟨_, _, _, _, _, _, rfl⟩
  obtain ⟨pc, rt, ls, cs, n, lc, h₁⟩ := h₁
  obtain ⟨ls₂, lc₂, h₂⟩ := closeLoops_kept fin r₁
  rw [h₁] at h₂
  split
  · exact ⟨pc, rt, ls, cs, n, lc, h₁⟩
  · split
    all_goals
      next h =>
        rw [h₁] at h
        rw [h] at h₂
        cases h₂
        exact ⟨_, _, _, _, _, _, rfl⟩

/-- Issuing a bundle leaves the vector and predicate files: results are delivered later (R49). -/
theorem Dev.issued_files (d : Dev) (t : Nat) (o : Obs) (b : Bundle) (p : SlotPlan) (n : Nat) :
    ((d.issued t o b p).tile t).regs.rv n = ((d.atBundle t o).tile t).regs.rv n
      ∧ ((d.issued t o b p).tile t).regs.rp n = ((d.atBundle t o).tile t).regs.rp n := by
  have h := d.issued_tile t o b p
  obtain ⟨-, -, -, -, -, -, hv, hp, -⟩ := h.seq.trans (Regs.sameSeq_uses p.uses _)
  rw [d.atIssue_regs] at hv hp
  rw [h.regs]
  obtain ⟨pc, rt, ls, cs, m, lc, hnext⟩ := ctrlNext_kept b.ctrl b.fin false ((d.atIssue t o b).tile t).regs
    { p.uses.foldl (fun r g => r.wAg g (agAdvance (r.rAg g))) (((d.atIssue t o b).atCube t b).tile t).regs with
      squash := ((d.atIssue t o b).tile t).regs.squash - 1 }
  rw [hnext]
  exact ⟨congrArg (smGet zero2048 · n) hv, congrArg (smGet zeroP · n) hp⟩

/-! ## The accesses that an operation starts (R154, R155, R191, R194) -/

/-- What a VEC slot of an issuing bundle wants is queued at the banks. -/
theorem Dev.Issues.vec_queued {d : Dev} {t : Nat} {w : Word256} {o : Obs} {b : Bundle} {p : SlotPlan} (h : d.Issues t w o b p) (u : VUnit) :
    ∃ q, (d.atBundle t o).planVec t u (b.vec u) (obsLane o u) (slotVec u w) = .ok q ∧ ∀ z ∈ q.accs, z ∈ ((d.issued t o b p).tile t).bankq := by
  obtain ⟨-, q, va, vb, m, -, ha, hb, -, rfl⟩ := Dev.planBundle_ok h.planned
  rw [(d.issued_tile t o b _).bankq]
  cases u
  · exact ⟨va, ha, fun z hz => List.mem_append_right _ (mem_joinPlans_accs (by simp) hz)⟩
  · exact ⟨vb, hb, fun z hz => List.mem_append_right _ (mem_joinPlans_accs (by simp) hz)⟩

section
variable {d : Dev} {t : Nat} {u : VUnit} {lo : Option LaneObs} {w : Nat} {p : SlotPlan}

/-- A load or store starts one access of the 8 words that its generator names, made in the next beat (R154, R194). -/
theorem Dev.planVec_mem {store m : Bool} {v g q : Nat} (h : d.planVec t u (.mem store v g m q) lo w = .ok p) :
    let r := (d.tile t).regs
    let mask := if m then r.rp q else BitVec.allOnes 64
    ∃ x z y, d.agAccess t g 8 store = .ok x ∧ z ∈ p.accs ∧ z.parts = [y] ∧ y.words = x.words ∧ y.win = x.win
      ∧ y.take = (!store && d.agTakes t g) ∧ z.wr = store ∧ z.delay = 1
      ∧ z.kind = (if store then .store else .load v mask (d.issueNo t + 8))
      ∧ y.data = if store then (List.range 8).map fun i => ((r.rv v).extractLsb' (256 * i) 256, mask.extractLsb' (8 * i) 8) else [] := by
  dsimp only [Dev.planVec] at h
  cases hx : d.agAccess t g 8 store with
  | error e => rw [hx] at h; cases h
  | ok x =>
    rw [hx] at h
    cases h
    exact ⟨x, _, _, rfl, List.mem_singleton_self _, rfl, rfl, rfl, rfl, rfl, rfl, rfl, rfl⟩

/-- VAGLD starts the read of one word, which becomes a generator's descriptor (R191, R194). -/
theorem Dev.planVec_agld {g k : Nat} (h : d.planVec t u (.agld g k) lo w = .ok p) :
    ∃ x z y, d.privAccess t (d.tile t).slot k 1 = .ok x ∧ z ∈ p.accs ∧ z.parts = [y] ∧ y.words = x.words ∧ y.take = false ∧ z.wr = false
      ∧ z.kind = .agload g (d.issueNo t + 8) := by
  dsimp only [Dev.planVec] at h
  cases hx : d.privAccess t (d.tile t).slot k 1 with
  | error e => rw [hx] at h; cases h
  | ok x =>
    rw [hx] at h
    cases h
    exact ⟨x, _, _, rfl, List.mem_singleton_self _, rfl, rfl, rfl, rfl, rfl⟩

/-- VIMM, where the main lanes give the exact result, delivers its immediate to every lane (R207). -/
theorem Dev.planVec_imm {v : Nat} {x : W32} (h : d.planVec t u (.imm v x) none w = .ok p) :
    (⟨d.issueNo t + 3, (d.tile t).regs.pc, .v v (mkVec fun _ => x) (BitVec.allOnes 64)⟩ : Inflight) ∈ p.infl := by
  dsimp only [Dev.planVec] at h
  cases h
  exact List.mem_cons_self

end

/-! ## The operations as commands -/

/-- Settles O11: what each operation's slot decodes to, and what that operation plans; NOP's bundle leaves the registers as every issue does. -/
theorem vectorMemoryStarts : Obligations.VectorMemoryStarts := by
  intro t u rest o s w b p
  dsimp only
  refine ⟨?_, ?_, ?_, ?_, ?_⟩
  · rintro ⟨hb, hi⟩
    have h := s.dev.issued_files t o b p
    refine .issues hb hi ?_
    simp only [Dev.seal_tile]
    exact ⟨fun n => (h n).1, fun n => (h n).2⟩
  · rintro d v ⟨hb, hi⟩ hobs
    obtain rfl := bundleOf_word rfl hb
    obtain ⟨q, hplan, hq⟩ := hi.vec_planned hobs
    rw [hi.vec_eq (decVec_imm u rest d v)] at hplan
    refine .issues hb hi ⟨mkVec fun _ => v, ?_, lane_mkVec _⟩
    rw [Dev.Delivers, Dev.seal_tile]
    exact (s.dev.issued_tile t o b p).infl _ (hq _ (Dev.planVec_imm hplan))
  · rintro d g m q ⟨hb, hi⟩
    obtain rfl := bundleOf_word rfl hb
    obtain ⟨plan, hplan, hq⟩ := hi.vec_queued u
    rw [decVec_mem (store := false) (hi.vec_decodes u)] at hplan
    obtain ⟨x, z, y, hx, hz, hparts, hwords, hwin, htake, hwr, hdelay, hkind, -⟩ := Dev.planVec_mem hplan
    refine .issues hb hi ⟨x, z, y, hx, ?_, hparts, hwords, hwin, htake, hwr, hdelay, ?_⟩
    · rw [Dev.seal_tile]; exact hq z hz
    · rw [hkind]; simp only [decide_eq_true_eq]; rfl
  · rintro d g m q ⟨hb, hi⟩
    obtain rfl := bundleOf_word rfl hb
    obtain ⟨plan, hplan, hq⟩ := hi.vec_queued u
    rw [decVec_mem (store := true) (hi.vec_decodes u)] at hplan
    obtain ⟨x, z, y, hx, hz, hparts, hwords, hwin, -, hwr, hdelay, hkind, hdata⟩ := Dev.planVec_mem hplan
    refine .issues hb hi ⟨x, z, y, hx, ?_, hparts, hwords, hwin, hwr, hdelay, hkind, ?_⟩
    · rw [Dev.seal_tile]; exact hq z hz
    · rw [hdata]; simp only [decide_eq_true_eq]; rfl
  · rintro g k ⟨hb, hi⟩
    obtain rfl := bundleOf_word rfl hb
    obtain ⟨plan, hplan, hq⟩ := hi.vec_queued u
    rw [hi.vec_eq (decVec_agld u rest g k)] at hplan
    obtain ⟨x, z, y, hx, hz, h⟩ := Dev.planVec_agld hplan
    refine .issues hb hi ⟨x, z, y, hx, ?_, h⟩
    rw [Dev.seal_tile]; exact hq z hz

end Sys2Proof.Machine
end

section
/-! PROOFS. The MOVE slot's operations at issue (R163, R169, R199, R210 to R217). -/

namespace Sys2Proof.Machine

/-! ## The operation of a MOVE slot that a command names (R210) -/

theorem decXferF_encXfer (op : Nat) (f : XferF) : decXferF (encXfer op f) = f := by
  obtain ⟨hdl, ag, ent, off, nb, lvl, str, cve, cvb, tk⟩ := f
  have := hdl.isLt; have := ag.isLt; have := ent.isLt; have := off.isLt; have := nb.isLt; have := lvl.isLt; have := str.isLt
  have := cve.isLt; have := cvb.isLt; have := tk.isLt
  simp only [decXferF, encXfer, bits_eq, XferF.mk.injEq]
  refine ⟨?_, ?_, ?_, ?_, ?_, ?_, ?_, ?_, ?_, ?_⟩ <;> apply BitVec.eq_of_toNat_eq <;> rw [BitVec.toNat_ofNat] <;> omega

theorem encXfer_fields {op : Nat} (f : XferF) (ho : op < 32) : encXfer op f < 2 ^ 64 ∧ bits (encXfer op f) 63 59 = op := by
  obtain ⟨hdl, ag, ent, off, nb, lvl, str, cve, cvb, tk⟩ := f
  have := hdl.isLt; have := ag.isLt; have := ent.isLt; have := off.isLt; have := nb.isLt; have := lvl.isLt; have := str.isLt
  have := cve.isLt; have := cvb.isLt; have := tk.isLt
  simp only [encXfer, bits_eq]
  omega

theorem encTag_fields {op : Nat} (a : SlotArg) (ho : op < 32) :
    encTag op a < 2 ^ 64 ∧ bits (encTag op a) 63 59 = op ∧ bits (encTag op a) 33 0 = 0 := by
  cases a with
  | imm w i => have := w.isLt; have := i.isLt; simp only [encTag, bits_eq]; omega
  | gen g => have := g.isLt; simp only [encTag, bits_eq]; omega

/-- The slot that TAGSET or TAGCLR names reads back. -/
theorem decTag_encTag {op : Nat} (a : SlotArg) : decMove.decTag (encTag op a) = some a := by
  cases a with
  | imm w i =>
    have hw := w.isLt
    have hi := i.isLt
    generalize hx : encTag op (.imm w i) = x
    simp only [encTag] at hx
    have hform : bit x 58 = false := by rw [bit_eq, decide_eq_false_iff_not]; omega
    have hz : bits x 36 34 = 0 := by rw [bits_eq]; omega
    have hw' : BitVec.ofNat 4 (bits x 57 54) = w := BitVec.eq_of_toNat_eq (by rw [BitVec.toNat_ofNat, bits_eq]; omega)
    have hi' : BitVec.ofNat 17 (bits x 53 37) = i := BitVec.eq_of_toNat_eq (by rw [BitVec.toNat_ofNat, bits_eq]; omega)
    simp only [decMove.decTag, hform, hz, hw', hi']
    rfl
  | gen g =>
    have hg := g.isLt
    generalize hx : encTag op (.gen g) = x
    simp only [encTag] at hx
    have hform : bit x 58 = true := by rw [bit_eq, decide_eq_true_eq]; omega
    have hz : bits x 57 37 = 0 := by rw [bits_eq]; omega
    have hg' : BitVec.ofNat 3 (bits x 36 34) = g := BitVec.eq_of_toNat_eq (by rw [BitVec.toNat_ofNat, bits_eq]; omega)
    simp only [decMove.decTag, hform, hz, hg']
    rfl

section
variable (w : Word256)

theorem decMove_nop : decMove (slotMove (putMove w 0)) = some .nop := by
  rw [slotMove_putMove _ _ (by decide)]
  rfl

theorem decMove_tag (set : Bool) (a : SlotArg) :
    decMove (slotMove (putMove w (encTag (if set then 5 else 6) a))) = some (.tag set a) := by
  obtain ⟨hlt, hop, hz⟩ := encTag_fields (op := if set then 5 else 6) a (by split <;> omega)
  have htag := decTag_encTag (op := if set then 5 else 6) a
  generalize encTag (if set then 5 else 6) a = x at *
  rw [slotMove_putMove _ _ hlt]
  cases set <;> simp only [if_true, if_false, Bool.false_eq_true] at hop <;> simp only [decMove, hop, hz, htag] <;> rfl

end

section
variable {w : Word256} {op : MoveOp}

/-- SEND decodes to itself where it decodes at all. -/
theorem decMove_send {h : BitVec 6} {g : BitVec 3} {l : BitVec 12} {q : BitVec 2} {v : BitVec 1} {lv : BitVec 4} {st : BitVec 17}
    (hd : decMove (slotMove (putMove w (1 * 2 ^ 59 + h.toNat * 2 ^ 53 + g.toNat * 2 ^ 50 + l.toNat * 2 ^ 38 + q.toNat * 2 ^ 36
      + v.toNat * 2 ^ 35 + lv.toNat * 2 ^ 31 + st.toNat * 2 ^ 14))) = some op) :
    op = .send h.toNat g.toNat (l.toNat + 1) q.toNat v.toNat lv.toNat st.toNat := by
  have h₁ := h.isLt
  have h₂ := g.isLt
  have h₃ := l.isLt
  have h₄ := q.isLt
  have h₅ := v.isLt
  have h₆ := lv.isLt
  have h₇ := st.isLt
  generalize hx : 1 * 2 ^ 59 + h.toNat * 2 ^ 53 + g.toNat * 2 ^ 50 + l.toNat * 2 ^ 38 + q.toNat * 2 ^ 36 + v.toNat * 2 ^ 35
    + lv.toNat * 2 ^ 31 + st.toNat * 2 ^ 14 = x at hd
  have hop : bits x 63 59 = 1 := by rw [bits_eq]; omega
  have hh : bits x 58 53 = h.toNat := by rw [bits_eq]; omega
  have hg : bits x 52 50 = g.toNat := by rw [bits_eq]; omega
  have hl : bits x 49 38 = l.toNat := by rw [bits_eq]; omega
  have hq : bits x 37 36 = q.toNat := by rw [bits_eq]; omega
  have hv : bits x 35 35 = v.toNat := by rw [bits_eq]; omega
  have hlv : bits x 34 31 = lv.toNat := by rw [bits_eq]; omega
  have hst : bits x 30 14 = st.toNat := by rw [bits_eq]; omega
  rw [slotMove_putMove _ _ (by omega)] at hd
  simp only [decMove, hop, hh, hg, hl, hq, hv, hlv, hst] at hd
  split at hd <;> cases hd
  rfl

/-- RECV decodes to itself where it decodes at all. -/
theorem decMove_recv {i j : BitVec 2} {n : BitVec 6}
    (hd : decMove (slotMove (putMove w (2 * 2 ^ 59 + i.toNat * 2 ^ 57 + j.toNat * 2 ^ 55 + n.toNat * 2 ^ 49))) = some op) :
    op = .recv i.toNat j.toNat (n.toNat + 1) := by
  have h₁ := i.isLt
  have h₂ := j.isLt
  have h₃ := n.isLt
  generalize hx : 2 * 2 ^ 59 + i.toNat * 2 ^ 57 + j.toNat * 2 ^ 55 + n.toNat * 2 ^ 49 = x at hd
  have hop : bits x 63 59 = 2 := by rw [bits_eq]; omega
  have hi : bits x 58 57 = i.toNat := by rw [bits_eq]; omega
  have hj : bits x 56 55 = j.toNat := by rw [bits_eq]; omega
  have hn : bits x 54 49 = n.toNat := by rw [bits_eq]; omega
  rw [slotMove_putMove _ _ (by omega)] at hd
  simp only [decMove, hop, hi, hj, hn] at hd
  split at hd <;> cases hd
  rfl

/-- GET and PUT decode to themselves where they decode at all. -/
theorem decMove_xfer {g : Bool} {f : XferF} (hd : decMove (slotMove (putMove w (encXfer (if g then 3 else 4) f))) = some op) :
    op = .xfer g f := by
  obtain ⟨hlt, hop⟩ := encXfer_fields (op := if g then 3 else 4) f (by split <;> omega)
  have hf := decXferF_encXfer (if g then 3 else 4) f
  generalize encXfer (if g then 3 else 4) f = x at *
  rw [slotMove_putMove _ _ hlt] at hd
  cases g
  all_goals
    simp only [if_true, if_false, Bool.false_eq_true] at hop
    simp only [decMove, hop, hf] at hd
    split at hd <;> cases hd
    rfl

end

/-- A bundle that is reached has in its MOVE slot the operation that the slot decodes to. -/
theorem Dev.Reaches.move_decodes {d : Dev} {t : Nat} {w : Word256} {o : Obs} {b : Bundle} (h : d.Reaches t w o b) :
    decMove (slotMove w) = some b.move := by
  obtain ⟨-, -, -, -, hm⟩ := decBundle_slots h.decodes
  exact hm
theorem Dev.Reaches.move_eq {d : Dev} {t : Nat} {w : Word256} {o : Obs} {b : Bundle} {op : MoveOp} (h : d.Reaches t w o b)
    (hd : decMove (slotMove w) = some op) : b.move = op :=
  Option.some.inj (h.move_decodes.symm.trans hd)

/-! ## What of the tile the MOVE slot alone changes at issue (R213, R216, R217) -/

section
variable (d : Dev) (t : Nat) (o : Obs) (b : Bundle)

/-- The entries, transfers and the next transfer's number after the issue are those that the MOVE slot leaves. -/
theorem Dev.issued_moved (p : SlotPlan) :
    let x := ((d.atIssue t o b).issueMove t b.move).tile t
    let y := (d.issued t o b p).tile t
    y.fwd = x.fwd ∧ y.xfers = x.xfers ∧ y.nextId = x.nextId := by
  intro x y
  have h := d.issued_tile t o b p
  obtain ⟨ra, rb, ls, hslots⟩ := (d.atIssue t o b).issueSlots_tile t b
  obtain ⟨r, f, l, c, a, g, v, q, hcube, -, -⟩ := ((d.atIssue t o b).issueMove t b.move).issueCube_kept t b.cube
  have hz : (((d.atIssue t o b).issueSlots t b).tile t).fwd = x.fwd ∧ (((d.atIssue t o b).issueSlots t b).tile t).xfers = x.xfers
      ∧ (((d.atIssue t o b).issueSlots t b).tile t).nextId = x.nextId := by
    rw [hslots]
    unfold Dev.atCube
    rw [hcube]
    exact ⟨rfl, rfl, rfl⟩
  exact ⟨h.fwd.trans hz.1, h.xfers.trans hz.2.1, h.nextId.trans hz.2.2⟩

theorem Dev.atIssue_now : (d.atIssue t o b).now t = (d.atBundle t o).now t := by
  have hbeat : (d.atIssue t o b).rd Reg.CLK_BEAT = (d.atBundle t o).rd Reg.CLK_BEAT :=
    d.atIssue_rd t o b (.inl (by unfold Reg.CLK_BEAT Reg.tile; omega))
  have hahead : ((d.atIssue t o b).tile t).ahead = ((d.atBundle t o).tile t).ahead := by
    obtain ⟨v, c, h⟩ := d.atIssue_tile t o b
    unfold Dev.atIssue
    rw [h]
  unfold Dev.now Dev.rn
  rw [hbeat, hahead]

theorem Dev.atIssue_hdlWin (h : Nat) : (d.atIssue t o b).hdlWin t h = (d.atBundle t o).hdlWin t h := by
  unfold Dev.hdlWin Dev.trf Dev.rf
  rw [d.atIssue_rd t o b (.inr (by unfold Reg.tile Reg.HDL; omega))]

end

/-! ## What an operation plans (R199, R212, R215) -/

/-- What the MOVE slot of an issuing bundle wants is queued at the banks and at the MV port. -/
theorem Dev.Issues.move_queued {d : Dev} {t : Nat} {w : Word256} {o : Obs} {b : Bundle} {p : SlotPlan} (h : d.Issues t w o b p) :
    ∃ q, (d.atBundle t o).planMove t b.move = .ok q ∧ (∀ z ∈ q.accs, z ∈ ((d.issued t o b p).tile t).bankq)
      ∧ ∀ z ∈ q.mv, z ∈ ((d.issued t o b p).tile t).mvq := by
  obtain ⟨-, q, va, vb, m, -, -, -, hm, rfl⟩ := Dev.planBundle_ok h.planned
  refine ⟨m, hm, fun z hz => ?_, fun z hz => ?_⟩
  · rw [(d.issued_tile t o b _).bankq]
    exact List.mem_append_right _ (mem_joinPlans_accs (by simp) hz)
  · rw [(d.issued_tile t o b _).mvq]
    exact List.mem_append_right _ (mem_joinPlans_mv (by simp) hz)

section
variable {d : Dev} {t : Nat} {p : SlotPlan}

/-- A SEND reads its words in flits of 8, each bound for the handle's window at its own offset (R212, R219). -/
theorem Dev.planMove_send {h g len port vc lvl str : Nat} (hp : d.planMove t (.send h g len port vc lvl str) = .ok p) :
    ∃ y, d.agAccess t g len false = .ok y ∧ ∀ k < cdiv len 8, ∃ z ∈ p.mv,
      (∃ q, z.parts = [q] ∧ q.words = (y.words.drop (8 * k)).take 8 ∧ q.win = y.win ∧ q.take = d.agTakes t g)
      ∧ ∃ m, z.kind = .flit m ∧ m.dst = d.hdlTile t h ∧ m.win = d.hdlWin t h ∧ m.k = k
        ∧ m.off = d.hdlOff t h + strideOff (d.tile t).regs lvl str + 8 * k ∧ m.vc = if vc = 0 then 0 else 3 := by
  unfold Dev.planMove Dev.planSend at hp
  dsimp only at hp
  split at hp
  · cases hp
  · split at hp
    · cases hp
    · split at hp
      · cases hp
      · have hp := ok_of_ite hp
        cases hy : d.agAccess t g len false with
        | error e => rw [hy] at hp; cases hp
        | ok y =>
          rw [hy] at hp
          cases hp
          refine ⟨y, rfl, fun k hk => ⟨_, List.mem_map.mpr ⟨k, List.mem_range.mpr hk, rfl⟩, ⟨_, rfl, rfl, rfl, rfl⟩, _, rfl, rfl, rfl, rfl, rfl, rfl⟩⟩

theorem Dev.planMove_recv {i j n : Nat} (hp : d.planMove t (.recv i j n) = .ok p) : (d.tile t).fwd.length < 8 := by
  unfold Dev.planMove at hp
  dsimp only at hp
  split at hp
  · cases hp
  · omega

/-- TAGSET and TAGCLR reach the words of the slot they name (R163, R199). -/
theorem Dev.planMove_tag {set : Bool} {a : SlotArg} (hp : d.planMove t (.tag set a) = .ok p) :
    ∃ k ws, d.slotWords t a = .ok (k, ws) ∧ ∃ z ∈ p.accs, z.tagFoot = ws ∧ z.kind = if set then .tagSet else .tagClr := by
  unfold Dev.planMove at hp
  dsimp only at hp
  split at hp
  · cases hp
  · next k ws hk =>
    split at hp
    · cases hp
      exact ⟨k, ws, hk, _, List.mem_singleton_self _, List.append_nil ws, rfl⟩
    · cases hp

end

/-! ## The operations as commands -/

section
variable (d : Dev) (t : Nat) (o : Obs) {b : Bundle} (p : SlotPlan)

theorem Dev.issued_mnop (h : b.move = .nop) :
    ((d.issued t o b p).tile t).fwd = ((d.atBundle t o).tile t).fwd ∧ ((d.issued t o b p).tile t).xfers = ((d.atBundle t o).tile t).xfers
      ∧ ((d.issued t o b p).tile t).nextId = ((d.atBundle t o).tile t).nextId := by
  have hm := d.issued_moved t o b p
  rw [h] at hm
  exact ⟨hm.1.trans (d.atIssue_fwd t o b), hm.2.1.trans (d.atIssue_xfers t o b), hm.2.2.trans (d.atIssue_nextId t o b)⟩

/-- RECV arms the lowest free entry, from the next beat on (R213). -/
theorem Dev.issued_recv {i j n : Nat} (h : b.move = .recv i j n) :
    let x := (d.atBundle t o).tile t
    ((d.issued t o b p).tile t).fwd = x.fwd ++ [⟨freeEntry x.fwd, i, j, n, [], (d.atBundle t o).now t⟩] := by
  obtain ⟨hm, -, -⟩ := d.issued_moved t o b p
  rw [h] at hm
  dsimp only
  rw [hm, Dev.issueMove, Dev.tile_upd_same, d.atIssue_fwd, d.atIssue_now]

/-- GET and PUT open a transfer under the tile's next number (R215 to R217). -/
theorem Dev.issued_xfer {g : Bool} {f : XferF} (h : b.move = .xfer g f) :
    let a := d.atBundle t o
    let x := a.tile t
    ∃ z : Xfer, ((d.issued t o b p).tile t).xfers = x.xfers ++ [z] ∧ z.id = x.nextId ∧ z.isGet = g ∧ z.nb = f.nb1.toNat + 1
      ∧ z.ent = f.ent.toNat ∧ z.off = f.off.toNat ∧ z.win = a.hdlWin t f.hdl.toNat ∧ z.slot = x.slot ∧ z.vpn = none ∧ z.moved = 0
      ∧ ((d.issued t o b p).tile t).nextId = x.nextId + 1 := by
  obtain ⟨-, hx, hn⟩ := d.issued_moved t o b p
  rw [h] at hx hn
  simp only [Dev.issueMove, Dev.tile_upd_same, d.atIssue_xfers] at hx
  simp only [Dev.issueMove, Dev.tile_upd_same, d.atIssue_nextId] at hn
  exact ⟨_, hx, d.atIssue_nextId t o b, rfl, rfl, rfl, rfl, d.atIssue_hdlWin t o b _, d.atIssue_slot t o b, rfl, rfl, hn⟩

end

/-- Settles O13: what each operation's slot decodes to, what that operation plans, and what of the tile's entries and transfers it changes. -/
theorem moveOperationsStart : Obligations.MoveOperationsStart := by
  intro t rest o s w b p
  dsimp only
  refine ⟨?_, ?_, ?_, ?_, ?_⟩
  · rintro ⟨hb, hi⟩
    obtain rfl := bundleOf_word rfl hb
    refine .issues hb hi ?_
    simp only [Dev.seal_tile]
    exact s.dev.issued_mnop t o p (hi.move_eq (decMove_nop rest))
  · rintro h g l q v lv st ⟨hb, hi⟩
    obtain rfl := bundleOf_word rfl hb
    obtain ⟨plan, hplan, -, hq⟩ := hi.move_queued
    rw [decMove_send hi.move_decodes] at hplan
    obtain ⟨y, hy, hflits⟩ := Dev.planMove_send hplan
    refine .issues hb hi ⟨y, hy, fun k hk => ?_⟩
    obtain ⟨z, hz, hparts, m, hkind, hdst, hwin, hnum, hoff, hvc⟩ := hflits k (by unfold cdiv; omega)
    refine ⟨z, ?_, hparts, m, hkind, hdst, hwin, hnum, hoff, ?_⟩
    · rw [Dev.seal_tile]; exact hq z hz
    · rw [hvc]; simp only [BitVec.toNat_eq]; rfl
  · rintro i j n ⟨hb, hi⟩
    obtain rfl := bundleOf_word rfl hb
    have hmove := decMove_recv hi.move_decodes
    obtain ⟨plan, hplan, -, -⟩ := hi.move_queued
    rw [hmove] at hplan
    refine .issues hb hi ⟨?_, Dev.planMove_recv hplan⟩
    rw [Dev.seal_tile]
    exact s.dev.issued_recv t o p hmove
  · rintro f g ⟨hb, hi⟩
    have hmove : b.move = .xfer g f := by
      cases g <;> (obtain rfl := bundleOf_word rfl hb; exact decMove_xfer hi.move_decodes)
    refine .issues hb hi ?_
    simp only [Dev.seal_tile]
    exact s.dev.issued_xfer t o p hmove
  · rintro m g ⟨hb, hi⟩
    have hmove : b.move = .tag g m := by
      have htag := decMove_tag rest g m
      cases g <;> (obtain rfl := bundleOf_word rfl hb; exact hi.move_eq htag)
    obtain ⟨plan, hplan, hq, -⟩ := hi.move_queued
    rw [hmove] at hplan
    obtain ⟨k, ws, hk, z, hz, hfoot, hkind⟩ := Dev.planMove_tag hplan
    refine .issues hb hi ⟨k, ws, hk, z, ?_, hfoot, hkind⟩
    rw [Dev.seal_tile]; exact hq z hz

end Sys2Proof.Machine
end

section
/-! PROOFS. Flits that leave the network and words that land (R155, R160, R163, R168, R171). -/

namespace Sys2Proof.Machine

/-! ## A flit that is gone from the network (R226) -/

theorem Dev.inner_flits {d e : Dev} (h : d.inner = e.inner) : d.flits = e.flits := show d.inner.flits = e.inner.flits by rw [h]
@[simp] theorem Dev.wr_flits (d : Dev) (o : Nat) (v : W64) : (d.wr o v).flits = d.flits := rfl
@[simp] theorem Dev.twr_flits (d : Dev) (t o : Nat) (v : W64) : (d.twr t o v).flits = d.flits := rfl
@[simp] theorem Dev.tinc_flits (d : Dev) (t o : Nat) : (d.tinc t o).flits = d.flits := rfl
theorem Dev.trd_tinc_same (d : Dev) (t o : Nat) : (d.tinc t o).trd t o = d.trd t o + 1 := Dev.rd_add_same ..
@[simp] theorem Dev.tinc_rdByte (d : Dev) (t o a : Nat) : (d.tinc t o).rdByte a = d.rdByte a := rfl
@[simp] theorem Dev.upd_flits (d : Dev) (t : Nat) (f : Tile → Tile) : (d.upd t f).flits = d.flits := rfl
@[simp] theorem Dev.seal_flits (d : Dev) : d.seal.flits = d.flits := rfl

section
variable (d : Dev) (f : Flit) (n : Nat)

theorem Dev.dropFlit_eq : ∃ c, d.dropFlit f n = { d with credits := c, flits := d.flits.filter fun g => !g.same f } := by
  unfold Dev.dropFlit Dev.credit
  split
  · exact ⟨_, rfl⟩
  · exact ⟨_, rfl⟩
@[simp] theorem Dev.dropFlit_flits : (d.dropFlit f n).flits = d.flits.filter fun g => !g.same f := rfl
@[simp] theorem Dev.dropFlit_rd (o : Nat) : (d.dropFlit f n).rd o = d.rd o := by obtain ⟨c, h⟩ := d.dropFlit_eq f n; rw [h]; rfl
@[simp] theorem Dev.dropFlit_tile (t : Nat) : (d.dropFlit f n).tile t = d.tile t := by obtain ⟨c, h⟩ := d.dropFlit_eq f n; rw [h]; rfl
@[simp] theorem Dev.dropFlit_mem : (d.dropFlit f n).mem = d.mem := by obtain ⟨c, h⟩ := d.dropFlit_eq f n; rw [h]
@[simp] theorem Dev.dropFlit_logOf (t : Nat) : (d.dropFlit f n).logOf t = d.logOf t := by obtain ⟨c, h⟩ := d.dropFlit_eq f n; rw [h]; rfl

end

/-! ## Words that land -/

/-- The words that data lands in from a word on, with what lands there. -/
def landItems (first : Nat) (data : List (Word256 × Bool)) : List (Nat × (Word256 × Bool)) :=
  (List.range data.length).map fun i => (first + i, nth data i (0, false))
/-- A list of words lands at a tile, in order. -/
def Dev.landAll (d : Dev) (t : Nat) (l : List (Nat × (Word256 × Bool))) : Dev := d.each l fun d e => d.landWord t e
/-- What a scratchpad word of a tile holds: its value, its tag and its poison. -/
def Dev.spWord (d : Dev) (t w : Nat) : Word256 × Bool × Bool := (d.spRd t w, (d.tile t).full w, (d.tile t).poisoned w)

theorem landItems_words (first : Nat) (data : List (Word256 × Bool)) :
    (landItems first data).map (·.1) = (List.range data.length).map (first + ·) := by
  rw [landItems, List.map_map]; rfl
theorem landItems_nodup (first : Nat) (data : List (Word256 × Bool)) : ((landItems first data).map (·.1)).Nodup := by
  rw [landItems_words]
  exact List.nodup_range.map fun _ _ h => Nat.add_left_cancel h
theorem landItems_word_mem {first : Nat} {data : List (Word256 × Bool)} {e : Nat × (Word256 × Bool)} (h : e ∈ landItems first data) :
    ((List.range data.length).map (first + ·)).contains e.1 = true :=
  List.contains_iff_mem.mpr (landItems_words first data ▸ List.mem_map_of_mem h)
theorem mem_landItems (first : Nat) {data : List (Word256 × Bool)} {k : Nat} (h : k < data.length) : (first + k, data[k]) ∈ landItems first data :=
  List.mem_map.mpr ⟨k, List.mem_range.mpr h, congrArg (Prod.mk _) (List.getD_eq_getElem data _ h)⟩

section
variable (d : Dev) (t a : Nat) (v : Word256) (b : Bool)

theorem Dev.landWord_rdByte {x : Nat} (h : x < spAddr t a ∨ spAddr t (a + 1) ≤ x) : (d.landWord t (a, v, b)).rdByte x = d.rdByte x := by
  have hmem := d.landWord_mem t a v b
  unfold Dev.rdByte
  rw [hmem]
  exact d.spWr_rdByte t a v h
theorem Dev.landWord_poisoned_same : ((d.landWord t (a, v, b)).tile t).poisoned a = b := by
  rw [Dev.landWord_eq, Dev.tile_upd_same]
  exact smGet_smSet_same noTag _ a b
theorem Dev.landWord_poisoned_ne {w : Nat} (h : w ≠ a) : ((d.landWord t (a, v, b)).tile t).poisoned w = (d.tile t).poisoned w := by
  have htile : (((d.upd t (·.setPoison a false)).spWr t a v).tile t) = (d.upd t (·.setPoison a false)).tile t := Dev.wrBytes_tile' _ _ _ _
  rw [Dev.landWord_eq, Dev.tile_upd_same, Dev.tile_upd_same, Dev.tile_upd_same, htile, Dev.tile_upd_same]
  exact (smGet_smSet_ne noTag _ b h).trans (smGet_smSet_ne noTag _ false h)
theorem Dev.landWord_flits : (d.landWord t (a, v, b)).flits = d.flits := by
  rw [Dev.landWord_eq, Dev.upd_flits, Dev.upd_flits, Dev.upd_flits]
  exact (Dev.inner_flits (Dev.inner_wrBytes ..)).trans (d.upd_flits t (·.setPoison a false))

theorem Dev.landWord_spWord_same : (d.landWord t (a, v, b)).spWord t a = (v, true, b) := by
  rw [Dev.spWord, Dev.landWord_spRd_same, Dev.landWord_full_same, Dev.landWord_poisoned_same]
/-- A word that lands leaves every other word of its tile. -/
theorem Dev.landWord_spWord_ne {w : Nat} (h : w ≠ a) : (d.landWord t (a, v, b)).spWord t w = d.spWord t w := by
  have hrd : (d.landWord t (a, v, b)).spRd t w = d.spRd t w := by
    unfold Dev.spRd Dev.rdNum
    rw [Dev.rdBytes_congr_on fun x h₁ h₂ => d.landWord_rdByte t a v b (x := x) (by unfold spAddr at *; omega)]
  rw [Dev.spWord, hrd, Dev.landWord_full_ne _ _ _ _ _ h, Dev.landWord_poisoned_ne _ _ _ _ _ h, Dev.spWord]

end

section
variable (d : Dev) (t : Nat) (l : List (Nat × (Word256 × Bool)))

/-- What every word that lands keeps, all of them keep. -/
theorem Dev.landAll_keeps {β : Type} (v : Dev → β) (h : ∀ e ∈ l, ∀ d, v (d.landWord t e) = v d) : v (d.landAll t l) = v d := by
  unfold Dev.landAll
  exact Dev.each_keeps v h d
theorem Dev.landAll_regs : (d.landAll t l).regs = d.regs := by
  refine d.landAll_keeps t l Dev.regs fun e _ d => ?_
  obtain ⟨a, v, b⟩ := e
  exact d.landWord_regs t a v b
theorem Dev.landAll_rd (o : Nat) : (d.landAll t l).rd o = d.rd o := by unfold Dev.rd; rw [Dev.landAll_regs]
theorem Dev.landAll_flits : (d.landAll t l).flits = d.flits := by
  refine d.landAll_keeps t l Dev.flits fun e _ d => ?_
  obtain ⟨a, v, b⟩ := e
  exact d.landWord_flits t a v b
/-- Every word of a list lands, the list naming no word twice. -/
theorem Dev.landAll_spWord (h : (l.map (·.1)).Nodup) {a : Nat} {v : Word256} {b : Bool} (he : (a, v, b) ∈ l) :
    (d.landAll t l).spWord t a = (v, true, b) := by
  unfold Dev.landAll
  refine Dev.each_settles (·.spWord t a) he (fun d => d.landWord_spWord_same t a v b) (fun z hz hne d => ?_) d
  have hkey : a ≠ z.1 := fun heq => hne (List.inj_on_of_nodup_map h hz he heq.symm)
  obtain ⟨a', v', b'⟩ := z
  exact d.landWord_spWord_ne t a' v' b' hkey

end

/-- Data that lands from a word on changes no byte outside those words. -/
theorem Dev.landAll_rdByte (d : Dev) (t first : Nat) (data : List (Word256 × Bool)) {a : Nat}
    (h : a < spAddr t first ∨ spAddr t (first + data.length) ≤ a) : (d.landAll t (landItems first data)).rdByte a = d.rdByte a := by
  refine d.landAll_keeps t _ (·.rdByte a) fun e he d => ?_
  obtain ⟨i, hi, rfl⟩ := List.mem_map.mp he
  rw [List.mem_range] at hi
  exact d.landWord_rdByte t _ _ _ (by unfold spAddr at *; omega)

/-! ## A shadow-tag violation (R171, R184) -/

section
variable (d : Dev) (t slot win w : Nat) (write : Bool)

/-- A violation is counted, may be recorded in the three registers, and is written to the varve log. -/
theorem Dev.shadowViolation_eq : ∃ (b : Bool) (x y z : Dev → W64) (who : Who) (v n : W64), d.shadowViolation t slot win w write =
    ((d.tinc t Reg.SP_SHADOW).when b fun e => ((e.twr t Reg.SHADOW_REC (x e)).twr t Reg.SHADOW_BEAT (y e)).twr t Reg.SHADOW_FRAME (z e)).varveLog
      14 0 0 t who v n :=
  ⟨_, _, _, _, _, _, _, rfl⟩
theorem Dev.shadowViolation_flits : (d.shadowViolation t slot win w write).flits = d.flits := by
  obtain ⟨b, x, y, z, who, v, n, h⟩ := d.shadowViolation_eq t slot win w write
  rw [h, Dev.inner_flits (Dev.inner_varveLog ..)]
  rw [Dev.when_keeps Dev.flits fun e => by rw [Dev.twr_flits, Dev.twr_flits, Dev.twr_flits], Dev.tinc_flits]
/-- Of a tile's registers a violation changes its count, and its record with its two times. -/
theorem Dev.shadowViolation_rd {o : Nat} (h : o ∉ [Reg.SHADOW_REC, Reg.SHADOW_BEAT, Reg.SHADOW_FRAME]) :
    (d.shadowViolation t slot win w write).trd t o = (d.tinc t Reg.SP_SHADOW).trd t o := by
  have hne {x : Nat} (hx : x ∈ [Reg.SHADOW_REC, Reg.SHADOW_BEAT, Reg.SHADOW_FRAME]) : Reg.tile t o ≠ Reg.tile t x :=
    Reg.tile_ne t fun heq => h (heq ▸ hx)
  obtain ⟨b, x, y, z, who, v, n, heq⟩ := d.shadowViolation_eq t slot win w write
  rw [heq]
  refine (Dev.varveLog_rd _ _ _ _ _ _ _ _ (by unfold vrvReg Reg.tile; omega)).trans ?_
  refine Dev.when_keeps (·.trd t o) (fun e => ?_) _ b
  exact ((Dev.rd_wr_ne _ _ (hne (by simp))).trans (Dev.rd_wr_ne _ _ (hne (by simp)))).trans (Dev.rd_wr_ne _ _ (hne (by simp)))

end

/-! ## A SEND all of whose words are granted lands (R171, R227) -/

theorem Dev.landing_send {d : Dev} {t : Nat} {f : Flit} (h : f.cargo = .send) :
    d.landing t f = (landItems (d.winBase t f.win + f.off) f.data).filter fun e => !f.landed.contains e.1 := by
  unfold Dev.landing
  rw [h]
  rfl

/-- The violation that a landing in a static window records: that of the first of its words that is full. -/
def Dev.landBad (d : Dev) (t : Nat) (f : Flit) : Option Nat :=
  if d.winTagged t f.win || f.shadowed then none
  else ((List.range f.data.length).map (d.winBase t f.win + f.off + ·)).find? fun w => (d.tile t).full w
/-- The device after the shadow-tag check of a landing. -/
def Dev.landChecked (d : Dev) (t : Nat) (f : Flit) : Dev :=
  match d.landBad t f with
  | some w => d.shadowViolation t (d.winOwner t f.win) f.win w true
  | none => d

section
variable {d : Dev} {t : Nat} {f : Flit}

theorem Dev.landChecked_flits : (d.landChecked t f).flits = d.flits := by
  unfold Dev.landChecked
  split
  · exact Dev.shadowViolation_flits ..
  · rfl
theorem Dev.landChecked_winBase (w : Nat) : (d.landChecked t f).winBase t w = d.winBase t w := by
  have hwin : Reg.WIN w ∉ [Reg.SHADOW_REC, Reg.SHADOW_BEAT, Reg.SHADOW_FRAME] := by
    simp only [List.mem_cons, List.not_mem_nil, or_false, Reg.WIN, Reg.SHADOW_REC, Reg.SHADOW_BEAT, Reg.SHADOW_FRAME]; omega
  unfold Dev.landChecked
  split
  · refine Dev.rf_congr (((Dev.shadowViolation_rd _ _ _ _ _ _ hwin)).trans (Dev.rd_add_ne _ _ (Reg.tile_ne t ?_))) 16 0
    unfold Reg.WIN Reg.SP_SHADOW; omega
  · rfl

/-- A SEND that is granted all its words is checked, lands whole and is gone. -/
theorem Dev.landNow_whole (n : Nat) (hc : f.cargo = .send) (hl : f.landed = []) :
    let first := d.winBase t f.win + f.off
    let g := { f with now := (List.range f.data.length).map (first + ·) }
    d.landNow t n g = ((d.landChecked t f).landAll t (landItems first f.data)).dropFlit g n := by
  intro first g
  have hwords : (d.landing t g).filter (fun e => g.now.contains e.1) = landItems first f.data := by
    rw [Dev.landing_send (f := g) hc, List.filter_filter]
    refine List.filter_eq_self.mpr fun e he => ?_
    have hmem : g.now.contains e.1 = true := landItems_word_mem he
    rw [hmem, show g.landed = [] from hl]
    rfl
  have hbase : ((d.landChecked t f).landAll t (landItems first f.data)).winBase t f.win = d.winBase t f.win :=
    (Dev.rf_congr (Dev.landAll_rd ..) 16 0).trans (Dev.landChecked_winBase _)
  have hleft : ((d.landChecked t f).landAll t (landItems first f.data)).landing t { g with landed := g.landed ++ g.now } = [] := by
    rw [Dev.landing_send (f := { g with landed := g.landed ++ g.now }) hc]
    refine List.filter_eq_nil_iff.mpr fun e he => ?_
    change e ∈ landItems (_ + f.off) f.data at he
    rw [hbase] at he
    have hmem : g.now.contains e.1 = true := landItems_word_mem he
    rw [show g.landed = [] from hl, List.nil_append, hmem]
    exact Bool.false_ne_true
  have hbad : (if d.winTagged t g.win || g.shadowed then none else ((landItems first f.data).map (·.1)).find? fun w => (d.tile t).full w) = d.landBad t f := by
    rw [landItems_words]; rfl
  unfold Dev.landNow
  simp only [hwords, hbad]
  change (if ((((d.landChecked t f).landAll t (landItems first f.data)).landing t { g with landed := g.landed ++ g.now }).length > 0) then _ else _) = _
  rw [hleft, if_neg (by simp)]
  simp only [hc, g]
  rfl
end

end Sys2Proof.Machine
end

section
/-! PROOFS. A SEND's flit at its destination tile: it lands, waits or is refused (R152, R168, R171, R173, R227). -/

namespace Sys2Proof.Machine

/-! ## A refusal sets out (R168, R233) -/

section
variable (d : Dev) (t n : Nat) (f : Flit) (code : Nat)

/-- Refusing a flit changes the flits, the credits and the refusing tile's verdict. -/
theorem Dev.refuse_keeps {β : Type} (v : Dev → β) (hflits : ∀ d l, v { d with flits := l } = v d) (hcredits : ∀ d l, v { d with credits := l } = v d)
    (hverdict : ∀ d, v (d.failVerdict t 13) = v d) : v (d.refuse t n f code) = v d := by
  have hdrop : v (d.dropFlit f n) = v d := by
    obtain ⟨c, h⟩ := d.dropFlit_eq f n
    rw [h]
    exact (hflits { d with credits := c } _).trans (hcredits d c)
  unfold Dev.refuse
  refine (Dev.when_keeps v hverdict _ _).trans ?_
  split
  · exact (hflits (d.dropFlit f n) _).trans hdrop
  · exact hdrop
theorem Dev.refuse_rd (o : Nat) : (d.refuse t n f code).rd o = d.rd o := d.refuse_keeps t n f code (·.rd o) (fun _ _ => rfl) (fun _ _ => rfl) fun _ => rfl
theorem Dev.refuse_mem : (d.refuse t n f code).mem = d.mem := d.refuse_keeps t n f code Dev.mem (fun _ _ => rfl) (fun _ _ => rfl) fun _ => rfl

theorem Dev.failsWhen_flits (b : Bool) (c : Nat) : (d.when b (·.failVerdict t c)).flits = d.flits :=
  Dev.when_keeps Dev.flits (f := (·.failVerdict t c)) (fun _ => rfl) d b
/-- The flit is gone, and a refusal sets out for its sender. -/
theorem Dev.refuse_flits {me home : Nat} (hme : d.logOf t = some me) (hhome : d.logOf f.src = some home) :
    ∃ r, (d.refuse t n f code).flits = d.flits.filter (fun g => !g.same f) ++ [r] ∧ r.Refuses f code home := by
  unfold Dev.refuse
  simp only [Dev.dropFlit_logOf, hme, hhome]
  rw [Dev.failsWhen_flits]
  exact ⟨_, rfl, rfl, rfl, rfl, rfl, rfl, rfl⟩

end

/-! ## The beat in which a flit lands (R149, R227) -/

/-- The flits that land in the coming beat of a tile, through MEM or through NET, with the words they are granted. -/
def Dev.landGrants (d : Dev) (t me n : Nat) (mem : Bool) : List Flit :=
  (d.grantLand t (d.landers me (n + 1) (if mem then [1] else [0, 3])) (if mem then 1 else 2 - (d.tile t).netCount)
    (if mem then d.banksBefore t else (d.tile t).netBanks)).1

/-- Only flits that come in and are not held are granted words. -/
theorem Dev.mem_grantLand {d : Dev} {t : Nat} {l : List Flit} {c : Nat} {b : BitVec 64} {g : Flit} (h : g ∈ (d.grantLand t l c b).1) :
    ∃ f ∈ l, d.landHeld t f = false ∧ ∃ w, g = { f with now := w } := by
  induction l generalizing c b with
  | nil => cases h
  | cons x xs ih =>
    have hrest {c b} (h : g ∈ (d.grantLand t xs c b).1) : ∃ f ∈ x :: xs, d.landHeld t f = false ∧ ∃ w, g = { f with now := w } := by
      obtain ⟨f, hf, hg⟩ := ih h
      exact ⟨f, List.mem_cons_of_mem _ hf, hg⟩
    unfold Dev.grantLand at h
    split at h
    · exact hrest h
    · next hheld =>
      split at h
      · exact hrest h
      · rcases List.mem_cons.mp h with rfl | h
        · exact ⟨x, List.mem_cons_self, eq_false_of_ne_true hheld, _, rfl⟩
        · exact hrest h

theorem Dev.mem_flits_of_mem_landers {d : Dev} {me n : Nat} {vcs : List Nat} {f : Flit} (h : f ∈ d.landers me n vcs) : f ∈ d.flits := by
  obtain ⟨vc, -, hf⟩ := List.mem_flatMap.mp h
  obtain ⟨p, -, hf⟩ := List.mem_filterMap.mp hf
  exact List.mem_of_find?_eq_some (Option.eq_some_of_filter_eq_some hf)

section
variable {d : Dev} {t me n : Nat} {f : Flit}

theorem Dev.land_refused (hc : f.cargo = .send) (h : d.landOk t f = false) :
    d.land t me n f = (d.refuse t n f FC.WINDOW).tinc t Reg.SP_WINREFUSE := by
  unfold Dev.land
  rw [if_pos (by rw [hc, h]; rfl)]
theorem Dev.land_granted {g : Flit} (h : d.landOk t f = true) (hg : (d.landGrants t me n (decide (f.vc = 1))).find? (·.same f) = some g) :
    d.land t me n f = (d.landNow t n g).upd t (·.tookNet g.now (!decide (f.vc = 1))) := by
  unfold Dev.landGrants at hg
  simp only [decide_eq_true_eq] at hg
  unfold Dev.land
  rw [if_neg (by rw [h]; simp)]
  simp only [hg]
theorem Dev.land_stays (h : d.landOk t f = true) (hg : (d.landGrants t me n (decide (f.vc = 1))).find? (·.same f) = none) :
    d.land t me n f = d := by
  unfold Dev.landGrants at hg
  simp only [decide_eq_true_eq] at hg
  unfold Dev.land
  rw [if_neg (by rw [h]; simp)]
  simp only [hg]

/-- A flit that is held is granted no words, being the only one of its kind (R152, R173). -/
theorem Dev.landGrants_held {mem : Bool} (hheld : d.landHeld t f = true) (huniq : ∀ g ∈ d.flits, g.same f = true → g = f) :
    (d.landGrants t me n mem).find? (·.same f) = none := by
  refine List.find?_eq_none.mpr fun g hg hsame => ?_
  obtain ⟨h, hmem, hfree, w, rfl⟩ := Dev.mem_grantLand hg
  have heq : h = f := huniq h (Dev.mem_flits_of_mem_landers hmem) hsame
  rw [heq, hheld] at hfree
  cases hfree

/-- A SEND that is granted all its words is checked, lands whole and is gone. -/
theorem Dev.land_whole {g : Flit} (hc : f.cargo = .send) (h : d.landOk t f = true) (hl : f.landed = [])
    (hg : (d.landGrants t me n (decide (f.vc = 1))).find? (·.same f) = some g)
    (hnow : g = { f with now := (List.range f.data.length).map (d.winBase t f.win + f.off + ·) }) :
    ∃ ws net, d.land t me n f =
      (((d.landChecked t f).landAll t (landItems (d.winBase t f.win + f.off) f.data)).dropFlit g n).upd t (·.tookNet ws net) := by
  refine ⟨g.now, !decide (f.vc = 1), ?_⟩
  rw [Dev.land_granted h hg]
  congr 1
  rw [hnow]
  exact Dev.landNow_whole n hc hl

/-- What a whole landing leaves: the flit is gone, and its words stand in the scratchpad, full. -/
theorem Dev.land_whole_words {e : Dev} {first : Nat} {g : Flit} {ws : List Nat} {net : Bool} (hg : ∀ h : Flit, h.same g = h.same f)
    (he : e = (((d.landChecked t f).landAll t (landItems first f.data)).dropFlit g n).upd t (·.tookNet ws net)) :
    e.flits = d.flits.filter (fun g => !g.same f) ∧ (∀ o, e.rd o = (d.landChecked t f).rd o)
      ∧ (∀ (k : Nat) (h : k < f.data.length), e.spRd t (first + k) = f.data[k].1 ∧ (e.tile t).full (first + k) = true
        ∧ (e.tile t).poisoned (first + k) = f.data[k].2)
      ∧ ∀ a, a < spAddr t first ∨ spAddr t (first + f.data.length) ≤ a → e.rdByte a = (d.landChecked t f).rdByte a := by
  have hmem : e.mem = ((d.landChecked t f).landAll t (landItems first f.data)).mem := by rw [he, Dev.upd_mem, Dev.dropFlit_mem]
  have htile : e.tile t = (((d.landChecked t f).landAll t (landItems first f.data)).tile t).tookNet ws net := by
    rw [he, Dev.tile_upd_same, Dev.dropFlit_tile]
  refine ⟨?_, fun o => ?_, fun k hk => ?_, fun a ha => ?_⟩
  · rw [he, Dev.upd_flits, Dev.dropFlit_flits, Dev.landAll_flits, Dev.landChecked_flits]
    simp only [hg]
  · rw [he, Dev.upd_rd, Dev.dropFlit_rd, Dev.landAll_rd]
  · have hword := (d.landChecked t f).landAll_spWord t _ (landItems_nodup first f.data) (mem_landItems first hk)
    simp only [Dev.spWord, Prod.mk.injEq] at hword
    obtain ⟨hval, hfull, hpois⟩ := hword
    rw [Dev.spRd_congr hmem, htile]
    exact ⟨hval, hfull, hpois⟩
  · rw [← (d.landChecked t f).landAll_rdByte t first f.data ha]
    unfold Dev.rdByte
    rw [hmem]

end

/-! ## The command -/

theorem doLanding_at {d : Dev} {t inp vc me : Nat} {f : Flit} (hlog : d.logOf t = some me) (hhead : d.headFlit me inp vc = some f) (hdst : f.dst = me)
    (hbeat : f.beat ≤ d.now t) : doLanding t inp vc d = d.land t me (d.now t) f := by
  unfold doLanding
  simp only [hlog, hhead, hdst, hbeat, decide_true, Bool.and_self, if_true]

theorem Dev.headFlit_vc {d : Dev} {me inp vc : Nat} {f : Flit} (h : d.headFlit me inp vc = some f) : f.vc = vc := by
  have := List.find?_some h
  simp only [Bool.and_eq_true, beq_iff_eq] at this
  exact this.2

theorem regImpl_winRefuse (t : TileId) : regImpl (Reg.tile t Reg.SP_WINREFUSE) = BitVec.allOnes 64 := by
  rw [regImpl_tile t _ t.isLt (by decide) (by decide)]; decide
theorem regImpl_spShadow (t : TileId) : regImpl (Reg.tile t Reg.SP_SHADOW) = BitVec.allOnes 64 := by
  rw [regImpl_tile t _ t.isLt (by decide) (by decide)]; decide

theorem Dev.landChecked_of_empty {d : Dev} {t : Nat} {f : Flit} (h : ∀ k < f.data.length, (d.tile t).full (d.winBase t f.win + f.off + k) = false) :
    d.landChecked t f = d := by
  have hbad : d.landBad t f = none := by
    unfold Dev.landBad
    split
    · rfl
    · refine List.find?_eq_none.mpr fun w hw => ?_
      obtain ⟨k, hk, rfl⟩ := List.mem_map.mp hw
      rw [h k (List.mem_range.mp hk)]
      exact Bool.false_ne_true
  unfold Dev.landChecked
  rw [hbad]
/-- A word of a static window that is full counts a violation (R171). -/
theorem Dev.landChecked_counts {d : Dev} {t : Nat} {f : Flit} (hs : f.shadowed = false) (ht : d.winTagged t f.win = false)
    (h : ∃ k < f.data.length, (d.tile t).full (d.winBase t f.win + f.off + k) = true) :
    (d.landChecked t f).trd t Reg.SP_SHADOW = d.trd t Reg.SP_SHADOW + 1 := by
  obtain ⟨k, hk, hfull⟩ := h
  obtain ⟨w, hw⟩ : ∃ w, d.landBad t f = some w := by
    unfold Dev.landBad
    rw [hs, ht]
    exact Option.isSome_iff_exists.mp (List.find?_isSome.mpr ⟨_, List.mem_map.mpr ⟨k, List.mem_range.mpr hk, rfl⟩, hfull⟩)
  unfold Dev.landChecked
  rw [hw]
  exact (Dev.shadowViolation_rd _ _ _ _ _ _ (by decide)).trans (Dev.trd_tinc_same ..)

/-- Settles O15: each clause is a case of a landing, as the device after its crossing finds it. -/
theorem flitsLandWaitOrBounce : Obligations.FlitsLandWaitOrBounce := by
  intro t inp vc errs me home f g s d first isFull granted hlog hhead hdst hbeat hcargo
  have hgrant : granted.1 = d.landGrants t me (d.now t) (decide (f.vc = 1)) := by
    rw [Dev.headFlit_vc hhead]
    by_cases hv : vc = 1
    · subst hv; rfl
    · have hv' : ¬ vc.val = 1 := fun h => hv (Fin.ext h)
      simp only [granted, Dev.landGrants, hv, hv', decide_false, if_false, Bool.false_eq_true]
  have hexec : exec (.landing t inp vc errs) s = s.ok (d.land t me (d.now t) f) := congrArg s.ok (doLanding_at hlog hhead hdst hbeat)
  have hsame (h : g = { f with now := (List.range f.data.length).map (first + ·) }) (x : Flit) : x.same g = x.same f := by rw [h]; rfl
  rw [hgrant]
  refine ⟨fun hbad hhome => ?_, fun hok hl hempty hfind hnow => ?_, fun hok hheld huniq => ?_, fun hok hl hshadowed htagged hfull hfind hnow => ?_⟩
  · refine .of _ (hexec.trans (congrArg s.ok (Dev.land_refused hcargo hbad))) ⟨?_, ?_, .seal fun a => ?_⟩
    · rw [Dev.seal_flits, Dev.tinc_flits]
      exact d.refuse_flits t (d.now t) f FC.WINDOW hlog hhome
    · rw [Dev.trd, Dev.seal_rd_all _ _ (regImpl_winRefuse t), ← Dev.trd, Dev.trd_tinc_same, Dev.trd, Dev.refuse_rd, ← Dev.trd]
    · rw [Dev.tinc_rdByte]
      unfold Dev.rdByte
      rw [Dev.refuse_mem]
  · obtain ⟨ws, net, hland⟩ := Dev.land_whole hcargo hok hl hfind hnow
    obtain ⟨hflits, hrd, hwords, hbytes⟩ := Dev.land_whole_words (hsame hnow) rfl
    rw [← hland] at hflits hrd hwords hbytes
    rw [Dev.landChecked_of_empty hempty] at hrd hbytes
    refine .of _ hexec ⟨hflits, fun k hk => ?_, fun a ha => ?_, .seal fun o _ => hrd o⟩
    · rw [Dev.seal_tile, Dev.seal_spRd]; exact hwords k hk
    · rw [Dev.seal_rdByte]; exact hbytes a ha
  · refine .of _ (hexec.trans (congrArg s.ok (Dev.land_stays hok (Dev.landGrants_held hheld huniq)))) ⟨rfl, .refl _ _⟩
  · obtain ⟨ws, net, hland⟩ := Dev.land_whole hcargo hok hl hfind hnow
    obtain ⟨hflits, hrd, hwords, -⟩ := Dev.land_whole_words (hsame hnow) rfl
    rw [← hland] at hflits hrd hwords
    refine .of _ hexec ⟨hflits, ?_, fun k hk => ?_⟩
    · rw [Dev.trd, Dev.seal_rd_all _ _ (regImpl_spShadow t), hrd]
      exact Dev.landChecked_counts hshadowed htagged hfull
    · rw [Dev.seal_tile]; exact (hwords k hk).2.1

end Sys2Proof.Machine
end

section
/-! PROOFS. Landings held and released, the scrub's reads, and wires steered (R173, R231, R232, R309, R310). -/

namespace Sys2Proof.Machine

/-! ## Reports (R342) -/

theorem mem_insEvent {e x : Event} {l : List Event} : x ∈ insEvent e l ↔ x = e ∨ x ∈ l := by
  induction l with
  | nil => simp [insEvent]
  | cons y ys ih =>
    unfold insEvent
    split
    · simp
    · rw [List.mem_cons, List.mem_cons, ih]; tauto
theorem length_insEvent (e : Event) (l : List Event) : (insEvent e l).length = l.length + 1 := by
  induction l with
  | nil => rfl
  | cons y ys ih =>
    unfold insEvent
    split
    · rfl
    · rw [List.length_cons, ih]; rfl
theorem Dev.draw_events (d : Dev) : d.draw.2.events = d.events := rfl
theorem Dev.reportAt_events (d : Dev) (cls kind idx : Nat) (loc : BitVec 64) : ∃ y : Event, (d.reportAt cls kind idx loc).events = insEvent y d.events
    ∧ y.cls = cls ∧ y.kind = kind ∧ y.idx = idx ∧ y.loc = loc := by
  unfold Dev.reportAt Dev.event
  rw [Dev.draw_events]
  exact ⟨_, rfl, rfl, rfl, rfl, rfl⟩
theorem Dev.reportAt_told (d : Dev) (cls kind idx : Nat) (loc : BitVec 64) :
    ∃ y ∈ (d.reportAt cls kind idx loc).events, y.cls = cls ∧ y.kind = kind ∧ y.idx = idx ∧ y.loc = loc := by
  obtain ⟨y, h, hy⟩ := d.reportAt_events cls kind idx loc
  exact ⟨y, by rw [h]; exact mem_insEvent.mpr (.inl rfl), hy⟩
theorem Dev.draw_lines (d : Dev) : d.draw.2.lines = d.lines := rfl
theorem Dev.reportAt_rd (d : Dev) (cls kind idx : Nat) (loc : BitVec 64) (o : Nat) : (d.reportAt cls kind idx loc).rd o = d.rd o := d.draw_rd o
theorem Dev.draw_mem (d : Dev) : d.draw.2.mem = d.mem := rfl

/-! ## A line that a reader finds in error (R309) -/

theorem Dev.lineAt_setLine (d : Dev) (a : Nat) (l : Line) : (d.setLine a l).lineAt a = l := smGet_smSet_same ..
theorem LineErrs.at_single (a : Nat) (b : Bool) : LineErrs.at' [(a, b)] a = some b := by
  simp [LineErrs.at']
theorem Dev.readLine_corrected (d : Dev) (a : Nat) : (d.readLine a [(a, false)]).2 = d.lineEvent a false := by
  simp only [Dev.readLine, LineErrs.at_single]
theorem Dev.readLine_bad {d : Dev} {a : Nat} (h : (d.lineAt a).poison = false) :
    (d.readLine a [(a, true)]).2 = (d.setLine a { d.lineAt a with poison := true }).lineEvent a true := by
  simp only [Dev.readLine, LineErrs.at_single, h, Bool.false_eq_true, if_false]

/-- The counter of a reader's errors: of lines corrected, or of those it could not correct (R309). -/
def memCount (bad : Bool) : Nat := if bad then Reg.MEM_UNCORR else Reg.MEM_CORR
theorem Dev.lineEvent_eq {d : Dev} {a k : Nat} (bad : Bool) (h : stackOf a = some k) : d.lineEvent a bad =
    (d.inc (memCount bad)).reportAt ((if k < 20 then 6 else 8) + b2n bad) (stackKind k).1 (stackKind k).2 (lineLoc a) := by
  unfold Dev.lineEvent
  rw [h]
  rfl

section
variable {d : Dev} {a k : Nat} (bad : Bool) (h : stackOf a = some k)
include h

/-- A line in error is counted. -/
theorem Dev.lineEvent_counts : (d.lineEvent a bad).seal.rd (memCount bad) = d.rd (memCount bad) + 1 := by
  rw [Dev.seal_rd_all _ _ (by cases bad <;> decide), Dev.lineEvent_eq bad h, Dev.reportAt_rd]
  exact Dev.rd_add_same ..
/-- A line in error is reported, its class by the tier and by whether it was corrected. -/
theorem Dev.lineEvent_told {c : Nat} (hc : c = (if k < 20 then 6 else 8) + b2n bad) : ∃ y ∈ (d.lineEvent a bad).events,
    y.cls = c ∧ y.kind = (stackKind k).1 ∧ y.idx = (stackKind k).2 ∧ y.loc = lineLoc a := by
  rw [Dev.lineEvent_eq bad h, hc]
  exact Dev.reportAt_told ..
theorem Dev.lineEvent_rd {o : Nat} (ho : o ≠ memCount bad) : (d.lineEvent a bad).rd o = d.rd o := by
  rw [Dev.lineEvent_eq bad h, Dev.reportAt_rd]
  exact Dev.rd_add_ne _ _ ho
theorem Dev.lineEvent_mem : (d.lineEvent a bad).mem = d.mem := by
  rw [Dev.lineEvent_eq bad h]
  exact Dev.draw_mem _
theorem Dev.lineEvent_lineAt (x : Nat) : (d.lineEvent a bad).lineAt x = d.lineAt x := by
  rw [Dev.lineEvent_eq bad h]
  exact congrArg (smGet lineReset · (x / 64)) (Dev.draw_lines _)

end

theorem Dev.seal_lineAt (d : Dev) (a : Nat) : d.seal.lineAt a = d.lineAt a := rfl
theorem Dev.seal_events (d : Dev) : d.seal.events = d.events := rfl

/-- The scrub reads the line of a stack in service. -/
theorem doScrub_up {d : Dev} {a k : Nat} (err : Option Bool) (h : stackOf a = some k) (hup : d.stackUp k = true) :
    doScrub a err d = (d.readLine a (err.toList.map (a, ·))).2 := by
  unfold doScrub
  simp only [h, hup, if_true]
  cases err <;> rfl

/-! ## A retirement in effect (R346) -/

theorem Dev.retireNote_rd (d : Dev) (r : Retiree) (b : Bool) {o : Nat} (h : ¬ vrvReg o) : (d.retireNote r b).rd o = d.rd o := Dev.varveLog_rd _ _ _ _ _ _ _ _ h
theorem Dev.inner_wirePend {d e : Dev} (h : d.inner = e.inner) : d.wirePend = e.wirePend := show d.inner.wirePend = e.inner.wirePend by rw [h]
theorem Dev.wf_wirePend (d : Dev) (o hi lo x : Nat) : (d.wf o hi lo x).wirePend = d.wirePend := rfl
theorem Dev.itgStatus_wirePend (d : Dev) (i : Nat) : (d.itgStatus i).wirePend = d.wirePend := Dev.inner_wirePend (Dev.inner_setStatus ..)

theorem Dev.hostOrderEnd_rd (d : Dev) {o : Nat} (hcmd : o ≠ Reg.RETIRE_CMD) (hstatus : o ≠ Reg.RETIRE_STATUS) : d.hostOrderEnd.rd o = d.rd o :=
  ((d.wf Reg.RETIRE_CMD 63 63 0).rd_wr_ne 0 hstatus).trans (d.rd_wf_ne 63 63 0 hcmd)

section
variable (d : Dev) (r : Retiree) (fin : FirnEnd)

/-- A retirement is counted; of the registers outside the varve log it changes the status and the order of ITG and DEV.EVENT. -/
theorem Dev.retired_rd {o : Nat} (hv : ¬ vrvReg o) (h : o ∉ [Reg.ITG_STATUS, Reg.EVENT, Reg.RETIRE_CMD, Reg.RETIRE_STATUS]) :
    (d.retired r fin).rd o = (d.inc Reg.RETIRED).rd o := by
  simp only [List.mem_cons, List.not_mem_nil, or_false, not_or] at h
  obtain ⟨hstatus, hevent, hcmd, hord⟩ := h
  have hcount {x y : Dev} (hxy : x.rd o = y.rd o) : (x.inc Reg.RETIRED).rd o = (y.inc Reg.RETIRED).rd o := by
    by_cases hr : o = Reg.RETIRED
    · subst hr
      unfold Dev.inc
      rw [Dev.rd_add_same, Dev.rd_add_same, hxy]
    · unfold Dev.inc
      rw [Dev.rd_add_ne _ _ hr, Dev.rd_add_ne _ _ hr, hxy]
  unfold Dev.retired
  refine (Dev.when_keeps (·.rd o) (f := (·.hostOrderEnd)) (fun e => e.hostOrderEnd_rd hcmd hord) _ _).trans ?_
  refine (Dev.setStatus_rd _ _ _ _ hstatus hevent).trans (hcount ?_)
  exact (Dev.when_keeps (·.rd o) (f := (·.retireNote r true)) (fun e => e.retireNote_rd r true hv) _ _).trans (d.retireNote_rd r false hv)
theorem Dev.retired_wirePend : (d.retired r fin).wirePend = d.wirePend := by
  unfold Dev.retired
  refine (Dev.when_keeps Dev.wirePend (f := (·.hostOrderEnd)) (fun _ => rfl) _ _).trans ((Dev.itgStatus_wirePend _ _).trans ?_)
  refine (Dev.when_keeps Dev.wirePend (f := (·.retireNote r true)) (fun _ => Dev.inner_wirePend (Dev.inner_varveLog ..)) _ _).trans ?_
  exact Dev.inner_wirePend (Dev.inner_varveLog ..)

end

/-! ## Steering and cutting (R231 to R234) -/

/-- What a port register of a tile, a seam register and a firn list entry leave, a cut leaves. -/
structure WireKeeps {β : Type} (v : Dev → β) : Prop where
  port : ∀ (d : Dev) t hi lo x, v (d.twf t Reg.RT_PORT hi lo x) = v d
  hseam : ∀ (d : Dev) n hi lo x, v (d.wf (Reg.HSEAM n) hi lo x) = v d
  vseam : ∀ (d : Dev) n hi lo x, v (d.wf (Reg.VSEAM n) hi lo x) = v d
  firn : ∀ (d : Dev) l, v (d.firnPut l).1 = v d

section
variable {β : Type} {v : Dev → β} (h : WireKeeps v) (d : Dev)
include h

theorem WireKeeps.cutLink (t p : Nat) : v (d.cutLink t p) = v d := by
  unfold Dev.cutLink
  dsimp only
  split
  · split
    · exact (h.port ..).trans (h.port ..)
    · exact h.port ..
  · exact h.port ..
theorem WireKeeps.setSeamBypass (s b : Nat) : v (d.setSeamBypass s b) = v d := by
  unfold Dev.setSeamBypass
  refine (h.firn ..).trans ((h.vseam ..).trans ?_)
  exact Dev.each_keeps v (fun c _ d => Dev.each_keeps v (fun e _ d => h.port ..) d) d
theorem WireKeeps.cutPort (t p : Nat) : v (d.cutPort t p) = v d := by
  unfold Dev.cutPort
  split
  · exact h.cutLink ..
  · split
    · exact (h.cutLink ..).trans (h.hseam ..)
    · split
      · rfl
      · dsimp only
        split
        · exact (h.setSeamBypass ..).trans (h.vseam ..)
        · exact (h.cutLink ..).trans (h.vseam ..)
theorem WireKeeps.firnList (hlog : ∀ (d : Dev) cls sev kind idx who a b, v (d.varveLog cls sev kind idx who a b) = v d) (lo n step : Nat) (ws : List Nat) :
    v (d.firnList lo n step ws).1 = v d := by
  unfold Dev.firnList
  split
  · exact hlog ..
  · next w _ =>
    have hput := h.firn d ((List.range ws.length).map fun i => (w + i, nth ws i 0))
    split
    · next heq => rw [heq] at hput; exact hput
    · next heq => rw [heq] at hput; exact hput
theorem WireKeeps.steerWire (hlog : ∀ (d : Dev) cls sev kind idx who a b, v (d.varveLog cls sev kind idx who a b) = v d) (t p w : Nat) :
    v (d.steerWire t p w).1 = v d := by
  unfold Dev.steerWire
  dsimp only
  split
  · exact h.cutPort ..
  · exact (h.firnList _ hlog ..).trans (h.port ..)

end

theorem WireKeeps.retired : WireKeeps (fun d => d.rd Reg.RETIRED) where
  port d t hi lo x := d.rd_wf_ne _ _ _ (Reg.tile_ne_low t _ (by decide)).symm
  hseam d n hi lo x := d.rd_wf_ne _ _ _ (by unfold Reg.HSEAM Reg.RETIRED; omega)
  vseam d n hi lo x := d.rd_wf_ne _ _ _ (by unfold Reg.VSEAM Reg.RETIRED; omega)
  firn d l := d.firnPut_rd l _
theorem WireKeeps.wirePend : WireKeeps Dev.wirePend where
  port _ _ _ _ _ := Dev.wf_wirePend ..
  hseam _ _ _ _ _ := Dev.wf_wirePend ..
  vseam _ _ _ _ _ := Dev.wf_wirePend ..
  firn d l := by unfold Dev.firnPut; split <;> rfl

/-- A link direction with a spare left takes it for the failed wire (R231). -/
theorem Dev.steerWire_takes {d : Dev} {t p : Nat} (w : Nat) (hp : p < 4) (h : d.trf t Reg.RT_PORT (8 * p + 4) (8 * p) < d.spareCap t p) :
    (d.steerWire t p w).1.trf t Reg.RT_PORT (8 * p + 4) (8 * p) = d.trf t Reg.RT_PORT (8 * p + 4) (8 * p) + 1 := by
  have hcap : d.spareCap t p ≤ 16 := by unfold Dev.spareCap; split <;> omega
  generalize hused : d.trf t Reg.RT_PORT (8 * p + 4) (8 * p) = used at h
  have hlist (e : Dev) (ws : List Nat) : (e.firnList 0x1000 1024 1 ws).1.rd (Reg.tile t Reg.RT_PORT) = e.rd (Reg.tile t Reg.RT_PORT) := by
    unfold Dev.firnList
    split
    · exact Dev.varveLog_rd _ _ _ _ _ _ _ _ (by unfold vrvReg Reg.tile; omega)
    · next x _ =>
      have hput := e.firnPut_rd ((List.range ws.length).map fun i => (x + i, nth ws i 0)) (Reg.tile t Reg.RT_PORT)
      split
      · next heq => rw [heq] at hput; exact hput
      · next heq => rw [heq] at hput; exact hput
  unfold Dev.steerWire
  simp only [hused]
  rw [if_neg (by omega)]
  refine (Dev.rf_congr (hlist _ _) _ _).trans ((Dev.rf_wf_same _ _ _ _ _ (by omega) (by omega)).trans ?_)
  rw [show 8 * p + 4 + 1 - 8 * p = 5 by omega]
  exact Nat.mod_eq_of_lt (by omega)

theorem regImpl_rtPort (t : Nat) (h : t < 1664) : regImpl (Reg.tile t Reg.RT_PORT) = w64 (mk 31 0) := by
  rw [regImpl_tile t _ h (by decide) (by decide)]; decide

section
variable (d : Dev) (x : WireOrder)

theorem Dev.wireEffect_eq : ∃ fin, d.wireEffect x =
    (({ d with wirePend := d.wirePend.erase x } : Dev).steerWire x.tile x.port x.wire).1.retired (.wire x.tile x.port x.wire) fin := ⟨_, rfl⟩
theorem Dev.wireEffect_wirePend : (d.wireEffect x).wirePend = d.wirePend.erase x := by
  obtain ⟨fin, h⟩ := d.wireEffect_eq x
  rw [h, Dev.retired_wirePend]
  exact WireKeeps.wirePend.steerWire _ (fun d cls sev kind idx who a b => Dev.inner_wirePend (Dev.inner_varveLog ..)) _ _ _
theorem Dev.wireEffect_counts : (d.wireEffect x).rd Reg.RETIRED = d.rd Reg.RETIRED + 1 := by
  obtain ⟨fin, h⟩ := d.wireEffect_eq x
  rw [h, Dev.retired_rd _ _ _ (by unfold vrvReg; decide) (by decide), Dev.inc, Dev.rd_add_same]
  exact congrArg (· + 1) (WireKeeps.retired.steerWire _ (fun d cls sev kind idx who a b => Dev.varveLog_rd _ _ _ _ _ _ _ _ (by unfold vrvReg; decide)) _ _ _)
theorem Dev.wireEffect_spare (hp : x.port < 4)
    (h : d.trf x.tile Reg.RT_PORT (8 * x.port + 4) (8 * x.port) < d.spareCap x.tile x.port) :
    (d.wireEffect x).trf x.tile Reg.RT_PORT (8 * x.port + 4) (8 * x.port) = d.trf x.tile Reg.RT_PORT (8 * x.port + 4) (8 * x.port) + 1 := by
  obtain ⟨fin, heq⟩ := d.wireEffect_eq x
  have hlow {o : Nat} (ho : o < 0x1000000) : Reg.tile x.tile Reg.RT_PORT ≠ o := Reg.tile_ne_low _ _ ho
  rw [heq]
  refine (Dev.rf_congr (((Dev.retired_rd _ _ _ (by unfold vrvReg Reg.tile; omega) ?_)).trans (Dev.rd_add_ne _ _ (hlow (by decide)))) _ _).trans ?_
  · simp only [List.mem_cons, List.not_mem_nil, or_false, not_or]
    exact ⟨hlow (by decide), hlow (by decide), hlow (by decide), hlow (by decide)⟩
  · exact Dev.steerWire_takes (d := { d with wirePend := d.wirePend.erase x }) x.wire hp h

end

/-! ## The commands -/

/-- Settles O26: the landing is that of an arriving flit, the scrub's read that of any reader, and the steering that of the oldest wire whose beat
has come. -/
theorem heldLandingsScrubAndSteering : Obligations.HeldLandingsScrubAndSteering := by
  intro s d
  refine ⟨?_, fun a k hk hup => ⟨?_, ?_, fun hpoison => ?_⟩, fun x hx => ?_, fun h => ?_⟩
  · intro t me f g hlog hfind hc hvc hok hl first hgrant hnow
    have hgrant' : (d.landGrants t me (d.now t) (decide (f.vc = 1))).find? (·.same f) = some g := by
      rw [decide_eq_false hvc]; exact hgrant
    obtain ⟨ws, net, hland⟩ := Dev.land_whole hc hok hl hgrant' hnow
    obtain ⟨hflits, -, hwords, -⟩ := Dev.land_whole_words (g := g) (f := f) (fun h => by rw [hnow]; rfl) rfl
    rw [← hland] at hflits hwords
    refine .of (d.land t me (d.now t) f) (congrArg s.ok ?_) ⟨hflits, fun k hk => ?_⟩
    · change doRelease' t.val d = _
      unfold doRelease'
      simp only [hlog, hfind]
    · obtain ⟨hval, hfull, -⟩ := hwords k hk
      rw [Dev.seal_tile, Dev.seal_spRd]
      exact ⟨hval, hfull⟩
  · exact .unchanged (congrArg s.ok (doScrub_up none hk hup))
  · refine .of _ (congrArg s.ok ((doScrub_up (some false) hk hup).trans (d.readLine_corrected _))) ⟨?_, ?_, ?_, ?_⟩
    · exact Dev.lineEvent_counts false hk
    · rw [Dev.seal_events]
      exact Dev.lineEvent_told false hk rfl
    · exact .seal fun o ho => Dev.lineEvent_rd false hk fun h => ho (List.mem_singleton.mpr h)
    · refine .seal fun x => ?_
      unfold Dev.rdByte
      rw [Dev.lineEvent_mem false hk]
  · refine .of _ (congrArg s.ok ((doScrub_up (some true) hk hup).trans (Dev.readLine_bad hpoison))) ⟨?_, ?_, ?_⟩
    · exact Dev.lineEvent_counts true hk
    · rw [Dev.seal_lineAt, Dev.lineEvent_lineAt true hk, Dev.lineAt_setLine]
    · rw [Dev.seal_events]
      exact Dev.lineEvent_told true hk (by split <;> rfl)
  · refine .of (d.wireEffect x) (congrArg s.ok ?_) ⟨d.wireEffect_wirePend x, ?_, fun ht hp hused => ?_⟩
    · unfold doWireSteering
      rw [hx]
    · rw [Dev.seal_rd_all _ _ (by decide)]
      exact d.wireEffect_counts x
    · have hmask : w64 (mk 31 0) &&& maskOf (8 * x.port + 4) (8 * x.port) = maskOf (8 * x.port + 4) (8 * x.port) := by
        have : ∀ p < 4, w64 (mk 31 0) &&& maskOf (8 * p + 4) (8 * p) = maskOf (8 * p + 4) (8 * p) := by decide
        exact this _ hp
      rw [Dev.trf, Dev.seal_rf _ _ _ _ (by rw [regImpl_rtPort _ ht]; exact hmask) (by omega) (by omega)]
      exact d.wireEffect_spare x hp hused
  · refine .unchanged (congrArg s.ok ?_)
    unfold doWireSteering
    rw [h]

end Sys2Proof.Machine
end

section
/-! PROOFS. What a crossing's correction finds is counted and reported, and neither a landing nor a flit that passes changes those counts (R230, R343). -/

namespace Sys2Proof.Machine

/-! ## The registers of tiles when a transfer ends (R217, R318) -/

section
variable (d : Dev) {o : Nat} (h : 0x1000000 ≤ o)
include h

theorem Dev.syncFrame_rd (f : Nat) : (d.syncFrame f).rd o = d.rd o := by
  unfold Dev.syncFrame
  split
  · next s _ =>
    have hne : o ≠ Reg.STACK s := by unfold Reg.STACK; omega
    exact (Dev.rd_wf_ne _ _ _ _ hne).trans (Dev.rd_wf_ne _ _ _ _ hne)
  · rfl
theorem Dev.useAdd_rd (p : Page) (tier : Nat) (b : Bool) : (d.useAdd p tier b).rd o = d.rd o := by
  have hctx : o ≠ Reg.UCTX p.ctx := by unfold Reg.UCTX; omega
  unfold Dev.useAdd
  dsimp only
  split
  · next k _ => exact (Dev.rd_wf_ne _ _ _ _ (by unfold Reg.UCLS; omega)).trans (Dev.rd_wf_ne _ _ _ _ hctx)
  · exact Dev.rd_wf_ne _ _ _ _ hctx
omit h in
theorem Dev.reLeaf_rd (p : Page) (f : Nat → Nat) : (d.reLeaf p f).rd o = d.rd o := by
  unfold Dev.reLeaf
  refine Dev.each_keeps (·.rd o) (fun m _ d => ?_) d
  split
  · exact Dev.store_rd ..
  · rfl
omit h in
theorem Dev.placeIn_rd (tier : Nat) (b : Bool) : (d.placeIn tier b).2.rd o = d.rd o := by
  unfold Dev.placeIn Dev.placeOn
  split
  · rfl
  · dsimp only
    split
    · exact d.draw_rd o
    · exact d.draw_rd o
theorem Dev.startMove_rd (p : Page) (dst : Nat) (why : MoveWhy) : (d.startMove p dst why).rd o = d.rd o :=
  (Dev.syncFrame_rd _ h _).trans ((Dev.reLeaf_rd ..).trans ((Dev.useAdd_rd _ h _ _ _).trans rfl))
theorem Dev.moveTo_rd (p : Page) (tier : Nat) (why : MoveWhy) : (d.moveTo p tier why).1.rd o = d.rd o := by
  have hplace := d.placeIn_rd tier p.large (o := o)
  unfold Dev.moveTo
  split
  · next heq => rw [heq] at hplace; exact (Dev.startMove_rd _ h _ _ _).trans hplace
  · next heq => rw [heq] at hplace; exact hplace
theorem Dev.serveRepairs_rd : d.serveRepairs.rd o = d.rd o := by
  unfold Dev.serveRepairs
  refine Dev.each_keeps (·.rd o) (fun r _ d => ?_) d
  split
  · split
    · rfl
    · exact Dev.moveTo_rd _ h _ _ _
  · rfl
theorem Dev.dropXfer_rd (t id : Nat) : (d.dropXfer t id).rd o = d.rd o := by
  unfold Dev.dropXfer
  dsimp only
  split
  · exact (Dev.serveRepairs_rd _ h).trans ((Dev.syncFrame_rd _ h _).trans rfl)
  · rfl

end

/-! ## A tile's registers when a flit lands or passes -/

/-- The registers of a tile that a landing may change: the counters of refusals and of shadow-tag violations, and the violation's record. -/
def landRegs : List Nat := [Reg.SP_WINREFUSE, Reg.SP_SHADOW, Reg.SHADOW_REC, Reg.SHADOW_BEAT, Reg.SHADOW_FRAME]

section
variable {d : Dev} {t : Nat} {o : Nat} (h : o ∉ landRegs)
include h

theorem Dev.landNow_trd (n : Nat) (f : Flit) : (d.landNow t n f).trd t o = d.trd t o := by
  have hge : 0x1000000 ≤ Reg.tile t o := by unfold Reg.tile; omega
  have hcount : o ≠ Reg.SP_SHADOW := fun heq => h (heq ▸ by decide)
  have hshadow (e : Dev) (slot win w : Nat) : (e.shadowViolation t slot win w true).trd t o = e.trd t o :=
    (e.shadowViolation_rd t slot win w true fun hm => h (by simp only [landRegs, List.mem_cons] at hm ⊢; tauto)).trans
      (Dev.rd_add_ne _ _ (Reg.tile_ne t hcount))
  unfold Dev.landNow
  extract_lets es bad d₁ d₂ left d₃
  have h₂ : d₂.trd t o = d.trd t o := by
    refine (Dev.landAll_rd d₁ t es _).trans ?_
    unfold d₁
    generalize bad = b
    cases b with
    | some w => exact hshadow ..
    | none => rfl
  have h₃ : d₃.trd t o = d.trd t o := (Dev.dropFlit_rd ..).trans h₂
  split
  · exact h₂
  · split
    · split
      · split
        · exact (Dev.dropXfer_rd _ hge _ _).trans h₃
        · exact h₃
      · exact h₃
    · exact h₃
theorem Dev.land_trd (me n : Nat) (f : Flit) : (d.land t me n f).trd t o = d.trd t o := by
  unfold Dev.land
  split
  · have hne : o ≠ Reg.SP_WINREFUSE := fun heq => h (heq ▸ by decide)
    exact (Dev.rd_add_ne _ _ (Reg.tile_ne t hne)).trans (Dev.refuse_rd ..)
  · dsimp only
    split
    · rfl
    · exact Dev.landNow_trd h n _
theorem doLanding_trd (inp vc : Nat) : (doLanding t inp vc d).trd t o = d.trd t o := by
  unfold doLanding
  split
  · rfl
  · split
    · split
      · exact Dev.land_trd h _ _ _
      · rfl
    · rfl

end

theorem Dev.startFlit_rd (d : Dev) (t me p n : Nat) (f : Flit) (o : Nat) : (d.startFlit t me p n f).rd o = d.rd o := by
  unfold Dev.startFlit
  refine (Dev.dropFlit_rd ..).trans ?_
  exact Dev.when_keeps (·.rd o) (f := (·.upd t (·.useEntry f n))) (fun e => e.upd_rd t _ _) _ _
theorem doFlitArrival_rd (d : Dev) (t inp vc o : Nat) : (doFlitArrival t inp vc d).rd o = d.rd o := by
  unfold doFlitArrival
  split
  · rfl
  · split
    · rfl
    · dsimp only
      split
      · rfl
      · split
        · rfl
        · split
          · exact Dev.refuse_rd ..
          · split
            · exact Dev.startFlit_rd ..
            · rfl

/-! ## A flit crosses its link (R230) -/

/-- A flit whose crossing has been checked: a double error poisons its words. -/
def Flit.checked (f : Flit) (e : FlitErrs) : Flit := { f with seen := true, data := if e.double then f.data.map fun x => (x.1, true) else f.data }
/-- The device once the errors of a crossing are counted and reported. -/
def Dev.crossCounted (d : Dev) (t inp : Nat) (e : FlitErrs) : Dev :=
  ((d.tadd t Reg.RT_CORR e.corr.length).each e.corr fun d (w : Fin 2064) => d.report 2 t (w64 (inp + 4 * w.val))).when e.double
    fun d => (d.tinc t Reg.RT_DOUBLE).report 3 t (w64 inp)

theorem Dev.tinc_events (d : Dev) (t o : Nat) : (d.tinc t o).events = d.events := rfl
theorem Dev.tadd_events (d : Dev) (t o n : Nat) : (d.tadd t o n).events = d.events := rfl
theorem Flit.same_self (f : Flit) : f.same f = true := by simp [Flit.same]

section
variable {d : Dev} {t inp vc me : Nat} {e : FlitErrs} {f : Flit}

theorem Dev.crossed_eq (hlog : d.logOf t = some me) (hhead : d.headFlit me inp vc = some f) (hseen : f.seen = false) :
    d.crossed t inp vc e = (d.crossCounted t inp e).updFlit f (·.checked e) := by
  have hbind : (d.logOf t).bind (d.headFlit · inp vc) = some f := by rw [hlog]; exact hhead
  unfold Dev.crossed
  rw [hbind]
  dsimp only
  rw [hseen]
  rfl

theorem Dev.report_flits (d : Dev) (cls t : Nat) (loc : W64) : (d.report cls t loc).flits = d.flits := rfl
theorem Dev.crossCounted_flits : (d.crossCounted t inp e).flits = d.flits := by
  unfold Dev.crossCounted
  refine (Dev.when_keeps Dev.flits (f := fun d => (d.tinc t Reg.RT_DOUBLE).report 3 t (w64 inp)) (fun d => ?_) _ _).trans ?_
  · rw [Dev.report_flits, Dev.tinc_flits]
  · refine (Dev.each_keeps Dev.flits (fun _ _ d => d.report_flits ..) _).trans ?_
    exact Dev.wr_flits ..

/-- The oldest flit of the port and channel, after its crossing. -/
theorem Dev.crossed_headFlit (hlog : d.logOf t = some me) (hhead : d.headFlit me inp vc = some f) (hseen : f.seen = false) :
    (d.crossed t inp vc e).headFlit me inp vc = some (f.checked e) := by
  have hplace (g : Flit) : (if g.same f then g.checked e else g).at' = g.at' ∧ (if g.same f then g.checked e else g).inp = g.inp
      ∧ (if g.same f then g.checked e else g).vc = g.vc := by split <;> exact ⟨rfl, rfl, rfl⟩
  rw [Dev.crossed_eq hlog hhead hseen]
  unfold Dev.headFlit Dev.updFlit updIf
  dsimp only
  rw [Dev.crossCounted_flits, List.find?_map]
  have hpred : ((fun g : Flit => g.at' == me && g.inp == inp && g.vc == vc) ∘ fun g : Flit => if g.same f then g.checked e else g)
      = fun g => g.at' == me && g.inp == inp && g.vc == vc := by
    funext g
    obtain ⟨hat, hinp, hvc⟩ := hplace g
    simp only [Function.comp_apply, hat, hinp, hvc]
  rw [hpred]
  unfold Dev.headFlit at hhead
  rw [hhead, Option.map_some]
  exact congrArg some (if_pos f.same_self)

variable (d t inp e) in
/-- What a crossing counts, of lanes corrected and of double errors. -/
theorem Dev.crossCounted_counts :
    (d.crossCounted t inp e).trd t Reg.RT_CORR = d.trd t Reg.RT_CORR + w64 e.corr.length
      ∧ (d.crossCounted t inp e).trd t Reg.RT_DOUBLE = d.trd t Reg.RT_DOUBLE + w64 (b2n e.double) := by
  have heach (o : Nat) (d : Dev) : (d.each e.corr fun d (w : Fin 2064) => d.report 2 t (w64 (inp + 4 * w.val))).trd t o = d.trd t o :=
    Dev.each_keeps (·.trd t o) (fun _ _ d => d.report_rd 2 t _ (Reg.tile t o)) d
  have hne : Reg.tile t Reg.RT_CORR ≠ Reg.tile t Reg.RT_DOUBLE := Reg.tile_ne t (by decide)
  unfold Dev.crossCounted
  constructor
  · refine (Dev.when_keeps (·.trd t Reg.RT_CORR) (f := fun d => (d.tinc t Reg.RT_DOUBLE).report 3 t (w64 inp))
      (fun d => (Dev.report_rd ..).trans (Dev.rd_add_ne _ _ hne)) _ _).trans ?_
    exact (heach _ _).trans (Dev.rd_add_same ..)
  · have hcorr := (heach Reg.RT_DOUBLE (d.tadd t Reg.RT_CORR e.corr.length)).trans (Dev.rd_add_ne _ _ hne.symm)
    cases e.double with
    | true => exact (Dev.report_rd ..).trans ((Dev.trd_tinc_same ..).trans (congrArg (· + 1) hcorr))
    | false => exact hcorr.trans (BitVec.add_zero _).symm

/-- Events reported one for each element of a list: each is told, those before stay, and no more are added. -/
theorem Dev.eachReport_events {α : Type} (d : Dev) (l : List α) (cls t : Nat) (loc : α → W64) :
    let c := d.each l fun d w => d.report cls t (loc w)
    (∀ w ∈ l, ∃ y ∈ c.events, y.cls = cls ∧ y.kind = 0 ∧ y.idx = t ∧ y.loc = loc w) ∧ (∀ y ∈ d.events, y ∈ c.events)
      ∧ c.events.length = d.events.length + l.length := by
  induction l generalizing d with
  | nil => exact ⟨fun _ h => absurd h List.not_mem_nil, fun _ h => h, rfl⟩
  | cons w ws ih =>
    obtain ⟨htold, hkept, hlen⟩ := ih (d.report cls t (loc w))
    obtain ⟨y, hy, hfields⟩ := d.reportAt_events cls 0 t (loc w)
    have hin : y ∈ (d.report cls t (loc w)).events := by rw [Dev.report, hy]; exact mem_insEvent.mpr (.inl rfl)
    have hold (z : Event) (hz : z ∈ d.events) : z ∈ (d.report cls t (loc w)).events := by
      rw [Dev.report, hy]; exact mem_insEvent.mpr (.inr hz)
    refine ⟨fun x hx => ?_, fun z hz => hkept z (hold z hz), ?_⟩
    · rcases List.mem_cons.mp hx with rfl | hx
      · exact ⟨y, hkept y hin, hfields⟩
      · exact htold x hx
    · rw [Dev.each, List.foldl_cons]
      refine hlen.trans ?_
      rw [Dev.report, hy, length_insEvent, List.length_cons]
      omega

variable (d t inp e) in
/-- What a crossing reports: each lane corrected, and a double error. -/
theorem Dev.crossCounted_events :
    let c := d.crossCounted t inp e
    (∀ w ∈ e.corr, ∃ y ∈ c.events, y.cls = 2 ∧ y.kind = 0 ∧ y.idx = t ∧ y.loc = w64 (inp + 4 * w.val))
      ∧ (e.double = true → ∃ y ∈ c.events, y.cls = 3 ∧ y.kind = 0 ∧ y.idx = t ∧ y.loc = w64 inp) ∧ (∀ y ∈ d.events, y ∈ c.events)
      ∧ c.events.length = d.events.length + e.corr.length + b2n e.double := by
  obtain ⟨htold, hkept, hlen⟩ := (d.tadd t Reg.RT_CORR e.corr.length).eachReport_events e.corr 2 t fun w => w64 (inp + 4 * w.val)
  rw [Dev.tadd_events] at hkept hlen
  unfold Dev.crossCounted
  generalize hc : ((d.tadd t Reg.RT_CORR e.corr.length).each e.corr fun d (w : Fin 2064) => d.report 2 t (w64 (inp + 4 * w.val))) = c at htold hkept hlen ⊢
  cases e.double with
  | false => exact ⟨htold, fun h => absurd h Bool.false_ne_true, hkept, hlen⟩
  | true =>
    obtain ⟨y, hy, hfields⟩ := (c.tinc t Reg.RT_DOUBLE).reportAt_events 3 0 t (w64 inp)
    have hev : (c.when true fun d => (d.tinc t Reg.RT_DOUBLE).report 3 t (w64 inp)).events = insEvent y c.events := by
      rw [Dev.when, if_pos rfl, Dev.report, hy, Dev.tinc_events]
    dsimp only
    rw [hev]
    refine ⟨fun w hw => ?_, fun _ => ⟨y, mem_insEvent.mpr (.inl rfl), hfields⟩, fun z hz => mem_insEvent.mpr (.inr (hkept z hz)), ?_⟩
    · obtain ⟨z, hz, hzf⟩ := htold w hw
      exact ⟨z, mem_insEvent.mpr (.inr hz), hzf⟩
    · rw [length_insEvent, hlen]; rfl

end

end Sys2Proof.Machine
end

section
/-! PROOFS. The events of the die network (R157, R168, R213, R219 to R243). -/

namespace Sys2Proof.Machine

/-! ## A flit that passes (R213, R219 to R223, R226) -/

section
variable {d : Dev} {t inp vc me p : Nat} {f : Flit}

/-- A SEND on its way leaves by the port of its armed entry. -/
theorem Dev.wants_send {n : Nat} (hc : f.cargo = .send) (hi : f.inp < 4) (hdst : f.dst ≠ me) :
    d.wants t me f n = ((d.tile t).entryFor f n).map (·.outp) := by
  unfold Dev.wants
  rw [hc]
  dsimp only
  rw [if_neg (Nat.not_le.mpr hi), if_neg hdst]

section
variable (hlog : d.logOf t = some me) (hhead : d.headFlit me inp vc = some f)
include hlog hhead

theorem doFlitArrival_stays (hw : d.wants t me f (d.now t) = none) : doFlitArrival t inp vc d = d := by
  unfold doFlitArrival
  simp only [hlog, hhead, hw, ite_self]

variable (hdst : f.dst ≠ me) (hbeat : f.beat ≤ d.now t)
include hdst hbeat

theorem doFlitArrival_refused (hc : f.cargo = .send) (hw : d.wants t me f (d.now t) = some p) (hhop : d.hop me p = none) :
    doFlitArrival t inp vc d = d.refuse t (d.now t) f FC.ROUTE := by
  unfold doFlitArrival
  simp [hlog, hhead, hw, hc, hhop, hdst, hbeat]
theorem doFlitArrival_starts {nx : Nat} (hw : d.wants t me f (d.now t) = some p) (hhop : d.hop me p = some nx)
    (hnext : d.nextFlit t me p (d.now t) = some f) : doFlitArrival t inp vc d = d.startFlit t me p (d.now t) f := by
  unfold doFlitArrival
  simp [hlog, hhead, hw, hhop, hnext, hdst, hbeat]

end

/-- A SEND starts over a link: it is on its way to the neighbour, the link is taken, and its entry is used. -/
theorem Dev.startFlit_send {n nx h : Nat} (hc : f.cargo = .send) (hi : f.inp < 4) (hn : neighbour me p = some (nx, h)) :
    (d.startFlit t me p n f).flits = d.flits.filter (fun g => !g.same f)
        ++ [{ f with at' := nx, inp := oppPort p, beat := n + h, held := 0, seen := false }]
      ∧ ((d.startFlit t me p n f).link (4 * me + p)).free = n + slotLen me p
      ∧ ((d.startFlit t me p n f).tile t).fwd = ((d.tile t).useEntry f n).fwd := by
  have huse : (f.cargo == .send && decide (f.inp < 4)) = true := by rw [hc, decide_eq_true hi]; rfl
  have heq : d.startFlit t me p n f =
      { ((d.takeLink (4 * me + p) (slotLen me p) f.vc n).upd t (·.useEntry f n)).dropFlit f n with
        flits := d.flits.filter (fun g => !g.same f) ++ [{ f with at' := nx, inp := oppPort p, beat := n + h, held := 0, seen := false }] } := by
    unfold Dev.startFlit
    rw [huse, hn]
    rfl
  obtain ⟨c, hdrop⟩ := ((d.takeLink (4 * me + p) (slotLen me p) f.vc n).upd t (·.useEntry f n)).dropFlit_eq f n
  rw [heq]
  refine ⟨rfl, ?_, ?_⟩
  · rw [hdrop]
    exact congrArg LinkUse.free (smGet_smSet_same ..)
  · refine congrArg Tile.fwd ((Dev.dropFlit_tile ..).trans ?_)
    rw [Dev.tile_upd_same]
    rfl

end

theorem Dev.headFlit_inp {d : Dev} {me inp vc : Nat} {f : Flit} (h : d.headFlit me inp vc = some f) : f.inp = inp := by
  have := List.find?_some h
  simp only [Bool.and_eq_true, beq_iff_eq] at this
  exact this.1.2

/-! ## A refusal faults its sender (R168) -/

section
variable (d : Dev) (t slot code pc : Nat)

theorem Dev.varveLog_flits (cls sev kind idx : Nat) (who : Who) (a b : W64) : (d.varveLog cls sev kind idx who a b).flits = d.flits :=
  Dev.inner_flits (Dev.inner_varveLog ..)
theorem Dev.wf_flits (o hi lo x : Nat) : (d.wf o hi lo x).flits = d.flits := rfl
theorem Dev.twf_flits (o hi lo x : Nat) : (d.twf t o hi lo x).flits = d.flits := rfl
theorem Dev.failVerdict_flits (c : Nat) : (d.failVerdict t c).flits = d.flits := rfl
theorem Dev.failVerdict_rd (c o : Nat) : (d.failVerdict t c).rd o = d.rd o := rfl

/-- A context's register takes the code of the first fault of its tiles. -/
def Dev.ctxFaulted (d : Dev) (c t code : Nat) : Dev :=
  d.when (d.rf (Reg.CTX c) 47 40 == 0) fun d => ((d.wf (Reg.CTX c) 47 40 code).wf (Reg.CTX c) 10 0 t).wf (Reg.CTX c) 63 61 6
theorem Dev.ctxFaulted_flits (c : Nat) : (d.ctxFaulted c t code).flits = d.flits :=
  Dev.when_keeps Dev.flits (f := fun d => ((d.wf (Reg.CTX c) 47 40 code).wf (Reg.CTX c) 10 0 t).wf (Reg.CTX c) 63 61 6)
    (fun d => by rw [Dev.wf_flits, Dev.wf_flits, Dev.wf_flits]) d _
theorem Dev.ctxFaulted_rd (c : Nat) {o : Nat} (h : o ≠ Reg.CTX c) : (d.ctxFaulted c t code).rd o = d.rd o :=
  Dev.when_keeps (·.rd o) (f := fun d => ((d.wf (Reg.CTX c) 47 40 code).wf (Reg.CTX c) 10 0 t).wf (Reg.CTX c) 63 61 6)
    (fun d => by rw [Dev.rd_wf_ne _ _ _ _ h, Dev.rd_wf_ne _ _ _ _ h, Dev.rd_wf_ne _ _ _ _ h]) d _

/-- A fault is recorded in the slot's register and the context's, in the varve log, and in the verdict of a cadence context's tile. -/
theorem Dev.recordFault_eq : ∃ (c : Nat) (who : Who) (a b : W64) (cad : Bool) (cause : Nat), d.recordFault t slot code pc =
    let e := ((((d.twf t (Reg.CTXSTATE slot) 47 40 code).twf t (Reg.CTXSTATE slot) 36 24 pc).twf t (Reg.CTXSTATE slot) 2 0 6).ctxFaulted c t code).varveLog
      13 2 0 t who a b
    if cad then e.failVerdict t cause else e :=
  ⟨_, _, _, _, _, _, rfl⟩
theorem Dev.recordFault_flits : (d.recordFault t slot code pc).flits = d.flits := by
  obtain ⟨c, who, a, b, cad, cause, h⟩ := d.recordFault_eq t slot code pc
  rw [h]
  cases cad
  all_goals
    simp only [if_true, if_false, Bool.false_eq_true, Dev.failVerdict_flits, Dev.varveLog_flits, Dev.ctxFaulted_flits, Dev.twf_flits]
theorem Dev.recordFault_ctxState : (d.recordFault t slot code pc).trd t (Reg.CTXSTATE slot) =
    put (put (put (d.trd t (Reg.CTXSTATE slot)) 47 40 code) 36 24 pc) 2 0 6 := by
  obtain ⟨c, who, a, b, cad, cause, h⟩ := d.recordFault_eq t slot code pc
  have hvrv : ¬ vrvReg (Reg.tile t (Reg.CTXSTATE slot)) := by unfold vrvReg Reg.tile; omega
  have hctx : Reg.tile t (Reg.CTXSTATE slot) ≠ Reg.CTX c := Reg.tile_ne_low _ _ (by unfold Reg.CTX; omega)
  rw [h, Dev.trd]
  cases cad
  all_goals
    simp only [if_true, if_false, Bool.false_eq_true, Dev.failVerdict_rd]
    rw [Dev.varveLog_rd _ _ _ _ _ _ _ _ hvrv, Dev.ctxFaulted_rd _ _ _ _ hctx, Dev.twf, Dev.rd_wf_same, Dev.twf, Dev.rd_wf_same, Dev.twf, Dev.rd_wf_same,
      Dev.trd]

variable {d t slot}

/-- A fault from outside of a context that is not running faults it at once. -/
theorem Dev.asyncFault_waiting (hrun : ¬ ((d.tile t).slot = slot ∧ (d.tile t).mode = .running)) (h₆ : d.slotState t slot ≠ 6)
    (h₀ : d.slotState t slot ≠ 0) : d.asyncFault t slot code pc = d.recordFault t slot code pc := by
  have hno : ((d.tile t).slot == slot && (d.tile t).mode == .running) = false := by
    rw [← Bool.not_eq_true, Bool.and_eq_true, beq_iff_eq, beq_iff_eq]; exact hrun
  unfold Dev.asyncFault Dev.raiseFault Dev.ctxFault
  simp [hno, h₆, h₀]

/-- The fault of a context whose code fits its field is FAULTED (state 6) with that code. -/
theorem Dev.recordFault_seal (u : TileId) {slot : Nat} (hcode : code < 256) :
    (d.recordFault u slot code pc).seal.slotState u slot = 6 ∧ (d.recordFault u slot code pc).seal.trf u (Reg.CTXSTATE slot) 47 40 = code := by
  have hreg := d.recordFault_ctxState u slot code pc
  unfold Dev.trd at hreg
  unfold Dev.slotState Dev.trf
  rw [Dev.seal_rf _ _ _ _ (by rw [regImpl_ctxState]; decide) (by decide) (by decide),
    Dev.seal_rf _ _ _ _ (by rw [regImpl_ctxState]; decide) (by decide) (by decide), Dev.rf, hreg, Dev.rf, hreg]
  refine ⟨?_, ?_⟩
  · exact fld_put_same _ _ _ _ (by decide) (by decide)
  · simp (disch := decide) only [fld_put_other, fld_put_same]
    exact Nat.mod_eq_of_lt hcode

end

/-- A refusal that has come to its sender's tile ends there, and its context faults at once where it is not running. -/
theorem doRefusalArrival_waiting {d : Dev} {t code : Nat} {f : Flit} (hfind : d.flits.find? (d.refusalAt t) = some f) (hc : f.cargo = .refusal code)
    (hctx : d.ctxOf t f.slot = f.ctx) (hrun : ¬ ((d.tile t).slot = f.slot ∧ (d.tile t).mode = .running)) (h₆ : d.slotState t f.slot ≠ 6)
    (h₀ : d.slotState t f.slot ≠ 0) : doRefusalArrival t d = (d.dropFlit f (d.now t)).recordFault t f.slot code f.pc := by
  have hctx' : (d.dropFlit f (d.now t)).ctxOf t f.slot = f.ctx := (Dev.rf_congr (Dev.dropFlit_rd ..) 53 48).trans hctx
  have hstate : (d.dropFlit f (d.now t)).slotState t f.slot = d.slotState t f.slot := Dev.rf_congr (Dev.dropFlit_rd ..) 2 0
  unfold doRefusalArrival
  simp only [hfind, hc, hctx', if_true]
  exact Dev.asyncFault_waiting _ _ (by rw [Dev.dropFlit_tile]; exact hrun) (by rw [hstate]; exact h₆) (by rw [hstate]; exact h₀)

/-! ## Barrier lines (R241) -/

/-- The first element that a test picks, replaced by one that it picks as well. -/
theorem find?_updIf_const {α : Type} {p : α → Bool} {l : List α} {a b : α} (h : l.find? p = some a) (hb : p b = true) :
    (updIf p (fun _ => b) l).find? p = some b := by
  have hp : (p ∘ fun x => if p x then b else x) = p := by
    funext x
    rw [Function.comp_apply]
    split
    · next hx => rw [hb, hx]
    · rfl
  have ha : p a = true := List.find?_some h
  rw [updIf, List.find?_map, hp, h, Option.map_some]
  exact congrArg some (if_pos ha)
theorem Dev.barOf_setBar {d : Dev} {c n : Nat} {b z : BarLine} (h : d.barOf c n = some b) (hz : z.ctx = b.ctx ∧ z.n = b.n) :
    (d.setBar z).barOf c n = some z := by
  have hb := List.find?_some h
  simp only [Bool.and_eq_true, beq_iff_eq] at hb
  obtain ⟨hctx, hn⟩ := hb
  obtain ⟨hzctx, hzn⟩ := hz
  unfold Dev.setBar Dev.barOf
  rw [hzctx, hzn, hctx, hn]
  exact find?_updIf_const h (by rw [hzctx, hzn, hctx, hn]; simp)
theorem BarLine.settle_all {b : BarLine} (h : ∀ p ∈ b.parts, ∃ a ∈ b.arrived, a.1 = p) : b.settle =
    { b with arrived := [], rel := b.parts.map fun p => (p, b.arrived.foldl (fun m a => max m (a.2 + tileDist b.root a.1)) 0 + tileDist b.root p) } := by
  unfold BarLine.settle
  rw [if_pos]
  refine List.all_eq_true.mpr fun p hp => List.any_eq_true.mpr ?_
  obtain ⟨a, ha, hap⟩ := h p hp
  exact ⟨a, ha, beq_iff_eq.mpr hap⟩

/-! ## Limiter windows (R243) -/

theorem foldl_min_le {α : Type} (g : α → Nat) (l : List α) (k : Nat) : l.foldl (fun k s => min k (g s)) k ≤ k := by
  induction l generalizing k with
  | nil => exact Nat.le_refl k
  | cons x xs ih => exact (ih _).trans (Nat.min_le_left ..)
/-- A field's clamp is at most 96. -/
theorem Dev.clampK_le (d : Dev) (f : Nat) : d.clampK f ≤ 96 := by
  have hderate : d.derate f ≤ 96 := by unfold Dev.derate; dsimp only; split <;> omega
  have hfold := foldl_min_le (d.clampSrc f) (List.range 4) (d.derate f)
  unfold Dev.clampK
  omega
theorem regImpl_avl (f : FieldId) : regImpl (Reg.AVL f) = w64 (mk 38 32 + mk 30 24 + mk 22 16 + mk 14 8 + mk 4 0) := by
  revert f; decide

/-- The ceilings and peaks that a limiter window's end leaves. -/
theorem limiterWord_fields (v : W64) {x y : Nat} (hx : x < 128) (hy : y < 128) :
    let w := put (put (put (put (put v 38 32 x) 30 24 y) 22 16 0) 14 8 0) 4 0 0
    fld w 38 32 = x ∧ fld w 30 24 = y ∧ fld w 22 16 = 0 ∧ fld w 14 8 = 0 := by
  dsimp only
  refine ⟨?_, ?_, ?_, ?_⟩
  · simp (disch := decide) only [fld_put_other, fld_put_same]
    exact Nat.mod_eq_of_lt hx
  · simp (disch := decide) only [fld_put_other, fld_put_same]
    exact Nat.mod_eq_of_lt hy
  · simp (disch := decide) only [fld_put_other, fld_put_same, Nat.zero_mod]
  · simp (disch := decide) only [fld_put_other, fld_put_same, Nat.zero_mod]

/-! ## The commands, clause by clause -/

theorem regImpl_rtCorr (t : TileId) : regImpl (Reg.tile t Reg.RT_CORR) = BitVec.allOnes 64 := by
  rw [regImpl_tile t _ t.isLt (by decide) (by decide)]; decide
theorem regImpl_rtDouble (t : TileId) : regImpl (Reg.tile t Reg.RT_DOUBLE) = BitVec.allOnes 64 := by
  rw [regImpl_tile t _ t.isLt (by decide) (by decide)]; decide

section
variable {t : TileId} {s : State} {inp vc : Fin 4} {errs : FlitErrs} {me : Nat} {f : Flit}

/-- A device that keeps a tile's counts of its crossings shows what the crossing counted. -/
theorem Dev.crossed_counted {d e : Dev} (hlog : d.logOf t = some me) (hhead : d.headFlit me inp vc = some f) (hseen : f.seen = false)
    (he : ∀ o ∈ [Reg.RT_CORR, Reg.RT_DOUBLE], e.trd t o = (d.crossed t inp vc errs).trd t o) :
    e.seal.trd t Reg.RT_CORR = d.trd t Reg.RT_CORR + w64 errs.corr.length ∧ e.seal.trd t Reg.RT_DOUBLE = d.trd t Reg.RT_DOUBLE + w64 (b2n errs.double) := by
  obtain ⟨hcorr, hdouble⟩ := d.crossCounted_counts t inp errs
  have hcross (o : Nat) : (d.crossed t inp vc errs).trd t o = (d.crossCounted t inp errs).trd t o := by rw [Dev.crossed_eq hlog hhead hseen]; rfl
  have hcorr' : e.seal.trd t Reg.RT_CORR = e.trd t Reg.RT_CORR := Dev.seal_rd_all _ _ (regImpl_rtCorr t)
  have hdouble' : e.seal.trd t Reg.RT_DOUBLE = e.trd t Reg.RT_DOUBLE := Dev.seal_rd_all _ _ (regImpl_rtDouble t)
  rw [hcorr', hdouble', he _ (by simp), he _ (by simp), hcross, hcross]
  exact ⟨hcorr, hdouble⟩

theorem landing_counts (hlog : s.dev.logOf t = some me) (hhead : s.dev.headFlit me inp vc = some f) (hseen : f.seen = false) :
    Completes (.landing t inp vc errs) s fun e => e.trd t Reg.RT_CORR = s.dev.trd t Reg.RT_CORR + w64 errs.corr.length
      ∧ e.trd t Reg.RT_DOUBLE = s.dev.trd t Reg.RT_DOUBLE + w64 (b2n errs.double) :=
  .of (doLanding t inp vc (s.dev.crossed t inp vc errs)) rfl
    (Dev.crossed_counted hlog hhead hseen fun o ho => doLanding_trd (by
      simp only [List.mem_cons, List.not_mem_nil, or_false] at ho
      rcases ho with rfl | rfl <;> decide) _ _)
theorem flitArrival_counts (hlog : s.dev.logOf t = some me) (hhead : s.dev.headFlit me inp vc = some f) (hseen : f.seen = false) :
    Completes (.flitArrival t inp vc errs) s fun e => e.trd t Reg.RT_CORR = s.dev.trd t Reg.RT_CORR + w64 errs.corr.length
      ∧ e.trd t Reg.RT_DOUBLE = s.dev.trd t Reg.RT_DOUBLE + w64 (b2n errs.double) :=
  .of (doFlitArrival t inp vc (s.dev.crossed t inp vc errs)) rfl
    (Dev.crossed_counted hlog hhead hseen fun _ _ => doFlitArrival_rd ..)

/-- A crossing leaves a flit's words, and poisons them all on a double error. -/
theorem Flit.checked_data (f : Flit) (e : FlitErrs) : (f.checked e).data.map (·.1) = f.data.map (·.1)
    ∧ (f.checked e).data.map (·.2) = f.data.map fun x => x.2 || e.double := by
  unfold Flit.checked
  cases e.double with
  | false => simp
  | true =>
    rw [if_pos rfl, List.map_map, List.map_map]
    exact ⟨rfl, List.map_congr_left fun x _ => (Bool.or_true x.2).symm⟩

end

theorem correctedWordWriteback_stores (t : TileId) (w : Fin 131072) (s : State) : Completes (.correctedWordWriteback t w) s fun e =>
    smGet noTag (e.tile t).corrPend w.val = false ∧ (e.tile t).tags = (s.dev.tile t).tags ∧ SameBytes s.dev e ∧ RegsBut [] s.dev e := by
  refine .of (doWriteback t w s.dev) rfl ?_
  unfold doWriteback
  split
  · refine ⟨?_, ?_, .seal fun _ => rfl, .seal fun _ _ => rfl⟩
    · rw [Dev.seal_tile, Dev.mntTouch, Dev.tile_upd_same, Dev.tile_upd_same]
      exact smGet_smSet_same noTag _ w.val false
    · rw [Dev.seal_tile, Dev.mntTouch, Dev.tile_upd_same, Dev.tile_upd_same]
      rfl
  · next h =>
    rw [Dev.seal_tile]
    exact ⟨eq_false_of_ne_true h, rfl, .seal fun _ => rfl, .seal fun _ _ => rfl⟩

theorem limiterWindowEnd_sets (f : FieldId) (s : State) : Completes (.limiterWindowEnd f) s fun e =>
    e.rf (Reg.AVL f) 38 32 = min (s.dev.clampK f) (s.dev.rf (Reg.AVL f) 22 16 + 12)
      ∧ e.rf (Reg.AVL f) 30 24 = min (s.dev.clampK f) (s.dev.rf (Reg.AVL f) 14 8 + 12)
      ∧ e.rf (Reg.AVL f) 22 16 = 0 ∧ e.rf (Reg.AVL f) 14 8 = 0 ∧ OnlyRegs [Reg.AVL f] s.dev e := by
  have hclamp := s.dev.clampK_le f
  have hseal (e : Dev) (hi lo : Nat) (h : w64 (mk 38 32 + mk 30 24 + mk 22 16 + mk 14 8 + mk 4 0) &&& maskOf hi lo = maskOf hi lo ∧ lo ≤ hi ∧ hi < 64) :
      e.seal.rf (Reg.AVL f) hi lo = fld (e.rd (Reg.AVL f)) hi lo :=
    Dev.seal_rf _ _ _ _ (by rw [regImpl_avl]; exact h.1) h.2.1 h.2.2
  have hpeak : fld (put (s.dev.rd (Reg.AVL f)) 38 32 (min (s.dev.clampK f) (fld (s.dev.rd (Reg.AVL f)) 22 16 + 12))) 14 8 = s.dev.rf (Reg.AVL f) 14 8 :=
    fld_put_other _ _ _ _ _ _ (by decide) (by decide) (by decide)
  refine .of (doLimiterWindow f s.dev) rfl ?_
  unfold doLimiterWindow
  dsimp only
  rw [hpeak]
  obtain ⟨h₁, h₂, h₃, h₄⟩ := limiterWord_fields (s.dev.rd (Reg.AVL f)) (x := min (s.dev.clampK f) (s.dev.rf (Reg.AVL f) 22 16 + 12))
    (y := min (s.dev.clampK f) (s.dev.rf (Reg.AVL f) 14 8 + 12)) (by omega) (by omega)
  rw [hseal _ _ _ (by decide), hseal _ _ _ (by decide), hseal _ _ _ (by decide), hseal _ _ _ (by decide), Dev.rd_wr_same]
  exact ⟨h₁, h₂, h₃, h₄, .wr _ _ (by simp)⟩

/-- Settles O16: each clause is an event of the network, the flits as their crossing leaves them. -/
theorem networkEventsAct : Obligations.NetworkEventsAct := by
  intro t s d
  refine ⟨?_, ?_, ?_, fun w => correctedWordWriteback_stores t w s, ?_, fun f => limiterWindowEnd_sets f s⟩
  · intro inp vc errs me f hlog hhead hseen c told counted
    have hev : c.events = (d.crossCounted t inp errs).events := by
      change (d.crossed t inp vc errs).events = _
      rw [Dev.crossed_eq hlog hhead hseen]
      rfl
    obtain ⟨hcorr, hdouble, hkept, hlen⟩ := d.crossCounted_events t inp errs
    rw [← hev] at hcorr hdouble hkept hlen
    refine ⟨landing_counts hlog hhead hseen, flitArrival_counts hlog hhead hseen, hcorr, hdouble, hkept, hlen, fun g hg => ?_⟩
    obtain rfl := Option.some.inj ((Dev.crossed_headFlit hlog hhead hseen).symm.trans hg)
    exact f.checked_data errs
  · intro inp vc errs me f d n hlog hhead hdst hbeat hc
    have hinp : f.inp < 4 := by rw [Dev.headFlit_inp hhead]; exact inp.isLt
    have hwants := Dev.wants_send (d := d) (t := t) (n := n) hc hinp hdst
    refine ⟨fun hnone => ?_, fun w hsome => ⟨fun home hhop hhome => ?_, fun nx h hhop hnear hnext => ?_⟩⟩
    · rw [hnone] at hwants
      exact .of d (congrArg s.ok (doFlitArrival_stays hlog hhead hwants)) ⟨rfl, .refl _ _⟩
    · rw [hsome] at hwants
      refine .of _ (congrArg s.ok (doFlitArrival_refused hlog hhead hdst hbeat hc hwants hhop)) ?_
      exact d.refuse_flits t n f FC.ROUTE hlog hhome
    · rw [hsome] at hwants
      refine .of _ (congrArg s.ok (doFlitArrival_starts hlog hhead hdst hbeat hwants hhop hnext)) ?_
      rw [Dev.seal_flits, Dev.seal_tile]
      exact Dev.startFlit_send hc hinp hnear
  · intro f code hfind hc hctx hrun h₆ h₀ hcode
    refine .of _ (congrArg s.ok (doRefusalArrival_waiting hfind hc hctx hrun h₆ h₀)) ⟨?_, Dev.recordFault_seal code f.pc t hcode⟩
    rw [Dev.seal_flits, Dev.recordFault_flits, Dev.dropFlit_flits]
  · intro c n b hb hrel hall q
    refine .of (d.setBar b.settle) (congrArg s.ok ?_) ⟨?_, .seal fun _ _ => rfl⟩
    · change doBarrierRelease c.val n.val d = _
      unfold doBarrierRelease
      simp only [hb, hrel, beq_self_eq_true, if_true]
    · have hset := Dev.barOf_setBar (z := b.settle) hb (by rw [BarLine.settle_all hall]; exact ⟨rfl, rfl⟩)
      rw [BarLine.settle_all hall] at hset ⊢
      exact hset

end Sys2Proof.Machine
end

section
/-! PROOFS. A transfer that ends and a repair that waits: the page of the repair starts to move (R217, R318, R320, R322, R328). -/

namespace Sys2Proof.Machine

/-! ## What a frame's accounting leaves (R334) -/

/-- A field of a register is not changed by a write to other bits, of this register or another. -/
theorem Dev.rf_wf_disjoint (d : Dev) (o o' hi lo x hi' lo' : Nat) (h : lo ≤ hi) (hh : hi < 64) (hd : hi' < lo ∨ hi < lo') :
    (d.wf o hi lo x).rf o' hi' lo' = d.rf o' hi' lo' := by
  by_cases ho : o' = o
  · rw [ho]; exact d.rf_wf_other o hi lo x hi' lo' h hh hd
  · exact Dev.rf_congr (d.rd_wf_ne hi lo x ho) hi' lo'

section
variable (d : Dev) (f : Nat)

theorem Dev.syncFrame_eq : ∃ r, d.syncFrame f = { d with regs := r } := by
  unfold Dev.syncFrame
  split
  · exact ⟨_, rfl⟩
  · exact ⟨d.regs, rfl⟩
theorem Dev.syncFrame_rd_of_ne_stack {o : Nat} (h : ∀ s, o ≠ Reg.STACK s) : (d.syncFrame f).rd o = d.rd o := by
  unfold Dev.syncFrame
  split
  · exact (Dev.rd_wf_ne _ _ _ _ (h _)).trans (Dev.rd_wf_ne _ _ _ _ (h _))
  · rfl
/-- FREE and USED of a stack are not its STATE. -/
theorem Dev.stackState_syncFrame (s : Nat) : stackState (d.syncFrame f) s = stackState d s := by
  unfold Dev.syncFrame
  split
  · exact (Dev.rf_wf_disjoint _ _ _ _ _ _ _ _ (by decide) (by decide) (by decide)).trans
      (Dev.rf_wf_disjoint _ _ _ _ _ _ _ _ (by decide) (by decide) (by decide))
  · rfl

end

/-! ## A place for a page (R316, R327) -/

section
variable {d : Dev}

/-- A frame of an open pool that no page, repair, transfer or move has is free. -/
theorem Dev.frameFree_of_unused {f : Nat} (hlocked : d.locked = true) (hresv : ∀ n < 8, d.inRange (Reg.RESV n) (f * 65536) = false)
    (hpool : d.inPool (f * 65536) = false) (hpage : d.pageAt f = none) (hout : d.outFrames.contains f = false) (hpin : d.pinnedFrames = [])
    (hmoves : d.moves = []) : d.frameFree f = true := by
  have hresv' : d.inResv (f * 65536) = false := List.any_eq_false.mpr fun n hn => by
    rw [hresv n (List.mem_range.mp hn)]; exact Bool.false_ne_true
  unfold Dev.frameFree
  rw [hlocked, hresv', hpool, hpage, hout, hpin, hmoves]
  rfl

theorem seekFree_at_start {ok : Nat → Bool} {n k i : Nat} (hk : 0 < k) (h : ok (i % n) = true) : seekFree ok n k i = some (i % n) := by
  obtain ⟨m, rfl⟩ := Nat.exists_eq_succ_of_ne_zero hk.ne'
  exact if_pos h

/-- A stack with every frame free has a place, whatever free value the search starts at (log entry 3). -/
theorem Dev.placeOn_empty {s : Nat} (h : ∀ u < 2 ^ 21, d.frameFree (stackFrame s + u) = true) :
    ∃ f, d.placeOn s false = (some f, { d with free := d.free + 1 }) := by
  have hpos : 0 < 2 ^ 21 := Nat.two_pow_pos 21
  unfold Dev.placeOn
  simp only [Dev.draw, Bool.false_eq_true, if_false]
  rw [seekFree_at_start hpos (h _ (Nat.mod_lt _ hpos))]
  exact ⟨_, rfl⟩

/-- The one READY stack of a tier takes the page (R327). -/
theorem Dev.placeIn_empty {tier s : Nat} (hready : (tierStacks tier).filter (fun k => stackState d k == 0) = [s])
    (h : ∀ u < 2 ^ 21, d.frameFree (stackFrame s + u) = true) : ∃ f, d.placeIn tier false = (some f, { d with free := d.free + 1 }) := by
  obtain ⟨f, hf⟩ := Dev.placeOn_empty h
  have hcand : (tierStacks tier).filter (fun k => stackState d k == 0 && (d.placeOn k false).1.isSome) = [s] := by
    have hcomm : (fun k => stackState d k == 0 && (d.placeOn k false).1.isSome) = fun k => (d.placeOn k false).1.isSome && stackState d k == 0 :=
      funext fun k => Bool.and_comm ..
    rw [hcomm, ← List.filter_filter, hready, List.filter_cons_of_pos (by rw [hf]; rfl), List.filter_nil]
  have hbest : d.bestStack tier false = some s := by
    unfold Dev.bestStack
    dsimp only
    rw [hcand]
    rfl
  refine ⟨f, ?_⟩
  unfold Dev.placeIn
  rw [hbest]
  exact hf

end

/-! ## The leaf of a page that starts to move (R320, R328) -/

section
variable {d e : Dev}

theorem Dev.wrBytes_rdByte_congr (hmem : e.mem = d.mem) (a : Nat) (bs : List Byte) (x : Nat) :
    (e.wrBytes a bs).rdByte x = (d.wrBytes a bs).rdByte x :=
  congrArg (smGet memReset · x) (Dev.wrBytes_mem_congr hmem a bs)
theorem Dev.entryAt_congr (hmem : e.mem = d.mem) (l node va : Nat) : e.entryAt l node va = d.entryAt l node va := by
  unfold Dev.entryAt Dev.rdNum
  rw [Dev.rdBytes_congr (e := e) (d := d) fun x => congrArg (smGet memReset · x) hmem]
theorem Dev.walkGo_congr (hmem : e.mem = d.mem) (l node va : Nat) : e.walkGo l node va = d.walkGo l node va := by
  induction l generalizing node with
  | zero => unfold Dev.walkGo; rw [Dev.entryAt_congr hmem]
  | succ l ih => unfold Dev.walkGo; rw [Dev.entryAt_congr hmem]; simp only [ih]
/-- A walk rests on the context's root and on memory. -/
theorem Dev.walk_congr {c : Nat} (hmem : e.mem = d.mem) (hroot : e.rd (Reg.PTROOT c) = d.rd (Reg.PTROOT c)) (va : Nat) :
    e.walk c va = d.walk c va := by
  unfold Dev.walk Dev.ptRoot Dev.rb Dev.rf
  rw [hroot, Dev.walkGo_congr hmem]

theorem Dev.useAdd_mem (p : Page) (tier : Nat) (b : Bool) : (d.useAdd p tier b).mem = d.mem := by
  unfold Dev.useAdd
  dsimp only
  split
  · rfl
  · rfl
theorem Dev.useAdd_ptRoot (p : Page) (tier c : Nat) (b : Bool) : (d.useAdd p tier b).rd (Reg.PTROOT c) = d.rd (Reg.PTROOT c) := by
  have hctx : Reg.PTROOT c ≠ Reg.UCTX p.ctx := by unfold Reg.PTROOT Reg.UCTX; omega
  unfold Dev.useAdd
  dsimp only
  split
  · next k _ =>
    have hcls : Reg.PTROOT c ≠ Reg.UCLS k := by unfold Reg.PTROOT Reg.UCLS; omega
    exact (Dev.rd_wf_ne _ _ _ _ hcls).trans (Dev.rd_wf_ne _ _ _ _ hctx)
  · exact Dev.rd_wf_ne _ _ _ _ hctx

/-- A leaf with MOVING set (R320). -/
def markMoving (e : Nat) : Nat := if bit e 58 then e else e + 2 ^ 58

variable {p : Page} {c v : Nat} {l : Leaf} (hmaps : p.maps = [(c, v)]) (hwalk : d.walk c (v * 65536) = some l)
include hmaps hwalk

/-- A page with one mapping that starts to move has MOVING set in its leaf, and the rest of memory stays. -/
theorem Dev.startMove_rdByte (dst : Nat) (why : MoveWhy) (a : Nat) :
    (d.startMove p dst why).rdByte a = (d.wrBytes l.addr (toBytes 8 (markMoving l.val))).rdByte a := by
  let d₁ : Dev := { d with moves := d.moves ++ [⟨p.frame, dst, why⟩] }
  have hmem : (d₁.useAdd p (frameTier dst) true).mem = d.mem := Dev.useAdd_mem ..
  have hleaf : (d₁.useAdd p (frameTier dst) true).walk c (v * 65536) = some l :=
    (Dev.walk_congr hmem (Dev.useAdd_ptRoot ..) _).trans hwalk
  have hre : (d₁.useAdd p (frameTier dst) true).reLeaf p markMoving
      = (d₁.useAdd p (frameTier dst) true).storeNum l.addr 8 (markMoving l.val) := by
    unfold Dev.reLeaf
    rw [hmaps]
    simp only [Dev.each, List.foldl_cons, List.foldl_nil, hleaf]
  have hdef : d.startMove p dst why = ((d₁.useAdd p (frameTier dst) true).reLeaf p markMoving).syncFrame dst := rfl
  obtain ⟨r, hr⟩ := ((d₁.useAdd p (frameTier dst) true).reLeaf p markMoving).syncFrame_eq dst
  rw [hdef, hr, hre]
  exact (Dev.store_rdByte (d₁.useAdd p (frameTier dst) true) ..).trans (Dev.wrBytes_rdByte_congr hmem _ _ _)

/-- A repair that waits, and whose page finds a place, sets MOVING in the page's leaf. -/
theorem Dev.serveRepairs_rdByte {r : Repair} {f : Nat} (hrepairs : d.repairs = [r]) (hpage : d.pageAt r.frame = some p) (hmoves : d.moves = [])
    (hup : d.stackUp ((stackOf (p.frame * 65536)).getD 0) = true)
    (hplace : d.placeIn (frameTier r.frame) p.large = (some f, { d with free := d.free + 1 })) (a : Nat) :
    d.serveRepairs.rdByte a = (d.wrBytes l.addr (toBytes 8 (markMoving l.val))).rdByte a := by
  have hserve : d.serveRepairs = (d.moveTo p (frameTier r.frame) .repair).1 := by
    unfold Dev.serveRepairs
    rw [hrepairs]
    simp only [Dev.each, List.foldl_cons, List.foldl_nil, hpage, hmoves, List.any_nil, hup, Bool.not_true, Bool.or_self, Bool.false_eq_true, if_false]
  have hmove : d.moveTo p (frameTier r.frame) .repair = (({ d with free := d.free + 1 } : Dev).startMove p f .repair, true) := by
    unfold Dev.moveTo
    rw [hplace]
  rw [hserve, hmove]
  refine (Dev.startMove_rdByte (d := { d with free := d.free + 1 }) (l := l) hmaps ?_ f .repair a).trans ?_
  · exact (Dev.walk_congr rfl rfl _).trans hwalk
  · exact Dev.wrBytes_rdByte_congr rfl _ _ _

end

/-! ## The last line of a PUT (R217, R314) -/

/-- The device without a transfer, its flits and the source reads it has still to make. -/
def Dev.withoutXfer (d : Dev) (t id : Nat) : Dev :=
  { d.upd t fun x => { x with xfers := x.xfers.filter (·.id != id), mvq := x.mvq.filter fun a => a.kind != .putRead id } with
    flits := d.flits.filter fun f => !(f.src == t && (f.cargo == .get id || f.cargo == .put id)) }

/-- A translated transfer that is removed frees its frame, first for a repair that waits (R318, R322). -/
theorem Dev.dropXfer_translated {d : Dev} {t id a : Nat} {x : Xfer} (hx : (d.tile t).xfers.find? (·.id == id) = some x) (ha : x.pa = some a) :
    d.dropXfer t id = ((d.withoutXfer t id).syncFrame (a / 65536)).serveRepairs := by
  unfold Dev.dropXfer
  simp only [hx, Option.bind_some, ha]
  rfl

theorem Dev.exportBlock_none {d : Dev} (h : ∀ s < 64, d.rb (Reg.OSTR_CFG s) 63 = false) (c va : Nat) : d.exportBlock c va = d := by
  have hnone : ∀ q : Nat → Bool, findAll 64 (fun s => d.rb (Reg.OSTR_CFG s) 63 && q s) = [] := fun q =>
    List.filter_eq_nil_iff.mpr fun s hs => by rw [h s (List.mem_range.mp hs)]; exact Bool.false_ne_true
  unfold Dev.exportBlock
  simp only [Bool.and_assoc]
  rw [hnone]
  rfl

/-- The last line of a PUT without a check value, to a page that no stream exports, is stored, and the PUT ends. -/
theorem Dev.putLine_last {d : Dev} {t page a : Nat} {x : Xfer} {bs : List Byte} (hput : x.isGet = false)
    (hvpn : x.vpn.isSome = true) (hpa : x.pa = some page) (hcve : x.cve = false) (hlast : 64 * x.nb ≤ x.moved + 1)
    (hexport : ∀ s < 64, d.rb (Reg.OSTR_CFG s) 63 = false) (ha : page + 4096 * (x.off + x.moved / 64) = a)
    (hlen : ((x.buf.drop (128 * (x.moved / 64))).take 128).length = 128) (hup : d.stackUp ((stackOf a).getD 0) = true)
    (hbs : ((((x.buf.drop (128 * (x.moved / 64))).take 128).flatMap fun w => toBytes 32 w.1.toNat).drop (64 * (x.moved % 64))).take 64 = bs) :
    ∃ l, d.putLine t x = ((d.wrBytes (a + 64 * (x.moved % 64)) bs).setLine (a + 64 * (x.moved % 64)) l).dropXfer t x.id := by
  have hpage : d.xferPage t x = some (page, d) := by unfold Dev.xferPage; rw [hpa]
  have hkind (b crc : Nat) : putKind x b crc = (1, false, false) := by unfold putKind; rw [hcve]; rfl
  have hstream (a' : Nat) (bs : List Byte) (l : Line) (c va : Nat) :
      (((d.wrBytes a' bs).setLine a' l).when false fun d => (d.inc Reg.CV_FAIL).report 10 t 0).exportBlock c va = (d.wrBytes a' bs).setLine a' l :=
    Dev.exportBlock_none (d := (d.wrBytes a' bs).setLine a' l)
      (fun s hs => (congrArg (tst · 63) (Dev.wrBytes_rd d a' (Reg.OSTR_CFG s) bs)).trans (hexport s hs)) c va
  have hnone : x.vpn.isNone = false := by rw [← Option.not_isSome, hvpn]; rfl
  unfold Dev.putLine
  simp only [hput, hnone, hpage, hkind, hstream, Bool.or_self, Bool.false_eq_true, if_false, ite_self, ge_iff_le, hlast, if_true, ha, hbs]
  rw [if_neg (by rw [hlen, hup]; decide)]
  exact ⟨_, rfl⟩

/-- Without flits on their way no words come in. -/
theorem Dev.putIn_of_no_flits {d : Dev} (h : d.flits = []) (t id n : Nat) : d.putIn t id n = d := by
  cases n with
  | zero => rfl
  | succ n => unfold Dev.putIn; rw [h]; rfl

theorem doPutAccepted_of_no_flits {d : Dev} {t n : Nat} {x : Xfer} (hx : (d.tile t).xfers[n]? = some x)
    (hfind : (d.tile t).xfers.find? (·.id == x.id) = some x) (hflits : d.flits = []) : doPutAccepted t n d = d.putLine t x := by
  unfold doPutAccepted
  simp only [hx, Dev.putIn_of_no_flits hflits, hfind, Option.map_some, Option.getD_some]

/-- Bytes that memory holds already, written again, change nothing. -/
theorem Dev.wrBytes_self {d : Dev} {a : Nat} {bs : List Byte} (h : (d.wrBytes a bs).mem = d.mem) : d.wrBytes a bs = d := by
  have hrest (d : Dev) (a : Nat) : d.wrBytes a bs = { d with mem := (d.wrBytes a bs).mem } := by
    clear h
    induction bs generalizing d a with
    | nil => rfl
    | cons b bs ih => exact ih (d.wrByte a b) (a + 1)
  rw [hrest, h]

/-! ## A device where a PUT's last line lets a repair go on -/

/-- A PUT of one block of zeros to frame 0x200000, the first of stack 1; 63 of its lines are accepted. -/
def endingPut : Xfer :=
  { id := 1, isGet := false, ctx := 1, slot := 0, cadence := false, pc := 0, win := 0, base := 0, off := 0, nb := 1, ent := 0, vpn := some 1
    pa := some 0x2000000000, buf := List.replicate 128 (0, false), moved := 63 }

/-- Page 0 of context 1, in frame 0x10 of stack 0. -/
def faultyPage : Page := { frame := 0x10, ctx := 1, maps := [(1, 0)] }

/-- The frame of that page has a lasting row fault and is out of the pool; the repair waits for a frame. Stack 0 is EVACUATING, stack 1 is READY,
and the page-table pool at 0x200000 holds the four nodes on the way to the page, the leaf at 0x203000. -/
def waitingRepair : Dev :=
  { regs := [(Reg.MEM_CTL, w64 (2 ^ 63)), (Reg.PT_POOL, w64 (2 ^ 48 + 2 ^ 21)), (Reg.STACK 0, w64 (2 ^ 61)), (Reg.STACK 1, 0),
      (Reg.PTROOT 1, w64 (2 ^ 63 + 0x200000))]
    mem := [(0x200001, 0x10), (0x200002, 0x20), (0x200007, 0x80), (0x201001, 0x20), (0x201002, 0x20), (0x201007, 0x80),
      (0x202001, 0x30), (0x202002, 0x20), (0x202007, 0x80), (0x203002, 0x10), (0x203007, 0xC8)]
    pages := [faultyPage], repairs := [⟨0x10, none⟩], outFrames := [0x10], tiles := [(0, { xfers := [endingPut] })] }

/-- The leaf of the page: VALID, LEAF and WRITE, frame 0x10. -/
def faultyLeaf : Leaf := ⟨0x203000, 2 ^ 63 + 2 ^ 62 + 2 ^ 59 + 0x100000, 0⟩

theorem waitingRepair_walk : waitingRepair.walk 1 0 = some faultyLeaf := by decide +kernel

/-- The device once the line is stored, with the side band it took, and the PUT has given its frame back. -/
def putEnded (l : Line) : Dev := ((waitingRepair.setLine (0x2000000000 + 64 * 63) l).withoutXfer 0 1).syncFrame 0x200000

theorem waitingRepair_xfers : (waitingRepair.tile 0).xfers = [endingPut] := rfl

theorem endingPut_words : ((endingPut.buf.drop (128 * (endingPut.moved / 64))).take 128).length = 128 := by decide +kernel
/-- The line is stored: memory held zeros there, and the PUT ends. -/
theorem waitingRepair_stores : ∃ l, waitingRepair.putLine 0 endingPut = (waitingRepair.setLine (0x2000000000 + 64 * 63) l).dropXfer 0 1 := by
  have hexport : ∀ s < 64, waitingRepair.rb (Reg.OSTR_CFG s) 63 = false := by decide +kernel
  have hup : waitingRepair.stackUp ((stackOf 0x2000000000).getD 0) = true := by decide +kernel
  have hsame : (waitingRepair.wrBytes (0x2000000000 + 64 * 63) (List.replicate 64 0)).mem = waitingRepair.mem := by decide +kernel
  obtain ⟨l, hl⟩ := Dev.putLine_last (d := waitingRepair) (t := 0) (x := endingPut) (bs := List.replicate 64 0) rfl rfl rfl rfl (by decide)
    hexport (a := 0x2000000000) rfl endingPut_words hup (by decide +kernel)
  exact ⟨l, hl.trans (congrArg (fun e : Dev => (e.setLine (0x2000000000 + 64 * 63) l).dropXfer 0 1) (Dev.wrBytes_self hsame))⟩
theorem waitingRepair_accepts : ∃ l, doPutAccepted 0 0 waitingRepair = (putEnded l).serveRepairs := by
  obtain ⟨l, hl⟩ := waitingRepair_stores
  have hfind : (waitingRepair.tile 0).xfers.find? (·.id == endingPut.id) = some endingPut := by rw [waitingRepair_xfers]; rfl
  have hstart := doPutAccepted_of_no_flits (d := waitingRepair) (n := 0) (by rw [waitingRepair_xfers]; rfl) hfind rfl
  exact ⟨l, hstart.trans (hl.trans (Dev.dropXfer_translated (d := waitingRepair.setLine (0x2000000000 + 64 * 63) l) hfind rfl))⟩

section
variable (l : Line)

theorem putEnded_eq : ∃ r, putEnded l = { (waitingRepair.setLine (0x2000000000 + 64 * 63) l).withoutXfer 0 1 with regs := r } :=
  Dev.syncFrame_eq ..
theorem putEnded_rd {o : Nat} (h : ∀ s, o ≠ Reg.STACK s) : (putEnded l).rd o = waitingRepair.rd o := Dev.syncFrame_rd_of_ne_stack _ _ h
theorem putEnded_stackState (s : Nat) : stackState (putEnded l) s = stackState waitingRepair s := Dev.stackState_syncFrame ..

theorem putEnded_frameFree {u : Nat} : (putEnded l).frameFree (stackFrame 1 + u) = true := by
  have hrange (o : Nat) (h : ∀ s, o ≠ Reg.STACK s) : (putEnded l).rangeOf o = waitingRepair.rangeOf o := by
    unfold Dev.rangeOf Dev.rf
    rw [putEnded_rd l h]
  have hbase : stackFrame 1 = 0x200000 := by decide
  have hresv : ∀ n < 8, waitingRepair.rangeOf (Reg.RESV n) = (0, 0) := by decide +kernel
  have hpool : waitingRepair.rangeOf Reg.PT_POOL = (0x200000, 0x200000) := by decide +kernel
  have htiles : (waitingRepair.withoutXfer 0 1).tiles = [] := by decide +kernel
  obtain ⟨r, hr⟩ := putEnded_eq l
  refine Dev.frameFree_of_unused ?_ (fun n hn => ?_) ?_ ?_ ?_ ?_ ?_
  · exact (congrArg (tst · 63) (putEnded_rd l (o := Reg.MEM_CTL) fun s => by unfold Reg.MEM_CTL Reg.STACK; omega)).trans (by decide +kernel)
  · unfold Dev.inRange
    rw [hrange _ fun s => by unfold Reg.RESV Reg.STACK; omega, hresv n hn]
    simp
  · unfold Dev.inPool Dev.inRange
    rw [hrange _ fun s => by unfold Reg.PT_POOL Reg.STACK; omega, hpool, hbase]
    simp only [Bool.and_eq_false_iff, decide_eq_false_iff_not]
    omega
  · rw [hr]
    refine List.find?_eq_none.mpr fun p hp => ?_
    obtain rfl : p = faultyPage := List.mem_singleton.mp hp
    rw [hbase]
    simp only [Page.holds, faultyPage, Page.frames, Bool.and_eq_true, decide_eq_true_eq, Bool.false_eq_true, if_false]
    omega
  · rw [hr, hbase]
    change [0x10].contains _ = false
    simp only [List.contains_cons, List.contains_nil, Bool.or_false, beq_eq_false_iff_ne]
    omega
  · rw [hr]
    unfold Dev.pinnedFrames
    change ((List.flatMap _ (waitingRepair.withoutXfer 0 1).tiles).filter _).eraseDups = []
    rw [htiles]
    rfl
  · rw [hr]
    rfl

/-- Whatever free value the search starts at, stack 1 has a place for the page of the repair. -/
theorem putEnded_place : ∃ f, (putEnded l).placeIn 0 false = (some f, { putEnded l with free := (putEnded l).free + 1 }) := by
  refine Dev.placeIn_empty (s := 1) ?_ fun u _ => putEnded_frameFree l
  simp only [putEnded_stackState]
  decide +kernel

/-- MOVING is set in the leaf of the page that leaves the faulty frame. -/
theorem putEnded_marks : (putEnded l).serveRepairs.rdByte 0x203007 = 0xCC := by
  obtain ⟨f, hplace⟩ := putEnded_place l
  obtain ⟨r, hr⟩ := putEnded_eq l
  have hmem : (putEnded l).mem = waitingRepair.mem := by rw [hr]; rfl
  have hwalk : (putEnded l).walk 1 (0 * 65536) = some faultyLeaf :=
    (Dev.walk_congr hmem (putEnded_rd l fun s => by unfold Reg.PTROOT Reg.STACK; omega) _).trans waitingRepair_walk
  have hkilled : (putEnded l).killed = false := by rw [hr]; rfl
  have hup : (putEnded l).stackUp ((stackOf (faultyPage.frame * 65536)).getD 0) = true := by
    unfold Dev.stackUp
    rw [putEnded_stackState, hkilled]
    decide +kernel
  have hpages : (putEnded l).pages = [faultyPage] := by rw [hr]; rfl
  have hpage : (putEnded l).pageAt 0x10 = some faultyPage := by
    unfold Dev.pageAt
    rw [hpages]
    decide +kernel
  have htier : frameTier 0x10 = 0 := by decide +kernel
  have hrepairs : (putEnded l).repairs = [⟨0x10, none⟩] := by rw [hr]; rfl
  have hmoves : (putEnded l).moves = [] := by rw [hr]; rfl
  rw [Dev.serveRepairs_rdByte (p := faultyPage) rfl hwalk hrepairs hpage hmoves hup (htier.symm ▸ hplace)]
  exact (Dev.wrBytes_rdByte_congr hmem _ _ _).trans (by decide +kernel)

end

/-- Refutes O25: the last line of a PUT gives the PUT's frame back, and a repair that waits for a frame then starts the move of its page (R318,
R322), for which MOVING is set in the page's leaf (R320). The clause keeps every byte outside the line, and has no premise that no repair waits. -/
theorem not_blocksLandAndAreStored : ¬ Obligations.BlocksLandAndAreStored := by
  intro h
  have hhas : (waitingRepair.tile 0).xfers[(0 : Fin 16).val]? = some endingPut := by rw [waitingRepair_xfers]; rfl
  have hfind : ((waitingRepair.putIn 0 endingPut.id 256).tile 0).xfers.find? (·.id == endingPut.id) = some endingPut := by
    rw [Dev.putIn_of_no_flits (d := waitingRepair) rfl, waitingRepair_xfers]; rfl
  obtain ⟨-, -, hput, -⟩ := h 0 0 endingPut { pending := [], dev := waitingRepair } hhas rfl
  obtain ⟨u, hexec, -, -, -, hbytes, -⟩ := hput 0x2000000000 endingPut hfind rfl rfl rfl endingPut_words (by decide +kernel)
  obtain ⟨l, hl⟩ := waitingRepair_accepts
  have hu : u = { pending := [], dev := (doPutAccepted 0 0 waitingRepair).seal } := (Host.Outcome.next.inj hexec).symm
  have hsame : u.dev.rdByte 0x203007 = waitingRepair.rdByte 0x203007 := hbytes 0x203007 (.inl (by decide))
  rw [hu, Dev.seal_rdByte, hl, putEnded_marks] at hsame
  exact absurd hsame (by decide)

end Sys2Proof.Machine
end

section
/-! PROOFS. The time base (R254, R256, R443): its state register, the election, and messages sent on every link of the scheduled set. -/

namespace Sys2Proof.Machine

/-! ## The state of the time base (R256) -/

/-- TB_STATUS after a change of state: MASTER_ID is written, and STATE where it changes. -/
theorem Dev.setTb_status (d : Dev) (v m : Nat) :
    let w := put (d.rd Reg.TB_STATUS) 48 32 (if v = 0 then 0 else m)
    (d.setTb v m).rd Reg.TB_STATUS = w ∧ d.tbState = v ∨ (d.setTb v m).rd Reg.TB_STATUS = put w 1 0 v := by
  unfold Dev.setTb
  dsimp only
  split
  · next h => exact .inl ⟨Dev.rd_wf_same .., h⟩
  · refine .inr ?_
    rw [Dev.varveLog_rd _ _ _ _ _ _ _ _ (by unfold vrvReg; decide), Dev.raiseEvent_rd _ _ (by decide), Dev.rd_wf_same, Dev.rd_wf_same]
theorem Dev.setTb_rd (d : Dev) (v m : Nat) {o : Nat} (hs : o ≠ Reg.TB_STATUS) (he : o ≠ Reg.EVENT) (hv : ¬ vrvReg o) :
    (d.setTb v m).rd o = d.rd o := by
  unfold Dev.setTb
  dsimp only
  split
  · exact Dev.rd_wf_ne _ _ _ _ hs
  · rw [Dev.varveLog_rd _ _ _ _ _ _ _ _ hv, Dev.raiseEvent_rd _ _ he, Dev.rd_wf_ne _ _ _ _ hs, Dev.rd_wf_ne _ _ _ _ hs]
@[simp] theorem Dev.inner_setTb (d : Dev) (v m : Nat) : (d.setTb v m).inner = d.inner := by
  unfold Dev.setTb
  dsimp only
  split
  · exact Dev.inner_wf ..
  · rw [Dev.inner_varveLog, Dev.inner_raiseEvent, Dev.inner_wf, Dev.inner_wf]
theorem Dev.setTb_out {d : Dev} {x : Out} (v m : Nat) (h : x ∈ d.out) : x ∈ (d.setTb v m).out := by
  unfold Dev.setTb
  dsimp only
  split
  · exact h
  · exact Dev.varveLog_out _ _ _ _ _ _ _ (Dev.raiseEvent_out _ h)

theorem Dev.setTb_tbState (d : Dev) {v : Nat} (m : Nat) (h : v < 4) : (d.setTb v m).tbState = v := by
  unfold Dev.tbState Dev.rf
  rcases d.setTb_status v m with ⟨hrd, hv⟩ | hrd <;> rw [hrd]
  · rw [fld_put_other _ _ _ _ _ _ (by decide) (by decide) (by decide)]
    exact hv
  · rw [fld_put_same _ _ _ _ (by decide) (by decide)]
    exact Nat.mod_eq_of_lt h
theorem Dev.setTb_master (d : Dev) {v m : Nat} (h : m < 2 ^ 17) : (d.setTb v m).rf Reg.TB_STATUS 48 32 = if v = 0 then 0 else m := by
  have hlt : (if v = 0 then 0 else m) < 2 ^ 17 := by split <;> omega
  unfold Dev.rf
  rcases d.setTb_status v m with ⟨hrd, -⟩ | hrd <;> rw [hrd]
  · rw [fld_put_same _ _ _ _ (by decide) (by decide)]
    exact Nat.mod_eq_of_lt hlt
  · rw [fld_put_other _ _ _ _ _ _ (by decide) (by decide) (by decide), fld_put_same _ _ _ _ (by decide) (by decide)]
    exact Nat.mod_eq_of_lt hlt
/-- The bits of TB_STATUS that hold neither STATE nor MASTER_ID stay. -/
theorem Dev.setTb_rb (d : Dev) (v m : Nat) {i : Nat} (h : 1 < i) (h' : i < 32) :
    (d.setTb v m).rb Reg.TB_STATUS i = d.rb Reg.TB_STATUS i := by
  have hmaster (x : Nat) : (put (d.rd Reg.TB_STATUS) 48 32 x).getLsbD i = (d.rd Reg.TB_STATUS).getLsbD i := by
    rw [getLsbD_put _ _ _ _ _ (by decide) (by decide), if_neg (by omega)]
  unfold Dev.rb tst
  rcases d.setTb_status v m with ⟨hrd, -⟩ | hrd <;> rw [hrd]
  · exact hmaster _
  · rw [getLsbD_put _ _ _ _ _ (by decide) (by decide), if_neg (by omega)]
    exact hmaster _

theorem Dev.seal_tbState (d : Dev) : d.seal.tbState = d.tbState := Dev.seal_rf _ _ _ _ (by decide) (by decide) (by decide)
theorem Dev.seal_master (d : Dev) : d.seal.rf Reg.TB_STATUS 48 32 = d.rf Reg.TB_STATUS 48 32 :=
  Dev.seal_rf _ _ _ _ (by decide) (by decide) (by decide)
theorem Dev.myId_lt (d : Dev) : d.myId < 2 ^ 17 := fld_lt ..

/-! ## The election (R254) -/

/-- Whether a device is a candidate rests on TB_CTL, the lock of its reference, and DEVID. -/
theorem Dev.selfCand_congr {d e : Dev} (hctl : e.rd Reg.TB_CTL = d.rd Reg.TB_CTL) (hlock : e.rb Reg.TB_STATUS 2 = d.rb Reg.TB_STATUS 2)
    (hid : e.rd Reg.DEVID = d.rd Reg.DEVID) : e.selfCand = d.selfCand := by
  unfold Dev.selfCand Dev.idLocked Dev.myId
  rw [Dev.rf_congr hctl, Dev.rb_congr hctl, hlock, Dev.rb_congr hid, Dev.rf_congr hid]
theorem Dev.inner_cands {d e : Dev} (h : e.inner = d.inner) : e.cands = d.cands := show e.inner.cands = d.inner.cands by rw [h]
theorem Dev.inner_parent {d e : Dev} (h : e.inner = d.inner) : e.parent = d.parent := show e.inner.parent = d.inner.parent by rw [h]

/-- The device as it becomes master. -/
def Dev.crowned (d : Dev) : Dev := (d.setTb 3 d.myId).wf Reg.TB_STATUS 31 24 0

theorem Dev.crowned_inner (d : Dev) : d.crowned.inner = d.inner := by unfold Dev.crowned; rw [Dev.inner_wf, Dev.inner_setTb]
theorem Dev.crowned_tbState (d : Dev) : d.crowned.tbState = 3 :=
  (Dev.rf_wf_other _ _ _ _ _ _ _ (by decide) (by decide) (by decide)).trans (d.setTb_tbState _ (by decide))
theorem Dev.crowned_master (d : Dev) : d.crowned.rf Reg.TB_STATUS 48 32 = d.myId :=
  (Dev.rf_wf_other _ _ _ _ _ _ _ (by decide) (by decide) (by decide)).trans (d.setTb_master d.myId_lt)
theorem Dev.crowned_selfCand (d : Dev) : d.crowned.selfCand = d.selfCand := by
  have hrd {o : Nat} (hs : o ≠ Reg.TB_STATUS) (he : o ≠ Reg.EVENT) (hv : ¬ vrvReg o) : d.crowned.rd o = d.rd o :=
    (Dev.rd_wf_ne _ _ _ _ hs).trans (d.setTb_rd _ _ hs he hv)
  refine Dev.selfCand_congr (hrd (by decide) (by decide) (by unfold vrvReg; decide)) ?_ (hrd (by decide) (by decide) (by unfold vrvReg; decide))
  exact (Dev.rb_wf _ _ _ _ _ _ (by decide) (by decide)).trans (d.setTb_rb _ _ (by decide) (by decide))

/-- A device that is no candidate, and no master, takes no part in an election. -/
theorem Dev.reElect_of_none {d : Dev} (h : d.selfCand = none) (ht : d.tbState ≠ 3) : d.reElect = d := by
  have helect : d.elect = d := by unfold Dev.elect; rw [h]
  unfold Dev.reElect
  simp only [helect, h, ht, if_false]
  split <;> rfl
/-- A candidate that no other outranks becomes master. -/
theorem Dev.reElect_of_best {d : Dev} {me : Nat × Nat} (h : d.selfCand = some me) (hbest : ∀ x ∈ d.others, outranks x me = false) :
    d.reElect = d.crowned := by
  have hall : (d.others.all fun x => !outranks x me) = true := List.all_eq_true.mpr fun x hx => by rw [hbest x hx]; rfl
  have helect : d.elect = d.crowned := by unfold Dev.elect; rw [h]; exact if_pos hall
  have hothers : d.crowned.others = d.others := by unfold Dev.others; rw [Dev.inner_cands d.crowned_inner]
  unfold Dev.reElect
  simp only [helect, d.crowned_selfCand, h, hothers]
  cases hfind : d.others.find? fun x => d.others.all fun y => !outranks y x with
  | none => rfl
  | some b => simp [hbest b (List.mem_of_find?_eq_some hfind)]

/-- What every change of the time base's state keeps, an election keeps. -/
theorem Dev.reElect_preserves {P : Dev → Prop} (hset : ∀ d v m, P d → P (d.setTb v m)) (hhops : ∀ d, P d → P (d.wf Reg.TB_STATUS 31 24 0))
    {d : Dev} (h : P d) : P d.reElect := by
  have helect : P d.elect := by
    unfold Dev.elect
    split
    · exact h
    · split
      · exact hhops _ (hset _ _ _ h)
      · exact h
  have hgives (v m : Nat) (c : Prop) [Decidable c] : P (if c then d.elect.setTb v m else d.elect) := by
    split
    · exact hset _ _ _ helect
    · exact helect
  unfold Dev.reElect
  dsimp only
  split
  · exact hgives ..
  · exact hgives ..
  · exact hgives ..
  · exact helect

/-! ## Silence and holdover (R254, R256) -/

theorem Dev.off_cands {d e : Dev} (h : d.offLinks = e.offLinks) : d.cands = e.cands := show d.offLinks.cands = e.offLinks.cands by rw [h]
theorem Dev.off_parent {d e : Dev} (h : d.offLinks = e.offLinks) : d.parent = e.parent := show d.offLinks.parent = e.offLinks.parent by rw [h]

/-- The device without the silent candidate, its parent, and the hops that its links have shown. -/
def Dev.forgotten (d : Dev) : Dev :=
  let d := { d with cands := d.cands.filter fun c => some c.id != d.silentCand, parent := none }
  d.each (List.range 24) fun d k => d.updLnk k fun x => { x with hops := none }

theorem Dev.forgotten_off (d : Dev) :
    d.forgotten.offLinks = ({ d with cands := d.cands.filter fun c => some c.id != d.silentCand, parent := none } : Dev).offLinks :=
  Dev.foldl_off _ _ (fun _ _ => Dev.updLnk_off ..) _
theorem Dev.forgotten_rd (d : Dev) (o : Nat) : d.forgotten.rd o = d.rd o := Dev.off_rd d.forgotten_off o
theorem Dev.forgotten_parent (d : Dev) : d.forgotten.parent = none := Dev.off_parent d.forgotten_off
theorem Dev.forgotten_cands (d : Dev) : d.forgotten.cands = d.cands.filter fun c => some c.id != d.silentCand := Dev.off_cands d.forgotten_off
theorem Dev.forgotten_selfCand (d : Dev) : d.forgotten.selfCand = d.selfCand :=
  Dev.selfCand_congr (d.forgotten_rd _) (Dev.rb_congr (d.forgotten_rd _) _) (d.forgotten_rd _)
theorem Dev.forgotten_tbState (d : Dev) : d.forgotten.tbState = d.tbState := Dev.rf_congr (d.forgotten_rd _) _ _
theorem Dev.mem_forgotten_others {d : Dev} {x : Nat × Nat} (h : x ∈ d.forgotten.others) :
    ∃ c ∈ d.cands, some c.id ≠ d.silentCand ∧ c.refOk = true ∧ c.prio > 0 ∧ x = (c.prio, c.id) := by
  unfold Dev.others at h
  rw [d.forgotten_cands] at h
  obtain ⟨c, hc, rfl⟩ := List.mem_map.mp h
  simp only [List.mem_filter, bne_iff_ne, Bool.and_eq_true, decide_eq_true_eq] at hc
  obtain ⟨⟨hmem, hsilent⟩, hok, hprio⟩ := hc
  exact ⟨c, hmem, hsilent, hok, hprio, rfl⟩

theorem doMasterSilence_eq {d : Dev} (h : d.tbState ≠ 3) :
    doMasterSilence d = if d.forgotten.reElect.tbState = 1 then d.forgotten.reElect.setTb 2 (d.rf Reg.TB_STATUS 48 32) else d.forgotten.reElect :=
  if_neg h

section
variable {s : State}

/-- A follower that cannot be master holds over, under the master's ID. -/
theorem timeMasterSilence_holds_over (ht : s.dev.tbState = 1) (hself : s.dev.selfCand = none) :
    Completes .timeMasterSilence s fun e =>
      e.tbState = 2 ∧ e.rf Reg.TB_STATUS 48 32 = s.dev.rf Reg.TB_STATUS 48 32 ∧ e.parent = none := by
  have hstate : s.dev.forgotten.tbState = 1 := s.dev.forgotten_tbState.trans ht
  have helect : s.dev.forgotten.reElect = s.dev.forgotten :=
    Dev.reElect_of_none (s.dev.forgotten_selfCand.trans hself) (by omega)
  have hdev : doMasterSilence s.dev = s.dev.forgotten.setTb 2 (s.dev.rf Reg.TB_STATUS 48 32) := by
    rw [doMasterSilence_eq (by omega), helect, if_pos hstate]
  refine .of (doMasterSilence s.dev) rfl ?_
  rw [hdev, Dev.seal_tbState, Dev.seal_master]
  exact ⟨Dev.setTb_tbState _ _ (by decide), Dev.setTb_master _ (fld_lt ..),
    (Dev.inner_parent (Dev.inner_setTb ..)).trans s.dev.forgotten_parent⟩

/-- A candidate that none but the silent one outranks takes over. -/
theorem timeMasterSilence_takes_over {me : Nat × Nat} (ht : s.dev.tbState = 1 ∨ s.dev.tbState = 2) (hself : s.dev.selfCand = some me)
    (hbest : ∀ c ∈ s.dev.cands, some c.id ≠ s.dev.silentCand → c.refOk = true → c.prio > 0 → outranks (c.prio, c.id) me = false) :
    Completes .timeMasterSilence s fun e => e.tbState = 3 ∧ e.rf Reg.TB_STATUS 48 32 = s.dev.myId ∧ e.parent = none := by
  have hothers : ∀ x ∈ s.dev.forgotten.others, outranks x me = false := by
    intro x hx
    obtain ⟨c, hc, hsilent, hok, hprio, rfl⟩ := Dev.mem_forgotten_others hx
    exact hbest c hc hsilent hok hprio
  have helect : s.dev.forgotten.reElect = s.dev.forgotten.crowned :=
    Dev.reElect_of_best (s.dev.forgotten_selfCand.trans hself) hothers
  have hdev : doMasterSilence s.dev = s.dev.forgotten.crowned := by
    rw [doMasterSilence_eq (by omega), helect, if_neg (by rw [Dev.crowned_tbState]; decide)]
  have hid : s.dev.forgotten.myId = s.dev.myId := Dev.rf_congr (s.dev.forgotten_rd _) _ _
  refine .of (doMasterSilence s.dev) rfl ?_
  rw [hdev, Dev.seal_tbState, Dev.seal_master]
  exact ⟨Dev.crowned_tbState _, (Dev.crowned_master _).trans hid, (Dev.inner_parent (Dev.crowned_inner _)).trans s.dev.forgotten_parent⟩

theorem timeMasterSilence_master (ht : s.dev.tbState = 3) : Completes .timeMasterSilence s fun e => OnlyRegs [] s.dev e :=
  .unchanged (congrArg s.ok (if_pos ht))

theorem holdoverExpiry_unlocks (ht : s.dev.tbState = 2) :
    Completes .holdoverExpiry s fun e => e.tbState = 0 ∧ e.rf Reg.TB_STATUS 48 32 = 0 := by
  refine .of (s.dev.setTb 0 0) (congrArg s.ok (if_pos ht)) ?_
  rw [Dev.seal_tbState, Dev.seal_master]
  exact ⟨Dev.setTb_tbState _ _ (by decide), Dev.setTb_master _ (by decide)⟩

theorem holdoverExpiry_other (ht : s.dev.tbState ≠ 2) : Completes .holdoverExpiry s fun e => OnlyRegs [] s.dev e :=
  .unchanged (congrArg s.ok (if_neg ht))

end

end Sys2Proof.Machine
end

section
/-! PROOFS. A message sent on each link of the scheduled set (R431, R434, R443): what it leaves is not undone by what follows on the other links. -/

namespace Sys2Proof.Machine

/-! ## What a cell that leaves rests on -/

/-- The cell that leaves rests on what the link owes, the SEQ it takes, and the SEQ expected next. -/
theorem Dev.cellOf_congr {d e : Dev} {k : Nat} (howed : (e.lnk k).owed = (d.lnk k).owed) (hseq : (e.lnk k).txSeq = (d.lnk k).txSeq)
    (hnext : (e.lnk k).rxNext = (d.lnk k).rxNext) (c : QCell) : e.cellOf k c = d.cellOf k c := by
  unfold Dev.cellOf LinkSt.takeOwed LinkSt.ackNo
  rw [howed]
  split <;> simp only [hseq, hnext]
theorem Dev.Sends.of_link {d e f : Dev} {k : Nat} {c : QCell} (howed : (e.lnk k).owed = (d.lnk k).owed)
    (hseq : (e.lnk k).txSeq = (d.lnk k).txSeq) (hnext : (e.lnk k).rxNext = (d.lnk k).rxNext) (h : e.Sends f k c) : d.Sends f k c := by
  unfold Dev.Sends at h
  rwa [Dev.cellOf_congr howed hseq hnext, hseq] at h
theorem Dev.Sends.mono {d e f : Dev} {k : Nat} {c : QCell} (h : d.Sends e k c) (hout : ∀ x ∈ e.out, x ∈ f.out) (hlnk : f.lnk k = e.lnk k) :
    d.Sends f k c := ⟨hout _ h.1, hlnk ▸ h.2⟩
theorem Dev.msgOf_congr {d e : Dev} {k : Nat} (hid : e.rd Reg.DEVID = d.rd Reg.DEVID) (hpeer : e.rd (Reg.L_STATUS k) = d.rd (Reg.L_STATUS k))
    (typ : Nat) (b : List Byte) (f : Option Nat) : e.msgOf k typ b f = d.msgOf k typ b f := by
  unfold Dev.msgOf Dev.myId Dev.peerId
  rw [Dev.rf_congr hid, Dev.rf_congr hpeer]

/-! ## A cell sent on one link, seen from another -/

theorem Dev.sendCell_lnk_ne (d : Dev) {j k : Nat} (c : QCell) (h : k ≠ j) : (d.sendCell j c).lnk k = d.lnk k := by
  unfold Dev.sendCell
  split
  · exact Dev.lnk_updLnk_ne _ _ h
  · unfold Dev.sendNow
    dsimp only
    rw [Dev.emit_lnk, Dev.lnk_setLnk_ne _ _ h]
theorem Dev.sendCell_out {d : Dev} {x : Out} (j : Nat) (c : QCell) (h : x ∈ d.out) : x ∈ (d.sendCell j c).out := by
  unfold Dev.sendCell
  split
  · exact h
  · exact List.mem_append_left _ h

/-- A message sent on each of several links: where it can be sent, it leaves with the bytes it has at the start. -/
theorem Dev.each_sendMsg_sends {d : Dev} {k typ : Nat} {b : Dev → List Byte} {l : List Nat} (hnd : l.Nodup) (hk : k ∈ l)
    (hb : ∀ e : Dev, e.offLinks = d.offLinks → b e = b d) (hcan : d.canSend k 0 = true) :
    d.Sends (d.each l fun e j => e.sendMsg j typ (b e)) k (d.msgOf k typ (b d)) := by
  suffices h : ∀ e : Dev, e.offLinks = d.offLinks → e.lnk k = d.lnk k →
      d.Sends (e.each l fun e j => e.sendMsg j typ (b e)) k (d.msgOf k typ (b d)) from h d rfl rfl
  induction l with
  | nil => cases hk
  | cons j js ih =>
    intro e hoff hlnk
    obtain ⟨hj, hjs⟩ := List.nodup_cons.mp hnd
    rcases List.mem_cons.mp hk with rfl | hmem
    · have hsent : d.Sends (e.sendMsg k typ (b e)) k (d.msgOf k typ (b d)) := by
        have hcan' : e.canSend k 0 = true := by unfold Dev.canSend; rw [hlnk]; exact hcan
        have hsends : e.Sends (e.sendMsg k typ (b e)) k (e.msgOf k typ (b e)) := Dev.sendCell_sends hcan'
        rw [hb e hoff, Dev.msgOf_congr (Dev.off_rd hoff _) (Dev.off_rd hoff _)] at hsends
        rw [hb e hoff]
        exact hsends.of_link (by rw [hlnk]) (by rw [hlnk]) (by rw [hlnk])
      refine hsent.mono (fun x hx => Dev.each_out_mono (fun j f => Dev.sendCell_out j _) js _ hx) ?_
      exact Dev.each_keeps (fun f => f.lnk k) (fun i hi f => Dev.sendCell_lnk_ne _ _ fun he => hj (he ▸ hi)) _
    · have hne : k ≠ j := fun he => hj (he ▸ hmem)
      exact ih hjs hmem _ ((Dev.sendMsg_off ..).trans hoff) ((Dev.sendCell_lnk_ne _ _ hne).trans hlnk)

theorem Dev.schedLinks_nodup (d : Dev) : d.schedLinks.Nodup := List.nodup_range.filter _
theorem Dev.schedLinks_congr {d e : Dev} (h : ∀ k, e.rd (Reg.L_STATUS k) = d.rd (Reg.L_STATUS k)) : e.schedLinks = d.schedLinks := by
  have hs : e.scheduled = d.scheduled := funext fun k => congrArg (· == 4) (Dev.linkState_congr (h k))
  unfold Dev.schedLinks
  rw [hs]

/-! ## SYNC, ANNOUNCE, and the delay of a link (R443, R445) -/

/-- The payload of a master's SYNC. -/
def Dev.syncPayload (d : Dev) (ns : Nat) : List Byte := syncBytes ns 0 d.myId (d.rf Reg.TB_CTL 3 0) 0 (d.rb Reg.TB_STATUS 2)
/-- The payload of a device's announcement. -/
def Dev.announcePayload (d : Dev) : List Byte := announceBytes d.myId (d.rf Reg.TB_CTL 3 0) (d.rb Reg.TB_STATUS 2)

section
variable {d e : Dev} (hctl : e.rd Reg.TB_CTL = d.rd Reg.TB_CTL) (hst : e.rd Reg.TB_STATUS = d.rd Reg.TB_STATUS)
  (hid : e.rd Reg.DEVID = d.rd Reg.DEVID)
include hctl hst hid

theorem Dev.syncPayload_congr (ns : Nat) : e.syncPayload ns = d.syncPayload ns := by
  unfold Dev.syncPayload Dev.myId
  rw [Dev.rf_congr hid, Dev.rf_congr hctl, Dev.rb_congr hst]
theorem Dev.announcePayload_congr : e.announcePayload = d.announcePayload := by
  unfold Dev.announcePayload Dev.myId
  rw [Dev.rf_congr hid, Dev.rf_congr hctl, Dev.rb_congr hst]

end

/-- The master's SYNC on every link of the scheduled set. -/
def Dev.syncSent (d : Dev) (ns : Nat) : Dev := d.each d.schedLinks fun d k => d.sendMsg k 2 (d.syncPayload ns)
/-- The announcement on every link of the scheduled set. -/
def Dev.announced (d : Dev) : Dev := d.each d.schedLinks fun d k => d.sendMsg k 5 d.announcePayload

theorem doSyncSend_eq {d : Dev} {ns : Nat} (h : d.tbState = 3) : doSyncSend ns d = (d.wr Reg.TB_TIME (w64 ns)).syncSent ns :=
  if_neg (not_not_intro h)
theorem doAnnounceSend_eq {d : Dev} (hprio : d.rf Reg.TB_CTL 3 0 ≠ 0) (hon : d.rb Reg.TB_CTL 8 = true) (hlock : d.idLocked = true) :
    doAnnounceSend d = d.announced.reElect := if_neg (by simp [hprio, hon, hlock])

theorem Dev.syncSent_rd (d : Dev) (ns o : Nat) : (d.syncSent ns).rd o = d.rd o :=
  Dev.off_rd (Dev.foldl_off _ _ (fun _ _ => Dev.sendMsg_off ..) _) o
theorem Dev.syncSent_sends {d : Dev} {k : Nat} (ns : Nat) (hk : k ∈ d.schedLinks) (hcan : d.canSend k 0 = true) :
    d.Sends (d.syncSent ns) k (d.msgOf k 2 (d.syncPayload ns)) :=
  Dev.each_sendMsg_sends d.schedLinks_nodup hk
    (fun _ h => Dev.syncPayload_congr (Dev.off_rd h _) (Dev.off_rd h _) (Dev.off_rd h _) ns) hcan
theorem Dev.announced_sends {d : Dev} {k : Nat} (hk : k ∈ d.schedLinks) (hcan : d.canSend k 0 = true) :
    d.Sends d.announced k (d.msgOf k 5 d.announcePayload) :=
  Dev.each_sendMsg_sends d.schedLinks_nodup hk
    (fun _ h => Dev.announcePayload_congr (Dev.off_rd h _) (Dev.off_rd h _) (Dev.off_rd h _)) hcan
/-- An election takes back nothing that has left. -/
theorem Dev.Sends.reElect {d e : Dev} {k : Nat} {c : QCell} (h : d.Sends e k c) : d.Sends e.reElect k c :=
  Dev.reElect_preserves (P := fun e => d.Sends e k c)
    (fun _ v m hs => hs.mono (fun _ => Dev.setTb_out v m) (Dev.inner_lnk (Dev.inner_setTb ..) k)) (fun _ hs => hs) h

theorem regImpl_tbTime : regImpl Reg.TB_TIME = BitVec.allOnes 64 := by decide
theorem Reg.lStatus_ne_tbTime (k : Nat) : Reg.L_STATUS k ≠ Reg.TB_TIME := by unfold Reg.L_STATUS Reg.TB_TIME; omega

/-- The device once a measurement of a link's delay is under way. -/
def Dev.timing (d : Dev) (k : Nat) (t1 : W64) : Dev := d.updLnk k fun x => { x with t1 := some t1 }
theorem Dev.timing_lnk (d : Dev) (k : Nat) (t1 : W64) : (d.timing k t1).lnk k = { d.lnk k with t1 := some t1 } := Dev.lnk_updLnk_same ..
theorem Dev.timing_canSend (d : Dev) (k : Nat) (t1 : W64) (cls : Nat) : (d.timing k t1).canSend k cls = d.canSend k cls := by
  unfold Dev.canSend; rw [Dev.timing_lnk]; rfl
theorem Dev.Sends.of_timing {d e : Dev} {k : Nat} {t1 : W64} {c : QCell} (h : (d.timing k t1).Sends e k c) : d.Sends e k c :=
  h.of_link (by rw [Dev.timing_lnk]) (by rw [Dev.timing_lnk]) (by rw [Dev.timing_lnk])

theorem LinkSt.takeOwed_t1 (x : LinkSt) : x.takeOwed.2.t1 = x.t1 := by unfold LinkSt.takeOwed; split <;> rfl
/-- Sending leaves the measurement that a link has under way. -/
theorem Dev.sendCell_t1 (d : Dev) (k : Nat) (c : QCell) : ((d.sendCell k c).lnk k).t1 = (d.lnk k).t1 := by
  unfold Dev.sendCell
  split
  · rw [Dev.lnk_updLnk_same]
  · unfold Dev.sendNow
    dsimp only
    rw [Dev.emit_lnk, Dev.lnk_setLnk_same, LinkSt.takeOwed_t1]

section
variable {s : State}

theorem syncSend_sends (ns : BitVec 64) (ht : s.dev.tbState = 3) :
    Completes (.syncSend ns) s fun e => e.rd Reg.TB_TIME = ns ∧ RegsBut [Reg.TB_TIME] s.dev e
      ∧ ∀ k ∈ s.dev.schedLinks, s.dev.canSend k 0 = true → s.dev.Sends e k (s.dev.msgOf k 2 (s.dev.syncPayload ns.toNat)) := by
  refine .of (doSyncSend ns.toNat s.dev) rfl ?_
  rw [doSyncSend_eq ht]
  have hrd {o : Nat} (h : o ≠ Reg.TB_TIME) : (s.dev.wr Reg.TB_TIME (w64 ns.toNat)).rd o = s.dev.rd o := Dev.rd_wr_ne _ _ h
  have hlinks := Dev.schedLinks_congr fun k => hrd (Reg.lStatus_ne_tbTime k)
  have hpayload := Dev.syncPayload_congr (hrd (o := Reg.TB_CTL) (by decide)) (hrd (by decide)) (hrd (by decide)) ns.toNat
  refine ⟨?_, .seal fun o ho => ?_, fun k hk hcan => ?_⟩
  · rw [Dev.seal_rd_all _ _ regImpl_tbTime, Dev.syncSent_rd, Dev.rd_wr_same]
    exact BitVec.ofNat_toNat ..
  · rw [Dev.syncSent_rd, hrd (List.ne_of_not_mem_cons ho)]
  · have hsends := Dev.syncSent_sends ns.toNat (hlinks ▸ hk) (d := s.dev.wr Reg.TB_TIME (w64 ns.toNat)) hcan
    rw [hpayload, Dev.msgOf_congr (hrd (by decide)) (hrd (Reg.lStatus_ne_tbTime k))] at hsends
    exact hsends.of_link rfl rfl rfl

theorem syncSend_other (ns : BitVec 64) (ht : s.dev.tbState ≠ 3) : Completes (.syncSend ns) s fun e => OnlyRegs [] s.dev e :=
  .unchanged (congrArg s.ok (if_pos ht))

theorem announceSend_sends (hprio : s.dev.rf Reg.TB_CTL 3 0 ≠ 0) (hon : s.dev.rb Reg.TB_CTL 8 = true) (hlock : s.dev.idLocked = true) :
    Completes .announceSend s fun e => ∀ k ∈ s.dev.schedLinks, s.dev.canSend k 0 = true →
      s.dev.Sends e k (s.dev.msgOf k 5 s.dev.announcePayload) :=
  .of s.dev.announced.reElect (congrArg s.ok (doAnnounceSend_eq hprio hon hlock)) fun _ hk hcan => (Dev.announced_sends hk hcan).reElect

theorem delayMeasurement_sends (k : LinkId) (t1 : BitVec 64) (hk : s.dev.scheduled k = true) :
    Completes (.delayMeasurement k t1) s fun e => (e.lnk k).t1 = some t1 ∧ RegsBut [] s.dev e
      ∧ (s.dev.canSend k 0 = true → s.dev.Sends e k (s.dev.msgOf k 3 (toBytes 8 t1.toNat))) := by
  refine .of ((s.dev.timing k t1).sendMsg k 3 (toBytes 8 t1.toNat)) (congrArg s.ok (if_neg (by simp [hk])))
    ⟨?_, .seal fun o _ => ?_, fun hcan => ?_⟩
  · exact (Dev.sendCell_t1 ..).trans (by rw [Dev.timing_lnk])
  · exact Dev.off_rd ((Dev.sendMsg_off ..).trans (Dev.updLnk_off ..)) o
  · have hsends : (s.dev.timing k t1).Sends ((s.dev.timing k t1).sendMsg k 3 (toBytes 8 t1.toNat)) k
        ((s.dev.timing k t1).msgOf k 3 (toBytes 8 t1.toNat)) := Dev.sendCell_sends ((Dev.timing_canSend ..).trans hcan)
    exact hsends.of_timing

end

/-! ## The obligation -/

/-- Settles O17, by the commands' lemmas: silence and holdover act through the election, and what is sent on one link stays sent as the others
follow. -/
theorem timeBaseKeepsTime : Obligations.TimeBaseKeepsTime := by
  unfold Obligations.TimeBaseKeepsTime
  intro s
  exact ⟨timeMasterSilence_holds_over, fun _ => timeMasterSilence_takes_over, timeMasterSilence_master, holdoverExpiry_unlocks,
    holdoverExpiry_other, syncSend_sends, syncSend_other, announceSend_sends, delayMeasurement_sends⟩

end Sys2Proof.Machine
end

section
/-! PROOFS. The outcome on its way to the children: the credits that a child's link owes as it leaves (R267, R434 to R436, R446). -/

namespace Sys2Proof.Machine

/-- A member whose parent is on link 0 and whose child is on link 1, in a running frame. Link 1 owes its peer a slot of class 0, and a cell in
transit that came on it waits for a credit of link 0. -/
def owingMember : Dev :=
  { owingRelay with regs := [(Reg.FRAME_NOW, BitVec.ofNat 64 (2 ^ 63)), (Reg.VOTE_TREE, BitVec.ofNat 64 2),
      (Reg.L_STATUS 0, BitVec.ofNat 64 (4 * 2 ^ 61)), (Reg.L_STATUS 1, BitVec.ofNat 64 (4 * 2 ^ 61))] }

theorem owingMember_takes : owingMember.CellTaken (0 : LinkId) creditHdr 7 0 := ⟨by decide +kernel, rfl, rfl⟩

/-- OUTCOME for the child with the bytes it would have while link 1 owes a slot of class 0 does not leave: as at `owingRelay`, the IDLE cell that
returns the waiting cell's slot has taken the credit of class 0 along (R434, R436). -/
theorem owingMember_returns :
    owingMember.cellOf 1 (owingMember.msgOf 1 7 (toBytes 8 owingMember.frame ++ toBytes 8 (b2n true)) (some owingMember.frame))
      ∉ (owingMember.recvCell 0 creditHdr 7 0 (doOutcome 0 0 true 0)).out := by decide +kernel

/-- Refutes O58: an outcome that goes down the tree returns the credits that the child's link owes as it leaves, and the cell that brought it may
first let a cell in transit go on, with whose slot the credits owed before are returned. The clause names the cell as it would have left before
that, and has no premise about cells that wait or slots that are owed. -/
theorem not_votesFormTheOutcome : ¬ Obligations.VotesFormTheOutcome := by
  intro h
  obtain ⟨-, -, -, -, -, houtcome, -⟩ := h { pending := [], dev := owingMember }
  obtain ⟨-, hdown, -⟩ := houtcome 0 creditHdr 0 true 0 owingMember_takes
  obtain ⟨u, hexec, -, -, -, -, -, hsends⟩ := hdown (by decide +kernel) (by decide +kernel) (by decide +kernel) rfl
  obtain ⟨hout, -⟩ := hsends 1 (by decide +kernel) (by decide) (by decide +kernel) (by decide +kernel)
  cases hexec
  exact owingMember_returns hout

end Sys2Proof.Machine
end

section
/-! PROOFS. What page tables, the accounting of pages, and moves leave of the device (R316, R320, R326 to R329, R331, R334). -/

namespace Sys2Proof.Machine

/-! ## Page tables and accounting -/

/-- What the use counts of owners, USED and FREE of stacks (R329, R334), and writes of memory leave. -/
structure TableKeeps {β : Type} (v : Dev → β) : Prop where
  stack : ∀ (d : Dev) s hi lo x, lo ≤ hi → hi < 61 → v (d.wf (Reg.STACK s) hi lo x) = v d
  useCtx : ∀ (d : Dev) c hi lo x, v (d.wf (Reg.UCTX c) hi lo x) = v d
  useCls : ∀ (d : Dev) c hi lo x, v (d.wf (Reg.UCLS c) hi lo x) = v d
  bytes : ∀ (d : Dev) m, v { d with mem := m } = v d
  lines : ∀ (d : Dev) l, v { d with lines := l } = v d

section
variable {β : Type} {v : Dev → β} (h : TableKeeps v) (d : Dev)
include h

theorem TableKeeps.wrBytes (a : Nat) (bs : List Byte) : v (d.wrBytes a bs) = v d := by
  induction bs generalizing d a with
  | nil => rfl
  | cons b bs ih => exact (ih _ _).trans (h.bytes ..)
theorem TableKeeps.writeMem (n a : Nat) (bs : List Byte) : v (d.writeMem a bs [] n) = v d := by
  induction n generalizing d a bs with
  | zero => rfl
  | succ n ih =>
    obtain ⟨l, hl⟩ := d.writeLine_clean a (bs.take (64 - a % 64)) false
    unfold Dev.writeMem
    dsimp only
    split
    · rfl
    · rw [ih, hl]
      exact (h.lines ..).trans ((h.wrBytes ..).trans (h.lines ..))
theorem TableKeeps.storeNum (a n x : Nat) : v (d.storeNum a n x) = v d := h.writeMem ..
theorem TableKeeps.reLeaf (p : Page) (f : Nat → Nat) : v (d.reLeaf p f) = v d := by
  unfold Dev.reLeaf
  refine Dev.each_keeps v (fun m _ d => ?_) d
  split
  · exact h.storeNum ..
  · rfl
theorem TableKeeps.useAdd (p : Page) (tier : Nat) (b : Bool) : v (d.useAdd p tier b) = v d := by
  unfold Dev.useAdd
  dsimp only
  split
  · exact (h.useCls ..).trans (h.useCtx ..)
  · exact h.useCtx ..
theorem TableKeeps.syncStack (s : Nat) : v (d.syncStack s) = v d :=
  (h.stack _ _ _ _ _ (by decide) (by decide)).trans (h.stack _ _ _ _ _ (by decide) (by decide))
theorem TableKeeps.syncFrame (f : Nat) : v (d.syncFrame f) = v d := by
  unfold Dev.syncFrame
  split
  · exact h.syncStack ..
  · rfl
theorem TableKeeps.clearRange (a n : Nat) : v (d.clearRange a n) = v d :=
  (h.lines { d with mem := d.mem.filter (fun c => c.1 < a || c.1 ≥ a + n) } _).trans (h.bytes ..)
theorem TableKeeps.copyRange (src dst n : Nat) : v (d.copyRange src dst n) = v d := by
  unfold Dev.copyRange
  exact (Dev.each_keeps v (fun _ _ d => h.lines d _) _).trans
    ((Dev.each_keeps v (fun _ _ d => h.bytes d _) _).trans (h.clearRange ..))
theorem TableKeeps.setSq (q off hi lo x : Nat) : v (d.setSq q off hi lo x) = v d := h.storeNum ..
theorem TableKeeps.closeStack (s : Nat) : v (d.closeStack s) = v d := by
  unfold Dev.closeStack Dev.park
  refine Dev.each_keeps v (fun q _ d => ?_) d
  dsimp only
  split
  · exact (h.setSq ..).trans ((h.setSq ..).trans (h.setSq ..))
  · rfl
theorem TableKeeps.reopenSlots : v d.reopenSlots = v d := by
  unfold Dev.reopenSlots
  exact Dev.each_keeps v (fun q _ d => (h.setSq ..).trans (h.setSq ..)) d

end

/-- A step down the page tables (R319), from the entry read and the node that would be taken. -/
def pathStep (d : Dev) (entry : Nat × Nat) (node : Option Nat × Dev) (last : Bool) (go : Dev → Nat → Option Nat × Dev) : Option Nat × Dev :=
  if last then (some entry.1, d)
  else if bit entry.2 63 then (if bit entry.2 62 then (none, d) else go d (bits entry.2 47 8 * 256))
  else node.1.elim (none, node.2) fun n => go (node.2.storeNum entry.1 8 (2 ^ 63 + n)) n

/-- What an entry is read from and a node taken from stand opaque here: their lengths would be computed in unary. -/
theorem Dev.pathGo_succ_eq (d : Dev) (c va stop l node : Nat) : d.pathGo c va stop (l + 1) node =
    pathStep d (d.entryAt (l + 1) node va) (d.newNode (if l = 0 then 256 else 4096) c none) (l + 1 = stop) fun e n => e.pathGo c va stop l n := by
  suffices hopaque : ∀ new, new = @Dev.newNode → ∀ entry, entry = @Dev.entryAt → ∀ f, f = @Dev.pathGo → f d c va stop (l + 1) node =
      pathStep d (entry d (l + 1) node va) (new d (if l = 0 then 256 else 4096) c none) (l + 1 = stop) fun e n => f e c va stop l n from
    hopaque _ rfl _ rfl _ rfl
  intro new hn entry he f hf
  delta Dev.pathGo Dev.pathGo._f at hf
  rw [← hn, ← he] at hf
  clear hn he
  rcases hentry : entry d (l + 1) node va with ⟨a, e⟩
  rcases hnode : new d (if l = 0 then 256 else 4096) c none with ⟨o, d'⟩
  unfold pathStep
  subst hf
  dsimp only
  rw [hentry]
  dsimp only
  rw [hnode]
  simp only [decide_eq_true_eq]
  cases o <;> rfl

/-! ## Nodes and moves -/

/-- What also the taking of nodes and frames and the list of moves leave (R319, R327, R328). -/
structure MoveKeeps {β : Type} (v : Dev → β) : Prop extends TableKeeps v where
  moves : ∀ (d : Dev) m, v { d with moves := m } = v d
  nodes : ∀ (d : Dev) m, v { d with nodes := m } = v d
  free : ∀ (d : Dev) n, v { d with free := n } = v d

section
variable {β : Type} {v : Dev → β} (h : MoveKeeps v) (d : Dev)
include h

theorem MoveKeeps.placeOn (s : Nat) (b : Bool) : v (d.placeOn s b).2 = v d := by
  unfold Dev.placeOn
  dsimp only
  split
  · exact h.free ..
  · exact h.free ..
theorem MoveKeeps.placeIn (tier : Nat) (b : Bool) : v (d.placeIn tier b).2 = v d := by
  unfold Dev.placeIn
  split
  · rfl
  · exact h.placeOn ..
theorem MoveKeeps.startMove (p : Page) (dst : Nat) (why : MoveWhy) : v (d.startMove p dst why) = v d :=
  (h.syncFrame ..).trans ((h.reLeaf ..).trans ((h.useAdd ..).trans (h.moves ..)))
theorem MoveKeeps.moveTo (p : Page) (tier : Nat) (why : MoveWhy) : v (d.moveTo p tier why).1 = v d := by
  have hplace := h.placeIn d tier p.large
  unfold Dev.moveTo
  split
  · next heq => rw [heq] at hplace; exact (h.startMove ..).trans hplace
  · next heq => rw [heq] at hplace; exact hplace
theorem MoveKeeps.serveRepairs : v d.serveRepairs = v d := by
  unfold Dev.serveRepairs
  refine Dev.each_keeps v (fun r _ d => ?_) d
  split
  · split
    · rfl
    · exact h.moveTo ..
  · rfl
theorem MoveKeeps.abandon (m : Move) : v (d.abandon m) = v d := by
  unfold Dev.abandon
  dsimp only
  split
  · exact (h.syncFrame ..).trans (h.moves ..)
  · exact (h.syncFrame ..).trans ((h.reLeaf ..).trans ((h.useAdd ..).trans (h.moves ..)))
theorem MoveKeeps.dropMove (m : Move) : v (d.dropMove m) = v d := (h.serveRepairs _).trans (h.abandon ..)
theorem MoveKeeps.dropMovesOn (s : Nat) : v (d.dropMovesOn s) = v d := Dev.each_keeps v (fun m _ d => h.dropMove d m) d
/-- The range of the page tables stands opaque here: its length would be computed in unary. -/
theorem MoveKeeps.newNode (size c : Nat) (slot : Option Nat) : v (d.newNode size c slot).2 = v d := by
  suffices hopaque : ∀ f, f = @Dev.newNode → ∀ r, f d size c slot = r → v r.2 = v d from hopaque _ rfl _ rfl
  intro f hf r hr
  delta Dev.newNode at hf
  generalize @Dev.rangeOf = range at hf
  subst hf
  beta_reduce at hr
  generalize range d Reg.PT_POOL = q at hr
  obtain ⟨base, len⟩ := q
  dsimp only at hr
  split at hr
  · rw [← hr]; exact h.free ..
  · rw [← hr]; exact (h.nodes ..).trans ((h.clearRange ..).trans (h.free ..))
theorem MoveKeeps.pathGo (c va stop n node : Nat) : v (d.pathGo c va stop n node).2 = v d := by
  induction n generalizing d node with
  | zero => rfl
  | succ l ih =>
    have hnode := h.newNode d (if l = 0 then 256 else 4096) c none
    rw [Dev.pathGo_succ_eq]
    generalize d.newNode (if l = 0 then 256 else 4096) c none = q at hnode ⊢
    obtain ⟨o, e⟩ := q
    unfold pathStep
    split
    · rfl
    · split
      · split
        · rfl
        · exact ih ..
      · cases o with
        | none => exact hnode
        | some n => exact (ih ..).trans ((h.storeNum ..).trans hnode)

end

/-! ## What these operations leave -/

/-- The registers that the accounting of pages writes (R334). -/
def tableReg (o : Nat) : Prop := (0x400080 ≤ o ∧ o < 0x4001A0) ∨ (0x400600 ≤ o ∧ o < 0x400800) ∨ (0x400840 ≤ o ∧ o < 0x400880)

theorem tableReg_STACK (s : Nat) : tableReg (Reg.STACK s) := by unfold tableReg Reg.STACK; omega
theorem tableReg_UCTX (c : Nat) : tableReg (Reg.UCTX c) := by unfold tableReg Reg.UCTX; omega
theorem tableReg_UCLS (n : Nat) : tableReg (Reg.UCLS n) := by unfold tableReg Reg.UCLS; omega

/-- A device without what the operations over pages, reporting and device readiness may touch, but for the pages themselves. -/
def Dev.offPages (d : Dev) : Dev := { d.offReady with moves := [], nodes := [], free := 0 }

theorem Dev.offPages_of_offReady {d e : Dev} (h : e.offReady = d.offReady) : e.offPages = d.offPages :=
  congrArg (fun x : Dev => { x with moves := [], nodes := [], free := 0 }) h
theorem Dev.offPages_of_inner {d e : Dev} (h : e.inner = d.inner) : e.offPages = d.offPages := Dev.offPages_of_offReady (Dev.offReady_of_inner h)
theorem Dev.offPages_pages {d e : Dev} (h : e.offPages = d.offPages) : e.pages = d.pages := (congrArg Dev.pages h :)
theorem Dev.offPages_repairs {d e : Dev} (h : e.offPages = d.offPages) : e.repairs = d.repairs := (congrArg Dev.repairs h :)
theorem Dev.offPages_retrain {d e : Dev} (h : e.offPages = d.offPages) : e.retrain = d.retrain := (congrArg Dev.retrain h :)
theorem Dev.offPages_training {d e : Dev} (h : e.offPages = d.offPages) : e.training = d.training := (congrArg Dev.training h :)

theorem Dev.offPages_handed {d e : Dev} (h : e.offPages = d.offPages) : e.handed = d.handed := (congrArg Dev.handed h :)
theorem Dev.offPages_promoRoom {d e : Dev} (h : e.offPages = d.offPages) : e.promoRoom = d.promoRoom := (congrArg Dev.promoRoom h :)
theorem Dev.offPages_demoting {d e : Dev} (h : e.offPages = d.offPages) : e.demoting = d.demoting := (congrArg Dev.demoting h :)

theorem MoveKeeps.rd {o : Nat} (ho : ¬ tableReg o) : MoveKeeps (·.rd o) where
  stack d s hi lo x _ _ := d.rd_wf_ne hi lo x fun h => ho (h ▸ tableReg_STACK s)
  useCtx d c hi lo x := d.rd_wf_ne hi lo x fun h => ho (h ▸ tableReg_UCTX c)
  useCls d n hi lo x := d.rd_wf_ne hi lo x fun h => ho (h ▸ tableReg_UCLS n)
  bytes _ _ := rfl
  lines _ _ := rfl
  moves _ _ := rfl
  nodes _ _ := rfl
  free _ _ := rfl
theorem MoveKeeps.stackState (k : Nat) : MoveKeeps (stackState · k) where
  stack d s hi lo x hle hlt := d.rf_wf_disjoint _ _ _ _ _ _ _ hle (by omega) (.inr hlt)
  useCtx d c hi lo x := Dev.rf_congr (d.rd_wf_ne hi lo x (by unfold Reg.STACK Reg.UCTX; omega)) 63 61
  useCls d n hi lo x := Dev.rf_congr (d.rd_wf_ne hi lo x (by unfold Reg.STACK Reg.UCLS; omega)) 63 61
  bytes _ _ := rfl
  lines _ _ := rfl
  moves _ _ := rfl
  nodes _ _ := rfl
  free _ _ := rfl
theorem MoveKeeps.offPages : MoveKeeps Dev.offPages where
  stack _ _ _ _ _ _ _ := rfl
  useCtx _ _ _ _ _ := rfl
  useCls _ _ _ _ _ := rfl
  bytes _ _ := rfl
  lines _ _ := rfl
  moves _ _ := rfl
  nodes _ _ := rfl
  free _ _ := rfl
theorem TableKeeps.moves : TableKeeps Dev.moves where
  stack _ _ _ _ _ _ _ := rfl
  useCtx _ _ _ _ _ := rfl
  useCls _ _ _ _ _ := rfl
  bytes _ _ := rfl
  lines _ _ := rfl

theorem TableKeeps.repairs : TableKeeps Dev.repairs where
  stack _ _ _ _ _ _ _ := rfl
  useCtx _ _ _ _ _ := rfl
  useCls _ _ _ _ _ := rfl
  bytes _ _ := rfl
  lines _ _ := rfl
theorem TableKeeps.retrain : TableKeeps Dev.retrain where
  stack _ _ _ _ _ _ _ := rfl
  useCtx _ _ _ _ _ := rfl
  useCls _ _ _ _ _ := rfl
  bytes _ _ := rfl
  lines _ _ := rfl

/-! ## Where nothing waits (R318, R331) -/

theorem Dev.each_nil {α : Type} (d : Dev) (f : Dev → α → Dev) : d.each [] f = d := rfl
theorem Dev.serveRepairs_none {d : Dev} (h : d.repairs = []) : d.serveRepairs = d := by
  unfold Dev.serveRepairs
  rw [h]
  rfl
theorem Dev.retrainStep_none {d : Dev} (h : d.retrain = []) (b : Bool) : d.retrainStep b = d := by
  unfold Dev.retrainStep
  rw [h]

end Sys2Proof.Machine
end

section
/-! PROOFS. Retraining of memory stacks (R331, R332, R483, R497, R499). -/

namespace Sys2Proof.Machine

/-! ## STATE of a stack (R332, R499, R534) -/

theorem Reg.STACK_ne {s k : Nat} (h : s % 36 ≠ k % 36) : Reg.STACK s ≠ Reg.STACK k := by unfold Reg.STACK; omega
theorem regImpl_stack (k : StackId) : regImpl (Reg.STACK k) = w64 (mk 63 48 + mk 45 24 + mk 21 0) := by revert k; decide
theorem Dev.seal_stackState (d : Dev) (k : StackId) : stackState d.seal k = stackState d k :=
  Dev.seal_rf _ _ _ _ (by rw [regImpl_stack]; decide) (by decide) (by decide)

/-- The registers beside STATE that a change of it may touch: its readiness, what reports it, and the varve log's. -/
def stackReport (o : Nat) : Prop := o ∈ [Reg.EVENT, Reg.READY0, Reg.READY1] ∨ vrvReg o

theorem stackReport_readyOff (n : Nat) : stackReport (readyOff n) := by unfold stackReport readyOff; split <;> simp
theorem not_stackReport_STACK (s : Nat) : ¬ stackReport (Reg.STACK s) := by
  unfold stackReport vrvReg Reg.STACK Reg.EVENT Reg.READY0 Reg.READY1
  simp only [List.mem_cons, List.not_mem_nil, or_false]
  omega

section
variable (d : Dev) (s v : Nat)

theorem Dev.setStack_of_eq (h : stackState d s = v) : d.setStack s v = d := if_pos h
theorem Dev.setStack_report {o : Nat} (h : stackState d s ≠ v) (ho : ¬ stackReport o) : (d.setStack s v).rd o = (d.wf (Reg.STACK s) 63 61 v).rd o := by
  have hevent : o ≠ Reg.EVENT := fun he => ho (.inl (by simp [he]))
  have hready : o ≠ readyOff (readyStack s) := fun he => ho (he ▸ stackReport_readyOff _)
  unfold Dev.setStack
  rw [if_neg h]
  dsimp only
  rw [Dev.varveLog_rd _ _ _ _ _ _ _ _ fun hv => ho (.inr hv)]
  split
  · rw [Dev.setReady_rd _ _ _ hready hevent, Dev.raiseEvent_rd _ _ hevent]
  · split
    · rw [Dev.setReady_rd _ _ _ hready hevent, Dev.raiseEvent_rd _ _ hevent]
    · rw [Dev.raiseEvent_rd _ _ hevent]
theorem Dev.setStack_rd {o : Nat} (hs : o ≠ Reg.STACK s) (ho : ¬ stackReport o) : (d.setStack s v).rd o = d.rd o := by
  by_cases h : stackState d s = v
  · rw [d.setStack_of_eq s v h]
  · rw [d.setStack_report s v h ho, Dev.rd_wf_ne _ _ _ _ hs]
theorem Dev.stackState_setStack (hv : v < 8) : stackState (d.setStack s v) s = v := by
  by_cases h : stackState d s = v
  · rw [d.setStack_of_eq s v h, h]
  · refine (Dev.rf_congr (d.setStack_report s v h (not_stackReport_STACK s)) 63 61).trans ?_
    exact (Dev.rf_wf_same _ _ _ _ _ (by decide) (by decide)).trans (Nat.mod_eq_of_lt hv)
theorem Dev.stackState_setStack_ne {k : Nat} (hk : k % 36 ≠ s % 36) : stackState (d.setStack s v) k = stackState d k :=
  Dev.rf_congr (d.setStack_rd s v (Reg.STACK_ne hk) (not_stackReport_STACK k)) 63 61
theorem Dev.inner_setStack : (d.setStack s v).inner = d.inner := by
  unfold Dev.setStack
  split
  · rfl
  · dsimp only
    rw [Dev.inner_varveLog]
    repeat' split
    all_goals simp
theorem Dev.setStack_ready_ne {m : Nat} (h : readyOff m ≠ readyOff (readyStack s) ∨ m % 64 ≠ readyStack s % 64) :
    (d.setStack s v).ready m = d.ready m := by
  have hlog : ¬ vrvReg (readyOff m) := by unfold vrvReg readyOff; split <;> decide
  have hstack : readyOff m ≠ Reg.STACK s := by unfold readyOff Reg.STACK Reg.READY0 Reg.READY1; split <;> omega
  have hset : ((d.wf (Reg.STACK s) 63 61 v).raiseEvent 4).ready m = d.ready m :=
    Dev.rb_congr ((Dev.raiseEvent_rd _ _ (readyOff_ne_event m)).trans (Dev.rd_wf_ne _ _ _ _ hstack)) _
  unfold Dev.setStack
  split
  · rfl
  · dsimp only
    refine (Dev.rb_congr (Dev.varveLog_rd _ _ _ _ _ _ _ _ hlog) _).trans ?_
    split
    · exact (Dev.setReady_ready_ne _ _ h).trans hset
    · split
      · exact (Dev.setReady_ready_ne _ _ h).trans hset
      · exact hset

end

/-! ## A retraining is asked for (R331) -/

theorem Dev.syncBusy_rd (d : Dev) {o : Nat} (h : o ≠ Reg.RETRAIN) : d.syncBusy.rd o = d.rd o := d.rd_wf_ne _ _ _ h
theorem Dev.syncBusy_busy {d : Dev} (h : d.retrain ≠ []) : d.syncBusy.rb Reg.RETRAIN 61 = true := by
  unfold Dev.syncBusy
  rw [Dev.rb_wf _ _ _ _ _ _ (by decide) (by decide), if_pos (by decide), Nat.sub_self, testBit_b2n]
  exact bne_iff_ne.mpr h

/-- A request takes its place behind those before it. -/
def Dev.withRetrain (d : Dev) (s : Nat) (evac : Bool) : Dev := { d with retrain := d.retrain ++ [(s, evac)] }

theorem Dev.askRetrain_waits {d : Dev} (h : d.retrain ≠ []) (s : Nat) (evac : Bool) : d.askRetrain s evac = (d.withRetrain s evac).syncBusy :=
  if_neg (by simpa using h)

/-- The first request, without evacuation, has begun: the stack is EVACUATING, and is to close next. -/
def Dev.begun (d : Dev) (s : Nat) : Dev := { (d.withRetrain s false).syncBusy.setStack s 1 with retrainStage := 1 }

/-- The first request begins at once to close an open stack (R331), when its pages are not to be evacuated. -/
theorem Dev.askRetrain_begins {d : Dev} {s : Nat} (h : d.retrain = []) (hopen : stackState d s ≤ 1) :
    d.askRetrain s false = (d.begun s).retrainStep false := by
  have hstate : ¬ stackState (d.withRetrain s false).syncBusy s ≥ 2 := by
    have : stackState (d.withRetrain s false).syncBusy s = stackState d s :=
      Dev.rf_congr (Dev.syncBusy_rd _ (by unfold Reg.STACK Reg.RETRAIN; omega)) 63 61
    omega
  have hlist : (d.withRetrain s false).retrain = [(s, false)] := by unfold Dev.withRetrain; rw [h]; rfl
  have hfirst : d.askRetrain s false = (d.withRetrain s false).beginRetrain := if_pos (by simp [h])
  rw [hfirst]
  unfold Dev.beginRetrain Dev.begun
  simp only [hlist, if_neg hstate, Bool.false_eq_true, if_false]

section
variable (d : Dev) (s : Nat)

theorem Dev.begun_retrain (h : d.retrain = []) : (d.begun s).retrain = [(s, false)] := by
  have hinner : ((d.withRetrain s false).syncBusy.setStack s 1).retrain = (d.withRetrain s false).syncBusy.retrain :=
    (congrArg Dev.retrain (Dev.inner_setStack _ s 1) :)
  refine hinner.trans ?_
  change d.retrain ++ [(s, false)] = _
  rw [h]
  rfl
theorem Dev.begun_stackState : stackState (d.begun s) s = 1 := Dev.stackState_setStack _ _ _ (by decide)
theorem Dev.begun_framesRun : (d.begun s).framesRun = d.framesRun := by
  refine Dev.rb_congr ((Dev.setStack_rd _ _ _ ?_ ?_).trans (Dev.syncBusy_rd _ (by decide))) 63
  · unfold Reg.STACK Reg.FRAME_NOW; omega
  · unfold stackReport vrvReg; decide

end

/-- The stack closes: its sequences are parked, it is TRAINING, and moves from and to it are abandoned (R331). -/
def Dev.closed (d : Dev) (s : Nat) : Dev :=
  let d := ((d.closeStack s).setStack s 2).dropMovesOn s
  { d with retrainStage := 2, training := if d.training.contains s then d.training else d.training ++ [s] }

section
variable {d : Dev} {s : Nat} {evac : Bool} {l : List (Nat × Bool)} (hretrain : d.retrain = (s, evac) :: l) (hstage : d.retrainStage = 1)
include hretrain hstage

/-- While frames run a stack that is to close waits for the commit point (R331). -/
theorem Dev.retrainStep_waits (hframes : d.framesRun = true) : d.retrainStep false = d := by
  unfold Dev.retrainStep Dev.when
  simp [hretrain, hstage, hframes]
theorem Dev.retrainStep_closes (hframes : d.framesRun = false) : d.retrainStep false = d.closed s := by
  unfold Dev.retrainStep Dev.when Dev.closed
  simp [hretrain, hstage, hframes]

end

section
variable (d : Dev) (s : Nat)

theorem Dev.closed_retrain : (d.closed s).retrain = d.retrain := by
  have hkeep := (MoveKeeps.offPages.dropMovesOn ((d.closeStack s).setStack s 2) s).trans
    ((Dev.offPages_of_inner (Dev.inner_setStack ..)).trans (MoveKeeps.offPages.closeStack d s))
  exact (Dev.offPages_retrain hkeep :)
theorem Dev.closed_stackState : stackState (d.closed s) s = 2 :=
  ((MoveKeeps.stackState s).dropMovesOn _ s).trans (Dev.stackState_setStack _ _ _ (by decide))
theorem Dev.mem_closed_training : s ∈ (d.closed s).training := by
  change s ∈ if _ then _ else _
  split
  · next h => exact List.contains_iff_mem.mp h
  · exact List.mem_append_right _ List.mem_cons_self

end

/-! ## The commands that ask for it -/

section
variable {s : State} {i : Instr} {d : Dev} {k : StackId}

theorem Completes.retrain_open (hexec : exec i s = s.ok (d.askRetrain k false)) (hretrain : d.retrain = []) (hopen : stackState d k ≤ 1) :
    (d.framesRun = true → Completes i s fun e => e.retrain = [(k.val, false)] ∧ e.retrainStage = 1 ∧ stackState e k = 1)
    ∧ (d.framesRun = false →
      Completes i s fun e => e.retrain = [(k.val, false)] ∧ e.retrainStage = 2 ∧ stackState e k = 2 ∧ k.val ∈ e.training) := by
  have hlist := d.begun_retrain k hretrain
  rw [Dev.askRetrain_begins hretrain hopen] at hexec
  refine ⟨fun hframes => ?_, fun hframes => ?_⟩
  · rw [Dev.retrainStep_waits hlist rfl (by rw [Dev.begun_framesRun, hframes])] at hexec
    exact .of _ hexec ⟨hlist, rfl, (Dev.seal_stackState ..).trans (Dev.begun_stackState ..)⟩
  · rw [Dev.retrainStep_closes hlist rfl (by rw [Dev.begun_framesRun, hframes])] at hexec
    exact .of _ hexec ⟨(Dev.closed_retrain ..).trans hlist, rfl, (Dev.seal_stackState ..).trans (Dev.closed_stackState ..),
      Dev.mem_closed_training ..⟩

end

/-- The steward's request as the register shows it (R331). -/
def Dev.stewardAsks (d : Dev) (s : Nat) (evac : Bool) : Dev := (d.wf Reg.RETRAIN 62 62 (b2n evac)).wf Reg.RETRAIN 5 0 s

theorem Dev.stewardAsks_rd (d : Dev) (s : Nat) (evac : Bool) {o : Nat} (h : o ≠ Reg.RETRAIN) : (d.stewardAsks s evac).rd o = d.rd o :=
  (Dev.rd_wf_ne _ _ _ _ h).trans (Dev.rd_wf_ne _ _ _ _ h)

section
variable {s : State} {p : Port} {k : StackId} {evac : Bool}

theorem execStackRetrain_steward (h : s.dev.isSteward p = true) :
    exec (.stackRetrain p k evac) s = s.ok ((s.dev.stewardAsks k evac).askRetrain k evac) := congrArg s.ok (if_neg (by simp [h]))
theorem execStackRetrain_other (h : s.dev.isSteward p = false) : exec (.stackRetrain p k evac) s = s.ok s.dev :=
  congrArg s.ok (if_pos (by simp [h]))

/-- A device to which a request is added that waits. -/
theorem Dev.seal_waits {d : Dev} (h : d.retrain ≠ []) (n : Nat) (evac : Bool) : (d.askRetrain n evac).seal.rb Reg.RETRAIN 61 = true := by
  rw [Dev.askRetrain_waits h, Dev.seal_rb _ _ _ (by decide)]
  exact Dev.syncBusy_busy (List.append_ne_nil_of_right_ne_nil _ (List.cons_ne_nil _ _))

theorem stackRetrain_waits (hretrain : s.dev.retrain ≠ []) (h : s.dev.isSteward p = true) :
    Completes (.stackRetrain p k evac) s fun e => e.retrain = s.dev.retrain ++ [(k.val, evac)] ∧ e.rb Reg.RETRAIN 61 = true ∧ SameBytes s.dev e := by
  have hne : (s.dev.stewardAsks k evac).retrain ≠ [] := hretrain
  refine .of _ (execStackRetrain_steward h) ⟨?_, Dev.seal_waits hne _ _, .seal fun a => ?_⟩
  · rw [Dev.askRetrain_waits hne]; rfl
  · rw [Dev.askRetrain_waits hne]; rfl
theorem stackSelfRetrain_waits (hretrain : s.dev.retrain ≠ []) : Completes (.stackSelfRetrain k) s fun e =>
    e.retrain = s.dev.retrain ++ [(k.val, s.dev.rb Reg.RETRAIN 62)] ∧ e.rb Reg.RETRAIN 61 = true
      ∧ OnlyRegs [Reg.RETRAIN] { s.dev with retrain := e.retrain } e := by
  refine .of (s.dev.askRetrain k (s.dev.rb Reg.RETRAIN 62)) rfl ⟨?_, Dev.seal_waits hretrain _ _, ?_⟩
  · rw [Dev.askRetrain_waits hretrain]; rfl
  · rw [Dev.askRetrain_waits hretrain]
    exact .seal (fun o ho => Dev.syncBusy_rd _ (by simpa using ho)) rfl rfl rfl

/-- Each command that asks for a stack without evacuation while none is being retrained asks the device as it finds it, RETRAIN aside. -/
theorem exec_of_mem_retrains {i : Instr}
    (hi : i ∈ (if s.dev.isSteward p then [Instr.stackRetrain p k false] else []) ++ (if s.dev.rb Reg.RETRAIN 62 then [] else [.stackSelfRetrain k])) :
    ∃ d : Dev, exec i s = s.ok (d.askRetrain k false) ∧ d.retrain = s.dev.retrain ∧ ∀ o, o ≠ Reg.RETRAIN → d.rd o = s.dev.rd o := by
  rcases List.mem_append.mp hi with hi | hi
  · split at hi
    · next h =>
      rw [List.mem_singleton.mp hi]
      exact ⟨_, execStackRetrain_steward h, rfl, fun o ho => Dev.stewardAsks_rd _ _ _ ho⟩
    · cases hi
  · split at hi
    · cases hi
    · next h =>
      rw [List.mem_singleton.mp hi]
      refine ⟨s.dev, ?_, rfl, fun _ _ => rfl⟩
      rw [← Bool.eq_false_iff.mpr h]
      rfl

end

/-! ## The homes of a stack (R34) -/

/-- A stack has a home that is ready (R34). -/
def Dev.homeUp (d : Dev) (s : Nat) : Bool := d.ready (readyField (homes s).1) || d.ready (readyField (homes s).2)
/-- The look at the homes of one stack. -/
def Dev.checkHome (d : Dev) (s : Nat) : Dev :=
  if !d.homeUp s && stackState d s ≤ 1 then
    let d := d.setStack s 3
    if d.framesRun then d else d.closeStack s
  else if d.homeUp s && stackState d s == 3 && !d.tripped.contains s then
    let d := d.setStack s 0
    if d.framesRun then d else d.reopenSlots
  else d

theorem Dev.checkHomes_eq (d : Dev) : d.checkHomes = d.each (List.range 36) Dev.checkHome := rfl

section
variable {β : Type} {v : Dev → β} (h : TableKeeps v)
include h

theorem TableKeeps.checkHome (d : Dev) {s : Nat} (hset : ∀ (d : Dev) n, v (d.setStack s n) = v d) : v (d.checkHome s) = v d := by
  unfold Dev.checkHome
  dsimp only
  split
  · split
    · exact hset ..
    · exact (h.closeStack ..).trans (hset ..)
  · split
    · split
      · exact hset ..
      · exact (h.reopenSlots _).trans (hset ..)
    · rfl
theorem TableKeeps.checkHomes (hset : ∀ (d : Dev) s n, v (d.setStack s n) = v d) (d : Dev) : v d.checkHomes = v d := by
  rw [Dev.checkHomes_eq]
  exact Dev.each_keeps v (fun s _ d => h.checkHome d (hset · s)) d

end

theorem TableKeeps.ready (m : Nat) : TableKeeps (·.ready m) :=
  have hreg : ¬ tableReg (readyOff m) := by unfold tableReg readyOff; split <;> decide
  { stack := fun d s hi lo x hle hlt => congrArg (tst · (m % 64)) ((MoveKeeps.rd hreg).stack d s hi lo x hle hlt)
    useCtx := fun d c hi lo x => congrArg (tst · (m % 64)) ((MoveKeeps.rd hreg).useCtx d c hi lo x)
    useCls := fun d c hi lo x => congrArg (tst · (m % 64)) ((MoveKeeps.rd hreg).useCls d c hi lo x)
    bytes := fun _ _ => rfl
    lines := fun _ _ => rfl }

/-- Readiness of a field is not that of a stack (R499). -/
theorem Dev.setStack_readyField (d : Dev) {s f : Nat} (n : Nat) (hs : s < 36) (hf : f < 16) :
    (d.setStack s n).ready (readyField f) = d.ready (readyField f) := by
  refine d.setStack_ready_ne s n (.inr ?_)
  unfold readyField readyStack
  split <;> omega
theorem homes_lt : ∀ k < 36, (homes k).1 < 16 ∧ (homes k).2 < 16 := by decide
theorem Dev.checkHome_homeUp (d : Dev) {s k : Nat} (hs : s < 36) (hk : k < 36) : (d.checkHome s).homeUp k = d.homeUp k := by
  obtain ⟨h1, h2⟩ := homes_lt k hk
  unfold Dev.homeUp
  rw [(TableKeeps.ready _).checkHome d fun d n => d.setStack_readyField n hs h1,
    (TableKeeps.ready _).checkHome d fun d n => d.setStack_readyField n hs h2]

/-- The look at the homes leaves READY a stack with a home that is ready. -/
theorem Dev.stackState_checkHomes {d : Dev} {k : Nat} (hk : k < 36) (hup : d.homeUp k = true) (h0 : stackState d k = 0) :
    stackState d.checkHomes k = 0 := by
  rw [Dev.checkHomes_eq]
  refine (List.foldlRecOn (motive := fun d : Dev => d.homeUp k = true ∧ stackState d k = 0) _ _ ⟨hup, h0⟩ fun d hd s hs => ?_).2
  obtain ⟨hup, h0⟩ := hd
  have hs := List.mem_range.mp hs
  refine ⟨(d.checkHome_homeUp hs hk).trans hup, ?_⟩
  by_cases heq : s = k
  · subst heq
    unfold Dev.checkHome
    simp [hup, h0]
  · exact ((MoveKeeps.stackState k).checkHome d fun d n => d.stackState_setStack_ne s n (by omega)).trans h0

/-! ## A training ends (R331, R497, R499) -/

/-- A stack has trained: READY, and failed no more. -/
def Dev.stackTrained (d : Dev) (s : Nat) : Dev :=
  (d.setStack s 0).wf (readyOff (readyStack s) + 0x10) (readyStack s % 64) (readyStack s % 64) 0
/-- What waited for a stack goes on: device readiness, repairs, and the sequences parked for it. -/
def Dev.goesOn (d : Dev) : Dev :=
  let d := d.checkReady.serveRepairs
  if d.framesRun then d else d.reopenSlots
def Dev.stackBack (d : Dev) (s : Nat) : Dev := ((d.stackTrained s).syncStack s).checkHomes.goesOn

/-- A training that ends while no retraining is under way. -/
theorem doTrainingDone_eq {d e : Dev} {s : Nat} {ok : Bool} (hs : s ∈ d.training) (hretrain : e.retrain = [])
    (he : e = if ok then ({ d with training := d.training.erase s } : Dev).stackBack s
      else ({ d with training := d.training.erase s } : Dev).stackFails s) : doTrainingDone s ok d = e.nextTraining := by
  have hbody : doTrainingDone s ok d = (match e.retrain with
      | (k, _) :: rest => if k = s && e.retrainStage = 2 then ({ e with retrain := rest, retrainStage := 0 } : Dev).beginRetrain else e
      | [] => e).nextTraining := by
    unfold doTrainingDone
    rw [if_neg (by simp [hs]), he]
    rfl
  rw [hbody, hretrain]

theorem MoveKeeps.goesOn {β : Type} {v : Dev → β} (h : MoveKeeps v) (hready : ∀ d : Dev, v d.checkReady = v d) (d : Dev) : v d.goesOn = v d := by
  have hserve := (h.serveRepairs d.checkReady).trans (hready d)
  unfold Dev.goesOn
  dsimp only
  split
  · exact hserve
  · exact (h.reopenSlots _).trans hserve

theorem Dev.setStack_offPages (d : Dev) (s n : Nat) : (d.setStack s n).offPages = d.offPages := Dev.offPages_of_inner (Dev.inner_setStack ..)
theorem Dev.checkReady_offPages (d : Dev) : d.checkReady.offPages = d.offPages := Dev.offPages_of_offReady (Dev.checkReady_offReady d)

theorem not_readyReg_STACK (s : Nat) : ¬ readyReg (Reg.STACK s) := by
  unfold readyReg countsFromReady Reg.STACK
  simp only [List.mem_cons, List.not_mem_nil, Reg.CAP_W, Reg.T_DONE, Reg.READY1, Reg.EVENT, Reg.VOID_COUNT, Reg.P_WINCOUNT, Reg.P_LOST,
    Bool.or_eq_true, Bool.and_eq_true, beq_iff_eq, decide_eq_true_eq, or_false]
  omega
/-- The registers of functions that failed (R499) are none that accounting, reports or device readiness write. -/
theorem failedOff (n : Nat) : ¬ tableReg (readyOff n + 0x10) ∧ ¬ stackReport (readyOff n + 0x10) ∧ ¬ readyReg (readyOff n + 0x10)
    ∧ ∀ s, readyOff n + 0x10 ≠ Reg.STACK s := by
  have hstack (o : Nat) (h : 0x900000 ≤ o) : ∀ s, o ≠ Reg.STACK s := fun s => by unfold Reg.STACK; omega
  unfold readyOff tableReg stackReport vrvReg readyReg
  split
  · exact ⟨by decide, by decide, by decide, hstack _ (by decide)⟩
  · exact ⟨by decide, by decide, by decide, hstack _ (by decide)⟩

section
variable (d : Dev)

theorem Dev.stackState_checkReady (k : Nat) : stackState d.checkReady k = stackState d k :=
  Dev.rf_congr (d.checkReady_rd (not_readyReg_STACK k)) 63 61
theorem Dev.stackState_failedOff (n k hi lo x : Nat) : stackState (d.wf (readyOff n + 0x10) hi lo x) k = stackState d k := by
  obtain ⟨-, -, -, hstack⟩ := failedOff n
  exact Dev.rf_congr (d.rd_wf_ne _ _ _ (hstack k).symm) 63 61

variable (k : StackId)

theorem Dev.stackBack_retrain : (d.stackBack k).retrain = d.retrain := by
  refine Dev.offPages_retrain ((MoveKeeps.offPages.goesOn Dev.checkReady_offPages _).trans ?_)
  refine (MoveKeeps.offPages.checkHomes Dev.setStack_offPages _).trans ((MoveKeeps.offPages.syncStack ..).trans ?_)
  exact d.setStack_offPages k 0
theorem Dev.stackBack_stackState (hup : d.homeUp k = true) : stackState (d.stackBack k) k = 0 := by
  have hstate : stackState ((d.stackTrained k).syncStack k) k = 0 :=
    ((MoveKeeps.stackState k).syncStack ..).trans ((Dev.stackState_failedOff ..).trans (Dev.stackState_setStack _ _ _ (by decide)))
  have hready {f : Nat} (hf : f < 16) : ((d.stackTrained k).syncStack k).ready (readyField f) = d.ready (readyField f) := by
    have hoff : readyOff (readyField f) = Reg.READY0 := if_pos (by unfold readyField; omega)
    have hne : readyOff (readyField f) ≠ readyOff (readyStack k) + 0x10 := by rw [hoff]; unfold readyOff; split <;> decide
    exact ((TableKeeps.ready _).syncStack ..).trans ((Dev.rb_congr (Dev.rd_wf_ne _ _ _ _ hne) _).trans (d.setStack_readyField 0 k.isLt hf))
  have hhome : ((d.stackTrained k).syncStack k).homeUp k = true := by
    obtain ⟨h1, h2⟩ := homes_lt k k.isLt
    rw [← hup]
    unfold Dev.homeUp
    rw [hready h1, hready h2]
  exact ((MoveKeeps.stackState k).goesOn (Dev.stackState_checkReady · k) _).trans (Dev.stackState_checkHomes k.isLt hhome hstate)
theorem Dev.stackBack_failedBit : (d.stackBack k).failedBit (readyStack k) = false := by
  obtain ⟨htable, hreport, hready, hstack⟩ := failedOff (readyStack k)
  have hkeeps := MoveKeeps.rd htable
  have hrd : (d.stackBack k).rd (readyOff (readyStack k) + 0x10) = (d.stackTrained k).rd (readyOff (readyStack k) + 0x10) :=
    (hkeeps.goesOn (·.checkReady_rd hready) _).trans ((hkeeps.checkHomes (fun d s n => d.setStack_rd s n (hstack s) hreport) _).trans
      (hkeeps.syncStack ..))
  refine (Dev.rb_congr hrd _).trans ?_
  unfold Dev.stackTrained
  rw [Dev.rb_wf _ _ _ _ _ _ (Nat.le_refl _) (Nat.mod_lt _ (by decide)), if_pos ⟨Nat.le_refl _, Nat.le_refl _⟩, Nat.sub_self]
  rfl

/-- The state of a stack that fails to train, and the entry of the varve log that tells it. -/
def Dev.stackDown (d : Dev) (s : Nat) : Dev :=
  if stackState d s = 4 then d.varveLog 29 2 (stackKind s).1 (stackKind s).2 {} 4 (w64 (d.rf (Reg.STACK s) 60 48)) else d.setStack s 4

theorem Dev.stackFails_eq : ∃ b x, d.stackFails k = (((((d.stackDown k).setFailed (readyStack k)).when b x).loseStack k).checkReady)
    ∧ ∀ e : Dev, (x e).inner = e.inner ∧ ∀ o, ¬ vrvReg o → (x e).rd o = e.rd o :=
  ⟨_, _, rfl, fun e => ⟨Dev.inner_varveLog .., fun _ ho => e.varveLog_rd _ _ _ _ _ _ _ ho⟩⟩
theorem Dev.stackFails_rd {o : Nat} (ho : ¬ stackReport o) (hready : ¬ readyReg o) :
    (d.stackFails k).rd o = ((d.stackDown k).setFailed (readyStack k)).rd o := by
  obtain ⟨b, x, heq, hx⟩ := d.stackFails_eq k
  rw [heq, Dev.checkReady_rd _ hready]
  exact Dev.when_keeps (·.rd o) (fun e => (hx e).2 o fun hv => ho (.inr hv)) _ b
theorem Dev.stackFails_retrain : (d.stackFails k).retrain = d.retrain := by
  obtain ⟨b, x, heq, hx⟩ := d.stackFails_eq k
  have hdown : (d.stackDown k).inner = d.inner := by
    unfold Dev.stackDown
    split
    · exact Dev.inner_varveLog ..
    · exact Dev.inner_setStack ..
  rw [heq]
  have hlose (e : Dev) : (e.loseStack k).offPages = e.offPages := rfl
  refine Dev.offPages_retrain ((Dev.checkReady_offPages _).trans ((hlose _).trans (Dev.offPages_of_inner ?_)))
  exact (Dev.when_keeps Dev.inner (fun e => (hx e).1) _ b).trans hdown
theorem Dev.stackFails_stackState : stackState (d.stackFails k) k = 4 := by
  refine (Dev.rf_congr (d.stackFails_rd k (not_stackReport_STACK k) (not_readyReg_STACK k)) 63 61).trans ?_
  refine (Dev.stackState_failedOff ..).trans ?_
  unfold Dev.stackDown
  split
  · next h => exact (Dev.rf_congr (Dev.varveLog_rd _ _ _ _ _ _ _ _ fun hv => not_stackReport_STACK k (.inr hv)) 63 61).trans h
  · exact Dev.stackState_setStack _ _ _ (by decide)
theorem Dev.stackFails_failedBit : (d.stackFails k).failedBit (readyStack k) = true := by
  obtain ⟨-, hreport, hready, -⟩ := failedOff (readyStack k)
  refine (Dev.rb_congr (d.stackFails_rd k hreport hready) _).trans ?_
  unfold Dev.setFailed
  rw [Dev.rb_wf _ _ _ _ _ _ (Nat.le_refl _) (Nat.mod_lt _ (by decide)), if_pos ⟨Nat.le_refl _, Nat.le_refl _⟩, Nat.sub_self]
  rfl

end

theorem Dev.seal_failedBit (d : Dev) (k : StackId) : d.seal.failedBit (readyStack k) = d.failedBit (readyStack k) := by
  have himpl : ∀ k : StackId, (regImpl (readyOff (readyStack k) + 0x10)).getLsbD (readyStack k % 64) = true := by decide
  exact Dev.seal_rb _ _ _ (himpl k)

section
variable {s : State} {k : StackId}

theorem stackTrainingDone_ready (hk : k.val ∈ s.dev.training) (hretrain : s.dev.retrain = []) (hup : s.dev.homeUp k = true) :
    Completes (.stackTrainingDone k true) s fun e => stackState e k = 0 ∧ e.failedBit (readyStack k) = false := by
  let d : Dev := { s.dev with training := s.dev.training.erase k }
  refine .of _ (congrArg s.ok (doTrainingDone_eq (e := d.stackBack k) hk ((d.stackBack_retrain k).trans hretrain) rfl)) ⟨?_, ?_⟩
  · exact (Dev.seal_stackState ..).trans (d.stackBack_stackState k hup)
  · exact (Dev.seal_failedBit ..).trans (d.stackBack_failedBit k)
theorem stackTrainingDone_down (hk : k.val ∈ s.dev.training) (hretrain : s.dev.retrain = []) :
    Completes (.stackTrainingDone k false) s fun e => stackState e k = 4 ∧ e.failedBit (readyStack k) = true := by
  let d : Dev := { s.dev with training := s.dev.training.erase k }
  refine .of _ (congrArg s.ok (doTrainingDone_eq (e := d.stackFails k) hk ((d.stackFails_retrain k).trans hretrain) rfl)) ⟨?_, ?_⟩
  · exact (Dev.seal_stackState ..).trans (d.stackFails_stackState k)
  · exact (Dev.seal_failedBit ..).trans (d.stackFails_failedBit k)
theorem stackTrainingDone_other (hk : k.val ∉ s.dev.training) (ok : Bool) :
    Completes (.stackTrainingDone k ok) s fun e => OnlyRegs [] s.dev e := .unchanged (congrArg s.ok (if_pos (by simpa using hk)))

end

/-! ## The obligation -/

/-- Settles O29, by the commands' lemmas: what a closing stack abandons and what a stack that is back lets go on leaves its STATE. -/
theorem stacksRetrainInOrder : Obligations.StacksRetrainInOrder := by
  intro p k evac s d
  refine ⟨fun h => .unchanged (execStackRetrain_other h), fun h => ⟨stackRetrain_waits h, stackSelfRetrain_waits h⟩, fun h hopen i hi => ?_,
    fun hk h => ⟨fun hup => stackTrainingDone_ready hk h ?_, stackTrainingDone_down hk h⟩, stackTrainingDone_other⟩
  · obtain ⟨e, hexec, hretrain, hrd⟩ := exec_of_mem_retrains hi
    have hstate : stackState e k = stackState d k := Dev.rf_congr (hrd _ (by unfold Reg.STACK Reg.RETRAIN; omega)) 63 61
    have hframes : e.framesRun = d.framesRun := Dev.rb_congr (hrd _ (by decide)) 63
    rw [← hframes]
    exact Completes.retrain_open hexec (hretrain.trans h) (hstate.trans_le hopen)
  · exact Bool.or_eq_true_iff.mpr hup

end Sys2Proof.Machine
end

section
/-! PROOFS. Pools, quotas and migration (R316, R326 to R330). -/

namespace Sys2Proof.Machine

/-! ## Pools and quotas (R316, R330) -/

section
variable {s : State} {p : Port}

theorem poolLock_locks (hsteward : s.dev.isSteward p = true) (hopen : s.dev.locked = false) : Completes (.poolLock p) s fun e =>
    e.locked = true ∧ RegsBut (Reg.MEM_CTL :: (List.range 36).map Reg.STACK) s.dev e ∧ SameBytes s.dev e := by
  let d : Dev := s.dev.wf Reg.MEM_CTL 63 63 1
  have hctl : (d.each (List.range 36) fun d k => d.syncStack k).rd Reg.MEM_CTL = d.rd Reg.MEM_CTL :=
    Dev.each_keeps (·.rd Reg.MEM_CTL) (fun k _ d => (MoveKeeps.rd (by unfold tableReg; decide)).syncStack d k) d
  refine .of (d.each (List.range 36) fun d k => d.syncStack k) (congrArg s.ok (if_neg (by simp [hsteward, hopen]))) ⟨?_, .seal fun o ho => ?_, .seal fun a => ?_⟩
  · refine (Dev.seal_rb _ _ _ (by decide)).trans ((Dev.rb_congr hctl 63).trans ?_)
    exact (Dev.rb_wf _ _ _ _ _ _ (by decide) (by decide)).trans (if_pos (by decide))
  · rw [List.mem_cons, not_or] at ho
    obtain ⟨hctl, hstack⟩ := ho
    refine (Dev.each_keeps (·.rd o) (fun k hk d => ?_) d).trans (Dev.rd_wf_ne _ _ _ _ hctl)
    have hne : o ≠ Reg.STACK k := fun heq => hstack (List.mem_map.mpr ⟨k, hk, heq.symm⟩)
    exact (Dev.rd_wf_ne _ _ _ _ hne).trans (Dev.rd_wf_ne _ _ _ _ hne)
  · exact Dev.each_keeps (·.rdByte a) (f := fun d k => d.syncStack k) (fun _ _ _ => rfl) d
theorem poolLock_other (h : s.dev.isSteward p = false ∨ s.dev.locked = true) : Completes (.poolLock p) s fun e => OnlyRegs [] s.dev e :=
  .unchanged (congrArg s.ok (if_pos (by simpa using h)))

theorem Dev.cutQuota_rd (d : Dev) (cls : Bool) (n tier use limit : Nat) {o : Nat} (h : ¬ vrvReg o) : (d.cutQuota cls n tier use limit).rd o = d.rd o := by
  unfold Dev.cutQuota
  split
  · rfl
  · exact Dev.varveLog_rd _ _ _ _ _ _ _ _ h
/-- A cut that leaves no surplus is not reported. -/
theorem Dev.cutQuota_of_le (d : Dev) (cls : Bool) (n tier : Nat) {use limit : Nat} (h : use ≤ limit) : d.cutQuota cls n tier use limit = d := if_pos h

/-- The quota and the use count of an owner: a class, or a context (R329). -/
def quotaReg (cls : Bool) (n : Nat) : Nat := if cls then Reg.QCLS n else Reg.QCTX n
def useReg (cls : Bool) (n : Nat) : Nat := if cls then Reg.UCLS n else Reg.UCTX n

theorem quotaReg_not_vrv (cls : Bool) (n : Nat) : ¬ vrvReg (quotaReg cls n) := by
  unfold vrvReg quotaReg Reg.QCLS Reg.QCTX; split <;> omega
theorem useReg_ne_quotaReg (cls : Bool) (n : Nat) : useReg cls n ≠ quotaReg cls n := by
  unfold useReg quotaReg Reg.QCLS Reg.QCTX Reg.UCLS Reg.UCTX; split <;> omega
theorem regImpl_quotaReg (cls : Bool) (n : CtxId) : regImpl (quotaReg cls n) = BitVec.allOnes 64 := by
  have h : ∀ cls : Bool, ∀ n : CtxId, regImpl (quotaReg cls n) = BitVec.allOnes 64 := by decide
  exact h cls n

variable {cls : Bool} {n : CtxId} {v : BitVec 64}

theorem quotaWrite_other (h : s.dev.isSteward p = false ∨ (cls = true ∧ 8 ≤ n.val)) :
    Completes (.quotaWrite p cls n v) s fun e => OnlyRegs [] s.dev e := .unchanged (congrArg s.ok (if_pos (by simpa using h)))
theorem quotaWrite_sets (hsteward : s.dev.isSteward p = true) (hcls : cls = true → n.val < 8) :
    Completes (.quotaWrite p cls n v) s fun e => e.rd (quotaReg cls n) = v
      ∧ (fld (s.dev.rd (useReg cls n)) 63 32 ≤ fld v 63 32 → fld (s.dev.rd (useReg cls n)) 31 0 ≤ fld v 31 0 →
        OnlyRegs [quotaReg cls n] s.dev e) := by
  let d : Dev := s.dev.wr (quotaReg cls n) v
  have huse : d.rd (useReg cls n) = s.dev.rd (useReg cls n) := Dev.rd_wr_ne _ _ (useReg_ne_quotaReg cls n)
  have hlog := quotaReg_not_vrv cls n
  refine .of ((d.cutQuota cls n 0 (fld (d.rd (useReg cls n)) 63 32) (fld v 63 32)).cutQuota cls n 1 (fld (d.rd (useReg cls n)) 31 0) (fld v 31 0))
    (congrArg s.ok (if_neg ?_)) ⟨?_, fun hhbm hlp => ?_⟩
  · simpa [hsteward] using hcls
  · rw [Dev.seal_rd_all _ _ (regImpl_quotaReg cls n), Dev.cutQuota_rd _ _ _ _ _ _ hlog, Dev.cutQuota_rd _ _ _ _ _ _ hlog]
    exact Dev.rd_wr_same ..
  · rw [huse, Dev.cutQuota_of_le _ _ _ _ hhbm, Dev.cutQuota_of_le _ _ _ _ hlp]
    exact .wr _ _ List.mem_cons_self

end

/-! ## A move that starts (R326 to R328) -/

theorem Dev.seal_moves (d : Dev) : d.seal.moves = d.moves := rfl
theorem Dev.seal_pages (d : Dev) : d.seal.pages = d.pages := rfl
theorem Dev.seal_handed (d : Dev) : d.seal.handed = d.handed := rfl
theorem Dev.seal_promoRoom (d : Dev) : d.seal.promoRoom = d.promoRoom := rfl
theorem Dev.seal_demoting (d : Dev) : d.seal.demoting = d.demoting := rfl

section
variable {d d₂ : Dev} {p : Page} {f tier : Nat}

theorem Dev.placeIn_free (d : Dev) (tier : Nat) (b : Bool) : ∃ n, (d.placeIn tier b).2 = { d with free := n } := by
  unfold Dev.placeIn
  split
  · exact ⟨d.free, rfl⟩
  · unfold Dev.placeOn
    dsimp only
    split
    · exact ⟨_, rfl⟩
    · exact ⟨_, rfl⟩

theorem Dev.moveTo_placed (h : d.placeIn tier p.large = (some f, d₂)) (why : MoveWhy) : d.moveTo p tier why = (d₂.startMove p f why, true) := by
  unfold Dev.moveTo
  rw [h]
theorem Dev.placed_moves (h : d.placeIn tier p.large = (some f, d₂)) (why : MoveWhy) :
    (d₂.startMove p f why).moves = d.moves ++ [⟨p.frame, f, why⟩] := by
  obtain ⟨n, hn⟩ := d.placeIn_free tier p.large
  obtain rfl : d₂ = { d with free := n } := (congrArg Prod.snd h).symm.trans hn
  exact (TableKeeps.moves.syncFrame ..).trans ((TableKeeps.moves.reLeaf ..).trans (TableKeeps.moves.useAdd ..))
theorem Dev.placed_offPages (h : d.placeIn tier p.large = (some f, d₂)) (why : MoveWhy) : (d₂.startMove p f why).offPages = d.offPages := by
  have hplace := MoveKeeps.offPages.placeIn d tier p.large
  rw [h] at hplace
  exact (MoveKeeps.offPages.startMove ..).trans hplace

end

/-! ## Demotion (R326) -/

section
variable {s : State}

/-- Without MIGRATE neither kind of migration takes place. -/
theorem migration_off (hoff : s.dev.rb Reg.MEM_CTL 62 = false) {i : Instr} (hi : i ∈ [Instr.demotion, .promotion]) :
    Completes i s fun e => OnlyRegs [] s.dev e := by
  have hnot : (!s.dev.rb Reg.MEM_CTL 62) = true := by rw [hoff]; rfl
  rcases List.mem_cons.mp hi with rfl | hi
  · exact .unchanged (congrArg s.ok (if_pos hnot))
  · rw [List.mem_singleton.mp hi]
    exact .unchanged (congrArg s.ok (if_pos hnot))

variable (hon : s.dev.rb Reg.MEM_CTL 62 = true)
include hon

theorem demotion_stops (hhigh : s.dev.above s.dev.highPct = false) (hlow : s.dev.above s.dev.lowPct = false) :
    Completes .demotion s fun e => OnlyRegs [] { s.dev with demoting := false } e := by
  refine .of { s.dev with demoting := false } (congrArg s.ok ?_) (.refl _ _)
  unfold doDemotion
  simp [hon, hhigh, hlow]
theorem demotion_rests (hhigh : s.dev.above s.dev.highPct = false) (hrest : s.dev.demoting = false) :
    Completes .demotion s fun e => OnlyRegs [] s.dev e := by
  have hsame : ({ s.dev with demoting := false } : Dev) = s.dev := by rw [← hrest]
  refine .unchanged (congrArg s.ok ?_)
  unfold doDemotion
  simp [hon, hhigh, hrest, hsame]
theorem demotion_moves {q : Page} {f : Nat} {d₂ : Dev}
    (habove : s.dev.above s.dev.highPct = true ∨ (s.dev.above s.dev.lowPct = true ∧ s.dev.demoting = true))
    (hpage : ({ s.dev with demoting := true } : Dev).demotable (fun _ => true) = some q)
    (hplace : ({ s.dev with demoting := true } : Dev).placeIn 1 q.large = (some f, d₂)) :
    Completes .demotion s fun e => e.moves = s.dev.moves ++ [⟨q.frame, f, .demote⟩] ∧ e.demoting = true := by
  let c : Dev := { s.dev with demoting := true }
  have hstart : (if s.dev.above s.dev.highPct = true then c else if s.dev.above s.dev.lowPct = true then s.dev else { s.dev with demoting := false }) = c := by
    rcases habove with hhigh | ⟨hlow, hdemoting⟩
    · exact if_pos hhigh
    · have hsame : s.dev = c := by
        change s.dev = { s.dev with demoting := true }
        rw [← hdemoting]
      rw [if_pos hlow, ← hsame, ite_self]
  refine .of (d₂.startMove q f .demote) (congrArg s.ok ?_) 
    ⟨(Dev.seal_moves _).trans (Dev.placed_moves hplace _), (Dev.seal_demoting _).trans (Dev.offPages_demoting (Dev.placed_offPages hplace _))⟩
  unfold doDemotion
  rw [if_neg (by simp [hon])]
  dsimp only
  rw [hstart]
  refine (if_neg Bool.false_ne_true).trans ?_
  simp only [c, hpage, Dev.moveTo_placed hplace]

end

/-! ## Promotion (R326, R332) -/

/-- Whether a page of an owner is on its way to LPDDR. -/
def Dev.ownerLeaves (d : Dev) (c : Nat) : Bool := d.moves.any fun m => m.why == .demote && ((d.pageAt m.src).map (·.ctx)) == some c

/-- A page of the owner has left to make room (R326). -/
def Dev.madeRoom (d : Dev) : Dev := { d with promoRoom := true }

theorem Dev.madeRoom_moves (d : Dev) : d.madeRoom.moves = d.moves := rfl
theorem Dev.madeRoom_handed (d : Dev) : d.madeRoom.handed = d.handed := rfl

/-- The page handed over first: in LPDDR, free to move, and on a stack in service. -/
structure Dev.HandsOver (d : Dev) (rest : List (Nat × Nat)) (q : Page) : Prop where
  on : d.rb Reg.MEM_CTL 62 = true
  mapped : ∃ c vpn l, d.handed = (c, vpn) :: rest ∧ d.walk c (vpn * 65536) = some l ∧ d.pageAt l.frame = some q
  lpddr : frameTier q.frame = 1
  anyTier : q.tier = 0
  still : ∀ m ∈ d.moves, m.src ≠ q.frame
  up : d.stackUp ((stackOf (q.frame * 65536)).getD 0) = true

theorem Dev.HandsOver.not_moving {d : Dev} {rest : List (Nat × Nat)} {q : Page} (h : d.HandsOver rest q) : d.moves.any (·.src == q.frame) = false :=
  List.any_eq_false.mpr fun m hm => by simpa using h.still m hm

section
variable {s : State} {rest : List (Nat × Nat)} {q : Page} (h : s.dev.HandsOver rest q)
include h

theorem promotion_waits (hroom : s.dev.promoRoom = true) (hleaves : s.dev.ownerLeaves q.ctx = true) :
    Completes .promotion s fun e => OnlyRegs [] s.dev e := by
  have hstill := h.not_moving
  obtain ⟨hon, ⟨c, vpn, l, hhanded, hwalk, hpage⟩, hlp, htier, -, hup⟩ := h
  unfold Dev.ownerLeaves at hleaves
  refine .unchanged (congrArg s.ok ?_)
  unfold doPromotion
  simp [hon, hhanded, hwalk, hpage, hlp, htier, hup, hroom, hleaves, hstill, -List.any_eq_true, -List.any_eq_false]

/-- The page moves where its owner's quota has room, and HBM is under its watermark or a page of the owner has made room. -/
theorem promotion_moves {f : Nat} {d₂ : Dev} (hquota : s.dev.quotaRoom q.ctx q.cls 0 q.frames = true)
    (hroom : (s.dev.promoRoom = true ∧ s.dev.ownerLeaves q.ctx = false) ∨ (s.dev.promoRoom = false ∧ s.dev.occupied s.dev.highPct false = false))
    (hplace : ({ s.dev with handed := rest, promoRoom := false } : Dev).placeIn 0 q.large = (some f, d₂)) :
    Completes .promotion s fun e => e.moves = s.dev.moves ++ [⟨q.frame, f, .promote⟩] ∧ e.handed = rest ∧ e.promoRoom = false := by
  have hstill := h.not_moving
  obtain ⟨hon, ⟨c, vpn, l, hhanded, hwalk, hpage⟩, hlp, htier, -, hup⟩ := h
  have hoff := Dev.placed_offPages hplace .promote
  unfold Dev.ownerLeaves at hroom
  refine .of (d₂.startMove q f .promote) (congrArg s.ok ?_)
    ⟨(Dev.seal_moves _).trans (Dev.placed_moves hplace _), (Dev.seal_handed _).trans (Dev.offPages_handed hoff),
      (Dev.seal_promoRoom _).trans (Dev.offPages_promoRoom hoff)⟩
  unfold doPromotion
  rcases hroom with ⟨hmade, hleaves⟩ | ⟨hnone, hunder⟩
  · simp [hon, hhanded, hwalk, hpage, hlp, htier, hup, hstill, hquota, hmade, hleaves, Dev.moveTo_placed hplace, -List.any_eq_true, -List.any_eq_false]
  · simp [hon, hhanded, hwalk, hpage, hlp, htier, hup, hstill, hquota, hnone, hunder, Dev.moveTo_placed hplace, -List.any_eq_true, -List.any_eq_false]

/-- Where it does not, a page of the owner is demoted first. -/
theorem promotion_makes_room {y : Page} {f : Nat} {d₂ : Dev} (hroom : s.dev.promoRoom = false)
    (hfull : s.dev.quotaRoom q.ctx q.cls 0 q.frames = false ∨ s.dev.occupied s.dev.highPct false = true)
    (hpick : s.dev.demotable (fun z => z.ctx == q.ctx) = some y) (hplace : s.dev.placeIn 1 y.large = (some f, d₂)) :
    Completes .promotion s fun e => e.moves = s.dev.moves ++ [⟨y.frame, f, .demote⟩] ∧ e.handed = s.dev.handed ∧ e.promoRoom = true := by
  have hstill := h.not_moving
  obtain ⟨hon, ⟨c, vpn, l, hhanded, hwalk, hpage⟩, hlp, htier, -, hup⟩ := h
  have hnot : (s.dev.quotaRoom q.ctx q.cls 0 q.frames && !s.dev.occupied s.dev.highPct false) = false := by
    rcases hfull with hquota | hover
    · rw [hquota]; rfl
    · rw [hover]; exact Bool.and_false _
  refine .of (d₂.startMove y f .demote).madeRoom (congrArg s.ok ?_) ⟨(Dev.seal_moves _).trans ((Dev.madeRoom_moves _).trans (Dev.placed_moves hplace _)),
    (Dev.seal_handed _).trans ((Dev.madeRoom_handed _).trans (Dev.offPages_handed (Dev.placed_offPages hplace _))), rfl⟩
  unfold doPromotion Dev.madeRoom
  simp [hon, hhanded, hwalk, hpage, hlp, htier, hup, hstill, hroom, hnot, hpick, Dev.moveTo_placed hplace, -List.any_eq_true, -List.any_eq_false,
    -Bool.and_eq_true]

end

/-! ## The switch of a move (R328) -/

/-- The page of a move at its destination: its data, its leaves, and its owner's use. The move is off the list. -/
def Dev.pageSwitched (d : Dev) (m : Move) (p : Page) : Dev :=
  let d := d.copyRange (m.src * 65536) (m.dst * 65536) (65536 * p.frames)
  let d := d.reLeaf p fun e => (e - (if bit e 58 then 2 ^ 58 else 0)) - bits e 47 16 * 65536 + m.dst * 65536
  let d := { d with pages := updIf (·.frame == m.src) (fun p => { p with frame := m.dst }) d.pages }
  d.useAdd p (frameTier m.src) false
/-- A switch from one tier to the other is counted. -/
def Dev.countSwitch (d : Dev) (m : Move) : Dev :=
  match frameTier m.src, frameTier m.dst with
  | 0, 1 => d.inc Reg.DEMOTED
  | 1, 0 => d.inc Reg.PROMOTED
  | _, _ => d

section
variable (d : Dev) (m : Move) (p : Page)

theorem TableKeeps.pageSwitched {β : Type} {v : Dev → β} (h : TableKeeps v) (hpages : ∀ (d : Dev) l, v { d with pages := l } = v d) :
    v (d.pageSwitched m p) = v d := (h.useAdd ..).trans ((hpages ..).trans ((h.reLeaf ..).trans (h.copyRange ..)))
theorem Dev.pageSwitched_pages : (d.pageSwitched m p).pages = updIf (·.frame == m.src) (fun x => { x with frame := m.dst }) d.pages := by
  have hkeep (f : Nat → Nat) : ((d.copyRange (m.src * 65536) (m.dst * 65536) (65536 * p.frames)).reLeaf p f).pages = d.pages :=
    Dev.offPages_pages ((MoveKeeps.offPages.reLeaf ..).trans (MoveKeeps.offPages.copyRange ..))
  refine (Dev.offPages_pages (MoveKeeps.offPages.useAdd ..)).trans ?_
  exact congrArg (updIf (·.frame == m.src) fun x : Page => { x with frame := m.dst }) (hkeep _)

/-- Counting a switch changes one of two registers. -/
theorem Dev.countSwitch_regs : ∃ r, d.countSwitch m = { d with regs := r } := by
  unfold Dev.countSwitch
  split
  · exact ⟨_, rfl⟩
  · exact ⟨_, rfl⟩
  · exact ⟨d.regs, rfl⟩
theorem frameTier_cases (f : Nat) : frameTier f = 0 ∨ frameTier f = 1 := by unfold frameTier; split <;> simp
theorem Dev.countSwitch_demoted : (d.countSwitch m).rd Reg.DEMOTED = d.rd Reg.DEMOTED + (if frameTier m.src = 0 ∧ frameTier m.dst = 1 then 1 else 0) := by
  have hinc : (d.inc Reg.DEMOTED).rd Reg.DEMOTED = d.rd Reg.DEMOTED + 1 := Dev.rd_add_same ..
  have hother : (d.inc Reg.PROMOTED).rd Reg.DEMOTED = d.rd Reg.DEMOTED := Dev.rd_add_ne _ _ (by decide)
  unfold Dev.countSwitch
  rcases frameTier_cases m.src with hs | hs <;> rcases frameTier_cases m.dst with hd | hd <;> simp [hs, hd, hinc, hother]
theorem Dev.countSwitch_promoted : (d.countSwitch m).rd Reg.PROMOTED = d.rd Reg.PROMOTED + (if frameTier m.src = 1 ∧ frameTier m.dst = 0 then 1 else 0) := by
  have hinc : (d.inc Reg.PROMOTED).rd Reg.PROMOTED = d.rd Reg.PROMOTED + 1 := Dev.rd_add_same ..
  have hother : (d.inc Reg.DEMOTED).rd Reg.PROMOTED = d.rd Reg.PROMOTED := Dev.rd_add_ne _ _ (by decide)
  unfold Dev.countSwitch
  rcases frameTier_cases m.src with hs | hs <;> rcases frameTier_cases m.dst with hd | hd <;> simp [hs, hd, hinc, hother]

/-- A page that has switched, with no repair to go on. -/
def Dev.switched : Dev := (((d.pageSwitched m p).countSwitch m).syncFrame m.src).syncFrame m.dst

theorem TableKeeps.switched {β : Type} {v : Dev → β} (h : TableKeeps v) : v (d.switched m p) = v ((d.pageSwitched m p).countSwitch m) :=
  (h.syncFrame ..).trans (h.syncFrame ..)
/-- A switch leaves what its accounting leaves and neither the pages nor registers are part of. -/
theorem TableKeeps.switched_beside {β : Type} {v : Dev → β} (h : TableKeeps v) (hpages : ∀ (d : Dev) l, v { d with pages := l } = v d)
    (hregs : ∀ (d : Dev) r, v { d with regs := r } = v d) : v (d.switched m p) = v d := by
  obtain ⟨r, hr⟩ := (d.pageSwitched m p).countSwitch_regs m
  rw [h.switched, hr, hregs]
  exact h.pageSwitched d m p hpages
theorem Dev.switched_pages : (d.switched m p).pages = updIf (·.frame == m.src) (fun x => { x with frame := m.dst }) d.pages := by
  obtain ⟨r, hr⟩ := (d.pageSwitched m p).countSwitch_regs m
  rw [Dev.offPages_pages (MoveKeeps.offPages.switched d m p), hr]
  exact d.pageSwitched_pages m p
theorem Dev.switched_moves : (d.switched m p).moves = d.moves := TableKeeps.moves.switched_beside d m p (fun _ _ => rfl) fun _ _ => rfl
theorem Dev.switched_repairs : (d.switched m p).repairs = d.repairs := TableKeeps.repairs.switched_beside d m p (fun _ _ => rfl) fun _ _ => rfl
theorem Dev.switched_retrain : (d.switched m p).retrain = d.retrain := TableKeeps.retrain.switched_beside d m p (fun _ _ => rfl) fun _ _ => rfl
theorem Dev.switched_rd {o : Nat} (h : ¬ tableReg o) : (d.switched m p).rd o = ((d.pageSwitched m p).countSwitch m).rd o := (MoveKeeps.rd h).switched ..
theorem Dev.pageSwitched_rd {o : Nat} (h : ¬ tableReg o) : (d.pageSwitched m p).rd o = d.rd o := (MoveKeeps.rd h).pageSwitched d m p fun _ _ => rfl

/-- The device without a move on its list. -/
def Dev.withoutMove : Dev := { d with moves := d.moves.erase m }

theorem Dev.withoutMove_moves : (d.withoutMove m).moves = d.moves.erase m := rfl
theorem Dev.withoutMove_pages : (d.withoutMove m).pages = d.pages := rfl
theorem Dev.withoutMove_repairs : (d.withoutMove m).repairs = d.repairs := rfl
theorem Dev.withoutMove_retrain : (d.withoutMove m).retrain = d.retrain := rfl
theorem Dev.withoutMove_rd (o : Nat) : (d.withoutMove m).rd o = d.rd o := rfl

variable {d m p}

theorem Dev.switchMove_eq (hpage : d.pageAt m.src = some p) (hrepairs : d.repairs = []) : d.switchMove m = (d.withoutMove m).switched m p := by
  have hnone : ((d.withoutMove m).switched m p).repairs = [] := by
    rw [Dev.switched_repairs, Dev.withoutMove_repairs, hrepairs]
  have hbody : d.switchMove m = (((d.withoutMove m).switched m p).each
      ((((d.withoutMove m).switched m p).repairs.filter (p.holds ·.frame)).map (·.frame)) fun d f => d.finishRepair f).serveRepairs := by
    unfold Dev.switchMove
    extract_lets d'
    have hd : d' = d.withoutMove m := rfl
    have hat : d'.pageAt m.src = some p := hpage
    rw [hat, ← hd]
    clear_value d'
    rfl
  rw [hbody, hnone, List.filter_nil, List.map_nil, Dev.each_nil, Dev.serveRepairs_none hnone]

end

/-- A move between stacks in service switches (R328). -/
theorem pageMoveSwitch_switches {s : State} {n : BitVec 16} {m : Move} {p : Page} (hm : s.dev.moves[n.toNat]? = some m)
    (hpage : s.dev.pageAt m.src = some p) (hrepairs : s.dev.repairs = []) (hretrain : s.dev.retrain = [])
    (hsrc : s.dev.stackUp ((stackOf (m.src * 65536)).getD 0) = true) (hdst : s.dev.stackUp ((stackOf (m.dst * 65536)).getD 0) = true) :
    Completes (.pageMoveSwitch n) s fun e => e.moves = s.dev.moves.erase m
      ∧ e.pages = updIf (·.frame == m.src) (fun x => { x with frame := m.dst }) s.dev.pages
      ∧ e.rd Reg.DEMOTED = s.dev.rd Reg.DEMOTED + (if frameTier m.src = 0 ∧ frameTier m.dst = 1 then 1 else 0)
      ∧ e.rd Reg.PROMOTED = s.dev.rd Reg.PROMOTED + (if frameTier m.src = 1 ∧ frameTier m.dst = 0 then 1 else 0) := by
  have hnone : ((s.dev.withoutMove m).switched m p).retrain = [] := by
    rw [Dev.switched_retrain, Dev.withoutMove_retrain, hretrain]
  have hdemoted : ¬ tableReg Reg.DEMOTED := by unfold tableReg; decide
  have hpromoted : ¬ tableReg Reg.PROMOTED := by unfold tableReg; decide
  refine .of ((s.dev.withoutMove m).switched m p) (congrArg s.ok ?_) ⟨?_, ?_, ?_, ?_⟩
  · unfold doMoveSwitch
    simp only [hm, hsrc, hdst, Bool.and_self, if_true, Dev.switchMove_eq hpage hrepairs, Dev.retrainStep_none hnone]
  · rw [Dev.seal_moves, Dev.switched_moves, Dev.withoutMove_moves]
  · rw [Dev.seal_pages, Dev.switched_pages, Dev.withoutMove_pages]
  · rw [Dev.seal_rd_all _ _ (by decide), Dev.switched_rd _ _ _ hdemoted, Dev.countSwitch_demoted, Dev.pageSwitched_rd _ _ _ hdemoted,
      Dev.withoutMove_rd]
  · rw [Dev.seal_rd_all _ _ (by decide), Dev.switched_rd _ _ _ hpromoted, Dev.countSwitch_promoted, Dev.pageSwitched_rd _ _ _ hpromoted,
      Dev.withoutMove_rd]

/-! ## The obligation -/

/-- Settles O28, by the commands' lemmas: a move is recorded as it starts, and everything it leads to leaves pages and moves as they are. -/
theorem poolsQuotasAndMigration : Obligations.PoolsQuotasAndMigration := by
  intro p s d
  refine ⟨poolLock_locks, poolLock_other, fun cls n v => ⟨quotaWrite_other, quotaWrite_sets⟩, demotion_stops, demotion_rests,
    fun q f d₂ hon => demotion_moves hon, fun c vpn rest l q hon hhanded hwalk hpage hlp htier hstill hup => ?_,
    fun hoff i hi => migration_off hoff hi, fun n m q => pageMoveSwitch_switches⟩
  have h : d.HandsOver rest q := ⟨hon, ⟨c, vpn, l, hhanded, hwalk, hpage⟩, hlp, htier, hstill, hup⟩
  exact ⟨fun f d₂ => promotion_moves h, fun y f d₂ => promotion_makes_room h, promotion_waits h⟩

end Sys2Proof.Machine
end

section
/-! PROOFS. Page operations (R316, R320, R322, R327 to R329, R331). -/

namespace Sys2Proof.Machine

/-! ## A page that is mapped (R322 MAP, R327) -/

section
variable {β : Type} {v : Dev → β} (h : MoveKeeps v) {d e : Dev}
include h

theorem MoveKeeps.mapAt {c vpn frame tier : Nat} {wr large moving : Bool} (he : d.mapAt c vpn frame tier wr large moving = some e) : v e = v d := by
  have hpath := h.pathGo d c (vpn * 65536) (if large then 1 else 0) 3 (d.ptRoot c)
  unfold Dev.mapAt at he
  split at he
  · next heq => rw [heq] at hpath; cases he; exact (h.storeNum ..).trans hpath
  · cases he
theorem MoveKeeps.allocate (d : Dev) (c : Nat) (cls : Option Nat) (tier : Nat) (large : Bool) : v (d.allocate c cls tier large).2 = v d := by
  unfold Dev.allocate
  dsimp only
  split
  · next t _ =>
    have hplace := h.placeIn d t large
    split
    all_goals rename_i heq; rw [heq] at hplace; exact hplace
  · rfl

end

/-- A key that a filter removes reads as if never written. -/
theorem smGet_filter_dropped {α : Type} (r : Nat → α) (p : Nat → Bool) (m : SMap α) {k : Nat} (h : p k = false) : smGet r (m.filter fun e => p e.1) k = r k := by
  induction m with
  | nil => rfl
  | cons e es ih =>
    obtain ⟨k', v⟩ := e
    by_cases hp : p k' = true
    · have hne : k' ≠ k := fun heq => by rw [heq, h] at hp; cases hp
      rw [List.filter_cons_of_pos (by simpa using hp), smGet, if_neg hne, ih]
    · rw [List.filter_cons_of_neg (by simpa using hp), ih]
theorem Dev.clearRange_rdByte (d : Dev) {a n x : Nat} (h : a ≤ x) (h' : x < a + n) : (d.clearRange a n).rdByte x = 0 :=
  smGet_filter_dropped memReset (fun k => k < a || k ≥ a + n) d.mem (by simp; omega)

theorem Dev.useAdd_rdByte (d : Dev) (p : Page) (tier : Nat) (b : Bool) (a : Nat) : (d.useAdd p tier b).rdByte a = d.rdByte a :=
  congrArg (smGet memReset · a) (Dev.useAdd_mem ..)
theorem Dev.syncFrame_rdByte (d : Dev) (f a : Nat) : (d.syncFrame f).rdByte a = d.rdByte a := by
  obtain ⟨r, hr⟩ := d.syncFrame_eq f
  rw [hr]
  rfl

/-- A page that is mapped joins the pages, and is zero. -/
theorem Dev.mapNew_page {d e : Dev} {c vpn tier : Nat} {wr large : Bool} {cls slot : Option Nat}
    (h : d.mapNew c vpn tier wr large cls slot = .ok e) : ∃ f touch,
      e.pages = d.pages ++ [{ frame := f, large, ctx := c, cls, slot, maps := [(c, vpn)], tier, touch }]
      ∧ ∀ a, f * 65536 ≤ a → a < f * 65536 + 65536 * (if large then 32 else 1) → e.rdByte a = 0 := by
  have halloc := MoveKeeps.offPages.allocate d c cls tier large
  unfold Dev.mapNew at h
  split at h
  · cases h
  · next f d₁ heq =>
    rw [heq] at halloc
    dsimp only at h
    split at h
    · cases h
    · next d₂ hmap =>
      have hpages : d₂.pages = d.pages := Dev.offPages_pages ((MoveKeeps.offPages.mapAt hmap).trans halloc)
      cases h
      refine ⟨f, d₂.rn Reg.MEM_TICK, ?_, fun a hlo hhi => ?_⟩
      · refine (Dev.offPages_pages (MoveKeeps.offPages.syncFrame ..)).trans (congrArg (· ++ [_]) ?_)
        exact (Dev.offPages_pages ((MoveKeeps.offPages.useAdd ..).trans (MoveKeeps.offPages.clearRange ..))).trans hpages
      · rw [Dev.syncFrame_rdByte]
        exact (Dev.useAdd_rdByte ..).trans (Dev.clearRange_rdByte _ hlo hhi)

/-! ## The last mapping of a page (R322 UNMAP) -/

theorem filter_updIf {α : Type} {p q : α → Bool} {f : α → α} (h : ∀ x, p x = true → q x = false ∧ q (f x) = false) (l : List α) :
    (updIf p f l).filter q = l.filter q := by
  induction l with
  | nil => rfl
  | cons x xs ih =>
    unfold updIf at ih ⊢
    rw [List.map_cons]
    by_cases hp : p x = true
    · obtain ⟨hx, hfx⟩ := h x hp
      rw [if_pos hp, List.filter_cons_of_neg (by simp [hfx]), List.filter_cons_of_neg (by simp [hx]), ih]
    · rw [if_neg hp, List.filter_cons, List.filter_cons, ih]

/-- A page leaves memory with no move of it and no repair to see to. -/
def Dev.pageFreed (d : Dev) (p : Page) : Dev :=
  ({ d.useAdd p (frameTier p.frame) false with pages := d.pages.filter (·.frame != p.frame) } : Dev).syncFrame p.frame

section
variable (d : Dev) (p : Page)

theorem Dev.pageFreed_pages : (d.pageFreed p).pages = d.pages.filter (·.frame != p.frame) := Dev.offPages_pages (MoveKeeps.offPages.syncFrame ..)
theorem Dev.pageFreed_repairs : (d.pageFreed p).repairs = d.repairs :=
  (Dev.offPages_repairs (MoveKeeps.offPages.syncFrame ..)).trans (Dev.offPages_repairs (MoveKeeps.offPages.useAdd d p _ false) :)
theorem Dev.pageFreed_rdByte (a : Nat) : (d.pageFreed p).rdByte a = d.rdByte a := (Dev.syncFrame_rdByte ..).trans (d.useAdd_rdByte p _ false a)

variable {d}

theorem Dev.freePage_eq (hmoves : d.moves = []) (hrepairs : d.repairs = []) : d.freePage p = d.pageFreed p := by
  have hpages : (d.useAdd p (frameTier p.frame) false).pages = d.pages := Dev.offPages_pages (MoveKeeps.offPages.useAdd ..)
  have hnone := (d.pageFreed_repairs p).trans hrepairs
  unfold Dev.freePage
  simp only [hmoves, List.filter_nil, Dev.each_nil, hpages]
  change ((d.pageFreed p).each (((d.pageFreed p).repairs.filter _).map _) _).serveRepairs = _
  rw [hnone, List.filter_nil, List.map_nil, Dev.each_nil, Dev.serveRepairs_none hnone]

end

/-- A number written to memory reads back. -/
theorem Dev.rdNum_storeNum (d : Dev) (a n x : Nat) : (d.storeNum a n x).rdNum a n = x % 256 ^ n := by
  have hread := d.rdBytes_wrBytes a (toBytes n x)
  rw [length_toBytes] at hread
  unfold Dev.rdNum Dev.storeNum
  rw [Dev.rdBytes_congr (d.store_rdByte a · _), hread, ofBytes_toBytes]

theorem Dev.unmapPage_last {d : Dev} {c vpn : Nat} {l : Leaf} {p : Page} (hwalk : d.walk c (vpn * 65536) = some l) (hpage : d.pageAt l.frame = some p)
    (hrepairs : d.repairs = []) (hmoves : d.moves = []) (hmaps : p.maps = [(c, vpn)]) :
    (d.unmapPage c vpn).pages = d.pages.filter (·.frame != p.frame) ∧ (d.unmapPage c vpn).rdNum l.addr 8 = 0 := by
  have hoff : (d.storeNum l.addr 8 0).offPages = d.offPages := MoveKeeps.offPages.storeNum ..
  have hpage' : (d.storeNum l.addr 8 0).pageAt l.frame = some p := by
    unfold Dev.pageAt at hpage ⊢
    rw [Dev.offPages_pages hoff, hpage]
  have hlast : p.maps.filter (· != (c, vpn)) = [] := by simp [hmaps]
  let d₂ : Dev := { d.storeNum l.addr 8 0 with
    pages := updIf (·.frame == p.frame) (fun p => { p with maps := p.maps.filter (· != (c, vpn)) }) (d.storeNum l.addr 8 0).pages }
  have hmoves₂ : d₂.moves = [] := (TableKeeps.moves.storeNum d l.addr 8 0).trans hmoves
  have hrepairs₂ : d₂.repairs = [] := (Dev.offPages_repairs hoff).trans hrepairs
  have hunmap : d.unmapPage c vpn = d₂.pageFreed p := by
    rw [← Dev.freePage_eq p hmoves₂ hrepairs₂]
    unfold Dev.unmapPage
    simp only [hwalk, hpage', hlast, if_true]
    rfl
  rw [hunmap]
  constructor
  · refine (d₂.pageFreed_pages p).trans ((filter_updIf (fun x hx => ?_) _).trans ?_)
    · have hframe : x.frame = p.frame := beq_iff_eq.mp hx
      simp [hframe]
    · rw [Dev.offPages_pages hoff]
  · refine (congrArg ofBytes (Dev.rdBytes_congr (d := d.storeNum l.addr 8 0) (fun a => ?_) l.addr 8)).trans
      ((d.rdNum_storeNum l.addr 8 0).trans (Nat.zero_mod _))
    exact d₂.pageFreed_rdByte p a

/-! ## The tier of a page, and another mapping of it (R322) -/

/-- TIER written into a page and its leaves. -/
def Dev.tierWritten (d : Dev) (p : Page) (tier : Nat) : Dev :=
  { d.reLeaf p fun e => (put (w64 e) 61 60 tier).toNat with pages := updIf (·.frame == p.frame) (fun q => { q with tier }) d.pages }

/-- SETTIER writes TIER into the device as it is, or as moves of the page have been abandoned or have begun, and then serves repairs. -/
theorem Dev.setTier_ok {d e : Dev} {p : Page} {tier : Nat} (h : d.setTier p tier = .ok e) : ∃ x : Dev, x.offPages = d.offPages
    ∧ (e = x.tierWritten p tier ∨ e = (x.tierWritten p tier).serveRepairs) := by
  have habandon (l : List Move) : (d.each l fun d m => d.abandon m).offPages = d.offPages :=
    Dev.each_keeps Dev.offPages (fun m _ d => MoveKeeps.offPages.abandon d m) d
  unfold Dev.setTier at h
  dsimp only at h
  generalize (if tier = 1 then 0 else 1) = want at h
  split at h
  · exact ⟨d, rfl, .inl (Except.ok.inj h).symm⟩
  · split at h
    · exact ⟨_, habandon _, .inr (Except.ok.inj h).symm⟩
    · split at h
      · exact ⟨d, rfl, .inl (Except.ok.inj h).symm⟩
      · split at h
        · cases h
        · split at h
          · next x heq =>
            refine ⟨x, ?_, .inr (Except.ok.inj h).symm⟩
            have hmove := MoveKeeps.offPages.moveTo (d.each (d.moves.filter (·.src == p.frame)) fun d m => d.abandon m) p want .retier
            rw [heq] at hmove
            exact hmove.trans (habandon _)
          · cases h
theorem Dev.setTier_pages {d e : Dev} {p : Page} {tier : Nat} (h : d.setTier p tier = .ok e) :
    e.pages = updIf (·.frame == p.frame) (fun q => { q with tier }) d.pages := by
  obtain ⟨x, hx, rfl | rfl⟩ := Dev.setTier_ok h
  · exact congrArg (updIf _ _) (Dev.offPages_pages hx)
  · exact (Dev.offPages_pages (MoveKeeps.offPages.serveRepairs _)).trans (congrArg (updIf _ _) (Dev.offPages_pages hx))

/-! ## The operation in the word of OPp_CMD (R322) -/

/-- The word as the register holds it once the operation has started. -/
def opWord (p : Port) (n : Nat) (o : MemOp) : W64 := w64 (memWord n o % 2 ^ 63 + 2 ^ 63) &&& regImpl (Reg.OP_CMD p)

theorem regImpl_opCmd (p : Port) : regImpl (Reg.OP_CMD p) = w64 (mk 63 63 + mk 62 56 + mk 53 16 + mk 5 0) := by revert p; decide
theorem regImpl_opStatus (p : Port) : regImpl (Reg.OP_STATUS p) = w64 (mk 63 63 + mk 15 0) := by revert p; decide

theorem b2n_le_one (b : Bool) : b2n b ≤ 1 := by cases b <;> decide

section
variable (p : Port) (n : Nat) (o : MemOp)

/-- The operands lie in the fields of the word, one beside the other. -/
theorem memWord_bounds : o.tier.toNat < 4 ∧ b2n o.wr ≤ 1 ∧ b2n o.large ≤ 1 ∧ o.ctx.val < 64 ∧ o.vpn.toNat < 2 ^ 32 ∧ o.srcCtx.val < 64 :=
  ⟨o.tier.isLt, b2n_le_one o.wr, b2n_le_one o.large, o.ctx.isLt, o.vpn.isLt, o.srcCtx.isLt⟩
theorem memWord_op {n : Nat} (hn : n < 8) : bits (memWord n o) 62 60 = n := by
  have h := memWord_bounds o
  rw [bits_eq, memWord]
  omega

/-- A field that the register has holds what the word has there. -/
theorem opWord_bits {hi lo : Nat} (hmask : w64 (mk 63 63 + mk 62 56 + mk 53 16 + mk 5 0) &&& maskOf hi lo = maskOf hi lo) (hl : lo ≤ hi) (hh : hi < 64) :
    bits (opWord p n o).toNat hi lo = bits (memWord n o % 2 ^ 63 + 2 ^ 63) hi lo := by
  refine (fld_and _ _ _ _ (by rw [regImpl_opCmd]; exact hmask) hl hh).trans ?_
  have hlt : memWord n o % 2 ^ 63 + 2 ^ 63 < 2 ^ 64 := by omega
  rw [fld, w64, BitVec.toNat_ofNat, Nat.mod_eq_of_lt hlt]
theorem opWord_op {n : Nat} (hn : n < 8) : bits (opWord p n o).toNat 62 60 = n := by
  have h := memWord_bounds o
  rw [opWord_bits p n o (by decide) (by decide) (by decide), bits_eq, memWord]
  omega
theorem opWord_operands : bits (opWord p n o).toNat 53 48 = o.ctx ∧ bits (opWord p n o).toNat 47 16 = o.vpn.toNat
    ∧ bits (opWord p n o).toNat 59 58 = o.tier.toNat ∧ bits (opWord p n o).toNat 5 0 = o.srcCtx ∧ bits (opWord p n o).toNat 56 56 = b2n o.large := by
  have h := memWord_bounds o
  refine ⟨?_, ?_, ?_, ?_, ?_⟩
  all_goals
    rw [opWord_bits p n o (by decide) (by decide) (by decide), bits_eq, memWord]
    omega
theorem opWord_large : bit (opWord p n o).toNat 56 = o.large := by
  obtain ⟨-, -, -, -, hlarge⟩ := opWord_operands p n o
  change (bits (opWord p n o).toNat 56 56 == 1) = o.large
  rw [hlarge]
  cases o.large <;> rfl

end

/-! ## The start of an operation (R322) -/

/-- The device as an operation has started: its word stands in the register, and STATUS is BUSY. -/
def Dev.opStarted (d : Dev) (p : Port) (n : Nat) (o : MemOp) : Dev := (d.wr (Reg.OP_CMD p) (opWord p n o)).wr (Reg.OP_STATUS p) (w64 (2 ^ 63))
/-- Whether an operation waits for the commit point. -/
def Dev.opWaits (d : Dev) (p : Port) (n : Nat) (o : MemOp) : Bool :=
  (n = 2 ∨ n = 3) ∧ d.framesRun = true ∧ (d.opStarted p n o).ctxIsCad (bits (memWord n o) 53 48) = true ∧ (d.opStarted p n o).opCheck p (memWord n o) = 0

section
variable (d : Dev) (p : Port) (n : Nat) (o : MemOp)

/-- The start of an operation changes registers only. -/
theorem Dev.opStarted_regs : ∃ r, d.opStarted p n o = { d with regs := r } := by
  have hwr (d : Dev) (x : Nat) (v : W64) : ∃ r, d.wr x v = { d with regs := r } := ⟨_, rfl⟩
  obtain ⟨r, hr⟩ := hwr d (Reg.OP_CMD p) (opWord p n o)
  unfold Dev.opStarted
  rw [hr]
  exact hwr { d with regs := r } _ _
theorem Dev.opStarted_rd {r : Nat} (hcmd : r ≠ Reg.OP_CMD p) (hstatus : r ≠ Reg.OP_STATUS p) : (d.opStarted p n o).rd r = d.rd r :=
  (Dev.rd_wr_ne _ _ hstatus).trans (Dev.rd_wr_ne _ _ hcmd)
theorem Reg.OP_CMD_ne_OP_STATUS : Reg.OP_CMD p ≠ Reg.OP_STATUS p := by unfold Reg.OP_CMD Reg.OP_STATUS; omega
theorem Dev.opStarted_word : (d.opStarted p n o).rn (Reg.OP_CMD p) = (opWord p n o).toNat :=
  congrArg BitVec.toNat ((Dev.rd_wr_ne _ _ (Reg.OP_CMD_ne_OP_STATUS p)).trans (Dev.rd_wr_same ..))
theorem Dev.opStarted_framesRun : (d.opStarted p n o).framesRun = d.framesRun :=
  Dev.rb_congr (d.opStarted_rd p n o (by unfold Reg.FRAME_NOW Reg.OP_CMD; omega) (by unfold Reg.FRAME_NOW Reg.OP_STATUS; omega)) 63
theorem Dev.opStarted_walk (c va : Nat) : (d.opStarted p n o).walk c va = d.walk c va := by
  have hmem : (d.opStarted p n o).mem = d.mem := by obtain ⟨r, hr⟩ := d.opStarted_regs p n o; rw [hr]
  exact Dev.walk_congr hmem (d.opStarted_rd p n o (by unfold Reg.PTROOT Reg.OP_CMD; omega) (by unfold Reg.PTROOT Reg.OP_STATUS; omega)) va
theorem Dev.opStarted_status : (d.opStarted p n o).rb (Reg.OP_STATUS p) 63 = true := congrArg (tst · 63) (Dev.rd_wr_same ..)
theorem Dev.opStarted_arg (hi lo : Nat) : (d.opStarted p n o).rf (Reg.OP_ARG p) hi lo = d.rf (Reg.OP_ARG p) hi lo :=
  Dev.rf_congr (d.opStarted_rd p n o (by unfold Reg.OP_ARG Reg.OP_CMD; omega) (by unfold Reg.OP_ARG Reg.OP_STATUS; omega)) hi lo

variable {d p n o}

theorem doMemOp_busy (h : d.rb (Reg.OP_STATUS p) 63 = true) (w : Nat) : doMemOp p w d = d := if_pos h
theorem doMemOp_idle (hidle : d.rb (Reg.OP_STATUS p) 63 = false) : doMemOp p (memWord n o) d =
    if (bits (memWord n o) 62 60 = 2 ∨ bits (memWord n o) 62 60 = 3) ∧ (d.opStarted p n o).framesRun ∧ (d.opStarted p n o).ctxIsCad (bits (memWord n o) 53 48)
      ∧ (d.opStarted p n o).opCheck p (memWord n o) = 0
    then { d.opStarted p n o with opWait := (d.opStarted p n o).opWait ++ [p.val] }
    else ((d.opStarted p n o).opNowRun p).retrainStep false := by
  unfold doMemOp Dev.opStarted opWord
  rw [if_neg (by simp [hidle])]
theorem doMemOp_waits (hn : n < 8) (hidle : d.rb (Reg.OP_STATUS p) 63 = false) (h : d.opWaits p n o = true) :
    doMemOp p (memWord n o) d = { d.opStarted p n o with opWait := (d.opStarted p n o).opWait ++ [p.val] } := by
  obtain ⟨hop, hframes, hcad, hcheck⟩ := of_decide_eq_true h
  rw [doMemOp_idle hidle, memWord_op o hn, Dev.opStarted_framesRun, if_pos ⟨hop, hframes, hcad, hcheck⟩]
theorem doMemOp_runs (hn : n < 8) (hidle : d.rb (Reg.OP_STATUS p) 63 = false) (h : d.opWaits p n o = false) :
    doMemOp p (memWord n o) d = ((d.opStarted p n o).opNowRun p).retrainStep false := by
  rw [doMemOp_idle hidle, memWord_op o hn, Dev.opStarted_framesRun, if_neg (of_decide_eq_false h)]

end

/-! ## The end of an operation (R322) -/

theorem Dev.opEnd_status (d : Dev) (p : Port) (c : Nat) : (d.opEnd p c).seal.rd (Reg.OP_STATUS p) = w64 c &&& regImpl (Reg.OP_STATUS p) := by
  rw [Dev.seal_rd]
  exact congrArg (· &&& regImpl (Reg.OP_STATUS p)) ((Dev.rd_wf_ne _ _ _ _ (Reg.OP_CMD_ne_OP_STATUS p).symm).trans (Dev.rd_wr_same ..))
theorem Dev.opEnd_done (d : Dev) (p : Port) (c : Nat) : (d.opEnd p c).seal.rb (Reg.OP_CMD p) 63 = false := by
  refine (Dev.seal_rb _ _ _ (by rw [regImpl_opCmd]; decide)).trans ?_
  exact (Dev.rb_wf _ _ _ _ _ _ (by decide) (by decide)).trans (if_pos (by decide))

theorem Dev.opNowRun_error {d : Dev} {p : Port} {c : Nat} (h : d.opRun p (d.rn (Reg.OP_CMD p)) = .error c) :
    d.opNowRun p = (d.when (c == St.QUOTA) (·.inc Reg.QUOTA_HIT)).opEnd p c := by
  unfold Dev.opNowRun
  rw [h]
theorem Dev.opNowRun_ok {d y : Dev} {p : Port} (h : d.opRun p (d.rn (Reg.OP_CMD p)) = .ok y) : d.opNowRun p = y.opEnd p 0 := by
  unfold Dev.opNowRun
  rw [h]

section
variable {s : State} {p : Port} {n : Nat} {o : MemOp} {i : Instr} (hexec : exec i s = s.ok (s.dev.when s.dev.served (doMemOp p (memWord n o))))
include hexec

theorem pageOp_unserved (h : s.dev.served = false ∨ s.dev.rb (Reg.OP_STATUS p) 63 = true) : Completes i s fun e => OnlyRegs [] s.dev e := by
  refine .unchanged (hexec.trans (congrArg s.ok ?_))
  rcases h with hserved | hbusy
  · rw [hserved]; rfl
  · unfold Dev.when
    rw [doMemOp_busy hbusy, ite_self]

variable (hn : n < 8) (hserved : s.dev.served = true) (hidle : s.dev.rb (Reg.OP_STATUS p) 63 = false)
include hn hserved hidle

theorem pageOp_waits (h : s.dev.opWaits p n o = true) :
    Completes i s fun e => e.opWait = s.dev.opWait ++ [p.val] ∧ e.rb (Reg.OP_STATUS p) 63 = true ∧ SameBytes s.dev e := by
  rw [hserved, Dev.when, if_pos rfl, doMemOp_waits hn hidle h] at hexec
  have hstatus := s.dev.opStarted_status p n o
  obtain ⟨r, hr⟩ := s.dev.opStarted_regs p n o
  rw [hr] at hexec hstatus
  exact .of _ hexec ⟨rfl, (Dev.seal_rb _ _ _ (by rw [regImpl_opStatus]; decide)).trans hstatus, .seal fun _ => rfl⟩

theorem pageOp_refused {c : Nat} (h : s.dev.opWaits p n o = false) (hrun : (s.dev.opStarted p n o).opRun p (opWord p n o).toNat = .error c) :
    Completes i s fun e => s.dev.retrain = [] → e.rd (Reg.OP_STATUS p) = w64 c &&& regImpl (Reg.OP_STATUS p)
      ∧ e.rb (Reg.OP_CMD p) 63 = false ∧ OnlyRegs [Reg.OP_CMD p, Reg.OP_STATUS p, Reg.QUOTA_HIT] s.dev e := by
  rw [← s.dev.opStarted_word p n o] at hrun
  rw [hserved, Dev.when, if_pos rfl, doMemOp_runs hn hidle h, Dev.opNowRun_error hrun] at hexec
  have hrd (x : Nat) (hx : x ∉ [Reg.OP_CMD p, Reg.OP_STATUS p, Reg.QUOTA_HIT]) :
      ((s.dev.opStarted p n o).when (c == St.QUOTA) (·.inc Reg.QUOTA_HIT)).rd x = s.dev.rd x := by
    simp only [List.mem_cons, List.not_mem_nil, or_false, not_or] at hx
    obtain ⟨hcmd, hstatus, hhit⟩ := hx
    exact (Dev.when_keeps (·.rd x) (f := (·.inc Reg.QUOTA_HIT)) (fun d => d.rd_add_ne 1 hhit) _ _).trans (s.dev.opStarted_rd p n o hcmd hstatus)
  obtain ⟨r, hr⟩ : ∃ r, (s.dev.opStarted p n o).when (c == St.QUOTA) (·.inc Reg.QUOTA_HIT) = { s.dev with regs := r } := by
    obtain ⟨r, hr⟩ := s.dev.opStarted_regs p n o
    rw [hr]
    unfold Dev.when
    split
    · exact ⟨_, rfl⟩
    · exact ⟨r, rfl⟩
  rw [hr] at hexec hrd
  refine .of _ hexec fun hretrain => ?_
  rw [Dev.retrainStep_none (d := ({ s.dev with regs := r } : Dev).opEnd p c) hretrain]
  refine ⟨Dev.opEnd_status .., Dev.opEnd_done .., .seal (fun x hx => ?_) rfl rfl rfl⟩
  refine .trans ?_ (hrd x hx)
  simp only [List.mem_cons, List.not_mem_nil, or_false, not_or] at hx
  obtain ⟨hcmd, hstatus, -⟩ := hx
  exact (Dev.rd_wf_ne _ _ _ _ hcmd).trans (Dev.rd_wr_ne _ _ hstatus)

theorem pageOp_done {y : Dev} (h : s.dev.opWaits p n o = false) (hrun : (s.dev.opStarted p n o).opRun p (opWord p n o).toNat = .ok y) :
    Completes i s fun e => y.retrain = [] → e.rd (Reg.OP_STATUS p) = 0 ∧ e.rb (Reg.OP_CMD p) 63 = false ∧ e.pages = y.pages := by
  rw [← s.dev.opStarted_word p n o] at hrun
  rw [hserved, Dev.when, if_pos rfl, doMemOp_runs hn hidle h, Dev.opNowRun_ok hrun] at hexec
  refine .of _ hexec fun hretrain => ?_
  rw [Dev.retrainStep_none (d := y.opEnd p 0) hretrain]
  exact ⟨(Dev.opEnd_status ..).trans BitVec.zero_and, Dev.opEnd_done .., rfl⟩

end

/-- Each page operation carries out its number's operation. -/
theorem exec_of_mem_pageOps {p : Port} {o : MemOp} {x : Instr × Nat} (s : State)
    (hx : x ∈ ([(.map p o, 1), (.unmap p o, 2), (.settier p o, 3), (.aliasPage p o, 4)] : List (Instr × Nat))) :
    exec x.1 s = s.ok (s.dev.when s.dev.served (doMemOp p (memWord x.2 o))) ∧ x.2 < 8 := by
  simp only [List.mem_cons, List.not_mem_nil, or_false] at hx
  rcases hx with rfl | rfl | rfl | rfl
  all_goals exact ⟨rfl, by simp⟩

/-! ## What an operation carried out has done (R322) -/

theorem Dev.opStarted_pages (d : Dev) (p : Port) (n : Nat) (o : MemOp) : (d.opStarted p n o).pages = d.pages := by
  obtain ⟨r, hr⟩ := d.opStarted_regs p n o
  rw [hr]

section
variable {d y : Dev} {p : Port} {w : Nat}

/-- What is carried out has passed the checks. -/
theorem Dev.opRun_check (h : d.opRun p w = .ok y) : d.opCheck p w = 0 := by
  by_contra hne
  obtain ⟨c, hc⟩ := Nat.exists_eq_succ_of_ne_zero hne
  unfold Dev.opRun at h
  rw [hc] at h
  simp at h
theorem Dev.opRun_map (hop : bits w 62 60 = 1) (h : d.opRun p w = .ok y) :
    d.mapNew (bits w 53 48) (bits w 47 16) (bits w 59 58) (bit w 57) (bit w 56) none none = .ok y := by
  have hcheck := Dev.opRun_check h
  unfold Dev.opRun at h
  rw [hcheck, hop] at h
  exact h
theorem Dev.opRun_unmap (hop : bits w 62 60 = 2) (h : d.opRun p w = .ok y) : y = d.unmapPage (bits w 53 48) (bits w 47 16) := by
  have hcheck := Dev.opRun_check h
  unfold Dev.opRun at h
  rw [hcheck, hop] at h
  exact (Except.ok.inj h).symm
theorem Dev.opRun_settier (hop : bits w 62 60 = 3) (h : d.opRun p w = .ok y) : ∃ l pg, d.walk (bits w 53 48) (bits w 47 16 * 65536) = some l
    ∧ d.pageAt l.frame = some pg ∧ d.setTier pg (bits w 59 58) = .ok y := by
  have hcheck := Dev.opRun_check h
  unfold Dev.opRun at h
  simp only [hcheck, hop] at h
  split at h
  · next l hwalk =>
    split at h
    · next pg hpage => exact ⟨l, pg, hwalk, hpage, h⟩
    · cases h
  · cases h
theorem Dev.opRun_aliasPage (hop : bits w 62 60 = 4) (h : d.opRun p w = .ok y) : ∃ l e, d.walk (bits w 5 0) (d.rf (Reg.OP_ARG p) 47 16 * 65536) = some l
    ∧ d.mapAt (bits w 53 48) (bits w 47 16) l.frame (bits l.val 61 60) (bit w 57) l.large (bit l.val 58) = some e
    ∧ y = { e with pages := updIf (·.holds l.frame) (fun q => { q with maps := q.maps ++ [(bits w 53 48, bits w 47 16)] }) e.pages } := by
  have hcheck := Dev.opRun_check h
  unfold Dev.opRun at h
  simp only [hcheck, hop] at h
  split at h
  · cases h
  · next l hwalk =>
    split at h
    · cases h
    · next e hmap => exact ⟨l, e, hwalk, hmap, (Except.ok.inj h).symm⟩

end

section
variable {d y : Dev} {p : Port} {o : MemOp}

theorem map_done (h : (d.opStarted p 1 o).opRun p (opWord p 1 o).toNat = .ok y) : ∃ f touch,
    y.pages = d.pages ++ [{ frame := f, large := o.large, ctx := o.ctx, maps := [(o.ctx.val, o.vpn.toNat)], tier := o.tier.toNat, touch }]
    ∧ ∀ a, f * 65536 ≤ a → a < f * 65536 + 65536 * (if o.large then 32 else 1) → y.rdByte a = 0 := by
  obtain ⟨hctx, hvpn, htier, -, -⟩ := opWord_operands p 1 o
  have hmap := Dev.opRun_map (opWord_op p o (by decide)) h
  rw [hctx, hvpn, htier, opWord_large] at hmap
  obtain ⟨f, touch, hpages, hzero⟩ := Dev.mapNew_page hmap
  rw [Dev.opStarted_pages] at hpages
  exact ⟨f, touch, hpages, hzero⟩
theorem unmap_done {l : Leaf} {pg : Page} (h : (d.opStarted p 2 o).opRun p (opWord p 2 o).toNat = .ok y)
    (hwalk : d.walk o.ctx (o.vpn.toNat * 65536) = some l) (hpage : d.pageAt l.frame = some pg) (hrepairs : d.repairs = []) (hmoves : d.moves = [])
    (hmaps : pg.maps = [(o.ctx.val, o.vpn.toNat)]) : y.pages = d.pages.filter (·.frame != pg.frame) ∧ y.rdNum l.addr 8 = 0 := by
  obtain ⟨hctx, hvpn, -, -, -⟩ := opWord_operands p 2 o
  have hunmap := Dev.opRun_unmap (opWord_op p o (by decide)) h
  rw [hctx, hvpn] at hunmap
  rw [← d.opStarted_walk p 2 o] at hwalk
  rw [hunmap]
  obtain ⟨r, hr⟩ := d.opStarted_regs p 2 o
  rw [hr] at hwalk ⊢
  exact Dev.unmapPage_last (d := { d with regs := r }) hwalk hpage hrepairs hmoves hmaps
theorem settier_done (h : (d.opStarted p 3 o).opRun p (opWord p 3 o).toNat = .ok y) : ∃ l pg, d.walk o.ctx (o.vpn.toNat * 65536) = some l
    ∧ d.pageAt l.frame = some pg ∧ y.pages = updIf (·.frame == pg.frame) (fun q => { q with tier := o.tier.toNat }) d.pages := by
  obtain ⟨hctx, hvpn, htier, -, -⟩ := opWord_operands p 3 o
  obtain ⟨l, pg, hwalk, hpage, hset⟩ := Dev.opRun_settier (opWord_op p o (by decide)) h
  rw [hctx, hvpn, Dev.opStarted_walk] at hwalk
  unfold Dev.pageAt at hpage ⊢
  rw [Dev.opStarted_pages] at hpage
  rw [htier] at hset
  exact ⟨l, pg, hwalk, hpage, (Dev.setTier_pages hset).trans (congrArg (updIf _ _) (d.opStarted_pages p 3 o))⟩
theorem aliasPage_done (h : (d.opStarted p 4 o).opRun p (opWord p 4 o).toNat = .ok y) :
    ∃ l, d.walk o.srcCtx (d.rf (Reg.OP_ARG p) 47 16 * 65536) = some l
      ∧ y.pages = updIf (·.holds l.frame) (fun q => { q with maps := q.maps ++ [(o.ctx.val, o.vpn.toNat)] }) d.pages := by
  obtain ⟨hctx, hvpn, -, hsrc, -⟩ := opWord_operands p 4 o
  obtain ⟨l, e, hwalk, hmap, hy⟩ := Dev.opRun_aliasPage (opWord_op p o (by decide)) h
  rw [hsrc, Dev.opStarted_walk, Dev.opStarted_arg] at hwalk
  refine ⟨l, hwalk, ?_⟩
  rw [hy, hctx, hvpn]
  exact congrArg (updIf _ _) ((Dev.offPages_pages (MoveKeeps.offPages.mapAt hmap)).trans (d.opStarted_pages p 4 o))

end

/-! ## The obligation -/

/-- Settles O27, by the lemmas of the commands and of the four operations. -/
theorem pageOperationsEnd : Obligations.PageOperationsEnd := by
  intro p o s d cmdOf at' waits
  refine ⟨fun x hx => ?_, fun y => map_done, fun y l pg => unmap_done, fun y => settier_done, fun y => aliasPage_done⟩
  obtain ⟨hexec, hn⟩ := exec_of_mem_pageOps s hx
  exact ⟨pageOp_unserved hexec, fun hserved hidle => ⟨pageOp_waits hexec hn hserved hidle, fun hwaits =>
    ⟨fun c => pageOp_refused hexec hn hserved hidle hwaits, fun y => pageOp_done hexec hn hserved hidle hwaits⟩⟩⟩

end Sys2Proof.Machine
end
